-- ==== Sys2Proof/Word.lean ====
section
/-! DEFINITION. The word types of the machine (R6, R19, R74). -/

namespace Sys2Proof

/-- A scalar, an instruction word, a CSR: 64 bits (R19, R74, R77). -/
abbrev Word := BitVec 64
/-- A byte of any memory (R6). -/
abbrev Byte := BitVec 8
/-- The 64-bit result `1` or `0` of a condition (PGET, SEMTRY). -/
def Word.ofBool (b : Bool) : Word := if b then 1 else 0
/-- `sext(x, 32)` of an immediate (R9). -/
def sext32 (x : BitVec 32) : Word := x.signExtend 64

end Sys2Proof
end

