-- ==== Sys2Proof/Syntax.lean ====
section
/-! DEFINITION. The steps of the machine: one constructor of `Instr` per row of the opcode table, and the plain
data that their operands are made of. A row that is a sequencer instruction carries its encoded fields
(R19 to R37); a row that is another step of the machine carries what the step is about. -/

namespace Sys2Proof

/-- The guard of a sequencer word, bits [55:52] (R20, R23). -/
structure Guard where
  neg  : Bool
  pred : BitVec 3
  deriving DecidableEq, Repr

/-- Scalar field (R22). -/
abbrev SReg := BitVec 6
/-- Predicate field, the index bits (R22). -/
abbrev PReg := BitVec 3
/-- Handle field, the index bits (R22). -/
abbrev HReg := BitVec 5

/-- Widths of the counting and extension functions and of memory accesses (R25, R29). -/
inductive Width where
  | w8 | w16 | w32 | w64
  deriving DecidableEq, Repr

/-- Rounding modes (R32, R58). -/
inductive Rm where
  | rne | rz | ru | rd
  deriving DecidableEq, Repr

/-- Conditions of CMP and CMPI (R31). -/
inductive Cond where
  | eq | ne | lt | ltu | le | leu
  deriving DecidableEq, Repr

/-- Conditions of FCMP (R32). -/
inductive FCond where
  | eq | lt | le
  deriving DecidableEq, Repr

/-- The three CSR writes of R78. -/
inductive CsrOp where
  | w | s | c
  deriving DecidableEq, Repr

/-- The fields of a format M access of the groups 0x08 to 0x0D (R25). -/
structure MemOp where
  width : Width
  data  : SReg
  base  : SReg
  index : SReg
  scale : BitVec 2
  cache : BitVec 2
  scope : BitVec 3
  disp  : BitVec 24
  deriving DecidableEq, Repr

/-- The plain AMO operations (R26, codes 0 to 8). -/
inductive AmoOp where
  | add | and | or | xor | min | max | minu | maxu | swap
  deriving DecidableEq, Repr

/-- Spaces an AMO or a POLL reaches (R26, R37). -/
inductive ASpace where
  | ds | g | f
  deriving DecidableEq, Repr

/-- The fields an AMO shares with AMO_CAS and AMO_CLAIM (R26). -/
structure AmoFields where
  wide  : Bool
  space : ASpace
  acq   : Bool
  rel   : Bool
  data  : SReg
  base  : SReg
  disp  : BitVec 24
  deriving DecidableEq, Repr

/-- Conditions of POLL (R37). -/
inductive PCond where
  | eq | ne | geu | ltu
  deriving DecidableEq, Repr

/-- Spaces of HLD and HST (R37). -/
inductive HSpace where
  | g | ds | sp
  deriving DecidableEq, Repr

/-- The engines of R44 and R49. -/
inductive Eng where
  | mx | vx | cx | ae
  deriving DecidableEq, Repr

/-- A sequencer: the slot's number in the package (4 × core + slot) and which of its two. -/
structure SeqRef where
  slot : Nat
  x    : Bool
  deriving DecidableEq, Repr

/-- A message of the connection layer (R255, R256, R323). `data` holds the message's data bytes; `args` the 32 bytes of
ARGS that are not inline data. -/
structure Msg where
  src      : Nat
  dst      : Nat
  msn      : Nat
  op       : Nat
  flag     : Bool
  tctx     : Nat
  gang     : Nat
  addr     : Word
  flagAddr : Word
  len      : Nat
  args     : List Byte
  data     : List Byte
  deriving DecidableEq, Repr

/-- A flit of R242 as it stands on the line: the header fields, the 64 payload bytes and the CRC. -/
structure Flit where
  typ     : BitVec 4
  vc      : BitVec 3
  ackv    : Bool
  aux     : BitVec 16
  ack     : BitVec 20
  seq     : BitVec 20
  payload : List Byte
  crc     : BitVec 64
  deriving DecidableEq, Repr

/-- An Ethernet packet of the transport (R365): a remote write or read, its answer, an acknowledgement or a NACK.
`tok` is the transport's own packet identity (delivery context and packet number). -/
structure Pkt where
  node     : Nat
  host     : Bool
  tok      : Nat
  win      : Nat
  off      : Nat
  tctx     : Nat
  gang     : Nat
  len      : Nat
  code     : Nat
  frag     : Bool
  rfrag    : Bool
  args     : List Byte
  data     : List Byte
  authOk   : Bool
  /-- an answer that echoes an ECN mark (R366) -/
  echo     : Bool := false
  deriving DecidableEq, Repr

/-- A command frame (R371) beside what its payload says: the session it came on, its TAG, its bytes ahead of the tag of 16 bytes that
authenticates it under the session's key, and that tag (R370, R385). -/
structure Cmd where
  sess : Nat
  tag  : BitVec 32
  body : List Byte := []
  mac  : BitVec 128
  deriving DecidableEq, Repr

/-- A member of a group table entry (R327): its 16 bytes, `rest` bytes 9 to 15. KIND is 0 for F and 1 for N. -/
structure Member where
  addr : Word
  kind : Nat
  rest : Nat := 0
  deriving DecidableEq, Repr
def Member.net (m : Member) : Bool := m.kind == 1

/-- The classes of debugger state (R313). -/
inductive DbgClass where
  | scalar | predicate | handle | csr | tile | mask | bank | semaphore | queue
  deriving DecidableEq, Repr

/-- Which slots a debugger command names: one, or all of the context (R313). -/
inductive DbgSel where
  | one (slot : Nat)
  | all
  deriving DecidableEq, Repr

/-- Where an uncorrectable error lies (R310, R413); `corrected` is an error of a single bit, which ECC has corrected. -/
inductive UeLoc where
  | hbmLine (line : Nat)
  | bankWord (grp bank word : Nat)
  | dsWord (ctx die word : Nat)
  | tileWord (slot word : Nat)
  | stashEntry (ctx entry : Nat)
  | seqState (q : SeqRef)
  | queueState (slot : Nat)
  | record (eng : Eng) (slot : Nat)
  | unowned (src : BitVec 8) (addr : BitVec 48)
  | corrected
  deriving DecidableEq, Repr

/-- What TASK_ISSUE issues: the next task of a placed group's own tree, or the head of a task queue (R194, R199). -/
inductive IssueSrc where
  | tree (grp : Nat)
  | queue (q : Nat)
  deriving DecidableEq, Repr

/-- Functions that have a READY bit (R393, R394), and a core, which has none but can be fenced (R14, R205). -/
inductive Unit' where
  | sec | endpt | die (d : Nat) | hbm (s : Nat) | opt (p : Nat) | eth (p : Nat) | core (c : Nat)
  deriving DecidableEq, Repr

/-- The steps of the machine, one constructor per row of the opcode table, in the table's order. -/
inductive Instr where
  -- SYS (R28)
  | nop (g : Guard)
  | yield (g : Guard)
  | halt (g : Guard)
  | trap (g : Guard) (code : BitVec 32)
  | eret (g : Guard)
  | bkpt (g : Guard) (code : BitVec 32)
  | csrr (g : Guard) (d : SReg) (csr : BitVec 12)
  | csrw (g : Guard) (d a : SReg) (csr : BitVec 12)
  | csrs (g : Guard) (d a : SReg) (csr : BitVec 12)
  | csrc (g : Guard) (d a : SReg) (csr : BitVec 12)
  | bfmtWrite (g : Guard) (op : CsrOp) (d a : SReg) (n : BitVec 4)
  | vmodeCsrWrite (g : Guard) (op : CsrOp) (d a : SReg)
  | lceWrite (g : Guard) (op : CsrOp) (d a : SReg) (n : BitVec 2)
  -- INT (R29)
  | add (g : Guard) (d a b : SReg)
  | sub (g : Guard) (d a b : SReg)
  | mul (g : Guard) (d a b : SReg)
  | mulh (g : Guard) (d a b : SReg)
  | mulhu (g : Guard) (d a b : SReg)
  | madd (g : Guard) (d a b c : SReg)
  | div (g : Guard) (d a b : SReg)
  | divu (g : Guard) (d a b : SReg)
  | rem (g : Guard) (d a b : SReg)
  | remu (g : Guard) (d a b : SReg)
  | and (g : Guard) (d a b : SReg)
  | or (g : Guard) (d a b : SReg)
  | xor (g : Guard) (d a b : SReg)
  | andn (g : Guard) (d a b : SReg)
  | sll (g : Guard) (d a b : SReg)
  | srl (g : Guard) (d a b : SReg)
  | sra (g : Guard) (d a b : SReg)
  | rotr (g : Guard) (d a b : SReg)
  | min (g : Guard) (d a b : SReg)
  | max (g : Guard) (d a b : SReg)
  | minu (g : Guard) (d a b : SReg)
  | maxu (g : Guard) (d a b : SReg)
  | clz (g : Guard) (w : Width) (d a : SReg)
  | ctz (g : Guard) (w : Width) (d a : SReg)
  | popc (g : Guard) (w : Width) (d a : SReg)
  | sext (g : Guard) (w : Width) (d a : SReg)
  | zext (g : Guard) (w : Width) (d a : SReg)
  -- IMM (R30)
  | addi (g : Guard) (d a : SReg) (imm : BitVec 32)
  | andi (g : Guard) (d a : SReg) (imm : BitVec 32)
  | ori (g : Guard) (d a : SReg) (imm : BitVec 32)
  | xori (g : Guard) (d a : SReg) (imm : BitVec 32)
  | slli (g : Guard) (d a : SReg) (sh : BitVec 6)
  | srli (g : Guard) (d a : SReg) (sh : BitVec 6)
  | srai (g : Guard) (d a : SReg) (sh : BitVec 6)
  | muli (g : Guard) (d a : SReg) (imm : BitVec 32)
  | li (g : Guard) (d : SReg) (imm : BitVec 32)
  | lih (g : Guard) (d : SReg) (imm : BitVec 32)
  | mini (g : Guard) (d a : SReg) (imm : BitVec 32)
  | maxi (g : Guard) (d a : SReg) (imm : BitVec 32)
  -- CMP (R31)
  | cmp (g : Guard) (cc : Cond) (d : PReg) (a b : SReg)
  | cmpi (g : Guard) (cc : Cond) (d : PReg) (a : SReg) (imm : BitVec 32)
  | pand (g : Guard) (d a b : PReg)
  | por (g : Guard) (d a b : PReg)
  | pxor (g : Guard) (d a b : PReg)
  | pnot (g : Guard) (d a : PReg)
  | pset (g : Guard) (d : PReg) (a : SReg)
  | pget (g : Guard) (d : SReg) (a : PReg)
  | sel (g : Guard) (d a b : SReg) (c : PReg)
  -- FP (R32)
  | fadd (g : Guard) (rm : Rm) (d a b : SReg)
  | fsub (g : Guard) (rm : Rm) (d a b : SReg)
  | fmul (g : Guard) (rm : Rm) (d a b : SReg)
  | ffma (g : Guard) (rm : Rm) (d a b c : SReg)
  | fmin (g : Guard) (d a b : SReg)
  | fmax (g : Guard) (d a b : SReg)
  | fabs (g : Guard) (d a : SReg)
  | fneg (g : Guard) (d a : SReg)
  | fcmp (g : Guard) (cc : FCond) (d : PReg) (a b : SReg)
  | fcvtFi (g : Guard) (rm : Rm) (d a : SReg)
  | fcvtIf (g : Guard) (rm : Rm) (d a : SReg)
  -- CTL (R33)
  | br (g : Guard) (off : BitVec 32)
  | jal (g : Guard) (link : SReg) (off : BitVec 32)
  | jalr (g : Guard) (link a : SReg) (off : BitVec 32)
  | loop (g : Guard) (n : BitVec 2) (a : SReg) (fin : BitVec 16)
  | loopi (g : Guard) (n : BitVec 2) (cnt fin : BitVec 16)
  -- memory (R34)
  | ldsp (g : Guard) (m : MemOp)
  | stsp (g : Guard) (m : MemOp)
  | ldds (g : Guard) (m : MemOp)
  | stds (g : Guard) (m : MemOp)
  | ldg (g : Guard) (m : MemOp)
  | stg (g : Guard) (m : MemOp)
  | ldf (g : Guard) (m : MemOp)
  | stf (g : Guard) (m : MemOp)
  | stfFlag (g : Guard) (m : MemOp)
  | ldn (g : Guard) (m : MemOp)
  | stn (g : Guard) (m : MemOp)
  | ldh (g : Guard) (m : MemOp)
  | sth (g : Guard) (m : MemOp)
  | amo (g : Guard) (op : AmoOp) (f : AmoFields)
  | amoCas (g : Guard) (f : AmoFields) (cmp : SReg)
  | amoClaim (g : Guard) (f : AmoFields) (lim : SReg)
  -- FENCE (R35)
  | fence (g : Guard) (d : SReg) (scope : BitVec 3)
  | fenceComplete (q : SeqRef)
  | fenceE (g : Guard) (d : SReg)
  | fenceEComplete (q : SeqRef)
  -- SEM (R35)
  | seminit (g : Guard) (a : SReg) (k : BitVec 8) (v : BitVec 16)
  | semsig (g : Guard) (a : SReg) (k : BitVec 8) (v : BitVec 16)
  | semwait (g : Guard) (a : SReg) (k : BitVec 8) (v : BitVec 16)
  | semwaitPass (q : SeqRef)
  | semrd (g : Guard) (d : SReg) (k : BitVec 8)
  | semtry (g : Guard) (d a : SReg) (k : BitVec 8) (v : BitVec 16)
  -- AQ (R36)
  | aqpush (g : Guard) (q : BitVec 2) (a : SReg)
  | aqpushRoom (q : SeqRef)
  | aqpop (g : Guard) (q : BitVec 2) (d : SReg)
  | aqpopData (q : SeqRef)
  | aqbr (g : Guard) (off : BitVec 32)
  -- TIME (R35)
  | time (g : Guard) (d : SReg)
  | waitt (g : Guard) (a : SReg)
  | waittComplete (q : SeqRef)
  | waittLock (g : Guard) (a : SReg) (len : BitVec 32)
  | waittLockComplete (q : SeqRef)
  | lockWindowClose (slot : Nat)
  -- HANDLE (R37)
  | hld (g : Guard) (d : HReg) (a : SReg) (sp : HSpace)
  | hst (g : Guard) (d : HReg) (a : SReg) (sp : HSpace)
  | hset (g : Guard) (d : HReg) (a : SReg) (fld : BitVec 6)
  | hget (g : Guard) (d : SReg) (a : HReg) (fld : BitVec 6)
  | hoff (g : Guard) (d : HReg) (a : SReg)
  | hxl (g : Guard) (d : SReg) (a : HReg) (b : SReg)
  | winreg (g : Guard) (d : SReg) (a : HReg) (b : SReg)
  | winrev (g : Guard) (d a : SReg)
  | winrevDrain (q : SeqRef)
  -- ENQ (R44)
  | enq (g : Guard) (eng : Eng) (rec : BitVec 512)
  | enqr (g : Guard) (eng : Eng) (k : BitVec 6)
  | enqm (g : Guard) (eng : Eng) (a : SReg)
  | enqQueuePlace (q : SeqRef)
  | enqPinRoom (q : SeqRef)
  -- TASK (R35)
  | tspawn (g : Guard) (a : SReg) (q : BitVec 8)
  | tspawnRoom (q : SeqRef)
  | tend (g : Guard)
  | epush (g : Guard) (a : SReg) (e : BitVec 12)
  | epushRoom (q : SeqRef)
  | epop (g : Guard) (d : SReg) (e : BitVec 12)
  | epopItem (q : SeqRef)
  | etry (g : Guard) (d : SReg) (p : PReg) (e : BitVec 12)
  | scopeo (g : Guard) (n : BitVec 7)
  | scopeoGrant (core : Nat)
  | scopec (g : Guard)
  | scopecDrain (q : SeqRef)
  | vmode (g : Guard) (use : BitVec 8) (gated : Bool)
  -- WAIT (R37)
  | poll (g : Guard) (cc : PCond) (sp : ASpace) (wide : Bool) (d a b : SReg)
  | pollPass (q : SeqRef)
  | pause (g : Guard) (a : SReg)
  | pauseExpiry (q : SeqRef)
  -- COLL (R37)
  | coll (g : Guard) (d a : SReg)
  | trig (g : Guard) (a b c : SReg)
  | trigRoom (q : SeqRef)
  | ctrset (g : Guard) (a b : SReg)
  | ctradd (g : Guard) (a b : SReg)
  | ctrrd (g : Guard) (d a : SReg)
  -- PIPE (R37)
  | pbind (g : Guard) (d a : SReg)
  | punbind (g : Guard) (d a : SReg)
  | pquery (g : Guard) (d a b : SReg)
  -- traps, pre-emption, records (R305, R311 to R312, R213, R161, R214)
  | asyncTrapTaken (q : SeqRef)
  | preemption (slot : Nat)
  | contextRestore (ctx : Nat) (cores : List Nat)
  | recordStart (eng : Eng) (slot : Nat)
  | operandFetch (slot : Nat)
  | recordRetire (eng : Eng) (slot : Nat) (ch : Nat)
  -- MX issues of a slot's running record (chapter 08)
  | mxLdw (slot : Nat)
  | mxMm (slot : Nat)
  | mxAcrd (slot : Nat)
  | mxAcclr (slot : Nat)
  | mxHad (slot : Nat)
  | mxBsw (slot : Nat)
  -- VX issues (chapter 07)
  | vadd (slot : Nat)
  | vsub (slot : Nat)
  | vmul (slot : Nat)
  | vfma (slot : Nat)
  | vmin (slot : Nat)
  | vmax (slot : Nat)
  | vabs (slot : Nat)
  | vneg (slot : Nat)
  | vand (slot : Nat)
  | vor (slot : Nat)
  | vxor (slot : Nat)
  | vnot (slot : Nat)
  | vshl (slot : Nat)
  | vshr (slot : Nat)
  | vsra (slot : Nat)
  | vclz (slot : Nat)
  | vffs (slot : Nat)
  | vpopc (slot : Nat)
  | vcmp (slot : Nat)
  | vsel (slot : Nat)
  | vcvt (slot : Nat)
  | vql6 (slot : Nat)
  | vreds (slot : Nat)
  | vredx (slot : Nat)
  | vredn (slot : Nat)
  | vargx (slot : Nat)
  | vscan (slot : Nat)
  | vperm (slot : Nat)
  | vtrn (slot : Nat)
  | vbcast (slot : Nat)
  | vld (slot : Nat)
  | vst (slot : Nat)
  | vmov (slot : Nat)
  | vlog2 (slot : Nat)
  | vexp2 (slot : Nat)
  | vladd (slot : Nat)
  | vlsub (slot : Nat)
  | vlshr (slot : Nat)
  | vlpow (slot : Nat)
  | vexpe (slot : Nat)
  | vrcp (slot : Nat)
  | vrsqrt (slot : Nat)
  | vsigm (slot : Nat)
  | vtanh (slot : Nat)
  | vsilu (slot : Nat)
  -- CX issues of a core's channel (chapter 09)
  | cxCpy (core ch : Nat)
  | cxFill (core ch : Nat)
  | cxGth (core ch : Nat)
  | cxSct (core ch : Nat)
  | cxPutf (core ch : Nat)
  | cxGetf (core ch : Nat)
  | cxPutn (core ch : Nat)
  | cxGetn (core ch : Nat)
  | cxMcst (core ch : Nat)
  -- AE rounds (chapter 18)
  | aeRun (slot : Nat)
  | aeCont (slot : Nat)
  -- launches and tasks (chapter 10)
  | launchAccept (ctx : Nat)
  | groupPlace (ctx core : Nat)
  | taskIssue (ctx : Nat) (src : IssueSrc) (slot : Nat)
  | launchEnd (ctx : Nat)
  | gridStarvation (ctx : Nat)
  | coreGate (core : Nat)
  | dieFence (die : Nat)
  -- gauges, rotor slots (chapters 15, 14, 13)
  | periodEdge
  | spinLimit (slot : Nat)
  | slotStart (port : Nat)
  | guardEnd (port : Nat)
  | slotEnd (port : Nat)
  | slotcfgWrite (h : Cmd) (port : Nat) (v : Word)
  | nak (port : Nat) (f : Flit)
  | lol (port : Nat) (f : Flit)
  | light (port : Nat) (f : Flit)
  | credit (port : Nat) (f : Flit)
  | restripeResume (port : Nat)
  | replayTimeout (port : Nat)
  | wavelengthDark (port w : Nat)
  | lolResend (port w : Nat)
  | lightReturn (port w : Nat)
  -- messages (R256 to R260, R297, R323)
  | write (port : Nat) (m : Msg)
  | read (port : Nat) (m : Msg)
  | rdata (port : Nat) (m : Msg)
  | amoMessage (port : Nat) (m : Msg)
  | pollMessage (port : Nat) (m : Msg)
  | ack (port : Nat) (m : Msg)
  | nack (port : Nat) (m : Msg)
  | frag (port : Nat) (m : Msg)
  | rfrag (port : Nat) (m : Msg)
  | resendTimeout (peer msn : Nat)
  | connectionDown (peer : Nat)
  | stashfullResend (peer ctx : Nat)
  -- Ethernet (chapter 20)
  | ethWritePacket (port : Nat) (p : Pkt)
  | ethReadPacket (port : Nat) (p : Pkt)
  | ethReadResponse (port : Nat) (p : Pkt)
  | ethAck (port : Nat) (p : Pkt) (echo : Bool)
  | ethNack (port : Nat) (p : Pkt)
  | ethRateWindow (port node : Nat)
  | pdcExpiry (port node : Nat)
  | ethTargetFailed (node : Nat) (host : Bool)
  | ptpSync (master : Nat) (offset : BitVec 32)
  | holdover
  | thermalStateChange (die temp : Nat)
  | bringUp (fw cfg : List Byte) (kerez : Nat) (sigs : Nat × Nat) (custKey puf : Nat)
  | functionReady (u : Unit')
  | functionFenced (u : Unit')
  | sessionOpen (sess : Nat) (ct : Nat) (sig : Nat)
  -- host and custodian commands (R371, R283, R313, R352, R382 to R390)
  | regrd (h : Cmd) (addr : BitVec 32)
  | regwr (h : Cmd) (addr : BitVec 32) (v : Word)
  | asidset (h : Cmd) (asid : Nat) (root : Word)
  | nodeset (h : Cmd) (node : Nat) (ip : BitVec 128) (ports : BitVec 8) (enc self : Bool)
  | hwin (h : Cmd) (win : Nat) (addr : Word) (len : Nat) (rd wr : Bool)
  | evqset (h : Cmd) (ring prod cons : Word) (nev : Nat)
  | pageUnmap (h : Cmd) (asid : Nat) (va : Word) (count : Nat)
  | pageEvict (h : Cmd) (asid : Nat) (va : Word) (count : Nat)
  | deferred (asid : Nat) (va : Word)
  | launch (h : Cmd) (ctx : Nat) (rec : BitVec 2048)
  | tctxset (h : Cmd) (ctx peer target : Nat)
  | selvread (h : Cmd) (gang : Nat)
  | ctxset (h : Cmd) (ctx asid keydom gang spinlim : Nat) (stash : Word)
  | ctxdel (h : Cmd) (ctx : Nat)
  | gaugeset (h : Cmd) (ctx : Nat) (gauge : BitVec 512)
  | rescfg (h : Cmd) (resmax period : Nat)
  | selvset (h : Cmd) (gang cap : Nat)
  | ctxread (h : Cmd) (ctx : Nat)
  | lockset (h : Cmd) (ctx maxns : Nat)
  | grpset (h : Cmd) (gid ctx : Nat) (enc : Bool) (members : List Member)
  | grpdel (h : Cmd) (gid : Nat)
  | sharecls (h : Cmd) (keydom cls : Nat)
  | keyload (h : Cmd) (index keydom : Nat) (ct : Nat) (wrapped : BitVec 512) (tag : BitVec 128)
  | keydel (h : Cmd) (index : Nat)
  | nkeyload (h : Cmd) (node keydom : Nat) (ct : Nat) (wrapped : BitVec 512) (tag : BitVec 128)
  | idread (h : Cmd)
  | logread (h : Cmd) (ctx index : Nat)
  | logsign (h : Cmd) (ctx : Nat)
  | quote (h : Cmd) (nonce : BitVec 256)
  | dbgctl (h : Cmd) (ctx : Nat) (en bken halten : Bool)
  | dbghalt (h : Cmd) (ctx : Nat) (sel : DbgSel)
  | debugHalt (slot : Nat)
  | dbgresume (h : Cmd) (ctx : Nat) (sel : DbgSel)
  | dbgstep (h : Cmd) (ctx slot : Nat) (x : Bool)
  | dbgread (h : Cmd) (ctx slot : Nat) (x : Bool) (cls : DbgClass) (index len : Nat)
  | dbgwrite (h : Cmd) (ctx slot : Nat) (x : Bool) (cls : DbgClass) (index : Nat) (data : List Byte)
  -- triggered operations, graft engine (chapters 17, 19)
  | triggeredOpFire (id : Nat)
  | triggeredOpComplete (id : Nat)
  | attach (bind : Nat)
  | stageTaskStart (node item : Nat)
  | branchCopy (bind item : Nat)
  | detachComplete (bind : Nat)
  -- encodings, wakes, link and environment (R52, R87, R122, R203, R245, R246, R366, R384, R310, R375)
  | unassignedEncoding (w : Word)
  | instructionFetchFault (q : SeqRef)
  | clusterWake (slot k : Nat)
  | coreWake (core : Nat)
  | beat (port : Nat)
  | flitArrival (port lane : Nat) (f : Flit)
  | receivedPowerChange (port w : Nat) (above : Bool)
  | ethPacketSend (port node : Nat)
  | ethPacketResend (port node tok : Nat)
  | uncorrectableError (loc : UeLoc)
  | eventRingRoom (cons : Nat)
  deriving DecidableEq, Repr

end Sys2Proof
end

