-- ==== Sys2Proof/Machine/Table.lean ====
section
/-! DEFINITION. Finite tables keyed by numbers, and the byte memory built on them: the one representation of every
sparse piece of state (registers, semaphores, banks, HBM). -/

namespace Sys2Proof.Machine

/-- A finite map, as a list of entries in rising order of their keys. -/
abbrev Tbl (α : Type) := List (Nat × α)

def tblGet {α : Type} : Tbl α → Nat → Option α
  | [], _ => none
  | (k', v) :: r, k => if k' = k then some v else tblGet r k

/-- The value at a key, or the default of an unlisted key. -/
def tblGetD {α : Type} (t : Tbl α) (k : Nat) (d : α) : α := (tblGet t k).getD d

def tblErase {α : Type} (t : Tbl α) (k : Nat) : Tbl α := t.filter (fun e => e.1 != k)

def tblSet {α : Type} : Tbl α → Nat → α → Tbl α
  | [], k, v => [(k, v)]
  | (k', v') :: r, k, v =>
    if k' = k then (k, v) :: r else if k < k' then (k, v) :: (k', v') :: r else (k', v') :: tblSet r k v

/-- Write a value, listing nothing that equals the default. -/
def tblPut {α : Type} [DecidableEq α] (t : Tbl α) (k : Nat) (d v : α) : Tbl α :=
  if v = d then tblErase t k else tblSet t k v

def tblModify {α : Type} (t : Tbl α) (k : Nat) (f : α → α) : Tbl α :=
  t.map (fun e => if e.1 = k then (e.1, f e.2) else e)

/-- The least number below `n` that is not a key. -/
def tblFree {α : Type} (t : Tbl α) (n : Nat) : Option Nat :=
  (List.range n).find? (fun k => (tblGet t k).isNone)

/-- Byte memory: the nonzero bytes in rising order of address. An unlisted byte reads zero, which is what the scratchpad,
DS, the tile registers and HBM hold before anything is written (R99, R109, R117, R394). -/
abbrev Memory := List Host.Cell

/-- The canonical form: addresses strictly rising, no zero byte listed. -/
def Memory.wfFrom : Nat → Memory → Bool
  | _, [] => true
  | lo, (a, b) :: r => decide (lo ≤ a) && (b != 0) && Memory.wfFrom (a + 1) r

def Memory.wf (m : Memory) : Bool := Memory.wfFrom 0 m

def Memory.read (m : Memory) (a : Nat) : Byte := tblGetD m a 0
def Memory.write (m : Memory) (a : Nat) (b : Byte) : Memory := tblPut m a 0 b

/-- `n` bytes as one little-endian number (R6). -/
def Memory.readLE (m : Memory) (a : Nat) : Nat → Nat
  | 0 => 0
  | n + 1 => (m.read a).toNat + 256 * Memory.readLE m (a + 1) n

def Memory.writeLE (m : Memory) (a : Nat) : Nat → Nat → Memory
  | 0, _ => m
  | n + 1, v => Memory.writeLE (m.write a (BitVec.ofNat 8 v)) (a + 1) n (v / 256)

def Memory.readBytes (m : Memory) (a n : Nat) : List Byte := (List.range n).map (fun i => m.read (a + i))

def Memory.writeBytes (m : Memory) (a : Nat) : List Byte → Memory
  | [] => m
  | b :: r => Memory.writeBytes (m.write a b) (a + 1) r

/-- A list of bytes as one little-endian number. -/
def leOfBytes : List Byte → Nat
  | [] => 0
  | b :: r => b.toNat + 256 * leOfBytes r

def bytesOfLE : Nat → Nat → List Byte
  | 0, _ => []
  | n + 1, v => BitVec.ofNat 8 v :: bytesOfLE n (v / 256)

end Sys2Proof.Machine
end

