-- ==== Sys2Proof/Machine/State.lean ====
section
/-! DEFINITION. The state of one package, as plain data: every piece of state that the chapters give it, its value after
reset, and the ways a step can stop. -/

namespace Sys2Proof.Machine

/-- A step never stops with a fault: every stop that the specification describes is a trap, a record fault, a NACK, a
command status or a wait, and each of those is a next state. The type has one value so that the interface has a type to
name; nothing raises it. -/
inductive Fault where
  /-- raised by nothing -/
  | unused
  deriving DecidableEq, Repr

/-- Why an instruction has no meaning here. -/
inductive Refusal where
  /-- raised by `exec` alone, for an instruction that has no meaning yet; safe, since nothing is proved of it -/
  | notModelled (mnemonic : String)
  deriving DecidableEq, Repr

/-- A trap that an instruction raises: cause code of R302 and EVAL. -/
structure Trp where
  code : Nat
  eval : Word
  deriving DecidableEq, Repr

/-- One counted loop: LCS, LCE and LC of R91. -/
structure Loop where
  start : Word := 0
  fin   : Word := 0
  depth : BitVec 2 := 0
  count : Word := 0
  deriving DecidableEq, Repr

/-- A captured record (R43, R104, R125): the record after capture, the handles of D, A, B and C and of an MX.BSW table, the
formats of the named banks, VSHAPE and the AE registers as they stood, who enqueued it, and the pages it pins. -/
structure QRec where
  r       : BitVec 512
  who     : SeqRef
  serial  : Nat
  ctx     : Nat
  grp     : Nat
  hD      : BitVec 256 := 0
  hA      : BitVec 256 := 0
  hB      : BitVec 256 := 0
  hC      : BitVec 256 := 0
  bfmt    : Tbl Word := []
  vshape  : Word := 0
  aeeps   : BitVec 32 := 0
  aemax   : BitVec 32 := 0
  aeres   : BitVec 32 := 0
  bsw     : List (BitVec 256) := []
  pins    : List Nat := []
  deriving DecidableEq, Repr

/-- A blocked instruction (R201, R305): the instruction, the answer it waits for (a remote access), and the time at which
a timed wait ends. -/
structure Wait where
  ins  : Instr
  tok  : Nat := 0
  fin  : Word := 0
  /-- since when it waits -/
  since : Word := 0
  /-- quarter cycles of the wait of a POLL or PAUSE that SPINCNT counts already, and up to when, if not from its start (R294) -/
  seen : Nat := 0
  upto : Option Word := none
  /-- the record that an ENQ has captured, with its pins, while it waits for pins or for a place (R45, R173) -/
  held : Option QRec := none
  /-- the 64 bytes that a TSPAWN has read while it waits for a place (R198) -/
  read : List Byte := []
  deriving DecidableEq, Repr

/-- A sequencer (R74, R77, R300, R301). -/
structure Seq where
  regs    : Tbl Word := []
  preds   : BitVec 8 := 0
  handles : Tbl (BitVec 256) := []
  pc      : Word := 0
  loops   : Tbl Loop := []
  /-- captured words of the active loops' bodies, by address (R89) -/
  loopBuf : Tbl Word := []
  timecmp : Word := 0
  strict  : Bool := false
  intrap  : Bool := false
  cause   : BitVec 9 := 0
  epc     : Word := 0
  eval    : Word := 0
  tvec    : Word := 0
  /-- it has executed TEND, or its task has ended (R195, R304) -/
  stopped : Bool := true
  /-- the address of that TEND (R216) -/
  tendPc  : Word := 0
  wait    : Option Wait := none
  /-- asynchronous causes held or due: code and EVAL (R305) -/
  held    : List Trp := []
  /-- failed targets met by its remote stores and AMOs that no FENCE has reported yet: an Ethernet target or a package, and its
  number, that of a host session with 65,536 added (R236) -/
  failed  : List (Bool × Nat) := []
  /-- a record it enqueued has faulted (R235) -/
  recFault : Bool := false
  deriving DecidableEq, Repr

/-- Power states of a logical tile cluster (R121, R122). A waking cluster becomes DROWSY at the end of its wake when
`thenDrowsy` is set; `cold` tells a wake from GATED (R124). -/
inductive Cluster where
  | on | drowsy | gated
  | waking (cold thenDrowsy : Bool)
  deriving DecidableEq, Repr

/-- A register scope (R116, R117): its size in registers, its clusters, and its bytes as one array. -/
structure Scope where
  n   : Nat
  cl  : List Cluster
  mem : Memory
  deriving DecidableEq, Repr

/-- A message of an issue: remote space (1 F, 2 N, 3 H), address, the data of a write or the length of a read, and a flag
address (R185, R272, R365). -/
structure CxMsg where
  sp   : Nat
  addr : Word
  len  : Nat
  data : Option (List Byte)
  flag : Option Word := none
  deriving DecidableEq, Repr

/-- A record's auction as its state area holds it (R339); `col` is COL, row by row, eight entries each. -/
structure Auction where
  n      : Nat
  m      : Nat
  k      : Nat
  pass   : Nat
  status : Nat
  rounds : Nat
  total  : Nat
  price  : List Int
  bid    : List Int
  act    : List Nat
  col    : List (List Int)
  deriving DecidableEq, Repr

/-- A running record (R213, R214): its next issue, the issues whose fetched operands are staged (R161), the fault that ended
it (cause and EVAL), the remote operations it still awaits, whether every issue is performed, whether its signal has been
applied (R186), and the elements it has written into blocks of LOG6 (R108). For an AE record `next` counts its rounds. -/
structure Run where
  q       : QRec
  next    : Nat := 0
  staged  : Nat := 0
  fault   : Option (Nat × Word) := none
  /-- remote operations it still awaits: issue and first element of each message -/
  pend    : List (Nat × Nat) := []
  /-- the issue under way has begun; its messages that are not queued yet, the number of those that are, and whether the channel
  stands stalled at a full queue (R271) -/
  opened  : Bool := false
  todo    : List CxMsg := []
  part    : Nat := 0
  stalled : Bool := false
  /-- the issue that waits has been counted in HAZCNT (R113) -/
  hazed   : Bool := false
  /-- the index list of the next issue, where it lies remotely: its reads are under way; its bytes, by remote address (R184) -/
  listing : Bool := false
  ixs     : Option Memory := none
  done    : Bool := false
  sigDone : Bool := false
  blk     : Tbl (List (Nat × Nat)) := []
  /-- operands that the fetcher has staged, by issue: what they are of, and their elements (R161) -/
  stage   : Tbl (Nat × List Nat) := []
  /-- bytes that have arrived for issues that read remotely, by remote address -/
  recv    : Memory := []
  /-- fetches that have failed, by issue: what they are of, cause and EVAL, which the issue then meets (R161, R162) -/
  fetchBad : Tbl (Nat × Nat × Word) := []
  deriving DecidableEq, Repr

/-- A task in a slot (R194, R197). -/
structure Task where
  /-- a number of its own, by which the answers of its remote stores find it (log 23) -/
  uid     : Nat := 0
  ctx     : Nat
  grp     : Nat
  idx     : List Nat := []
  spawned : Bool := false
  level   : Nat := 0
  /-- unused reservations: edge and whether it is an output (R199) -/
  resv    : List (Nat × Bool) := []
  start   : Word := 0
  /-- both sequencers have stopped; the slot waits for its records (R195); `cut`: they were stopped, and did not both end by TEND -/
  ended   : Bool := false
  cut     : Bool := false
  /-- a stage task: graft binding node and item (R357) -/
  stage   : Option (Nat × Nat) := none
  deriving DecidableEq, Repr

/-- A task slot (R12, R77). -/
structure Slot where
  task    : Option Task := none
  gen     : Nat := 0
  vshape  : Word := 0x0000000000200008
  scope   : Option Scope := none
  vuse    : BitVec 8 := 0
  vrest   : Bool := false
  masks   : Tbl (BitVec 1024) := []
  hazcnt  : BitVec 32 := 0
  aeeps   : BitVec 32 := 1
  aemax   : BitVec 32 := 1024
  aeres   : BitVec 32 := 0x80000000
  lockend : Word := 0
  spincnt : Nat := 0
  /-- quarter cycles beyond `spincnt` that have been spun (a ns is 2.5 cycles, or 1.25 under THROTTLE: R7, R400) -/
  spinFrac : Nat := 0
  aq0     : List Word := []
  aq1     : List Word := []
  aq2     : List Bool := []
  aq3     : List Word := []
  qmx     : List QRec := []
  qvx     : List QRec := []
  qcx     : List QRec := []
  qae     : List QRec := []
  rmx     : Option Run := none
  rvx     : Option Run := none
  rae     : Option Run := none
  /-- records that have performed their last issue and have not retired, oldest first -/
  landing : List Run := []
  /-- what the operand fetcher has staged for queued MX records ahead of their start, by serial number (R161) -/
  ahead   : Tbl Run := []
  /-- when MX, VX, CX last served the slot, in service order; 0 is never (R13) -/
  servMx  : Nat := 0
  servVx  : Nat := 0
  servCx  : Nat := 0
  servAe  : Nat := 0
  halted  : Bool := false
  haltReq : Bool := false
  /-- a sequencer that one DBGSTEP lets run (R313) -/
  stepOne : Option Bool := none
  /-- that instruction has begun, and awaits its answer or its completion -/
  stepping : Bool := false
  /-- a pre-emption asked for and not yet taken (R95, R311) -/
  preReq  : Bool := false
  /-- the task is to stop at its next pre-emption point, for a launch that ends (R304, R205) -/
  stopReq : Bool := false
  /-- when a record of the slot last retired or a sequencer of it last ended (R206) -/
  moved   : Word := 0
  deriving DecidableEq, Repr

/-- A weight plane (R149). -/
structure Plane where
  cells  : Tbl (BitVec 32) := []
  loaded : Bool := false
  fmt    : Nat := 0
  geom   : Nat := 0
  scales : Tbl (BitVec 16) := []
  deriving DecidableEq, Repr

/-- Power states of a core (R203). `absent` is a core whose die is not ready. -/
inductive Power where
  | absent | on | idle | gated
  deriving DecidableEq, Repr

/-- Which reduction a job of R326 performs: a fragment from a package by its MSN, one from an Ethernet node by its packet's token, or
what a triggered operation reduces, by the operation's number, or an entry of a context's stash. -/
inductive RedKey where
  | fab (src msn : Nat)
  | eth (node tok : Nat)
  | op (id : Nat)
  | stash (ctx k : Nat)
  deriving DecidableEq, Repr

/-- A reduction that CX and VX perform where the reducers are absent (R326): the slot and task behind whose records it stands, or none
in the service queues of the core; the bytes it stages; its CX issue has been performed. -/
structure RedJob where
  key    : RedKey
  ctx    : Nat
  home   : Option (Nat × Nat) := none
  bytes  : Nat
  copied : Bool := false
  deriving DecidableEq, Repr

/-- Who asks for tile clusters: a SCOPEO, or the restore of a task that held some, by its context, its group and the slot that it was
saved from (R117, R120). -/
inductive Asker where
  | seq (q : SeqRef)
  | back (ctx grp slot : Nat)
  deriving DecidableEq, Repr

/-- A core (R10). A fenced one is removed from placement (R14, R205). -/
structure Core where
  fenced : Bool := false
  /-- reductions without reducers, in the order of their placing (R326), and when CX and VX last served the core's service queues -/
  red    : List RedJob := []
  redCx  : Nat := 0
  redVx  : Nat := 0
  power  : Power := .absent
  since  : Word := 0
  /-- being woken (R203) -/
  waking : Bool := false
  plane0 : Plane := {}
  plane1 : Plane := {}
  active : Bool := false
  acc    : Tbl (BitVec 32) := []
  mxGrp  : Option Nat := none
  ch     : Tbl Run := []
  scopeQ : List (Asker × Nat) := []
  deriving DecidableEq, Repr

/-- Thermal states (R399). -/
inductive Therm where
  | normal | warn | throttle | trip
  deriving DecidableEq, Repr

/-- What an AE holds (R334): the serial number of the record that is loaded, and its state: the 256 price registers, the row state
and the counts, zero at reset (DESIGN CHOICE, log 11). -/
structure AeHeld where
  serial : Option Nat := none
  auc    : Auction := { n := 0, m := 0, k := 0, pass := 0, status := 0, rounds := 0, total := 0, price := List.replicate 256 0,
                        bid := [], act := [], col := [] }
  deriving DecidableEq, Repr

/-- A die: readiness, thermal state, and what its AE holds (R334). -/
structure Die where
  ready  : Bool := false
  fenced : Bool := false
  therm  : Therm := .normal
  temp   : BitVec 8 := 0
  ae     : AeHeld := {}
  deriving DecidableEq, Repr

/-- A placed core group (R190, R98, R102). `idx` holds its indices from its own level outwards; `nextTask` counts the tasks
of its own tree issued, `live` the tasks running, `placed` orders the placements and `since` is the time of its own, or when a slot of it
last became free (R206). -/
structure Grp where
  ctx      : Nat
  level    : Nat
  lin      : Nat
  idx      : List Nat
  core     : Nat
  vdie     : Nat
  mask     : BitVec 12
  mxUse    : Bool
  banks    : Tbl Memory := []
  bfmt     : Tbl Word := []
  nTasks   : Nat
  nextTask : Nat := 0
  live     : Nat := 0
  placed   : Nat := 0
  since    : Word := 0
  deriving DecidableEq, Repr

/-- A semaphore (R208). -/
structure Sem where
  count  : BitVec 16 := 0
  poison : Bool := false
  cause  : BitVec 8 := 0
  deriving DecidableEq, Repr

/-- A trigger counter (R317). -/
structure Ctr where
  count  : BitVec 48 := 0
  poison : Bool := false
  deriving DecidableEq, Repr

/-- An edge of a launch (R196). -/
structure Edge where
  ring  : Word
  ds    : Bool
  scope : Nat
  vdie  : Nat
  cap   : Nat
  items : Nat := 0
  resI  : Nat := 0
  free  : Nat
  resF  : Nat := 0
  head  : Nat := 0
  tail  : Nat := 0
  deriving DecidableEq, Repr

/-- A task record in a task queue (R197, R198): its 64 bytes, the ancestor group it joins (its level and the spawner's
indices from that level outwards), and the spawner's s8 to s15 (R194). `stage` marks a stage task (R357). -/
structure Spawn where
  bytes : List Byte
  level : Nat
  idx   : List Nat
  s8    : List Word
  stage : Option (Nat × Nat) := none
  /-- the address of a stage task's output slot -/
  s3    : Word := 0
  deriving DecidableEq, Repr

/-- A task queue of a launch (R198): how many records have entered it, and those still in it. -/
structure TaskQ where
  tail  : Nat := 0
  items : List Spawn := []
  deriving DecidableEq, Repr

/-- What a FAULTED launch's event record carries (R304). -/
structure EndInfo where
  core  : Nat := 0
  slot  : Nat := 0
  cause : BitVec 9 := 0
  epc   : Word := 0
  eval  : Word := 0
  deriving DecidableEq, Repr

/-- A group of a launch that was pre-empted by grid starvation or lost with a die and waits to be placed again. -/
structure BackGrp where
  lin   : Nat
  saved : Option Nat := none
  deriving DecidableEq, Repr

/-- A running launch (R189 to R207). `hdr` is the record. Groups are taken in order of their linear index: `nextGrp` is the
next one never placed, `back` the ones placed before and held again. -/
structure Launch where
  hdr      : BitVec 2048
  serial   : Nat
  /-- since when some group of it has been held (R206) -/
  heldAt   : Word := 0
  nextGrp  : Nat := 0
  back     : List BackGrp := []
  ended    : Nat := 0
  edges    : Tbl Edge := []
  tqs      : Tbl TaskQ := []
  reissued : Nat := 0
  durs     : List Nat := []
  /-- the status code and event data of a launch that is ending before its groups are done -/
  ending   : Option (Nat × EndInfo) := none
  /-- DS allocations and their physical dies, by virtual die (R109) -/
  ds       : Tbl Memory := []
  dies     : List Nat := []
  /-- virtual dies of the groups bound to DIE, and cores of the outer groups bound to CORE, by their linear indices (R190) -/
  homes    : Tbl Nat := []
  coreHomes : Tbl Nat := []
  deriving DecidableEq, Repr

/-- A registered window (R180, R181). -/
structure Win where
  base     : Word
  span     : Nat
  rd       : Bool
  wr       : Bool
  fab      : Bool
  net      : Bool
  pins     : List Nat
  revoking : Bool := false
  deriving DecidableEq, Repr

/-- A write, flag increment or fragment at its target (R256, R296, R323): SRC and GANG as a stash header holds them, the
window, the data, the flag word's window and offset, the arguments of a fragment and whether it is a reduction. -/
structure Req where
  src  : Nat
  ctx  : Nat
  gang : Nat
  win  : Nat
  off  : Nat
  data : List Byte
  flag : Option (Nat × Nat) := none
  args : Option (List Byte) := none
  red  : Bool := false
  /-- bytes of the data that a packet created later has written already (R365) -/
  skip : List Nat := []
  deriving DecidableEq, Repr

/-- A stash entry (R296): its time of arrival and its request; `served` once CX and VX have done the work of a reduction without
reducers (R326). -/
structure StashEntry where
  time   : Word
  req    : Req
  served : Bool := false
  deriving DecidableEq, Repr

/-- A gauge (R288). -/
structure Gauge where
  mx    : Nat := 0
  vx    : Nat := 0
  ae    : Nat := 0
  fb    : Nat := 0
  cx    : Nat := 0
  hbm   : Nat := 0
  eth   : Nat := 0
  pri   : Nat := 0
  lo    : Bool := false
  pin   : Bool := false
  deriving DecidableEq, Repr

/-- One resource of a gauge at one place (R290): AVAIL, LOUSED, and what was charged in reservation in the period (R386). -/
structure Acct where
  avail  : Int := 0
  loused : Nat := 0
  chg    : Nat := 0
  deriving DecidableEq, Repr

/-- A usage log record and checkpoint (R386, R388). -/
structure LogRec where
  index : Nat
  bytes : List Byte
  deriving DecidableEq, Repr

structure Checkpoint where
  index : Nat
  head  : BitVec 256
  time  : Word
  sig   : Nat
  deriving DecidableEq, Repr

/-- A saved slot of a context that is not resident (R312): the slot with its sequencers, and which saved group it ran in. -/
structure SavedSlot where
  grp  : Nat
  /-- the number of the slot it was saved from, by which the debugger names it (log 20) -/
  from_ : Nat := 0
  slot : Slot
  a    : Seq
  x    : Seq
  deriving DecidableEq, Repr

/-- A saved group: its banks and formats stand in `grp`, its MX state beside it (R100, R147). -/
structure SavedGrp where
  key    : Nat
  grp    : Grp
  plane0 : Plane := {}
  plane1 : Plane := {}
  active : Bool := false
  acc    : Tbl (BitVec 32) := []
  deriving DecidableEq, Repr

/-- A context (R281 and R17). -/
structure Ctx where
  asid     : BitVec 13 := 0
  keydom   : BitVec 10 := 0
  gang     : BitVec 16 := 0
  spinlim  : BitVec 32 := 25000
  stashBase : Word := 0
  lockmax  : BitVec 32 := 50000
  gridstarve : BitVec 32 := 0
  sems     : Tbl Sem := []
  ctrs     : Tbl Ctr := []
  fxc      : Tbl (BitVec 32) := []
  fxthr    : BitVec 32 := 0
  fx       : Bool := false
  gauge    : Gauge := {}
  nextGauge : Option Gauge := none
  /-- accounts by resource (0 MX, 1 VX, 2 AE, 3 CX, 4 HBM, 5 fabric, 6 Ethernet) × 65,536 + place -/
  accts    : Tbl Acct := []
  pen      : Nat := 0
  wins     : Nat := 0
  resident : Bool := false
  /-- chosen at an edge and waiting for its restore (R286) -/
  admitted : Bool := false
  /-- chosen as a victim: its tasks are to be pre-empted (R286) -/
  leaving  : Bool := false
  /-- the victim's save has begun: from now on its messages are handled as for a context that is not resident (R286) -/
  saving   : Bool := false
  launchQ  : List (BitVec 2048) := []
  launch   : Option Launch := none
  windows  : Tbl Win := []
  /-- by entry number, 0 to 7 -/
  stash    : Tbl StashEntry := []
  dbgEn    : Bool := false
  bken     : Bool := false
  halten   : Bool := false
  savedGrps : List SavedGrp := []
  savedSlots : List SavedSlot := []
  created  : Word := 0
  logHead  : BitVec 256 := 0
  logIndex : Nat := 0
  logRing  : List LogRec := []
  checks   : List Checkpoint := []
  deriving DecidableEq, Repr

/-- A key slot (R380, R381). `val` is the key itself; `serial` tells loads of one slot apart. -/
structure Key where
  keydom : BitVec 10
  dying  : Bool := false
  val    : BitVec 512 := 0
  deriving DecidableEq, Repr

/-- A page of a page command in progress (R175, R176): it is dying until it is unmapped. `leaf` is where its leaf stands. -/
structure PageCmd where
  sess  : Nat
  tag   : BitVec 32
  asid  : Nat
  va    : Word
  leaf  : Nat
  evict : Bool
  deriving DecidableEq, Repr

/-- A selvedge entry (R293). -/
structure Selv where
  acc     : Nat := 0
  granted : Nat := 0
  deriving DecidableEq, Repr

/-- Who awaits the answer of a remote operation: a store of a task's sequencer with its target address, a load that blocks a
sequencer, a message of a record with the issue and element it starts at, a triggered operation. -/
inductive Owner where
  | store (task : Nat) (x : Bool) (addr : Word)
  | load (q : SeqRef) (tok : Nat)
  | record (core ch serial issue off : Nat)
  | trig (id : Nat)
  | none
  deriving DecidableEq, Repr

/-- A request of this package (R255, R258, R260): the message, its context and owner, its charge in bytes and whether it is
charged already (R272), whether it has left for the line, and when it is to be sent again. -/
structure OutMsg where
  m       : Msg
  ctx     : Nat
  own     : Owner
  cost    : Nat := 64
  charged : Bool := false
  /-- the stage node whose task's store it is (R358) -/
  node    : Option Nat := none
  sent    : Bool := false
  due     : Word := 0
  /-- when it was created, in the order of creation (R276) -/
  born    : Nat := 0
  /-- sent again after STASHFULL (R297) -/
  retry   : Bool := false
  deriving DecidableEq, Repr

/-- Held messages of one target context after STASHFULL (R297): in MSN order, the delay, when the oldest is sent again, and
whether it has been. -/
structure Hold where
  tctx  : Nat
  msgs  : List OutMsg
  delay : Nat := 2000
  due   : Word := 0
  probing : Bool := false
  deriving DecidableEq, Repr

/-- The connection with one peer, both directions (R258). -/
structure Conn where
  nextMsn  : Nat := 0
  out      : List OutMsg := []
  held     : List Hold := []
  down     : Bool := false
  /-- when it is declared down if nothing is acknowledged before (R260) -/
  downAt   : Word := 0
  /-- responses to the peer that wait for a slot (R274) -/
  resp     : List Msg := []
  expect   : Nat := 0
  early    : List Msg := []
  /-- messages passed to the target that are not answered yet: each a POLL (R238) -/
  waiting  : List Msg := []
  /-- the answers given to the last messages that take one of their own, by MSN (R258) -/
  answers  : List (Nat × Msg) := []
  deriving DecidableEq, Repr

/-- What a flit carries a part of: a request to a peer, a response, or transit. -/
inductive Carried where
  | req (peer msn : Nat)
  | resp (m : Msg)
  | transit
  deriving DecidableEq, Repr

/-- A flit of the replay buffer or about to be sent, and when it was last sent (R247). -/
structure SentFlit where
  f     : Flit
  since : Word := 0
  what  : Carried
  deriving DecidableEq, Repr

/-- One wavelength at a receiver (R249, R251): power above the threshold or not and since when, whether its flits are
refused, whether the transmitter says it is out of use and since when, and when its last LOL was sent. -/
structure Lane where
  above  : Bool := true
  since  : Word := 0
  dark   : Bool := false
  outUse : Option Word := none
  lolAt  : Word := 0
  deriving DecidableEq, Repr

/-- An optical port: registers (R253, R265 to R279, R297) and link layer (R242 to R252). -/
structure Port where
  ready    : Bool := false
  slotcfg  : Word := 0x000001F400002710
  epoch    : Word := 0
  slottab  : Tbl Word := []
  relaycfg : Word := 0
  rmeet    : Word := 0
  sloterr  : Word := 0
  event    : Word := 0
  replay   : BitVec 32 := 0
  sfretry  : BitVec 32 := 0
  /-- the first round boundary at which EN takes effect (R267), and the rounds started since (R279) -/
  onAt     : Word := 0
  rounds   : BitVec 32 := 0
  /-- EN = 0 has been written in a slot: it takes effect at the slot's end (R267) -/
  offReq   : Bool := false
  /-- phase: in a slot, in its data part; its index, its start, its peer -/
  inSlot   : Bool := false
  data     : Bool := false
  slotIx   : Nat := 0
  slotBeg  : Word := 0
  peer     : Option Nat := none
  /-- what the slot fixes at its start: allowances by context (R273), the meeting table's row (R277) -/
  allow    : Tbl Nat := []
  meet     : Nat := 0
  /-- transit bytes forwarded in the slot (R278); contexts passed over in a queue (R274) -/
  fwd      : Nat := 0
  passed   : List (Nat × Nat) := []
  -- transmitter
  txSeq    : Nat := 0
  txBuf    : List SentFlit := []
  txQueue  : List SentFlit := []
  active   : BitVec 16 := 0xFFFF
  stripe   : Nat := 0
  paused   : Bool := false
  replayAt : Option Nat := none
  /-- wavelengths whose records 0x21 wait for the new stripe, when the last beat began, and when transmission stopped (R254) -/
  lols     : List (BitVec 16) := []
  beatAt   : Word := 0
  stopAt   : Word := 0
  credit0  : Nat := 2048
  credit1  : Nat := 512
  replays  : Nat := 0
  txDown   : Bool := false
  beats    : Nat := 0
  ctrlOut  : List Flit := []
  -- receiver
  rxSeq    : Nat := 0
  /-- the receiver's side of the link layer has started afresh for this slot (R248, R268) -/
  rxOpen   : Bool := false
  rxVc0    : List Flit := []
  rxVc1    : List Flit := []
  pend0    : Nat := 0
  pend1    : Nat := 0
  /-- flits at the head of the buffers that an earlier slot brought: their credits have lapsed (R243) -/
  old0     : Nat := 0
  old1     : Nat := 0
  /-- the lanes that the transmitter's stripe may use, as far as its flits have shown, and the lane of the last accepted one -/
  rxActive : BitVec 16 := 0xFFFF
  lastLane : Option Nat := none
  nakAt    : Option Word := none
  /-- the lane whose loss of power withholds a NAK, and whether a LOL stands in its place (R246) -/
  nakWait  : Option Nat := none
  darkWait : Bool := false
  lanes    : Tbl Lane := []
  /-- wavelengths found dark that the next beat's LOL names (R249) -/
  lolMask  : BitVec 16 := 0
  ctrlIn   : List Flit := []
  /-- destination queues: peer, and the messages waiting (R271) -/
  queues   : Tbl (List OutMsg) := []
  deriving DecidableEq, Repr

/-- Rate state of one node at one port (R366). -/
structure Rate where
  rate  : Nat := 400
  echo  : Bool := false
  acked : Bool := false
  since : Word := 0
  next  : Word := 0
  /-- when the last packet to the node left -/
  used  : Word := 0
  deriving DecidableEq, Repr

/-- An Ethernet request of this package (R365, R367): the packet, whose `tok` names it, its context and owner, its charge,
whether it has left its port, and the delay after a STASHFULL with the time it ends (R297). -/
structure OutPkt where
  p       : Pkt
  ctx     : Nat
  own     : Owner
  read    : Bool
  cost    : Nat
  node    : Option Nat := none
  charged : Bool := false
  sent    : Bool := false
  delay   : Nat := 2000
  hold    : Option Word := none
  /-- the oldest held packet, sent again (R297) -/
  retry   : Bool := false
  /-- it was held after STASHFULL and is to be sent again: its port counts it (R365) -/
  again   : Bool := false
  /-- it came after the revocation of its host window, and is refused (R378) -/
  late    : Bool := false
  deriving DecidableEq, Repr

/-- The data of a read that a port has not sent yet (R366). -/
structure Resp where
  port : Nat
  p    : Pkt
  data : List Byte
  deriving DecidableEq, Repr

/-- A delivery context (R363): the packets received in it, so that none is applied twice, and what they have written: token,
target context, window and offset, length (R365). -/
structure Pdc where
  seen    : List (Nat × Nat) := []
  lastUse : Word := 0
  wrote   : List (Nat × Nat × Nat × Nat) := []
  deriving DecidableEq, Repr

/-- An Ethernet port (R363 to R366). -/
structure EthPort where
  ready   : Bool := false
  fenced  : Bool := false
  sfretry : BitVec 32 := 0
  rates   : Tbl Rate := []
  deriving DecidableEq, Repr

/-- A node table entry (R364, R384). -/
structure Node where
  ip    : BitVec 128
  ports : BitVec 8
  enc   : Bool
  self  : Bool
  key   : Option (BitVec 256) := none
  failed : Bool := false
  /-- when it is declared failed if nothing is acknowledged before (R365) -/
  failAt : Word := 0
  deriving DecidableEq, Repr

/-- A host session and its H windows (R370, R371). -/
structure HostWin where
  addr : Word
  len  : Nat
  rd   : Bool
  wr   : Bool
  /-- revoked, and not drained yet (R181, R378) -/
  revoking : Bool := false
  deriving DecidableEq, Repr

/-- A command of a session that is not complete, before which no later one of it is executed (R371): a page command with its data,
answered once its last deferred page is unmapped, or an HWIN that waits for its window to drain. -/
inductive Pending where
  | page (tag : BitVec 32) (data : List Byte)
  | hwin (tag : BitVec 32) (win : Nat)
  deriving DecidableEq, Repr

structure Session where
  admitted : Bool := false
  key      : BitVec 256 := 0
  windows  : Tbl HostWin := []
  pending  : Option Pending := none
  failed   : Bool := false
  failAt   : Word := 0
  deriving DecidableEq, Repr

/-- An event record (R375), its 48 payload bytes as given. -/
structure Event where
  typ     : Nat
  ctx     : Nat
  time    : Word
  payload : List Byte
  deriving DecidableEq, Repr

/-- The event ring (R375). -/
structure Ring where
  sess : Nat
  base : Word
  prod : Word
  cons : Word
  nev  : Nat
  /-- the consumer word as last read -/
  seen : Nat := 0
  deriving DecidableEq, Repr

/-- What leaves the device towards its surroundings (log 22). -/
inductive Out where
  /-- an answer to the command of a session with a TAG, and the tag under the session's key (R371, R385) -/
  | answer (sess : Nat) (tag : BitVec 32) (status : Nat) (data : List Byte) (mac : BitVec 128)
  /-- the 64 bytes of event record `eseq`, written to host memory of a session at an address, and then, as a release, `eseq` + 1 to
  the producer word (R375), with the tag of the record under the session's key (R385) -/
  | event (sess : Nat) (addr : Word) (rec : List Byte) (prod : Word) (eseq : Nat) (mac : BitVec 128)
  | flit (port lane : Nat) (f : Flit)
  | packet (port : Nat) (read : Bool) (p : Pkt)
  | pktAck (port : Nat) (p : Pkt) (code : Nat) (data : List Byte)
  deriving DecidableEq, Repr

/-- A group table entry (R327): of the custodian, or held by the graft engine for the branch point after a stage node
(R356); such an entry has no owner that is a context. -/
structure Group where
  owner   : Nat
  enc     : Bool
  members : List Member
  branch  : Option Nat := none
  deriving DecidableEq, Repr

/-- A triggered operation, armed or fired (R319 to R321). -/
structure Armed where
  ctx    : Nat
  ctr    : Nat
  thr    : BitVec 48
  op     : Nat
  redop  : Nat := 0
  dtype  : Nat := 0
  len    : Nat := 0
  src    : Word := 0
  dst    : Word := 0
  lctr   : Nat := 0xFFFF
  rctr   : Nat := 0xFFFF
  linc   : Nat := 0
  rinc   : Nat := 0
  disp   : Word := 0
  /-- DST is an N address -/
  net    : Bool := false
  /-- the number of the task that armed it, whose slot is its home (R326) -/
  task   : Nat := 0
  coll   : Option Nat := none
  /-- the update after which its counter passed (R321) -/
  due    : Option Nat := none
  fired  : Bool := false
  /-- bytes handled so far; nothing is left to do but to await answers -/
  off    : Nat := 0
  spent  : Bool := false
  /-- messages not yet acknowledged; 1 PEERLOST or 2 FAULTED once one has failed, and that peer -/
  pend   : Nat := 0
  cause  : Nat := 0
  peer   : Nat := 0
  deriving DecidableEq, Repr

/-- A collective in progress (R328 to R331). `want` holds the counters, and their values, that end it. -/
structure Coll where
  ctx     : Nat
  base    : Nat
  seq     : Nat
  gid     : Nat
  alg     : Nat
  sub     : Bool := false
  incdown : Bool := false
  nored   : Bool := false
  status  : Word
  peers   : List (Bool × Nat) := []
  want    : List (Nat × BitVec 48) := []
  /-- steps of recursive halving -/
  halves  : Nat := 0
  task    : Nat := 0
  running : Bool := false
  /-- the member whose fragment has failed -/
  bad     : Nat := 0
  deriving DecidableEq, Repr

/-- A stage node of the graft engine (R349, R355 to R357): its identity, the instance and stage it is of, the node of the
stage before it, its owners and host, the items it has started: `first` to `next` - 1, and those of `ahead`, and likewise by `fin` and
`finAhead` those whose tasks have ended, none of them cut short. One without
owners is set aside for a binding not yet attached. -/
structure StageNode where
  ident  : Word
  inst   : Nat
  k      : Nat
  parent : Option Nat
  owners : List Nat
  host   : Nat
  first  : Nat
  next   : Nat
  ahead  : List Nat := []
  fin    : Nat
  finAhead : List Nat := []
  deriving DecidableEq, Repr

/-- A binding of a pipeline (R350, R354 to R361). `launch` is the serial number of the launch that owns it. -/
structure Bind where
  ctx       : Nat
  launch    : Nat
  born      : Nat
  inst      : Nat
  bytes     : List Byte
  /-- the ancestor group that its stage tasks join, as of the task that executed PBIND -/
  idx       : List Nat
  isrc      : Word
  ids       : List Word
  nodes     : List Nat
  shared    : Nat
  j0        : Nat
  last      : Nat
  pins      : List Nat
  attached  : Bool := false
  detaching : Bool := false
  faulted   : Bool := false
  /-- it has left the owners of its nodes -/
  left      : Bool := false
  /-- items copied into its rings, by stage: the next one; the next item to be pushed -/
  copied    : Tbl Nat := []
  pushed    : Nat := 0
  deriving DecidableEq, Repr

/-- One move of the machine to come (log 2): when, and what. -/
inductive What where
  | seq (q : SeqRef)
  | event (i : Instr)
  deriving DecidableEq, Repr

structure Move where
  at_  : Word
  what : What
  deriving DecidableEq, Repr

/-- The TIME counter and its servo (R376, R377). -/
structure Clock where
  time     : Word := 0
  ptpEn    : Bool := false
  ptpPort  : BitVec 3 := 0
  offset   : BitVec 32 := 0
  hold     : Bool := false
  stepped  : Bool := false
  lock     : Bool := false
  /-- it has been locked once: from then on the servo only slews (R376) -/
  tuned    : Bool := false
  lastSync : Word := 0
  /-- by how much TIME has moved otherwise than by 1 ns per ns: its step, and what it has slewed (R376) -/
  jump     : Word := 0
  /-- what it has still to gain by slewing, negative to lose, and ns of it that have passed towards the next one -/
  slew     : Int := 0
  part     : Nat := 0
  deriving DecidableEq, Repr

/-- HBM and what guards it: bytes by physical address, the serial of the key each 64-byte line was last written under
(R381), stacks ready (`true`) or fenced (`false`), ECC words holding an uncorrectable error (R413), roots by ASID, pins by
page, page commands in progress, the key-domain table, deletions deferred. -/
structure MemSt where
  hbm      : Memory := []
  lineKey  : Tbl (BitVec 512) := []
  stk      : Tbl Bool := []
  ue       : List UeLoc := []
  roots    : Tbl Word := []
  pins     : Tbl Nat := []
  dying    : List PageCmd := []
  keys     : Tbl Key := []
  deriving DecidableEq, Repr

/-- Periods, residency and selvedge (R284, R289, R293), target contexts (R257). -/
structure Shares where
  resmax   : Nat := 255
  period   : Nat := 100000
  nextPeriod : Option Nat := none
  edge     : Word := 100000
  selv     : Tbl Selv := []
  caps     : Tbl Nat := []
  tctx     : Tbl Nat := []
  deriving DecidableEq, Repr

/-- Package registers (R310, R373, R375) and the READY bits of the security engine and the endpoint (R393). -/
structure PkgRegs where
  cecnt     : BitVec 64 := 0
  evdrop    : BitVec 32 := 0
  ethfail   : BitVec 32 := 1000000
  fabresend : BitVec 32 := 200000
  fabdown   : BitVec 32 := 1000000
  secReady  : Bool := false
  endptReady : Bool := false
  deriving DecidableEq, Repr

/-- The optical engine and the connections (chapters 13 and 14). -/
structure Fabric where
  ports    : Tbl Port := []
  routes   : Tbl Word := []
  conns    : Tbl Conn := []
  transit  : List Msg := []
  deriving DecidableEq, Repr

/-- Ethernet, sessions and the event queue (chapter 20). -/
structure EthSt where
  ports    : Tbl EthPort := []
  nodes    : Tbl Node := []
  pdcs     : Tbl Pdc := []
  pkts     : List OutPkt := []
  resps    : List Resp := []
  nextTok  : Nat := 0
  sessions : Tbl Session := []
  ring     : Option Ring := none
  eseq     : Nat := 0
  waitEnds : List Event := []
  deriving DecidableEq, Repr

/-- The collective unit (chapter 17). -/
structure CollSt where
  groups   : Tbl Group := []
  armed    : Tbl Armed := []
  colls    : Tbl Coll := []
  deriving DecidableEq, Repr

/-- The graft engine (chapter 19). -/
structure GraftSt where
  binds    : Tbl Bind := []
  stages   : Tbl StageNode := []
  classes  : Tbl Nat := []
  deriving DecidableEq, Repr

/-- What remains of a deleted context's usage log (R386, R387). -/
structure OldLog where
  ring   : List LogRec
  checks : List Checkpoint
  deriving DecidableEq, Repr

/-- Identity (R385, R389); `begun`: the boot ROM has run since reset. -/
structure SecSt where
  begun    : Bool := false
  oldLogs  : Tbl OldLog := []
  puf      : Nat := 0
  custKey  : Nat := 0
  fwDigest : BitVec 256 := 0
  cfgDigest : BitVec 256 := 0
  deriving DecidableEq, Repr

/-- The package. `cur`, `agenda`, `freeCtr`, `serial` and `out` are the model's own (log 2, 15, 16, 22). -/
structure State where
  cur      : SeqRef := { slot := 0, x := false }
  agenda   : List Move := []
  freeCtr  : Nat := 0
  serial   : Nat := 1
  out      : List Out := []
  vond8    : Bool := true
  pkgId    : Nat := 0
  master   : Nat := 0
  clk      : Clock := {}
  seqs     : Tbl Seq := []
  slots    : Tbl Slot := []
  cores    : Tbl Core := []
  dies     : Tbl Die := []
  grps     : Tbl Grp := []
  ctxs     : Tbl Ctx := []
  mem      : MemSt := {}
  shr      : Shares := {}
  preg     : PkgRegs := {}
  fab      : Fabric := {}
  eth      : EthSt := {}
  coll     : CollSt := {}
  graft    : GraftSt := {}
  sec      : SecSt := {}
  deriving DecidableEq, Repr

/-- The package right after reset: TIME 0, nothing ready, nothing stored, context 0 the only context (R281, R289, R376,
R393); the reset values of R8's maps where the specification gives them, and the named choices of log 5 and log 11
where it gives none. -/
def State.reset : State := { ctxs := [(0, { resident := true })] }

end Sys2Proof.Machine
end

