-- ==== Sys2Proof/Machine/Aes.lean ====
section
/-! DEFINITION. AES-256-XTS on a 64-byte line of HBM (R381), after FIPS 197 and IEEE 1619: the S-box from the inverse in the field of
256 elements, the key schedule, one block either way, and the line under its tweak. -/

namespace Sys2Proof.Machine.Aes

/-- Twice a field element, modulo x^8 + x^4 + x^3 + x + 1. -/
def double (a : Byte) : Byte := (a <<< 1) ^^^ (if a.msb then 0x1B else 0)
/-- The product of two elements, from the highest bit of the first. -/
def mul (a b : Byte) : Byte :=
  [7, 6, 5, 4, 3, 2, 1, 0].foldl (fun r k => double r ^^^ (if a.getLsbD k then b else 0)) 0
/-- The inverse, a^254, and 0 of 0: a^2 · a^4 · … · a^128. -/
def inverse (a : Byte) : Byte :=
  let sq (p : Byte × Byte) : Byte × Byte := let x := mul p.2 p.2; (mul p.1 x, x)
  (sq (sq (sq (sq (sq (sq (sq (1, a)))))))).1
def sub (a : Byte) : Byte :=
  let b := inverse a
  b ^^^ b.rotateLeft 1 ^^^ b.rotateLeft 2 ^^^ b.rotateLeft 3 ^^^ b.rotateLeft 4 ^^^ 0x63
def unsub (a : Byte) : Byte := inverse (a.rotateLeft 1 ^^^ a.rotateLeft 3 ^^^ a.rotateLeft 6 ^^^ 0x05)

def xorAll (a b : List Byte) : List Byte := List.zipWith (· ^^^ ·) a b
/-- The words of the key schedule from word `i` on, newest first in `ws`; `rc` is the next round constant. -/
def schedule : Nat → Nat → Byte → List (List Byte) → List (List Byte)
  | 0, _, _, ws => ws.reverse
  | n + 1, i, rc, ws =>
    let old := (ws[7]?).getD []
    let last := ws.headD []
    let t := match i % 8 with
      | 0 => match (last.drop 1 ++ last.take 1).map sub with | x :: r => (x ^^^ rc) :: r | [] => []
      | 4 => last.map sub
      | _ => last
    schedule n (i + 1) (if i % 8 = 0 then double rc else rc) (xorAll old t :: ws)
/-- The 15 round keys of a key of 32 bytes. -/
def roundKeys (key : List Byte) : List (List Byte) :=
  let ws := schedule 52 8 1 ((List.range 8).map (fun k => (key.drop (4 * k)).take 4)).reverse
  (List.range 15).map (fun r => ((ws.drop (4 * r)).take 4).flatten)

/-- Row r of the block moves by r columns, to the left with `k` 1, back with `k` 3; byte i stands in row i mod 4 of column i / 4. -/
def shift (k : Nat) (b : List Byte) : List Byte :=
  (List.range 16).map (fun i => (b[(i + 4 * k * (i % 4)) % 16]?).getD 0)
/-- Every column times the circulant matrix of these factors. -/
def mix (fs : List Byte) (b : List Byte) : List Byte :=
  (List.range 16).map (fun i => (List.range 4).foldl (fun (x : Byte) j =>
    x ^^^ mul ((fs[(j + 4 - i % 4) % 4]?).getD 0) ((b[i / 4 * 4 + j]?).getD 0)) 0)
/-- One block of 16 bytes, enciphered. -/
def enc (rks : List (List Byte)) (b : List Byte) : List Byte :=
  match rks with
  | [] => b
  | k0 :: rest =>
    let mid := rest.dropLast.foldl (fun b k => xorAll (mix [2, 3, 1, 1] (shift 1 (b.map sub))) k) (xorAll b k0)
    xorAll (shift 1 (mid.map sub)) (rest.getLastD [])
/-- One block, deciphered. -/
def dec (rks : List (List Byte)) (b : List Byte) : List Byte :=
  match rks.reverse with
  | [] => b
  | k0 :: rest =>
    let mid := rest.dropLast.foldl (fun b k => mix [14, 11, 13, 9] (xorAll ((shift 3 b).map unsub) k)) (xorAll b k0)
    xorAll ((shift 3 mid).map unsub) (rest.getLastD [])

def bytesLE (n : Nat) (v : Nat) : List Byte := (List.range n).map (fun i => BitVec.ofNat 8 (v / 256 ^ i))
def numLE (b : List Byte) : Nat := b.foldr (fun x r => x.toNat + 256 * r) 0
/-- The tweak of the next block of a data unit: twice this one, modulo x^128 + x^7 + x^2 + x + 1. -/
def nextTweak (t : List Byte) : List Byte :=
  let v := 2 * numLE t
  bytesLE 16 (if v < 2 ^ 128 then v else (v - 2 ^ 128) ^^^ 0x87)
/-- A data unit under a key of 64 bytes: the data key, then the tweak key; its number is the tweak (R381). -/
def xts (one : List (List Byte) → List Byte → List Byte) (key : BitVec 512) (unit : Nat) (b : List Byte) : List Byte :=
  let k := bytesLE 64 key.toNat
  let rks := roundKeys (k.take 32)
  let t0 := enc (roundKeys (k.drop 32)) (bytesLE 16 unit)
  let go (p : List Byte × List Byte) (j : Nat) : List Byte × List Byte :=
    (p.1 ++ xorAll (one rks (xorAll ((b.drop (16 * j)).take 16) p.2)) p.2, nextTweak p.2)
  ((List.range 4).foldl go ([], t0)).1
/-- What a line that was written under one key reads as under another. -/
def cross (wrote reads : BitVec 512) (line : Nat) (b : List Byte) : List Byte := xts dec reads line (xts enc wrote line b)

end Sys2Proof.Machine.Aes
end

