-- ==== Sys2Proof/Config.lean ====
section
/-! DEFINITION. What one implementation fixes, and the values the specification leaves open: opaque constants, applied to a
counter of the state or to the operands they depend on (log 16). Nothing in the model can compute them. -/

namespace Sys2Proof.Config

/-- A free value of 64 bits, drawn with the state's counter: what a page reads under another key than the one its bytes were
written under (log 7), and old-or-new choices (log 12, log 13). -/
opaque freeWord : Nat → BitVec 64
/-- A free yes or no, drawn with the state's counter. -/
opaque freeBool : Nat → Bool

/-- ML-KEM-768 and ML-DSA-44 under the device's own keys, which its PUF alone fixes (log 9). Inputs and results are numbers that
encode byte strings little-endian. -/
opaque mlkemDecap : Nat → Nat → BitVec 256
opaque mldsaSign : Nat → BitVec 256 → Nat
opaque mldsaPublic : Nat → Nat
opaque mlkemPublic : Nat → Nat
/-- A signature of ML-DSA-44 under a public key over some bytes fits: key, bytes, signature (R385, R389, log 9). -/
opaque mldsaVerify : Nat → List (BitVec 8) → Nat → Bool
/-- What the boot ROM of the part holds: the SHA3-256 digest of the Kerez firmware public key (R389). -/
opaque kerezDigest : BitVec 256

end Sys2Proof.Config
end

