-- ==== Sys2Proof/Machine/Sha3.lean ====
section
/-! DEFINITION. SHA3-256, SHAKE256 and KMAC256, the hash functions that the specification names (R353, R380, R385, R387, R390), as FIPS 202
and SP 800-185 define them: the permutation Keccak-f[1600] and a sponge of 136 bytes at a time. -/

namespace Sys2Proof.Machine

/-- The 25 lanes of the permutation, lane (x, y) at 5 y + x. -/
abbrev Lanes := List (BitVec 64)
def lane (a : Lanes) (x y : Nat) : BitVec 64 := (a[5 * (y % 5) + x % 5]?).getD 0
def byLane (f : Nat → Nat → BitVec 64) : Lanes := (List.range 25).map (fun i => f (i % 5) (i / 5))
/-- θ: each lane takes up the parity of two columns. -/
def theta (a : Lanes) : Lanes :=
  let pars := (List.range 5).map (fun x => lane a x 0 ^^^ lane a x 1 ^^^ lane a x 2 ^^^ lane a x 3 ^^^ lane a x 4)
  let col (x : Nat) : BitVec 64 := (pars[x % 5]?).getD 0
  byLane (fun x y => lane a x y ^^^ col (x + 4) ^^^ (col (x + 1)).rotateLeft 1)
/-- The rotations of ρ: a walk over the lanes from (1, 0), whose step takes (x, y) to (y, 2 x + 3 y) and whose step t gives the lane
where it stands the triangular number of t. Lane (0, 0) is never met. -/
def rhoWalk : Nat → Nat → Nat → Nat → Tbl Nat
  | 0, _, _, _ => []
  | k + 1, t, x, y => (5 * y + x, (t + 1) * (t + 2) / 2 % 64) :: rhoWalk k (t + 1) y ((2 * x + 3 * y) % 5)
def rho (x y : Nat) : Nat := (((rhoWalk 24 0 1 0).find? (fun e => e.1 == 5 * (y % 5) + x % 5)).map (·.2)).getD 0
/-- ρ and π: lane (x, y) of the result is the rotated lane (x + 3 y, x). -/
def rhoPi (a : Lanes) : Lanes :=
  byLane (fun x y => (lane a (x + 3 * y) x).rotateLeft (rho (x + 3 * y) x))
/-- χ: each lane takes up the two beside it. -/
def chi (a : Lanes) : Lanes := byLane (fun x y => lane a x y ^^^ (~~~ lane a (x + 1) y &&& lane a (x + 2) y))
/-- One step of the register that ι draws its bits from: eight bits, fed back into bits 0, 4, 5 and 6. -/
def iotaStep (r : BitVec 8) : BitVec 8 := let c := r.getLsbD 7; (r <<< 1) ^^^ (if c then 0x71 else 0)
/-- The constant of a round, and the register after it: its seven bits stand at the places 2^j - 1. -/
def iotaWord : Nat → Nat → BitVec 8 → BitVec 64 × BitVec 8
  | 0, _, r => (0, r)
  | k + 1, j, r =>
    let (w, r') := iotaWord k (j + 1) (iotaStep r)
    (w ||| (if r.getLsbD 0 then 1#64 <<< (2 ^ j - 1) else 0), r')
def keccakRound (a : Lanes) (rc : BitVec 64) : Lanes :=
  match chi (rhoPi (theta a)) with | x :: r => (x ^^^ rc) :: r | [] => []
/-- The rounds, each with the constant that the register gives it. -/
def keccakRounds : Nat → BitVec 8 → Lanes → Lanes
  | 0, _, a => a
  | k + 1, r, a => let (rc, r') := iotaWord 7 0 r; keccakRounds k r' (keccakRound a rc)
def keccakF (a : Lanes) : Lanes := keccakRounds 24 1 a
/-- Eight bytes as a lane, the first lowest. -/
def laneOf (b : List Byte) : BitVec 64 := BitVec.ofNat 64 (leOfBytes b)
/-- One block of 136 bytes goes into the state. -/
def absorb (a : Lanes) (block : List Byte) : Lanes :=
  keccakF (byLane (fun x y => let i := 5 * y + x; lane a x y ^^^ (if i < 17 then laneOf ((block.drop (8 * i)).take 8) else 0)))
/-- The bytes with the domain's first bits behind them, and the last bit of the last block set. -/
def padded (suffix : Nat) (bs : List Byte) : List Byte :=
  let n := 136 - bs.length % 136
  bs ++ (if n = 1 then bytesOfLE 1 (suffix + 128) else bytesOfLE 1 suffix ++ List.replicate (n - 2) 0 ++ [0x80])
/-- The blocks of the padded bytes, absorbed in turn. -/
def absorbAll : Nat → List Byte → Lanes → Lanes
  | 0, _, a => a
  | k + 1, bs, a => absorbAll k (bs.drop 136) (absorb a (bs.take 136))
def sponge (suffix : Nat) (bs : List Byte) : Lanes :=
  let p := padded suffix bs
  absorbAll (p.length / 136) p (List.replicate 25 0)
/-- The first lanes of the state as a number, lowest byte first. -/
def squeeze (a : Lanes) (lanes : Nat) : Nat := (a.take lanes).foldr (fun x n => x.toNat + 2 ^ 64 * n) 0
/-- SHA3-256 of some bytes, its 32 bytes little-endian. -/
def sha3 (bs : List Byte) : BitVec 256 := BitVec.ofNat 256 (squeeze (sponge 0x06 bs) 4)
/-- The first 64 bytes of SHAKE256. -/
def shake512 (bs : List Byte) : BitVec 512 := BitVec.ofNat 512 (squeeze (sponge 0x1F bs) 8)

-- KMAC256 (R385), as SP 800-185 defines it.

/-- A length in bits, its number of bytes ahead of it. -/
def leftEncode (n : Nat) : List Byte :=
  let len := if n < 256 then 1 else if n < 65536 then 2 else 3
  bytesOfLE 1 len ++ (bytesOfLE len n).reverse
/-- A string behind its length, and a run of them, as long as whole blocks after the block length. -/
def encodeString (b : List Byte) : List Byte := leftEncode (8 * b.length) ++ b
def bytepad (b : List Byte) : List Byte :=
  let x := leftEncode 136 ++ b
  x ++ List.replicate ((136 - x.length % 136) % 136) 0
/-- The tag of 16 bytes of a message under a key, without a customization string. -/
def kmac256 (key : BitVec 256) (msg : List Byte) : BitVec 128 :=
  let name : List Byte := [0x4B, 0x4D, 0x41, 0x43]
  let x := bytepad (encodeString name ++ encodeString []) ++ bytepad (encodeString (bytesOfLE 32 key.toNat))
    ++ msg ++ (bytesOfLE 1 128 ++ bytesOfLE 1 1)
  BitVec.ofNat 128 (squeeze (sponge 0x04 x) 2)

end Sys2Proof.Machine
end

