-- ==== Sys2Proof/Machine/Ops.lean ====
section
/-! DEFINITION. The shared operations over the state: accessors, registers, sequential flow and jumps (R89, R90), charges
(R290), event records (R375), exception counters (R70 to R72), the end of tasks (R195, R304), taking a trap (R303) and
returning from one (R306). -/

namespace Sys2Proof.Machine

-- Accessors. A piece of state that is not listed has its reset value.

def keyOf (r : SeqRef) : Nat := r.slot * 2 + (if r.x then 1 else 0)

def State.seq (s : State) (r : SeqRef) : Seq := tblGetD s.seqs (keyOf r) {}
def State.setSeq (s : State) (r : SeqRef) (q : Seq) : State := { s with seqs := tblSet s.seqs (keyOf r) q }
/-- The sequencer whose instruction runs (log 15). -/
def State.q (s : State) : Seq := s.seq s.cur
def State.setQ (s : State) (q : Seq) : State := s.setSeq s.cur q
def State.slot (s : State) (k : Nat) : Slot := tblGetD s.slots k {}
def State.setSlot (s : State) (k : Nat) (t : Slot) : State := { s with slots := tblSet s.slots k t }
/-- The slot of the sequencer that runs. -/
def State.sl (s : State) : Slot := s.slot s.cur.slot
def State.setSl (s : State) (t : Slot) : State := s.setSlot s.cur.slot t
def State.core (s : State) (c : Nat) : Core := tblGetD s.cores c {}
def State.setCore (s : State) (c : Nat) (v : Core) : State := { s with cores := tblSet s.cores c v }
def State.die (s : State) (d : Nat) : Die := tblGetD s.dies d {}
def State.setDie (s : State) (d : Nat) (v : Die) : State := { s with dies := tblSet s.dies d v }
def State.ctx (s : State) (c : Nat) : Ctx := tblGetD s.ctxs c {}
def State.setCtx (s : State) (c : Nat) (v : Ctx) : State := { s with ctxs := tblSet s.ctxs c v }
def State.grp (s : State) (g : Nat) : Option Grp := tblGet s.grps g
def State.setGrp (s : State) (g : Nat) (v : Grp) : State := { s with grps := tblSet s.grps g v }

/-- The context, launch and group of the task in a slot; context 0 and none for a slot without a task. -/
def Slot.ctxOf (t : Slot) : Nat := match t.task with | some k => k.ctx | none => 0
def Slot.grpOf (t : Slot) : Nat := match t.task with | some k => k.grp | none => 0
def State.cx (s : State) : Nat := s.sl.ctxOf
def State.cxv (s : State) : Ctx := s.ctx s.cx
def coreOf (slot : Nat) : Nat := slot / 4
def dieOf (core : Nat) : Nat := core / 32
def State.nDies (s : State) : Nat := if s.vond8 then 8 else 4
def State.nStacks (s : State) : Nat := if s.vond8 then 16 else 8
def State.nPorts (s : State) : Nat := if s.vond8 then 128 else 64
def State.nEth (s : State) : Nat := if s.vond8 then 8 else 4

-- Registers of a sequencer (R74).

def Seq.s (q : Seq) (r : SReg) : Word := if r = 0 then 0 else tblGetD q.regs r.toNat 0
def Seq.setS (q : Seq) (r : SReg) (v : Word) : Seq :=
  if r = 0 then q else { q with regs := tblPut q.regs r.toNat 0 v }
def Seq.p (q : Seq) (r : PReg) : Bool := if r = 0 then true else q.preds.getLsbD r.toNat
def Seq.setP (q : Seq) (r : PReg) (v : Bool) : Seq :=
  if r = 0 then q
  else { q with preds := (q.preds &&& ~~~((1 : BitVec 8) <<< r.toNat)) ||| ((if v then 1 else 0) <<< r.toNat) }
def Seq.h (q : Seq) (r : HReg) : BitVec 256 := tblGetD q.handles r.toNat 0
def Seq.setH (q : Seq) (r : HReg) (v : BitVec 256) : Seq := { q with handles := tblPut q.handles r.toNat 0 v }
/-- The guard of a word (R23). -/
def Seq.guard (q : Seq) (g : Guard) : Bool := q.p g.pred != g.neg

-- Loops and flow (R88 to R91).

def Seq.loopAt (q : Seq) (n : Nat) : Loop := tblGetD q.loops n {}
def Seq.setLoop (q : Seq) (n : Nat) (l : Loop) : Seq := { q with loops := tblPut q.loops n {} l }
def loopActive (l : Loop) : Bool := l.depth != 0
def inLoop (l : Loop) (a : Word) : Bool := loopActive l && l.start.ule a && a.ult l.fin
/-- A captured word stays while some active loop's body holds it (R89). -/
def Seq.prune (q : Seq) : Seq :=
  { q with loopBuf := q.loopBuf.filter (fun e =>
      [0, 1, 2].any (fun n => inLoop (q.loopAt n) (BitVec.ofNat 64 e.1))) }
/-- The active loop with the greatest depth; among equal depths the higher counter (R89). -/
def Seq.deepest (q : Seq) : Option Nat :=
  [0, 1, 2].foldl (fun best n =>
    if loopActive (q.loopAt n) then
      match best with
      | none => some n
      | some b => if (q.loopAt b).depth.ule (q.loopAt n).depth then some n else best
    else best) none

/-- End-of-body processing at the address `next` (R89). -/
def Seq.flow : Nat → Seq → Word → Seq
  | 0, q, next => { q with pc := next }
  | k + 1, q, next =>
    match q.deepest with
    | none => { q with pc := next }
    | some n =>
      let l := q.loopAt n
      if next != l.fin then { q with pc := next }
      else
        let c := l.count - 1
        if c != 0 then { q.setLoop n { l with count := c } with pc := l.start }
        else Seq.flow k (q.setLoop n { l with count := c, depth := 0 }).prune next

/-- Sequential flow over `n` bytes; without end-of-body processing inside a handler (R89, R90, R303). -/
def Seq.advance (q : Seq) (n : Nat) : Seq :=
  let next := q.pc + BitVec.ofNat 64 n
  if q.intrap then { q with pc := next } else Seq.flow 4 q next

/-- A taken control transfer ends every active loop that does not hold the target (R90). -/
def Seq.jump (q : Seq) (t : Word) : Seq :=
  let close (q : Seq) (n : Nat) : Seq :=
    let l := q.loopAt n
    if loopActive l && !(inLoop l t) then (q.setLoop n { l with depth := 0 }).prune else q
  { [0, 1, 2].foldl close q with pc := t }

/-- Nanoseconds that have passed on the package: what lasts a time lasts it on this count, of which neither the step of TIME nor
its slewing is a part (R376). Slots, period edges, WAITT and LOCKEND follow TIME. -/
def State.now (s : State) : Word := s.clk.time - s.clk.jump

-- Free values (log 16).

def State.draw (s : State) : Word × State := (Config.freeWord s.freeCtr, { s with freeCtr := s.freeCtr + 1 })

-- Semaphores (R208, R211).

def Ctx.sem (c : Ctx) (k : Nat) : Sem := tblGetD c.sems k {}
def Ctx.setSem (c : Ctx) (k : Nat) (m : Sem) : Ctx := { c with sems := tblPut c.sems k {} m }
def passes (count thr : BitVec 16) : Bool := !(count - thr).msb
def State.sem (s : State) (c k : Nat) : Sem := (s.ctx c).sem k
def State.setSem (s : State) (c k : Nat) (m : Sem) : State := s.setCtx c ((s.ctx c).setSem k m)
/-- A signal: COUNT rises, POISON and CAUSE stay (R212, R218). -/
def State.signal (s : State) (c k : Nat) (inc : BitVec 16) : State :=
  let m := s.sem c k
  s.setSem c k { m with count := m.count + inc }
/-- Poisoning: the first cause stays, COUNT stands (R216). -/
def State.poison (s : State) (c k : Nat) (cause : Nat) : State :=
  let m := s.sem c k
  if m.poison then s else s.setSem c k { m with poison := true, cause := BitVec.ofNat 8 cause }

-- Event records (R375).

def leBytesN (n v : Nat) : List Byte := bytesOfLE n v

/-- The 64 bytes of an event record (R375). -/
def Event.record (e : Event) (eseq : Nat) : List Byte :=
  bytesOfLE 1 e.typ ++ [0] ++ bytesOfLE 2 e.ctx ++ bytesOfLE 4 eseq ++ bytesOfLE 8 e.time.toNat
    ++ (e.payload ++ List.replicate 48 0).take 48
/-- A record goes to the ring (R375). -/
def State.session (s : State) (n : Nat) : Option Session := tblGet s.eth.sessions n
/-- The tag of a frame of a session (R385). -/
def State.tagOf (s : State) (sess : Nat) (frame : List Byte) : BitVec 128 :=
  kmac256 (match s.session sess with | some v => v.key | none => 0) frame
def State.ringPut (s : State) (r : Ring) (eseq : Nat) (e : Event) : Out :=
  .event r.sess (r.base + BitVec.ofNat 64 (64 * (eseq % r.nev))) (e.record eseq) r.prod eseq (s.tagOf r.sess (e.record eseq))
def State.emit (s : State) (typ ctx : Nat) (payload : List Byte) : State :=
  let e : Event := { typ := typ, ctx := ctx, time := s.clk.time, payload := payload }
  let room := match s.eth.ring with
    | none => none
    | some r => if s.eth.eseq - r.seen < r.nev && s.eth.waitEnds.isEmpty then some r else none
  let drop := { s with preg := { s.preg with evdrop :=
    if s.preg.evdrop = 0xFFFFFFFF then s.preg.evdrop else s.preg.evdrop + 1 } }
  match room with
  | some r => { s with out := s.out ++ [s.ringPut r s.eth.eseq e], eth := { s.eth with eseq := s.eth.eseq + 1 } }
  | none =>
    if typ = 1 then
      (if s.eth.waitEnds.length < 4096 then { s with eth := { s.eth with waitEnds := s.eth.waitEnds ++ [e] } } else drop)
    else drop

/-- The answer to the command of a session with a TAG: the TAG, the status and the data, with the tag of these bytes (R371, R385). -/
def State.answerTo (s : State) (sess : Nat) (tag : BitVec 32) (status : Nat) (data : List Byte := []) : State :=
  { s with out := s.out ++ [.answer sess tag status data (s.tagOf sess (bytesOfLE 4 tag.toNat ++ bytesOfLE 1 status ++ data))] }
def State.answer (s : State) (h : Cmd) (status : Nat) (data : List Byte := []) : State := s.answerTo h.sess h.tag status data
/-- A frame carries the tag that its session's key gives (R370, R385). -/
def State.authentic (s : State) (h : Cmd) : Bool := (s.session h.sess).isSome && h.mac == s.tagOf h.sess h.body

-- Gauges (R287, R290). Resources: 0 MX, 1 VX, 2 AE, 3 CX, 4 HBM, 5 fabric, 6 Ethernet.

def acctKey (res inst : Nat) : Nat := res * 65536 + inst
def Ctx.acct (c : Ctx) (res inst : Nat) : Acct := tblGetD c.accts (acctKey res inst) {}
/-- A charge: on AVAIL while it is positive, else on LOUSED where the context may use leftover and leftover remains, else on
AVAIL (R290). What starts has been found to start, so that leftover remains unless it is said that it does not. -/
def Ctx.charge (c : Ctx) (res inst n : Nat) (leftover : Bool := true) : Ctx :=
  let a := c.acct res inst
  let a' := if a.avail ≤ 0 && c.gauge.lo && leftover then { a with loused := a.loused + n }
            else { a with avail := a.avail - n, chg := a.chg + n }
  { c with accts := tblPut c.accts (acctKey res inst) {} a' }
def State.charge (s : State) (ctx res inst n : Nat) (leftover : Bool := true) : State :=
  if n = 0 then s else s.setCtx ctx ((s.ctx ctx).charge res inst n leftover)
/-- Who pays a charge for a task: its context, or the owners of the shared stage node whose task it is, the host taking what is left
over (R358). -/
def State.sharers (s : State) (node : Option Nat) (ctx n : Nat) : List (Nat × Nat) :=
  match node.bind (fun k => tblGet s.graft.stages k) with
  | none => [(ctx, n)]
  | some v =>
    let os := v.owners.filterMap (fun b => (tblGet s.graft.binds b).map (fun (w : Bind) => (b, w.ctx)))
    if os.isEmpty then [(ctx, n)]
    else
      let host := match tblGet s.graft.binds v.host with | some (w : Bind) => w.ctx | none => ctx
      let shares := os.map (fun (e : Nat × Nat) => (e.2, n / os.length + if e.1 = v.host then n % os.length else 0))
      if os.any (fun (e : Nat × Nat) => e.1 == v.host) || n % os.length = 0 then shares else shares ++ [(host, n % os.length)]
/-- The stage node whose task stands in a slot. -/
def State.stageAt (s : State) (slot : Nat) : Option Nat := ((s.slot slot).task.bind (fun t => t.stage)).map (fun e => e.1)
/-- The stage node of the task that runs, for a store of it. -/
def State.storeNode (s : State) (own : Owner) : Option Nat := match own with | .store .. => s.stageAt s.cur.slot | _ => none
/-- Who pays a charge to a context's task in this slot. -/
def State.payers (s : State) (slot ctx n : Nat) : List (Nat × Nat) :=
  if (s.slot slot).ctxOf != ctx then [(ctx, n)] else s.sharers (s.stageAt slot) ctx n
/-- A charge for what a task of this slot does (R290, R358). -/
def State.chargeT (s : State) (slot ctx res inst n : Nat) (leftover : Bool := true) : State :=
  (s.payers slot ctx n).foldl (fun (s : State) (e : Nat × Nat) => s.charge e.1 res inst e.2 leftover) s

/-- The effective priority (R292). -/
def State.eff (s : State) (ctx : Nat) : Nat :=
  let c := s.ctx ctx
  let acc := if c.gang = 0 then 0 else (tblGetD s.shr.selv c.gang.toNat {}).acc
  Nat.min 63 (c.gauge.pri + acc / 4 - c.pen)

-- Exception counters (R70 to R72).

/-- `n` events of counter `i`, applied as one update. A counter that has crossed the threshold crosses again once the threshold is
raised above it: a crossing is a change from below to not below (R72; DESIGN CHOICE, log 32). -/
def State.fxCount (s : State) (ctx i n : Nat) : State :=
  if n = 0 then s else
  let c := s.ctx ctx
  let old := tblGetD c.fxc i 0
  let new := BitVec.ofNat 32 (Nat.min 0xFFFFFFFF (old.toNat + n))
  let c' := { c with fxc := tblPut c.fxc i 0 new }
  if c.fxthr != 0 && old.ult c.fxthr && c.fxthr.ule new then
    (s.setCtx ctx { c' with fx := true }).emit 2 ctx (leBytesN 8 i ++ leBytesN 8 new.toNat)
  else s.setCtx ctx c'

-- Translation tables (R170, R171).

/-- A leaf of the tables: the physical address of the byte, the page's first virtual address, and the entry's fields. -/
structure Leaf where
  pa   : Nat
  page : Nat
  size : Nat
  key  : Nat
  r    : Bool
  w    : Bool
  x    : Bool
  deriving DecidableEq, Repr

def entAddr (e : Nat) : Nat := (e / 2 ^ 8 % 2 ^ 44) * 256
def entOk (e : Nat) : Bool := e % 2 == 1 && e / 2 ^ 63 == 0 && e / 2 ^ 5 % 8 == 0
def entLeaf (e : Nat) : Bool := e / 2 % 2 == 1
def entKey (e : Nat) : Nat := e / 2 ^ 52 % 2048
/-- A non-leaf entry whose table is aligned to `al`. -/
def entTable (e al : Nat) : Option Nat :=
  if entOk e && !entLeaf e && entKey e == 0 && entAddr e % al == 0 then some (entAddr e) else none
def entPage (e va size : Nat) : Option Leaf :=
  if entOk e && entLeaf e && entAddr e % size == 0 then
    some { pa := entAddr e + va % size, page := va / size * size, size := size, key := entKey e,
           r := e / 4 % 2 == 1, w := e / 8 % 2 == 1, x := e / 16 % 2 == 1 }
  else none

/-- The four-level walk of an address space (R171). -/
def State.walk (s : State) (asid : Nat) (va : Nat) : Option Leaf :=
  let rd (t i : Nat) : Nat := s.mem.hbm.readLE (t + 8 * i) 8
  match tblGet s.mem.roots asid with
  | none => none
  | some root =>
    match entTable (rd root.toNat (va / 2 ^ 39 % 512)) 4096 with
    | none => none
    | some t2 =>
      match entTable (rd t2 (va / 2 ^ 30 % 512)) 4096 with
      | none => none
      | some t1 =>
        let e1 := rd t1 (va / 2 ^ 21 % 512)
        if entLeaf e1 then entPage e1 va (2 ^ 21)
        else
          match entTable e1 256 with
          | none => none
          | some t0 => entPage (rd t0 (va / 2 ^ 16 % 32)) va (2 ^ 16)

/-- The addresses of the entries that it reads, in its order. -/
def State.walkReads (s : State) (asid : Nat) (va : Nat) : List Nat :=
  let rd (a : Nat) : Nat := s.mem.hbm.readLE a 8
  match tblGet s.mem.roots asid with
  | none => []
  | some root =>
    let a3 := root.toNat + 8 * (va / 2 ^ 39 % 512)
    a3 :: match entTable (rd a3) 4096 with
    | none => []
    | some t2 =>
      let a2 := t2 + 8 * (va / 2 ^ 30 % 512)
      a2 :: match entTable (rd a2) 4096 with
      | none => []
      | some t1 =>
        let a1 := t1 + 8 * (va / 2 ^ 21 % 512)
        a1 :: if entLeaf (rd a1) then [] else match entTable (rd a1) 256 with
          | none => []
          | some t0 => [t0 + 8 * (va / 2 ^ 16 % 32)]

/-- The name of a page in the pin table. -/
def pageId (asid page : Nat) : Nat := asid * 2 ^ 32 + page / 65536

-- Pins (R173, R174).

/-- The key slot that a pinned page names. -/
def State.pinKey (s : State) (p : Nat) : Option Nat := (s.walk (p / 2 ^ 32) (p % 2 ^ 32 * 65536)).map Leaf.key
/-- Dying keys that no pinned page names any more are zeroed, each with an event record (R383). -/
def State.settleKeys (s : State) : State :=
  let dying := s.mem.keys.filter (fun e => e.2.dying)
  if dying.isEmpty then s else
  let held := s.mem.pins.filterMap (fun e => s.pinKey e.1)
  let gone := (dying.map (·.1)).filter (fun k => !held.contains k)
  gone.foldl (fun s k => ({ s with mem := { s.mem with keys := tblErase s.mem.keys k } }).emit 7 0xFFFF (leBytesN 8 k)) s
def State.unpin (s : State) (pages : List Nat) : State :=
  if pages.isEmpty then s else
  ({ s with mem := { s.mem with
      pins := pages.foldl (fun t p => tblPut t p 0 (tblGetD t p 0 - 1)) s.mem.pins } }).settleKeys
def State.pin (s : State) (pages : List Nat) : State :=
  { s with mem := { s.mem with pins := pages.foldl (fun t p => tblPut t p 0 (tblGetD t p 0 + 1)) s.mem.pins } }

/-- The pins that an ENQ holds while it waits for a place (R45). -/
def Seq.heldPins (q : Seq) : List Nat :=
  match q.wait with | some w => (match w.held with | some r => r.pins | none => []) | none => []

-- Queues and running records of a slot.

def Slot.queue (t : Slot) : Eng → List QRec
  | .mx => t.qmx | .vx => t.qvx | .cx => t.qcx | .ae => t.qae
def Slot.setQueue (t : Slot) (e : Eng) (q : List QRec) : Slot :=
  match e with
  | .mx => { t with qmx := q } | .vx => { t with qvx := q } | .cx => { t with qcx := q } | .ae => { t with qae := q }
def Slot.run (t : Slot) : Eng → Option Run
  | .mx => t.rmx | .vx => t.rvx | .cx => none | .ae => t.rae
def Slot.setRun (t : Slot) (e : Eng) (r : Option Run) : Slot :=
  match e with
  | .mx => { t with rmx := r } | .vx => { t with rvx := r } | .cx => t | .ae => { t with rae := r }
/-- The slots of a core in rising order. -/
def coreSlots (core : Nat) : List Nat := [4 * core, 4 * core + 1, 4 * core + 2, 4 * core + 3]
def State.avail (s : State) (ctx res inst : Nat) : Bool := decide (0 < ((s.ctx ctx).acct res inst).avail)
def State.ctxAt (s : State) (k : Nat) : Nat := (s.slot k).ctxOf
/-- The resource that an engine draws on (R287). -/
def engRes : Eng → Nat
  | .mx => 0 | .vx => 1 | .ae => 2 | .cx => 3
/-- A running MX or VX record has an issue that can be performed: it is not done, and its fetched data are staged (R161). -/
def Run.ready (r : Run) : Bool := !r.done && decide (r.next < r.staged)
/-- The slots of a core whose MX or VX record has an issue ready. -/
def State.readySlots (s : State) (e : Eng) (core : Nat) : List Nat :=
  (coreSlots core).filter (fun k => match (s.slot k).run e with | some r => r.ready | none => false)
/-- Messages for a context that is not resident, or whose save has begun, are stashed or refused (R286, R296). -/
def Ctx.present (c : Ctx) : Bool := c.resident && !c.saving

-- Reductions without reducers (R326).

/-- The number under which a core's service queues stand beside its slots. -/
def svcSlot (core : Nat) : Nat := 65536 + core
/-- The jobs of a slot's queues, or of the service queues, in their order; those of a context that is not here rest, but for its
stash entries, whose work precedes its return (R298). -/
def State.redJobs (s : State) (core : Nat) (slot : Option Nat) : List RedJob :=
  (s.core core).red.filter (fun j => j.home.map (fun h => h.1) == slot &&
    (match j.key with | .stash .. => true | _ => (s.ctx j.ctx).present))
/-- The job whose issue of CX or VX comes next: CX copies what arrives, in order, and VX reduces what has been copied. -/
def State.redHead (s : State) (e : Eng) (core : Nat) (slot : Option Nat) : Option RedJob :=
  let js := s.redJobs core slot
  match e with
  | .cx => js.find? (fun j => !j.copied)
  | .vx => js.head?.filter (fun j => j.copied)
  | _ => none
/-- No record of the slot stands before what comes behind its own records. -/
def Slot.through (t : Slot) (e : Eng) : Bool := (t.queue e).isEmpty && (match t.run e with | some r => r.done | none => true)
/-- The slots of a core whose jobs have an issue ready, and the service queues. -/
def State.redReady (s : State) (e : Eng) (core : Nat) : List Nat :=
  if (s.core core).red.isEmpty then [] else
  (coreSlots core).filter (fun k => (s.slot k).through e && (s.redHead e core (some k)).isSome) ++
    (if !(s.core core).waking && (s.redHead e core none).isSome then [svcSlot core] else [])
/-- The slots of a core for which the engine has an issue of a record or of a job ready, in rising order. -/
def State.servable (s : State) (e : Eng) (core : Nat) : List Nat :=
  let a := s.readySlots e core; let b := s.redReady e core
  if b.isEmpty then a else (coreSlots core ++ [svcSlot core]).filter (fun k => a.contains k || b.contains k)
/-- The context that a slot, or the head of the service queues, is of; when an engine served it last (R13). -/
def State.ctxFor (s : State) (e : Eng) (k : Nat) : Nat :=
  if k < 65536 then s.ctxAt k else match s.redHead e (k - 65536) none with | some j => j.ctx | none => 0
/-- Leftover cycles of MX or VX remain on a core: no slot of a context in reservation has an issue ready (R290). -/
def State.engLeftover (s : State) (e : Eng) (core : Nat) : Bool :=
  !(s.servable e core).any (fun k => s.avail (s.ctxFor e k) (engRes e) core)
/-- The channels of a slot's core that run a record of the slot. -/
def State.channelsOf (s : State) (slot : Nat) : List (Nat × Run) :=
  ((s.core (coreOf slot)).ch).filter (fun e => e.2.q.who.slot == slot)
/-- Every record of the slot, queued or running. -/
def State.recordsOf (s : State) (slot : Nat) : List QRec :=
  let t := s.slot slot
  t.qmx ++ t.qvx ++ t.qcx ++ t.qae ++ ([t.rmx, t.rvx, t.rae].filterMap id ++ t.landing).map Run.q
    ++ (s.channelsOf slot).map (fun e => e.2.q)
/-- These, and the records that an ENQ of the slot has captured and checked and that wait for pins or a place (R45, R119, R173). -/
def State.takenOf (s : State) (slot : Nat) : List QRec :=
  let held (r : SeqRef) : List QRec := match (s.seq r).wait with | some w => w.held.toList | none => []
  s.recordsOf slot ++ held { slot := slot, x := false } ++ held { slot := slot, x := true }
/-- No record of the slot is running (R300 QUIET). -/
def State.quiet (s : State) (slot : Nat) : Bool :=
  let t := s.slot slot
  t.rmx.isNone && t.rvx.isNone && t.rae.isNone && t.landing.isEmpty && (s.channelsOf slot).isEmpty

/-- The descriptors of a record (R38): D, A, B, C. -/
def descD (r : BitVec 512) : BitVec 88 := r.extractLsb' 128 88
def descA (r : BitVec 512) : BitVec 88 := r.extractLsb' 216 88
def descB (r : BitVec 512) : BitVec 88 := r.extractLsb' 304 88
def descC (r : BitVec 512) : BitVec 88 := r.extractLsb' 392 88
def descs (r : BitVec 512) : List (BitVec 88) := [descD r, descA r, descB r, descC r]
def dSpace (d : BitVec 88) : Nat := (d.extractLsb' 20 4).toNat
def dOff (d : BitVec 88) : Nat := (d.extractLsb' 0 20).toNat
def namesTile (q : QRec) : Bool := (descs q.r).any (fun d => dSpace d == 0xC)

-- Spinning (R294).

def seqA (k : Nat) : SeqRef := { slot := k, x := false }
def seqX (k : Nat) : SeqRef := { slot := k, x := true }
/-- `n` quarter cycles of spinning: each multiple of the limit that the counter reaches raises PEN by 1, up to 15. -/
def State.spinAdd (s : State) (k n : Nat) : State :=
  let t := s.slot k
  let c := s.ctx t.ctxOf
  let l := c.spinlim.toNat
  if l = 0 then s
  else
    let sum := 4 * t.spincnt + t.spinFrac + n
    let s := s.setSlot k { t with spincnt := sum / 4, spinFrac := sum % 4 }
    s.setCtx t.ctxOf { c with pen := Nat.min 15 (c.pen + (sum / 4 / l - t.spincnt / l)) }
/-- The cycles that a PAUSE lasts at most (R239). -/
def Seq.pauseCycles (q : Seq) (a : SReg) : Nat := Nat.min (q.s a).toNat 1048576
/-- Quarter cycles in a ns of the clock of a slot's core: 2.5 GHz (R7), and 1.25 GHz while its die is in THROTTLE (R400). -/
def State.pace (s : State) (k : Nat) : Nat := if (s.die (dieOf (coreOf k))).therm = .throttle then 5 else 10
/-- The quarter cycles that a sequencer has waited in POLL or PAUSE since they were last counted. -/
def Seq.spun (q : Seq) (pace : Nat) (now : Word) : Nat :=
  match q.wait with
  | some { ins := .poll .., since := u, upto := v, .. } => pace * (now - v.getD u).toNat
  | some { ins := .pause _ a, since := u, upto := v, seen := n, .. } =>
    Nat.min (4 * q.pauseCycles a - n) (pace * (now - v.getD u).toNat)
  | _ => 0
/-- They are counted now. -/
def Seq.counted (q : Seq) (pace : Nat) (now : Word) : Seq :=
  { q with wait := q.wait.map (fun w => { w with seen := w.seen + q.spun pace now, upto := some now }) }
/-- The cycles in which either sequencer of a slot has waited in POLL or PAUSE are counted up to now. That happens whenever such
a wait begins or ends, so that what is not counted yet of two waits ends and begins together. -/
def State.spinAccrue (s : State) (k : Nat) : State :=
  let a := s.seq (seqA k); let x := s.seq (seqX k)
  let p := s.pace k
  let n := Nat.max (a.spun p s.now) (x.spun p s.now)
  if n = 0 then s else ((s.setSeq (seqA k) (a.counted p s.now)).setSeq (seqX k) (x.counted p s.now)).spinAdd k n
/-- Every slot's counter is brought up to now, so that PEN stands as of now. -/
def State.spinAll (s : State) : State := s.slots.foldl (fun (s : State) (e : Nat × Slot) => s.spinAccrue e.1) s
/-- A passing POLL or SEMTRY clears the penalty and its own slot's counter (R294). -/
def State.spinClear (s : State) (k : Nat) : State :=
  let s := s.spinAll
  let t := s.slot k
  let s := s.setSlot k { t with spincnt := 0, spinFrac := 0 }
  s.setCtx t.ctxOf { s.ctx t.ctxOf with pen := 0 }

-- The end of a scope, a task, a slot, a group.

/-- The scope's clusters return to the pool and VMODE is cleared (R118). -/
def Slot.closeScope (t : Slot) : Slot := { t with scope := none, vuse := 0 }
/-- Unused edge reservations of a task lapse (R199). -/
def lapse (l : Launch) (rs : List (Nat × Bool)) : Launch :=
  { l with edges := rs.foldl (fun t r => match tblGet t r.1 with
      | none => t
      | some e => tblSet t r.1 (if r.2 then { e with resF := e.resF - 1 } else { e with resI := e.resI - 1 })) l.edges }
/-- Do the spawned tasks that wait in the launch's queues include one that would join this group (R197)? -/
def awaited (l : Launch) (g : Grp) : Bool :=
  l.tqs.any (fun e => e.2.items.any (fun sp => sp.idx.isSuffixOf g.idx))
/-- A binding of the launch may still start stage tasks in this group (R357, R359). -/
def State.bound (s : State) (l : Launch) (g : Grp) : Bool :=
  s.graft.binds.any (fun (e : Nat × Bind) => e.2.ctx == g.ctx && e.2.launch == l.serial && e.2.idx.isSuffixOf g.idx)
/-- A core with no task and no queued record becomes IDLE (R203); a record in its service queues counts as a task (R326). -/
def State.settleCore (s : State) (c : Nat) : State :=
  let v := s.core c
  let busy := [0, 1, 2, 3].any (fun k => ((s.slot (4 * c + k)).task).isSome) || v.red.any (fun j => j.home.isNone)
  if !busy && v.power == .on then s.setCore c { v with power := .idle, since := s.now } else s
/-- A group ends when its tasks and every task spawned into it have ended; its banks and MX return to the pools (R99, R146,
R195), its core may be idle (R203), and the DS of its die where the launch has no unfinished group left there, placed or saved (R109). A launch that is
already ending waits for no task that has not started. -/
def State.settleGrp (s : State) (gid : Nat) : State :=
  match s.grp gid with
  | none => s
  | some g =>
    let c := s.ctx g.ctx
    match c.launch with
    | none => s
    | some l =>
      let idle := g.live == 0 && (l.ending.isSome || (g.nextTask == g.nTasks && !awaited l g && !s.bound l g))
      if !idle then s
      else
        let core := s.core g.core
        let s := { s with grps := tblErase s.grps gid }
        let s := if core.mxGrp = some gid then s.setCore g.core { core with mxGrp := none } else s
        let dsGone := !s.grps.any (fun e => e.2.ctx == g.ctx && e.2.vdie == g.vdie)
          && !c.savedGrps.any (fun e => e.grp.vdie == g.vdie)
        let l' := { l with ended := l.ended + 1, ds := if dsGone then tblErase l.ds g.vdie else l.ds }
        (s.setCtx g.ctx { c with launch := some l' }).settleCore g.core
/-- The save of a victim begins (R286). -/
def State.beginSave (s : State) (ctx : Nat) : State :=
  let c := s.ctx ctx
  if c.leaving && !c.saving then s.setCtx ctx { c with saving := true } else s
/-- A group none of whose tasks runs leaves its core: banks and formats with it, the MX state beside it (R100, R147). -/
def State.saveGrp (s : State) (gid : Nat) : State :=
  match s.grp gid with
  | none => s
  | some g =>
    if s.slots.any (fun e => match e.2.task with | some t => t.grp == gid | none => false) then s
    else
      let c := s.core g.core
      let holds := c.mxGrp = some gid
      let sv : SavedGrp := if holds then
          { key := gid, grp := g, plane0 := c.plane0, plane1 := c.plane1, active := c.active, acc := c.acc }
        else { key := gid, grp := g }
      let s := { s with grps := tblErase s.grps gid }
      let s := if holds then s.setCore g.core { c with mxGrp := none } else s
      let s := s.beginSave g.ctx
      let x := s.ctx g.ctx
      (s.setCtx g.ctx { x with savedGrps := x.savedGrps ++ [sv] }).settleCore g.core

/-- A victim whose groups are all saved is resident no longer; its waiting state stays with it (R286). -/
def State.settleCtx (s : State) (ctx : Nat) : State :=
  let c := s.ctx ctx
  if c.leaving && !(s.grps.any (fun e => e.2.ctx == ctx)) then
    s.setCtx ctx { c with leaving := false, saving := false, resident := false }
  else s

/-- A task of the context has gone: where the context leaves, its group may be saved now, and the context with it (R147, R286). -/
def State.departs (s : State) (ctx gid : Nat) : State :=
  if (s.ctx ctx).leaving then (s.saveGrp gid).settleCtx ctx else s
/-- A number and the members of a list that follow it without a gap. -/
def runOn : Nat → Nat → List Nat → Nat × List Nat
  | 0, n, l => (n, l)
  | f + 1, n, l => if l.contains n then runOn f (n + 1) (l.filter (· != n)) else (n, l)
/-- The task of a stage node for an item has ended by itself (R357). -/
def StageNode.finish (v : StageNode) (j : Nat) : StageNode :=
  let (n, l) := runOn (v.finAhead.length + 1) v.fin (j :: v.finAhead)
  { v with fin := n, finAhead := l }
def State.stageEnd (s : State) (t : Task) : State :=
  match t.stage with
  | some (nd, j) => if t.cut then s else { s with graft := { s.graft with stages := tblModify s.graft.stages nd (fun v => v.finish j) } }
  | none => s
/-- A slot whose task has ended becomes free once every record it enqueued has retired (R195); its scope closes when none is
left that names a tile register (R118). -/
def State.settleSlot (s : State) (k : Nat) : State :=
  let t := s.slot k
  match t.task with
  | none => s
  | some tk =>
    if tk.ended && (s.recordsOf k).isEmpty then
      let s := (s.setSlot k { gen := t.gen + 1 }).stageEnd tk
      let s := match s.grp tk.grp with
        | some g => s.setGrp tk.grp { g with live := g.live - 1, since := s.now }
        | none => s
      ((s.settleGrp tk.grp).settleCore (coreOf k)).departs tk.ctx tk.grp
    else if tk.ended && !(s.recordsOf k).any namesTile then s.setSlot k t.closeScope
    else s
/-- The task of a slot has ended: queues discarded, reservations lapsed, its duration noted, its scope closed as SCOPEC closes
it (R118, R195, R203). -/
def State.endTask (s : State) (k : Nat) : State :=
  let t := s.slot k
  match t.task with
  | none => s
  | some tk =>
    if tk.ended then s else
    let c := s.ctx tk.ctx
    let dur := (s.now - tk.start).toNat
    let l := c.launch.map (fun l => { lapse l tk.resv with durs := (dur :: l.durs).take 16 })
    let s := s.setCtx tk.ctx { c with launch := l }
    let tk' := { tk with ended := true, resv := [] }
    let t' := { (if (s.recordsOf k).any namesTile then t else t.closeScope) with
      task := some tk', aq0 := [], aq1 := [], aq2 := [], aq3 := [],
      lockend := 0, preReq := false, stopReq := false, haltReq := false }
    (s.setSlot k t').settleSlot k

/-- Both sequencers of a slot stop, and its unstarted records are discarded, their pins released, nothing signalled or
poisoned (R304). -/
def State.stopTask (s : State) (k : Nat) : State :=
  let t := s.slot k
  let gone := t.qmx ++ t.qvx ++ t.qcx ++ t.qae
  let s := (s.spinAccrue k)
  let t := s.slot k
  let s := gone.foldl (fun s q => s.unpin q.pins) s
  let s := s.setSlot k { t with qmx := [], qvx := [], qcx := [], qae := [], ahead := [] }
  let c := s.core (coreOf k)
  let s := s.setCore (coreOf k) { c with scopeQ := c.scopeQ.filter (fun e => e.1 != .seq (seqA k) && e.1 != .seq (seqX k)) }
  let s := s.setSlot k { s.slot k with task := (s.slot k).task.map (fun t => { t with cut := true }) }
  let halt (s : State) (r : SeqRef) : State :=
    (s.unpin (s.seq r).heldPins).setSeq r { s.seq r with stopped := true, wait := none, held := [] }
  let s := halt (halt s { slot := k, x := false }) { slot := k, x := true }
  (s.endTask k).settleSlot k

/-- The launch of a context is to end: every task of it stops at its next pre-emption point (R304, R205). The first
reason stands. -/
def State.endLaunchWith (s : State) (ctx code : Nat) (info : EndInfo) : State :=
  let c := s.ctx ctx
  match c.launch with
  | none => s
  | some l =>
    let l' := if l.ending.isSome then l else { l with ending := some (code, info) }
    let s := s.setCtx ctx { c with launch := some l' }
    { s with slots := s.slots.map (fun e => match e.2.task with
        | some tk => if tk.ctx == ctx && !tk.ended then (e.1, { e.2 with stopReq := true }) else e
        | none => e) }

/-- A task ends unhandled (R304). -/
def State.endUnhandled (s : State) (r : SeqRef) (code : Nat) (async : Bool) (epc eval : Word) : State :=
  let t := s.slot r.slot
  let ctx := t.ctxOf
  let cause : BitVec 9 := BitVec.ofNat 9 (code + (if async then 256 else 0))
  let s := s.endLaunchWith ctx 6 { core := coreOf r.slot, slot := r.slot % 4, cause := cause, epc := epc, eval := eval }
  s.stopTask r.slot

/-- Close the locked window of a slot (R95). -/
def State.closeLock (s : State) (k : Nat) : State :=
  let t := s.slot k
  if t.lockend = 0 then s else s.setSlot k { t with lockend := 0 }

/-- Taking a trap (R303): without a handler, or inside one, the task ends unhandled; otherwise the sequencer records where
and why, closes the slot's locked window, and goes to the handler. A machine check that is fatal is never handled (R310). -/
def State.takeTrap (s : State) (r : SeqRef) (code : Nat) (async : Bool) (epc eval : Word) (fatal : Bool := false) : State :=
  let q := s.seq r
  if q.intrap || !q.tvec.getLsbD 0 || fatal then s.endUnhandled r code async epc eval
  else
    let s := s.setSeq r { q with
      epc := epc &&& ~~~7, cause := BitVec.ofNat 9 (code + (if async then 256 else 0)), eval := eval,
      intrap := true, wait := none, timecmp := 0, pc := q.tvec &&& ~~~7 }
    let s := s.closeLock r.slot
    -- a machine check that came due meanwhile now meets INTRAP 1, and is never held (R305)
    match q.held.find? (fun h => h.code == 0x20) with
    | some h => s.endUnhandled r 0x20 true (q.tvec &&& ~~~7) h.eval
    | none => s

/-- A precise trap of the instruction that runs (R302). A machine check also sends its event record (R310). -/
def State.trap (s : State) (t : Trp) : State :=
  let s := if t.code = 0x20 then s.emit 4 s.cx (leBytesN 8 t.eval.toNat) else s
  s.takeTrap s.cur t.code false s.q.pc t.eval
/-- ILL with a sub-cause of R53 and no record word. -/
def State.ill (s : State) (sub : Nat) : State := s.trap { code := 1, eval := BitVec.ofNat 64 (0xFF00 + sub) }

/-- Returning from a handler (R306). -/
def State.eretDo (s : State) : State :=
  let q := s.q
  if !q.intrap then s.trap { code := 2, eval := 0 }
  else s.setQ { q with intrap := false, pc := q.epc &&& ~~~7 }

/-- An asynchronous cause becomes due at a sequencer: it is taken at its next boundary, or held while it is in a handler
(R305, R216). A sequencer that has stopped has no boundary: its task ends unhandled (R216). -/
def State.post (s : State) (r : SeqRef) (code : Nat) (eval : Word) : State :=
  let q := s.seq r
  if q.stopped then
    (match (s.slot r.slot).task with
     | some _ => s.endUnhandled r code true q.tendPc eval
     | none => s)
  else if code = 0x20 && q.intrap then s.endUnhandled r code true q.pc eval
  else s.setSeq r { q with held := q.held ++ [{ code := code, eval := eval }] }

/-- The number of a failed target as R236 names it. -/
def lostPeer (t : Bool × Nat) : Nat := t.2 % 65536

-- The frame of a sequencer instruction.

/-- The step goes on sequentially over `n` bytes. -/
def State.go (s : State) (n : Nat := 8) : State := s.setQ ({ s.q with wait := none }.advance n)
/-- A guarded instruction: with a false guard it has no effect but sequential flow (R23). -/
def State.guarded (s : State) (g : Guard) (f : State → State) (n : Nat := 8) : Host.Outcome State Fault Refusal :=
  .next (if s.q.guard g then f s else s.go n)
/-- A result into a scalar, then sequential flow. -/
def State.ret (s : State) (d : SReg) (v : Word) : State := (s.setQ (s.q.setS d v)).go
def State.retP (s : State) (d : PReg) (v : Bool) : State := (s.setQ (s.q.setP d v)).go
/-- The instruction blocks: it stands as the sequencer's wait and its pc stays (R201, R311). -/
def State.block (s : State) (i : Instr) (tok : Nat := 0) (fin : Word := 0) : State :=
  let same := match s.q.wait with | some w => w.ins == i | none => false
  if same then s else s.setQ { s.q with wait := some { ins := i, tok := tok, fin := fin, since := s.now } }
/-- A sequencer that waits in this kind of instruction, for the rows that complete one. -/
def State.asSeq (s : State) (r : SeqRef) : State := { s with cur := r }

end Sys2Proof.Machine
end

