-- ==== Sys2Proof/Machine/Access.lean ====
section
/-! DEFINITION. The scalar operations on memory: the scratchpad (R97, R98, R111), DS (R109, R111), translation (R170 to
R172, R176, R379), HBM under keys (R381) and under ECC (R310, R396, R413). -/

namespace Sys2Proof.Machine

/-- What an access comes to: a value, a precise trap, or a stall on a stack that is not ready (R396). -/
inductive Acc (α : Type) where
  | ok (a : α)
  | trap (t : Trp)
  | stall
  deriving DecidableEq, Repr

def Acc.bind {α β : Type} (x : Acc α) (f : α → Acc β) : Acc β :=
  match x with | .ok a => f a | .trap t => .trap t | .stall => .stall

/-- The lists of some accesses, one after the other; the first that traps or stalls decides. -/
def Acc.concat {α : Type} (xs : List (Acc (List α))) : Acc (List α) :=
  xs.foldr (fun x r => x.bind fun a => r.bind fun b => .ok (a ++ b)) (.ok [])

def prot (v : Word) : Trp := { code := 5, eval := v }
def alignT (v : Word) : Trp := { code := 3, eval := v }
/-- EVAL of a machine check (R310). -/
def mchkEval (src : Nat) (fatal : Bool) (addr : Nat) : Word :=
  BitVec.ofNat 64 (src * 2 ^ 56 + (if fatal then 2 ^ 55 else 0) + addr % 2 ^ 48)
def mchk (src addr : Nat) : Trp := { code := 0x20, eval := mchkEval src false addr }

/-- The effective address of a format M access (R25). -/
def effAddr (q : Seq) (m : MemOp) : Word := q.s m.base + ((q.s m.index) <<< m.scale.toNat) + m.disp.signExtend 64
def wBytes : Width → Nat
  | .w8 => 1 | .w16 => 2 | .w32 => 4 | .w64 => 8
def aligned (a : Word) (n : Nat) : Bool := a.toNat % n == 0

-- ECC words (R413).

/-- The ECC words of 8 bytes that `n` bytes at `a` touch. -/
def words8 (a n : Nat) : List Nat := (List.range ((a + n - 1) / 8 - a / 8 + 1)).map (fun i => a / 8 + i)
def lines64 (a n : Nat) : List Nat := (List.range ((a + n - 1) / 64 - a / 64 + 1)).map (fun i => a / 64 + i)
def covers (u w a n : Nat) : Bool := decide (a ≤ u * w ∧ u * w + u ≤ a + n)
def State.bad (s : State) (l : UeLoc) : Bool := s.mem.ue.contains l
def State.scrub (s : State) (ls : List UeLoc) : State :=
  if s.mem.ue.isEmpty then s
  else { s with mem := { s.mem with ue := s.mem.ue.filter (fun l => !ls.contains l) } }

/-- Storage that is zeroed or restored is written whole: the errors of its ECC words are gone (R413). -/
def State.scrubWhere (s : State) (p : UeLoc → Bool) : State :=
  if s.mem.ue.isEmpty then s
  else { s with mem := { s.mem with ue := s.mem.ue.filter (fun l => !p l) } }
def ofTile (slot : Nat) (here : Nat → Bool) : UeLoc → Bool
  | .tileWord k w => k == slot && here w
  | _ => false
def ofBank (grp : Nat) : UeLoc → Bool
  | .bankWord g _ _ => g == grp
  | _ => false
def ofDs (ctx vdie : Nat) : UeLoc → Bool
  | .dsWord c v _ => c == ctx && v == vdie
  | _ => false

/-- The first of some ECC words that holds an uncorrectable error. -/
def State.firstBad (s : State) (f : Nat → UeLoc) (ws : List Nat) : Option Nat :=
  if s.mem.ue.isEmpty then none else ws.find? (fun w => s.bad (f w))

-- Scratchpad.

def Grp.bank (g : Grp) (b : Nat) : Memory := tblGetD g.banks b []
def Grp.setBank (g : Grp) (b : Nat) (m : Memory) : Grp := { g with banks := tblPut g.banks b [] m }
def Grp.fmtOf (g : Grp) (b : Nat) : Word := tblGetD g.bfmt b 0
def State.bankMem (s : State) (gid b : Nat) : Memory := match s.grp gid with | some g => g.bank b | none => []
def State.setBankMem (s : State) (gid b : Nat) (m : Memory) : State :=
  match s.grp gid with | some g => s.setGrp gid (g.setBank b m) | none => s
/-- The bank is in the mask of the slot's group (R98). -/
def State.hasBank (s : State) (k b : Nat) : Bool :=
  match s.grp (s.slot k).grpOf with | some g => g.mask.getLsbD b | none => false

/-- An SP address of a slot's task: bank and offset (R97, R111). -/
def State.spAt (s : State) (k : Nat) (a : Word) : Acc (Nat × Nat) :=
  let b := (a.extractLsb' 18 4).toNat
  if a.extractLsb' 22 42 != 0 || decide (11 < b) || !s.hasBank k b then .trap (prot a)
  else .ok (b, (a.extractLsb' 0 18).toNat)

def State.loadSp (s : State) (k : Nat) (a : Word) (n : Nat) : Acc Nat :=
  (s.spAt k a).bind fun (b, o) =>
    let gid := (s.slot k).grpOf
    match s.firstBad (fun w => .bankWord gid b w) (words8 o n) with
    | some w => .trap (mchk 1 (b * 2 ^ 18 + 8 * w))
    | none => .ok ((s.bankMem gid b).readLE o n)

def State.storeSp (s : State) (k : Nat) (a : Word) (n v : Nat) : Acc State :=
  (s.spAt k a).bind fun (b, o) =>
    let gid := (s.slot k).grpOf
    let ws := words8 o n
    match s.firstBad (fun w => .bankWord gid b w) (ws.filter (fun w => !covers 8 w o n)) with
    | some w => .trap (mchk 1 (b * 2 ^ 18 + 8 * w))
    | none => .ok ((s.setBankMem gid b ((s.bankMem gid b).writeLE o n v)).scrub (ws.map (fun w => .bankWord gid b w)))

-- DS.

/-- A field of a launch record: `n` bytes at byte `b` (R189). -/
def hdrN (h : BitVec 2048) (b n : Nat) : Nat := (h.toNat / 256 ^ b) % 256 ^ n
def hdrW (h : BitVec 2048) (b : Nat) : Word := BitVec.ofNat 64 (hdrN h b 8)
def State.launchOf (s : State) (ctx : Nat) : Option Launch := (s.ctx ctx).launch
/-- The virtual die of a slot's task and the size of its DS allocation (R109). -/
def State.dsOf (s : State) (k : Nat) : Nat × Nat :=
  match s.grp (s.slot k).grpOf, s.launchOf (s.slot k).ctxOf with
  | some g, some l => (g.vdie, hdrN l.hdr 4 4 * 65536)
  | _, _ => (0, 0)
def State.dsMem (s : State) (ctx vdie : Nat) : Memory :=
  match s.launchOf ctx with | some l => tblGetD l.ds vdie [] | none => []
def State.setDsMem (s : State) (ctx vdie : Nat) (m : Memory) : State :=
  match s.launchOf ctx with
  | some l => s.setCtx ctx { s.ctx ctx with launch := some { l with ds := tblPut l.ds vdie [] m } }
  | none => s
def State.dsAt (s : State) (k : Nat) (a : Word) : Acc (Nat × Nat) :=
  let (v, size) := s.dsOf k
  if a.extractLsb' 26 38 != 0 || decide (size ≤ a.toNat) then .trap (prot a) else .ok (v, a.toNat)

def State.loadDs (s : State) (k : Nat) (a : Word) (n : Nat) : Acc Nat :=
  (s.dsAt k a).bind fun (v, o) =>
    let c := (s.slot k).ctxOf
    match s.firstBad (fun w => .dsWord c v w) (words8 o n) with
    | some w => .trap (mchk 2 (8 * w))
    | none => .ok ((s.dsMem c v).readLE o n)

/-- `n` bytes of a context's DS on a virtual die are written: a word that they cover in part meets its error, one that they cover whole
is free of it (R413). -/
def State.putDs (s : State) (c v o n x : Nat) : Acc State :=
  let ws := words8 o n
  match s.firstBad (fun w => .dsWord c v w) (ws.filter (fun w => !covers 8 w o n)) with
  | some w => .trap (mchk 2 (8 * w))
  | none => .ok ((s.setDsMem c v ((s.dsMem c v).writeLE o n x)).scrub (ws.map (fun w => .dsWord c v w)))
def State.storeDs (s : State) (k : Nat) (a : Word) (n x : Nat) : Acc State :=
  (s.dsAt k a).bind fun (v, o) => s.putDs (s.slot k).ctxOf v o n x

-- Translation (R170 to R172).

inductive Access where
  | read | write | rw | fetch | any
  deriving DecidableEq, Repr

def State.isDying (s : State) (asid page : Nat) : Bool :=
  s.mem.dying.any (fun c => c.asid == asid && c.va.toNat == page)
/-- The key of a slot may be used by this domain (R379). -/
def State.keyOk (s : State) (ix : Nat) (dom : BitVec 10) : Bool :=
  match tblGet s.mem.keys ix with | some k => !k.dying && k.keydom == dom | none => false

def stackOf (pa : Nat) : Nat := pa / (48 * 2 ^ 30)
inductive StackState where
  | ready | fenced | absent
  deriving DecidableEq, Repr
def State.stackAt (s : State) (pa : Nat) : StackState :=
  match tblGet s.mem.stk (stackOf pa) with
  | some true => .ready | some false => .fenced | none => .absent

/-- Stall, machine check, or go on, for bytes that are read (R310, R394 to R396). -/
def State.hbmGuard (s : State) (pa n : Nat) (partOnly : Bool) : Acc Unit :=
  match s.stackAt pa with
  | .absent => .stall
  | .fenced => .trap (mchk 3 pa)
  | .ready =>
    let ls := lines64 pa n
    match s.firstBad (fun l => .hbmLine l) (if partOnly then ls.filter (fun l => !covers 64 l pa n) else ls) with
    | some l => .trap (mchk 3 (64 * l))
    | none => .ok ()

/-- The walk of an address reads its table entries: it stalls on a stack that is not ready, and meets the error of a line or of a fenced
stack (R171, R310, R396). -/
def State.walkGuard (s : State) (asid va : Nat) : Acc Unit :=
  (s.walkReads asid va).foldl (fun x a => x.bind fun _ => s.hbmGuard a 8 false) (.ok ())

/-- A translation, with its results in the order of R172; it walks the tables, whatever a TLB may hold (log 10). -/
def State.translate (s : State) (ctx : Nat) (va : Word) (kind : Access) : Acc Leaf :=
  let c := s.ctx ctx
  let page : Acc Leaf := .trap { code := 4, eval := va }
  if va.extractLsb' 48 16 != 0 then page
  else (s.walkGuard c.asid.toNat va.toNat).bind fun _ => match s.walk c.asid.toNat va.toNat with
  | none => page
  | some l =>
    let perm := match kind with
      | .read => l.r | .write => l.w | .rw => l.r && l.w | .fetch => l.x | .any => true
    if s.isDying c.asid.toNat l.page then page
    else if !perm then .trap (prot va)
    else if !s.keyOk l.key c.keydom then .trap { code := 0x0B, eval := va }
    else .ok l

-- HBM.

/-- The key in a slot (R381). -/
def State.keyVal (s : State) (ix : Nat) : BitVec 512 := match tblGet s.mem.keys ix with | some k => k.val | none => 0
/-- A line whose bytes were written under another key than this one; the keyless lines of bring-up match every key (log 8). -/
def State.foreign (s : State) (line : Nat) (key : BitVec 512) : Bool :=
  match tblGet s.mem.lineKey line with | some k => k != key | none => false
/-- What a line reads as under a key: one that was written under another is deciphered with this one (R381). -/
def State.lineUnder (s : State) (key : BitVec 512) (line : Nat) : List Byte :=
  let b := s.mem.hbm.readBytes (64 * line) 64
  match tblGet s.mem.lineKey line with
  | some k => if k == key then b else Aes.cross k key line b
  | none => b

/-- `n` bytes of HBM as they stand when read under a key. -/
def State.readHbm (s : State) (pa n : Nat) (key : BitVec 512) : List Byte :=
  let ls := lines64 pa n
  if ls.any (fun l => s.foreign l key) then ((ls.flatMap (s.lineUnder key)).drop (pa % 64)).take n else s.mem.hbm.readBytes pa n

/-- A line that is written under a key: the rest of one written only in part stands as it read under this key. -/
def State.takeLine (s : State) (key : BitVec 512) (whole : Nat → Bool) (line : Nat) : State :=
  let hbm := if s.foreign line key && !whole line then s.mem.hbm.writeBytes (64 * line) (s.lineUnder key line) else s.mem.hbm
  { s with mem := { s.mem with hbm := hbm, lineKey := tblSet s.mem.lineKey line key } }

def State.writeHbm (s : State) (pa : Nat) (bs : List Byte) (key : BitVec 512) : State :=
  let n := bs.length
  if n = 0 then s else
  let ls := lines64 pa n
  let s := ls.foldl (fun s l => s.takeLine key (fun l => covers 64 l pa n) l) s
  { s with mem := { s.mem with hbm := s.mem.hbm.writeBytes pa bs } }

/-- A scalar read of G: `n` bytes, charged to the HBM bytes (R178, R290). -/
def State.loadG (s : State) (ctx : Nat) (va : Word) (n : Nat) (kind : Access := .read) : Acc (Nat × State) :=
  (s.translate ctx va kind).bind fun l =>
  (s.hbmGuard l.pa n false).bind fun _ =>
    let bs := s.readHbm l.pa n (s.keyVal l.key)
    .ok (leOfBytes bs, if kind == .fetch then s else s.chargeT s.cur.slot ctx 4 0 n)

def State.storeG (s : State) (ctx : Nat) (va : Word) (n v : Nat) (kind : Access := .write) : Acc State :=
  (s.translate ctx va kind).bind fun l =>
  (s.hbmGuard l.pa n true).bind fun _ =>
    let s := (s.writeHbm l.pa (bytesOfLE n v) (s.keyVal l.key)).scrub
      (((lines64 l.pa n).filter (fun x => covers 64 x l.pa n)).map (fun x => .hbmLine x))
    .ok (s.chargeT s.cur.slot ctx 4 0 n)

/-- Finish an access that yields a value: a trap is taken, a stall leaves the instruction to run again. -/
def State.accept {α : Type} (s : State) (x : Acc α) (f : α → State) : State :=
  match x with | .ok a => f a | .trap t => s.trap t | .stall => s

-- Bulk reads and writes of a task's spaces, in pieces that do not cross a page (records read by descriptor, R198, R319,
-- R329, R350).

/-- A charge of HBM bytes for what a task of a slot does, or for what the device does for a context (R290, R358). -/
def State.chargeBy (s : State) (by_ : Option Nat) (ctx n : Nat) : State :=
  match by_ with | some k => s.chargeT k ctx 4 0 n | none => s.charge ctx 4 0 n

/-- `n` bytes of G for the device's own reading of a structure, at PKG scope; `by_` names the slot of a task that reads them. -/
def State.readG (fuel : Nat) (s : State) (ctx : Nat) (va : Word) (n : Nat) (by_ : Option Nat := none) : Acc (List Byte × State) :=
  match fuel with
  | 0 => .ok ([], s)
  | fuel + 1 =>
    if n = 0 then .ok ([], s) else
    let m := Nat.min n (64 - va.toNat % 64)
    (s.translate ctx va .read).bind fun l =>
    (s.hbmGuard l.pa m false).bind fun _ =>
      let bs := s.readHbm l.pa m (s.keyVal l.key)
      (State.readG fuel (s.chargeBy by_ ctx m) ctx (va + BitVec.ofNat 64 m) (n - m) by_).bind fun (r, s) => .ok (bs ++ r, s)

def State.writeG (fuel : Nat) (s : State) (ctx : Nat) (va : Word) (bs : List Byte) (by_ : Option Nat := none) : Acc State :=
  match fuel with
  | 0 => .ok s
  | fuel + 1 =>
    if bs.isEmpty then .ok s else
    let m := Nat.min bs.length (64 - va.toNat % 64)
    (s.translate ctx va .write).bind fun l =>
    (s.hbmGuard l.pa m true).bind fun _ =>
      let s := (s.writeHbm l.pa (bs.take m) (s.keyVal l.key)).scrub
        (((lines64 l.pa m).filter (fun x => covers 64 x l.pa m)).map (fun x => .hbmLine x))
      State.writeG fuel (s.chargeBy by_ ctx m) ctx (va + BitVec.ofNat 64 m) (bs.drop m) by_

end Sys2Proof.Machine
end

