-- ==== Sys2Proof/Machine/Operands.lean ====
section
/-! DEFINITION. The operations on 64-bit operands of INT, IMM and CMP (R80 to R84), and record fields shared by the engines
(R38 to R41). -/

namespace Sys2Proof.Machine

/-- Shift and rotate amounts are bits [5:0] (R80). -/
def shamt (y : Word) : Nat := y.toNat % 64
def mulHigh (x y : Word) : Word := BitVec.ofInt 64 (x.toInt * y.toInt / 2 ^ 64)
def mulHighU (x y : Word) : Word := BitVec.ofNat 64 (x.toNat * y.toNat / 2 ^ 64)
/-- Division truncates toward zero; a divisor of zero gives all ones (R81). -/
def divS (x y : Word) : Word := if y = 0 then BitVec.allOnes 64 else BitVec.ofInt 64 (x.toInt.tdiv y.toInt)
def divU (x y : Word) : Word := if y = 0 then BitVec.allOnes 64 else BitVec.ofNat 64 (x.toNat / y.toNat)
/-- The remainder takes the sign of the dividend; a divisor of zero leaves the dividend (R81). -/
def remS (x y : Word) : Word := if y = 0 then x else BitVec.ofInt 64 (x.toInt.tmod y.toInt)
def remU (x y : Word) : Word := if y = 0 then x else BitVec.ofNat 64 (x.toNat % y.toNat)
def minS (x y : Word) : Word := if x.sle y then x else y
def maxS (x y : Word) : Word := if x.sle y then y else x
def minU (x y : Word) : Word := if x.ule y then x else y
def maxU (x y : Word) : Word := if x.ule y then y else x

/-- The low `w` bits, from bit 0 up. -/
def lowBits (w : Nat) (x : Word) : List Bool := (List.range w).map x.getLsbD
/-- Zeros below the lowest set bit of the low `w` bits; `w` when there is none (R82). -/
def countTrail (w : Nat) (x : Word) : Word := BitVec.ofNat 64 ((lowBits w x).takeWhile (fun b => !b)).length
/-- Zeros above the highest set bit of the low `w` bits. -/
def countLead (w : Nat) (x : Word) : Word := BitVec.ofNat 64 ((lowBits w x).reverse.takeWhile (fun b => !b)).length
def countOnes (w : Nat) (x : Word) : Word := BitVec.ofNat 64 ((lowBits w x).filter id).length
def sextW (w : Width) (x : Word) : Word :=
  match w with
  | .w8 => (x.extractLsb' 0 8).signExtend 64 | .w16 => (x.extractLsb' 0 16).signExtend 64
  | .w32 => (x.extractLsb' 0 32).signExtend 64 | .w64 => x
def zextW (w : Width) (x : Word) : Word :=
  match w with
  | .w8 => (x.extractLsb' 0 8).zeroExtend 64 | .w16 => (x.extractLsb' 0 16).zeroExtend 64
  | .w32 => (x.extractLsb' 0 32).zeroExtend 64 | .w64 => x
/-- The conditions of CMP and CMPI: EQ, NE, LT, LE signed, LTU and LEU unsigned (R84). -/
def holds (cc : Cond) (x y : Word) : Bool :=
  match cc with
  | .eq => x == y | .ne => x != y | .lt => x.slt y | .ltu => x.ult y | .le => x.sle y | .leu => x.ule y

-- Fields of a record (R38, R41).

def rOpc (r : BitVec 512) : Nat := (r.extractLsb' 0 16).toNat
def rEng (r : BitVec 512) : Nat := rOpc r / 4096
def rOp (r : BitVec 512) : Nat := rOpc r / 16 % 256
def rVar (r : BitVec 512) : Nat := rOpc r % 16
def rWsem (r : BitVec 512) : Nat := (r.extractLsb' 16 8).toNat
def rWthr (r : BitVec 512) : BitVec 16 := r.extractLsb' 24 16
def rSsem (r : BitVec 512) : Nat := (r.extractLsb' 40 8).toNat
def rSinc (r : BitVec 512) : BitVec 16 := r.extractLsb' 48 16
def rTrip (r : BitVec 512) (k : Nat) : Nat := (r.extractLsb' (64 + 16 * k) 16).toNat
def rMod (r : BitVec 512) : BitVec 32 := r.extractLsb' 480 32
def rNw (r : BitVec 512) : Bool := (rMod r).getLsbD 0
def rNs (r : BitVec 512) : Bool := (rMod r).getLsbD 1
def rSb (r : BitVec 512) : Bool := (rMod r).getLsbD 2
def rScope (r : BitVec 512) : Nat := ((rMod r).extractLsb' 3 3).toNat
def rRound (r : BitVec 512) : Rm :=
  match ((rMod r).extractLsb' 6 2).toNat with | 0 => .rne | 1 => .rz | 2 => .ru | _ => .rd
def rSat (r : BitVec 512) : Bool := (rMod r).getLsbD 8
/-- A field of MOD: `n` bits from bit `lo`. -/
def rField (r : BitVec 512) (lo n : Nat) : Nat := (rMod r).toNat / 2 ^ lo % 2 ^ n
/-- The number of issues; 0 for an empty record (R39). -/
def rIssues (r : BitVec 512) : Nat := rTrip r 0 * rTrip r 1 * rTrip r 2 * rTrip r 3
/-- The trip indices of issue `k`, T0 innermost (R39). -/
def rIndex (r : BitVec 512) (k : Nat) : Nat × Nat × Nat × Nat :=
  (k % rTrip r 0, k / rTrip r 0 % rTrip r 1, k / (rTrip r 0 * rTrip r 1) % rTrip r 2,
   k / (rTrip r 0 * rTrip r 1 * rTrip r 2))
/-- A stride of a descriptor, signed (R39, R40). -/
def dStride (d : BitVec 88) (k : Nat) : Int := (d.extractLsb' (24 + 16 * k) 16).toInt
def dStrides (d : BitVec 88) : BitVec 64 := d.extractLsb' 24 64
/-- The element an issue addresses, from the base element (R39). -/
def dElem (d : BitVec 88) (base : Int) (ix : Nat × Nat × Nat × Nat) : Int :=
  base + ix.1 * dStride d 0 + ix.2.1 * dStride d 1 + ix.2.2.1 * dStride d 2 + ix.2.2.2 * dStride d 3
/-- The none descriptor (R42). -/
def dNone : BitVec 88 := 0xF00000

-- Fields of a handle (R46).

def hBase (h : BitVec 256) : Word := h.extractLsb' 0 64
def hSpace (h : BitVec 256) : Nat := (h.extractLsb' 64 4).toNat
def hFmt (h : BitVec 256) : Nat := (h.extractLsb' 68 4).toNat
def hRank (h : BitVec 256) : Nat := (h.extractLsb' 72 4).toNat
def hRo (h : BitVec 256) : Bool := h.getLsbD 76
def hExt (h : BitVec 256) (k : Nat) : Nat := (h.extractLsb' (96 + 16 * k) 16).toNat
/-- Stride of dimension `k`; dimension 0 has stride 1. -/
def hStr (h : BitVec 256) (k : Nat) : Nat := if k = 0 then 1 else (h.extractLsb' (160 + 32 * (k - 1)) 32).toNat
def hCount (h : BitVec 256) : Nat := hExt h 0 * hExt h 1 * hExt h 2 * hExt h 3
/-- The check of R48. -/
def handleOk (h : BitVec 256) : Bool :=
  decide (hSpace h ≤ 5) && decide (hFmt h ≤ 0xA) && decide (1 ≤ hRank h) && decide (hRank h ≤ 4) &&
  h.extractLsb' 77 3 == 0 && h.extractLsb' 80 16 == 0 &&
  [0, 1, 2, 3].all (fun k => decide (k < hRank h) || hExt h k == 1)

/-- The element size of a format; 0 for LOG6, whose elements come in blocks (R47). -/
def fmtSize (f : Nat) : Nat :=
  match f with
  | 0 => 1 | 1 => 1 | 2 => 4 | 3 => 4 | 4 => 2 | 5 => 2 | 6 => 4 | 8 => 2 | 9 => 2 | 10 => 2 | _ => 0
/-- A byte address `x` elements above a base (R165): LOG6 in blocks of 24 bytes. -/
def elemByte (fmt base x : Nat) : Nat := if fmt = 7 then base + 24 * (x / 32) else base + fmtSize fmt * x
/-- The element position of linear index `j`, or none beyond the extents (R165). -/
def hPos (h : BitVec 256) (j : Nat) : Option Nat :=
  let e0 := hExt h 0; let e1 := hExt h 1; let e2 := hExt h 2
  if hCount h ≤ j then none
  else some (j % e0 + j / e0 % e1 * hStr h 1 + j / (e0 * e1) % e2 * hStr h 2 + j / (e0 * e1 * e2) * hStr h 3)
/-- The byte length of the span of a handle (R165); nothing for an empty handle. -/
def hSpan (h : BitVec 256) : Nat :=
  if hCount h = 0 then 0 else
  let x := (hExt h 0 - 1) + (hExt h 1 - 1) * hStr h 1 + (hExt h 2 - 1) * hStr h 2 + (hExt h 3 - 1) * hStr h 3
  if hFmt h = 7 then 24 * (x / 32 + 1) else fmtSize (hFmt h) * (x + 1)
/-- Dense strides: s1 = e0, s2 = e0 × e1, s3 = e0 × e1 × e2 (R159, R180). -/
def hDense (h : BitVec 256) : Bool :=
  hStr h 1 == hExt h 0 && hStr h 2 == hExt h 0 * hExt h 1 && hStr h 3 == hExt h 0 * hExt h 1 * hExt h 2
/-- A LOG6 handle's first extent and strides are multiples of 32 (R165). -/
def hLogOk (h : BitVec 256) : Bool :=
  hFmt h != 7 || [hExt h 0, hStr h 1, hStr h 2, hStr h 3].all (fun n => n % 32 == 0)

end Sys2Proof.Machine
end

