-- ==== Sys2Proof/Machine/Float.lean ====
section
/-! DEFINITION. Number formats (chapter 04): exact values, one rounding (R58), saturation (R59), conversions (R60), integers
(R57), LOG6 decoding and quantising (R65, R66), and the events that the exception counters count (R70). -/

namespace Sys2Proof.Machine

/-- An exact value: (−1)^neg × m × 2^e, an infinity, or not a number. -/
inductive Num where
  | nan
  | inf (neg : Bool)
  | fin (neg : Bool) (m : Nat) (e : Int)
  deriving DecidableEq, Repr

/-- A binary floating-point format: precision, exponent bits, bias (R55). -/
structure Flt where
  p    : Nat
  bias : Nat
  ebits : Nat
  deriving DecidableEq, Repr

def fp32 : Flt := { p := 24, bias := 127, ebits := 8 }
def bf16 : Flt := { p := 8, bias := 127, ebits := 8 }
def fp16 : Flt := { p := 11, bias := 15, ebits := 5 }

/-- Events of R70: 0 NaN produced, 1 infinity produced, 2 overflow, 3 underflow. -/
abbrev Ev := Option Nat

def two (k : Nat) : Nat := 2 ^ k
def signBit (f : Flt) (neg : Bool) : Nat := if neg then 2 ^ (f.p - 1 + f.ebits) else 0
def expMax (f : Flt) : Nat := 2 ^ f.ebits - 1
def nanBits (f : Flt) : Nat := expMax f * 2 ^ (f.p - 1) + 2 ^ (f.p - 2)
def infBits (f : Flt) (neg : Bool) : Nat := signBit f neg + expMax f * 2 ^ (f.p - 1)
def maxBits (f : Flt) (neg : Bool) : Nat := infBits f neg - 1

/-- The value of a bit pattern (R55). -/
def toNum (f : Flt) (b : Nat) : Num :=
  let frac := b % 2 ^ (f.p - 1)
  let ex := b / 2 ^ (f.p - 1) % 2 ^ f.ebits
  let neg := b / 2 ^ (f.p - 1 + f.ebits) % 2 == 1
  let sub : Int := 1 - f.bias - (f.p - 1)
  if ex = expMax f then (if frac = 0 then .inf neg else .nan)
  else if ex = 0 then .fin neg frac sub
  else .fin neg (2 ^ (f.p - 1) + frac) (sub + ex - 1)

/-- Whether a magnitude of `q` quanta and a remainder `r` of `d` rounds up (R58). -/
def roundUp (rm : Rm) (neg : Bool) (q r d : Nat) : Bool :=
  match rm with
  | .rne => decide (d < 2 * r) || (decide (2 * r = d) && q % 2 == 1)
  | .rz => false
  | .ru => !neg && decide (0 < r)
  | .rd => neg && decide (0 < r)

/-- m × 2^e in quanta of 2^q: the whole part, the remainder, and what the remainder is out of. -/
def quanta (m : Nat) (e q : Int) : Nat × Nat × Nat :=
  if q ≤ e then (m * 2 ^ (e - q).toNat, 0, 1)
  else let d := 2 ^ (q - e).toNat; (m / d, m % d, d)

/-- The infinity or greatest finite value that an overflow gives (R58). -/
def overflowBits (f : Flt) (rm : Rm) (neg : Bool) : Nat :=
  match rm with
  | .rne => infBits f neg
  | .rz => maxBits f neg
  | .ru => if neg then maxBits f neg else infBits f neg
  | .rd => if neg then infBits f neg else maxBits f neg

/-- One rounding of a finite value to a format, with its event (R58, R70). -/
def roundFin (f : Flt) (rm : Rm) (neg : Bool) (m : Nat) (e : Int) : Nat × Ev :=
  if m = 0 then (signBit f neg, none)
  else
    let emin : Int := 1 - f.bias
    let ex : Int := Nat.log2 m + e
    let tiny := decide (ex < emin)
    let q : Int := (if tiny then emin else ex) - (f.p - 1)
    let (w, r, d) := quanta m e q
    let w := if roundUp rm neg w r d then w + 1 else w
    -- the biased exponent of the quantum's binade, with the hidden bit carried by addition
    let base : Int := q + (f.p - 1) + f.bias - 1
    let bits : Nat := base.toNat * 2 ^ (f.p - 1) + w
    if expMax f * 2 ^ (f.p - 1) ≤ bits then (overflowBits f rm neg, some 2)
    else (signBit f neg + bits, if tiny && r != 0 then some 3 else none)

/-- Saturation of infinities (R59). -/
def satInf (f : Flt) (sat : Bool) (b : Nat) : Nat :=
  if sat && b == infBits f false then maxBits f false
  else if sat && b == infBits f true then maxBits f true else b

/-- Deliver an exact value in a format (R56, R58, R59). `nanNew` says that no operand was a NaN. -/
def deliver (f : Flt) (rm : Rm) (sat nanNew : Bool) (x : Num) : Nat × Ev :=
  match x with
  | .nan => (nanBits f, if nanNew then some 0 else none)
  | .inf neg => (satInf f sat (infBits f neg), none)
  | .fin neg m e => let (b, v) := roundFin f rm neg m e; (satInf f sat b, v)

-- Exact arithmetic.

def Num.isNan : Num → Bool
  | .nan => true | _ => false
def Num.isInf : Num → Bool
  | .inf _ => true | _ => false
def Num.isZero : Num → Bool
  | .fin _ 0 _ => true | _ => false
def Num.neg? : Num → Bool
  | .nan => false | .inf n => n | .fin n _ _ => n
def Num.negate : Num → Num
  | .nan => .nan | .inf n => .inf (!n) | .fin n m e => .fin (!n) m e
/-- A finite value as an integer of quanta 2^q, for q at or below its exponent. -/
def signedQ (neg : Bool) (m : Nat) (e q : Int) : Int :=
  let v : Int := m * 2 ^ (e - q).toNat
  if neg then -v else v

/-- a + b exactly; the sign of an exact zero follows IEEE 754 (R58). -/
def numAdd (rm : Rm) (a b : Num) : Num :=
  match a, b with
  | .nan, _ => .nan | _, .nan => .nan
  | .inf x, .inf y => if x == y then .inf x else .nan
  | .inf x, _ => .inf x | _, .inf y => .inf y
  | .fin n1 m1 e1, .fin n2 m2 e2 =>
    let q := if e1 ≤ e2 then e1 else e2
    let v := signedQ n1 m1 e1 q + signedQ n2 m2 e2 q
    if v = 0 then .fin (if n1 == n2 then n1 else decide (rm = .rd)) 0 q
    else .fin (decide (v < 0)) v.natAbs q
def numMul (a b : Num) : Num :=
  match a, b with
  | .nan, _ => .nan | _, .nan => .nan
  | .inf x, y => if y.isZero then .nan else .inf (x != y.neg?)
  | x, .inf y => if x.isZero then .nan else .inf (x.neg? != y)
  | .fin n1 m1 e1, .fin n2 m2 e2 => .fin (n1 != n2) (m1 * m2) (e1 + e2)
/-- a < b of two values that are no NaN; −0 equals +0. -/
def numLt (a b : Num) : Bool :=
  match a, b with
  | .nan, _ => false | _, .nan => false
  | .inf x, .inf y => x && !y
  | .inf x, _ => x
  | _, .inf y => !y
  | .fin n1 m1 e1, .fin n2 m2 e2 =>
    let q := if e1 ≤ e2 then e1 else e2
    decide (signedQ n1 m1 e1 q < signedQ n2 m2 e2 q)
def numEq (a b : Num) : Bool := !a.isNan && !b.isNan && !numLt a b && !numLt b a
/-- The order of FMIN and FMAX, where −0 is less than +0 (R85). -/
def numLess (a b : Num) : Bool := numLt a b || (a.isZero && b.isZero && a.neg? && !b.neg?)

/-- Rounded to an integer by a mode (R60); infinities and NaN are the caller's. -/
def roundInt (rm : Rm) (neg : Bool) (m : Nat) (e : Int) : Int :=
  let (w, r, d) := quanta m e 0
  let w := if roundUp rm neg w r d then w + 1 else w
  if neg then -(w : Int) else w
def clampInt (lo hi v : Int) : Int := if v < lo then lo else if hi < v then hi else v
/-- A float converted to an integer range: always clamped; NaN becomes 0 (R60). -/
def numToInt (rm : Rm) (lo hi : Int) (x : Num) : Int :=
  match x with
  | .nan => 0
  | .inf neg => if neg then lo else hi
  | .fin neg m e => clampInt lo hi (roundInt rm neg m e)
def intNum (v : Int) : Num := .fin (decide (v < 0)) v.natAbs 0

-- Formats by code (R47).

def fltOf (c : Nat) : Flt := if c = 6 then fp32 else if c = 5 then bf16 else fp16
def isFlt (c : Nat) : Bool := c == 4 || c == 5 || c == 6
def isInt (c : Nat) : Bool := c == 0 || c == 1 || c == 2 || c == 3 || c == 9 || c == 10
def fmtSigned (c : Nat) : Bool := c == 0 || c == 2 || c == 9
def fmtBits (c : Nat) : Nat := 8 * fmtSize c
def intLo (c : Nat) : Int := if fmtSigned c then -(2 ^ (fmtBits c - 1) : Int) else 0
def intHi (c : Nat) : Int := if fmtSigned c then 2 ^ (fmtBits c - 1) - 1 else 2 ^ fmtBits c - 1
/-- The value of an integer element. -/
def intVal (c : Nat) (b : Nat) : Int :=
  if fmtSigned c && decide (2 ^ (fmtBits c - 1) ≤ b) then (b : Int) - 2 ^ fmtBits c else b
/-- An exact integer result in a format: wrapped, or clamped with SAT (R57). -/
def intBits (c : Nat) (sat : Bool) (v : Int) : Nat :=
  ((if sat then clampInt (intLo c) (intHi c) v else v) % (2 ^ fmtBits c : Int)).toNat
/-- The counter block of a format: FP32, BF16, FP16, LOG6 (R70). -/
def fxBlock (c : Nat) : Nat := if c = 6 then 0 else if c = 5 then 1 else if c = 4 then 2 else 3
/-- An element with the counter it raises, if any. -/
abbrev Elem := Nat × Option Nat
def fxOf (c : Nat) (r : Nat × Ev) : Elem := (r.1, r.2.map (fun e => 4 * fxBlock c + e))

/-- The value of an element of a float or integer format. -/
def elemNum (c b : Nat) : Num := if isFlt c then toNum (fltOf c) b else intNum (intVal c b)

/-- The bits of an element as they count: an S10 word's bits [15:10] are ignored on read and written as zero (R63). -/
def s10Bits (f b : Nat) : Nat := if f = 8 then b % 1024 else b
/-- An element converted to a format that is not LOG6; between equal formats the bits move unchanged (R60, R107); S10 words
count as N16 (R63; log 29). SAT clamps every infinity (R59; log 29). -/
def convPlain (src dst : Nat) (rm : Rm) (sat : Bool) (b : Nat) : Elem :=
  let b := s10Bits src b
  if src == dst then (b, none)
  else if isFlt dst then
    fxOf dst (deliver (fltOf dst) rm sat false (elemNum src b))
  else if isFlt src then
    (s10Bits dst (numToInt rm (intLo dst) (intHi dst) (elemNum src b) % (2 ^ fmtBits dst : Int)).toNat, none)
  else (s10Bits dst (intBits dst sat (intVal src b)), none)
/-- An element read or written in another format than its own. On the way into LOG6 it is taken to FP32 with RNE, whatever
MOD says, and counts nothing before its block is quantised (R60, R66); an element of format 7 is such an FP32 value. -/
def convElem (src dst : Nat) (rm : Rm) (sat : Bool) (b : Nat) : Elem :=
  if dst = 7 then (if src = 7 then b else (convPlain src 6 .rne false b).1, none) else convPlain src dst rm sat b
/-- A conversion by VCVT or MX.ACRD: between equal float formats too a NaN becomes canonical, and SAT clamps (R59, R60). -/
def cvtElem (src dst : Nat) (rm : Rm) (sat : Bool) (b : Nat) : Elem :=
  if isFlt src && src == dst then fxOf dst (deliver (fltOf dst) rm sat false (elemNum src b)) else convElem src dst rm sat b

-- LOG6 (R61 to R66).

/-- The quarter-octave constants of R62. -/
def quarter (f : Nat) : Nat :=
  match f with | 0 => 0x8000 | 1 => 0x9839 | 2 => 0xB505 | _ => 0xD745
/-- Decoding to FP32 (R65): `code` is six bits, `sc` the block's scale word. -/
def log6Dec (rm : Rm) (sat : Bool) (code sc : Nat) : Nat × Ev :=
  let sg := code / 32 % 2 == 1
  let m := code % 32
  let sc := sc % 1024
  if sc = 0x3FF || (sg && m == 0) then (nanBits fp32, none)
  else if m = 0 then (0, none)
  else
    let e : Int := (m : Int) - 16 + ((sc : Int) - 512)
    deliver fp32 rm sat false (.fin sg (quarter (e % 4).toNat) (e / 4 - 15))
/-- An element of LOG6 read as format `dst`: decoded to FP32 by R65 and converted from there (R60). The events of the
decoding count against the destination, each at most once for the element (R70, R107). -/
def log6As (dst : Nat) (rm : Rm) (sat : Bool) (code sc : Nat) : Nat × List Nat :=
  if dst = 7 then ((log6Dec .rne false code sc).1, [])
  else
    let (x, e) := log6Dec rm sat code sc
    let (y, e') := convPlain 6 dst rm sat x
    let d := if isFlt dst then (e.map (4 * fxBlock dst + ·)).toList else []
    (y, d ++ e'.toList.filter (fun v => !d.contains v))
def ceilLog2 (n : Nat) : Nat := if 2 ^ Nat.log2 n = n then Nat.log2 n else Nat.log2 n + 1
def magOf : Num → Nat × Int
  | .fin _ m e => (m, e) | _ => (0, 0)
/-- The greatest magnitude among finite values, as m × 2^e. -/
def greatest (xs : List Num) : Num :=
  xs.foldl (fun b x => let (m, e) := magOf x; if numLt b (.fin false m e) then .fin false m e else b) (.fin false 0 0)
/-- The scale code for a greatest magnitude M > 0: the least S with M ≤ 2^((S − 512)/4 + 3.75), at most 0x3FE (R66). -/
def log6Scale (m : Nat) (e : Int) : Nat :=
  let c : Int := (ceilLog2 (m ^ 4) : Int) + 4 * e + 497
  if c ≤ 0 then 0 else Nat.min c.toNat 0x3FE
/-- The code of one finite element under scale code `sc` (R66): floor(8 log2 |x|) decides both the zero threshold and the
nearest integer. -/
def log6Code (sc : Nat) (x : Num) : Nat × Ev :=
  match x with
  | .fin neg m e =>
    if m = 0 then (0, none)
    else
      let g : Int := (Nat.log2 (m ^ 8) : Int) + 8 * e
      let k : Int := 2 * ((sc : Int) - 512)
      if g < k - 31 then (0, some 3)
      else
        let v := (g + 33 - k) / 2
        let sg := if neg then 32 else 0
        if 31 < v then (sg + 31, some 2) else (sg + v.toNat, none)
  | _ => (32, none)
/-- Quantising the elements of one block (R66): the scale word, the codes, and the counters raised. A position that is not
written is `none` and becomes +0 (R108). -/
def log6Quant (xs : List (Option Num)) : Nat × List Nat × List Nat :=
  let vs := xs.filterMap id
  if vs.any (fun x => x.isNan || x.isInf) then
    (0x3FF, xs.map (fun _ => 32), if vs.any Num.isNan then [] else [12])
  else
    match magOf (greatest vs) with
    | (0, _) => (0, xs.map (fun _ => 0), [])
    | (m, e) =>
      let sc := log6Scale m e
      let cs := xs.map (fun x => match x with | some v => log6Code sc v | none => (0, none))
      (sc, cs.map (·.1), cs.filterMap (fun c => c.2.map (12 + ·)))

end Sys2Proof.Machine
end

