-- ==== Sys2Proof/Machine/Flags.lean ====
section
/-! DEFINITION. Exception events of results onto the counters of a context (R70 to R72): the device has no other flags. -/

namespace Sys2Proof.Machine

/-- The counters raised by a list of elements, each counted once per event, applied counter by counter. -/
def State.fxAll (s : State) (ctx : Nat) (evs : List Nat) : State :=
  if evs.isEmpty then s else
  (List.range 16).foldl (fun s i => s.fxCount ctx i (evs.filter (· == i)).length) s
def State.fxElem (s : State) (ctx : Nat) (e : Option Nat) : State :=
  match e with | some i => s.fxCount ctx i 1 | none => s

end Sys2Proof.Machine
end

