-- ==== Sys2Proof/Machine/Engine.lean ====
section
/-! DEFINITION. What the engines share: where the elements of an operand lie (R39, R40, R105, R106, R116, R126, R165), reading
and writing them under ECC and keys (R114, R310, R413), and conversions on the way (R60, R107, R108, R129). -/

namespace Sys2Proof.Machine

/-- What ends an issue before it is performed: a stack that is not ready, a cluster that is waking or data not yet staged
(R396, R122, R161), or a fault of the record: its cause and, for a machine check, its EVAL (R216, R310). -/
inductive Stop where
  | stall
  | fault (cause : Nat) (eval : Word)
  deriving DecidableEq, Repr

abbrev Eng' (α : Type) := Except Stop α
def engF {α : Type} : Eng' α := .error (.fault 0x0A 0)
def mchkF {α : Type} (src addr : Nat) : Eng' α := .error (.fault 0x20 (mchkEval src false addr))

/-- An operand of a record: a bank with its captured format register, the tile register file, a handle, an immediate, or
none. -/
inductive Opd where
  | bank (b : Nat) (fmt : Word) (off : Nat)
  | tile (off : Nat)
  | hnd (h : BitVec 256) (off : Nat)
  | imm (v : Word)
  | absent
  deriving DecidableEq, Repr

/-- The operand lies in G. -/
def Opd.inG (o : Opd) : Bool := match o with | .hnd h _ => hSpace h == 0 | _ => false
def opdOf (q : QRec) (d : BitVec 88) (h : BitVec 256) : Opd :=
  let sp := dSpace d
  if sp ≤ 0xB then .bank sp (tblGetD q.bfmt sp 0) (dOff d % 2 ^ 18)
  else if sp = 0xC then .tile (dOff d)
  else if sp = 0xD then .hnd h (dOff d % 2 ^ 15)
  else if sp = 0xE then .imm (dStrides d)
  else .absent
def QRec.opD (q : QRec) : Opd := opdOf q (descD q.r) q.hD
def QRec.opA (q : QRec) : Opd := opdOf q (descA q.r) q.hA
def QRec.opB (q : QRec) : Opd := opdOf q (descB q.r) q.hB
def QRec.opC (q : QRec) : Opd := opdOf q (descC q.r) q.hC

def bfFmt (w : Word) : Nat := (w.extractLsb' 0 4).toNat
def bfGeom (w : Word) : Nat := (w.extractLsb' 4 3).toNat
def bfScoff (w : Word) : Nat := (w.extractLsb' 24 12).toNat * 64
/-- Blocks of a LOG6 bank (R106). -/
def bfBlocks (w : Word) : Nat :=
  let o := bfScoff w
  Nat.min (o / 24) ((262144 - o) / 2)

/-- The format of an operand, `f` for the operands that have none of their own (R129). -/
def Opd.fmt (o : Opd) (f : Nat) : Nat :=
  match o with | .bank _ w _ => bfFmt w | .hnd h _ => hFmt h | _ => f
/-- The base element of an operand whose elements have format `f` (R40, R106). -/
def Opd.baseElem (o : Opd) (f : Nat) : Nat :=
  match o with
  | .bank _ w off => if bfFmt w = 7 then off / 24 * 32 else off / fmtSize (bfFmt w)
  | .tile off => off / fmtSize f
  | .hnd _ off => off
  | _ => 0

/-- A run of bytes of one space. -/
inductive Mem where
  | bank (b off : Nat)
  | ds (off : Nat)
  | g (va : Word)
  | tile (off : Nat)
  | remote (sp : Nat) (addr : Word)
  deriving DecidableEq, Repr
/-- Where an element lies: some bytes, an element of a LOG6 bank, an element of a LOG6 handle, or an immediate. -/
inductive Place where
  | bytes (m : Mem) (n : Nat)
  | log6 (b block pos : Nat) (fmt : Word)
  | code (m : Mem) (pos : Nat)
  | imm (v : Word)
  deriving DecidableEq, Repr

/-- Bytes of a handle's space. -/
def handleMem (sp : Nat) (a : Word) : Mem :=
  match sp with
  | 0 => .g a
  | 4 => .ds a.toNat
  | 5 => .bank (a.extractLsb' 18 4).toNat (a.extractLsb' 0 18).toNat
  | _ => .remote sp a
def handleAt (h : BitVec 256) (x : Nat) : Mem :=
  handleMem (hSpace h) (BitVec.ofNat 64 (elemByte (hFmt h) (hBase h).toNat x))
/-- The place of element `i` of an operand whose elements have format `f`: a fault beyond the bank, beyond block B, or
beyond a handle's extents (R54, R106, R114, R165). -/
def Opd.place (o : Opd) (f : Nat) (i : Int) : Eng' Place :=
  if i < 0 then engF else
  let k := i.toNat
  match o with
  | .bank b w _ =>
    if bfFmt w = 7 then
      (if bfScoff w = 0 || bfBlocks w ≤ k / 32 then engF else .ok (.log6 b (k / 32) (k % 32) w))
    else
      let z := fmtSize (bfFmt w)
      if 262144 < (k + 1) * z then engF else .ok (.bytes (.bank b (k * z)) z)
  | .tile _ => let z := fmtSize f; .ok (.bytes (.tile (k * z)) z)
  | .hnd h _ =>
    (match hPos h k with
     | none => engF
     | some x =>
       .ok (if hFmt h = 7 then .code (handleAt h x) (x % 32) else .bytes (handleAt h x) (fmtSize (hFmt h))))
  | .imm v => .ok (.imm v)
  | .absent => engF

-- Bytes.

def State.vdieOf (s : State) (q : QRec) : Nat := match s.grp q.grp with | some g => g.vdie | none => 0
def State.tileMem (s : State) (k : Nat) : Memory := match (s.slot k).scope with | some sc => sc.mem | none => []
def State.setTileMem (s : State) (k : Nat) (m : Memory) : State :=
  let t := s.slot k
  match t.scope with | some sc => s.setSlot k { t with scope := some { sc with mem := m } } | none => s

/-- The ECC words of some bytes, with SRC and ADDR of a machine check there (R310, R413). -/
def State.eccWords (s : State) (q : QRec) (m : Mem) (n : Nat) : List (Nat × UeLoc × Nat × Nat) :=
  match m with
  | .bank b off => (words8 off n).map (fun w => (w, .bankWord q.grp b w, 1, b * 2 ^ 18 + 8 * w))
  | .ds off => (words8 off n).map (fun w => (w, .dsWord q.ctx (s.vdieOf q) w, 2, 8 * w))
  | .tile off => (words8 off n).map (fun w => (w, .tileWord q.who.slot w, 4, 8 * w))
  | _ => []
def Mem.off : Mem → Nat
  | .bank _ o => o | .ds o => o | .tile o => o | .g va => va.toNat | .remote _ a => a.toNat
/-- Go on, or the machine check of the first bad ECC word; with `part` only of words that are not covered whole. -/
def State.eccOk (s : State) (q : QRec) (m : Mem) (n : Nat) (part : Bool) : Eng' Unit :=
  if s.mem.ue.isEmpty then .ok ()
  else match (s.eccWords q m n).find? (fun e => s.bad e.2.1 && !(part && covers 8 e.1 m.off n)) with
    | some (_, _, src, a) => mchkF src a
    | none => .ok ()
/-- A tile access waits for a cluster that is waking (R122). -/
def State.tileAwake (s : State) (k off n : Nat) : Bool :=
  match (s.slot k).scope with
  | none => true
  | some sc => !([off / 8192, (off + n - 1) / 8192].any (fun c => match sc.cl[c]? with
      | some (.waking _ _) => true | _ => false))

/-- The leaf of a pinned page: the old mapping stands whatever became of its permissions and key (R176, R383). -/
def State.pinnedLeaf (s : State) (ctx : Nat) (va : Word) : Option Leaf := s.walk (s.ctx ctx).asid.toNat va.toNat

/-- A piece of G that lies in one line of a pinned page. -/
def State.pinnedPiece (s : State) (ctx : Nat) (va : Word) (n : Nat) (part : Bool) : Eng' Leaf :=
  match s.pinnedLeaf ctx va with
  | none => engF
  | some l =>
    match s.hbmGuard l.pa n part with
    | .ok _ => .ok l
    | .trap t => .error (.fault t.code t.eval)
    | .stall => .error .stall

def State.pinnedRead : Nat → State → Nat → Word → Nat → Eng' (List Byte)
  | 0, _, _, _, _ => .ok []
  | k + 1, s, ctx, va, n => do
    if n = 0 then return [] else
    let m := Nat.min n (64 - va.toNat % 64)
    let l ← s.pinnedPiece ctx va m false
    let r ← State.pinnedRead k s ctx (va + BitVec.ofNat 64 m) (n - m)
    return s.readHbm l.pa m (s.keyVal l.key) ++ r
def State.pinnedWrite : Nat → State → Nat → Word → List Byte → Eng' State
  | 0, s, _, _, _ => .ok s
  | k + 1, s, ctx, va, bs => do
    if bs.isEmpty then return s else
    let m := Nat.min bs.length (64 - va.toNat % 64)
    let l ← s.pinnedPiece ctx va m true
    let s := (s.writeHbm l.pa (bs.take m) (s.keyVal l.key)).scrub
      (((lines64 l.pa m).filter (fun x => covers 64 x l.pa m)).map (fun x => .hbmLine x))
    State.pinnedWrite k s ctx (va + BitVec.ofNat 64 m) (bs.drop m)

/-- `n` bytes as a number: a machine check at an uncorrectable error (R114, R310). -/
def State.readMem (s : State) (q : QRec) (m : Mem) (n : Nat) : Eng' Nat := do
  s.eccOk q m n false
  match m with
  | .bank b off => if 262144 < off + n then engF else return (s.bankMem q.grp b).readLE off n
  | .ds off => return (s.dsMem q.ctx (s.vdieOf q)).readLE off n
  | .g va => return leOfBytes (← s.pinnedRead (n + 1) q.ctx va n)
  | .tile off => if !s.tileAwake q.who.slot off n then .error .stall else return (s.tileMem q.who.slot).readLE off n
  | .remote .. => engF

/-- Write `n` bytes. A write that covers only part of an ECC word in error meets the error (R413). -/
def State.writeMem (s : State) (q : QRec) (m : Mem) (n v : Nat) : Eng' State := do
  s.eccOk q m n true
  let t ← (match m with
    | .bank b off => if 262144 < off + n then engF else
        .ok (s.setBankMem q.grp b ((s.bankMem q.grp b).writeLE off n v))
    | .ds off => .ok (s.setDsMem q.ctx (s.vdieOf q) ((s.dsMem q.ctx (s.vdieOf q)).writeLE off n v))
    | .tile off => if !s.tileAwake q.who.slot off n then .error .stall else
        .ok (s.setTileMem q.who.slot ((s.tileMem q.who.slot).writeLE off n v))
    | .g va => s.pinnedWrite (n + 1) q.ctx va (bytesOfLE n v)
    | .remote .. => engF)
  return t.scrub ((s.eccWords q m n).map (fun e => e.2.1))

/-- The parts of ECC words that a run of bytes covers: the word, the first byte in it and their number. -/
def State.eccPieces (s : State) (q : QRec) (r : Mem × Nat) : List (UeLoc × Nat × Nat) :=
  let cut (u a n : Nat) (loc : Nat → UeLoc) : List (UeLoc × Nat × Nat) :=
    ((List.range ((a + n - 1) / u - a / u + 1)).map (· + a / u)).map (fun w =>
      let lo := Nat.max a (u * w)
      (loc w, lo - u * w, Nat.min (a + n) (u * w + u) - lo))
  match r with
  | (.bank b off, n) => cut 8 off n (.bankWord q.grp b)
  | (.ds off, n) => cut 8 off n (.dsWord q.ctx (s.vdieOf q))
  | (.tile off, n) => cut 8 off n (.tileWord q.who.slot)
  | (.g va, n) => (cut 64 va.toNat n .hbmLine).filterMap (fun p =>
      match p.1 with
      | .hbmLine w => (s.pinnedLeaf q.ctx (BitVec.ofNat 64 (64 * w))).map (fun l => (.hbmLine (l.pa / 64), p.2))
      | _ => none)
  | (.remote .., _) => []
def eccUnit : UeLoc → Nat
  | .hbmLine _ => 64 | _ => 8
/-- The ECC words in error that some runs of bytes cover whole between them: a copy or store that does so writes fresh check
bits, however small its elements are (R413). -/
def State.covered (s : State) (q : QRec) (runs : List (Mem × Nat)) : List UeLoc :=
  if s.mem.ue.isEmpty then [] else
  let ps := (runs.map (s.eccPieces q)).flatten
  s.mem.ue.filter (fun l => (List.range (eccUnit l)).all (fun i =>
    ps.any (fun p => p.1 == l && decide (p.2.1 ≤ i) && decide (i < p.2.1 + p.2.2))))

-- Values.

/-- The scale word of a LOG6 handle's block: a handle carries no scale region, and the specification states no scale for
it (log 19). -/
def State.freeScale (s : State) (m : Mem) : Nat := (Config.freeWord (s.freeCtr + m.off / 24)).toNat % 1024
/-- A LOG6 element's code and scale word; none for other places. -/
def State.readCode (s : State) (q : QRec) (p : Place) : Eng' (Nat × Nat) :=
  match p with
  | .log6 b k pos w => do
    let m ← s.readMem q (.bank b (24 * k)) 24
    let sc ← s.readMem q (.bank b (bfScoff w + 2 * k)) 2
    return (m / 2 ^ (6 * pos) % 64, sc)
  | .code m pos => do
    let x ← s.readMem q m 24
    return (x / 2 ^ (6 * pos) % 64, s.freeScale m)
  | _ => engF

/-- The bits at a place, with its own format; an immediate is taken as format `f`. -/
def State.readRaw (s : State) (q : QRec) (f : Nat) (p : Place) : Eng' Nat :=
  match p with
  | .bytes m n => s.readMem q m n
  | .imm v => .ok (v.toNat % 2 ^ fmtBits f)
  | _ => engF

/-- An element read in its own format and converted to `f` (R60, R65, R129), which is FP32 bound for LOG6 where `f` is 7: its
bits, and the counters raised. -/
def State.readAs (s : State) (q : QRec) (o : Opd) (f : Nat) (rm : Rm) (sat : Bool) (i : Int) : Eng' (Nat × List Nat) := do
  let p ← o.place f i
  match p with
  | .log6 .. | .code .. =>
    let (c, sc) ← s.readCode q p
    return log6As f rm sat c sc
  | _ =>
    let b ← s.readRaw q f p
    let (y, e') := convElem (o.fmt f) f rm sat b
    return (y, e'.toList)

/-- The elements that a record has written so far into blocks of LOG6: by block, positions with their FP32 bits (R108).
Banks come first (bank × 2^14 + block), then byte addresses of handles. -/
abbrev Blocks := Tbl (List (Nat × Nat))
/-- Positions in a destination with their values in some format. -/
abbrev Writes := List (Int × Nat)

/-- What an issue has done: the state, the blocks of the record, the counters raised; and the ECC words in error that its
writes cover whole between them. -/
structure Iss where
  s    : State
  blk  : Blocks := []
  evs  : List Nat := []
  cov  : List UeLoc := []

def blockVals (l : List (Nat × Nat)) : List (Option Num) :=
  (List.range 32).map (fun p => (l.find? (fun e => e.1 == p)).map (fun e => toNum fp32 e.2))
/-- The counters that the elements of a record's blocks raise, counted once the record has written them all (R70, R108). -/
def blockEvents (b : Blocks) : List Nat := (b.map (fun e => (log6Quant (blockVals e.2)).2.2)).flatten
def packCodes (cs : List Nat) : Nat := cs.foldr (fun (c : Nat) (acc : Nat) => c + 64 * acc) 0

/-- The key of the block that a place lies in, and its position there. -/
def Place.block : Place → Option (Nat × Nat)
  | .log6 b k pos _ => some (b * 2 ^ 14 + k, pos)
  | .code m pos => some (2 ^ 20 + m.off, pos)
  | _ => none
/-- The runs of bytes that a write of an element touches: a block of LOG6 is written whole, with its scale word (R108). -/
def Place.runs : Place → List (Mem × Nat)
  | .bytes m n => [(m, n)]
  | .log6 b k _ w => [(.bank b (24 * k), 24), (.bank b (bfScoff w + 2 * k), 2)]
  | .code m _ => [(m, 24)]
  | .imm _ => []
def Opd.runs (o : Opd) (f : Nat) (i : Int) : List (Mem × Nat) := match o.place f i with | .ok p => p.runs | .error _ => []
/-- Write a block of LOG6, quantised from the elements that the record writes into it; the others become +0 (R66, R108). -/
def State.writeBlock (s : State) (q : QRec) (p : Place) (l : List (Nat × Nat)) : Eng' State :=
  let (sc, codes, _) := log6Quant (blockVals l)
  match p with
  | .log6 b k _ w => do
    let s ← s.writeMem q (.bank b (24 * k)) 24 (packCodes codes)
    s.writeMem q (.bank b (bfScoff w + 2 * k)) 2 sc
  | .code m _ => s.writeMem q m 24 (packCodes codes)
  | _ => engF

/-- Write one element, given in format `f` (7: in FP32, bound for LOG6), converting on the way (R60, R107, R108). -/
def Iss.put (x : Iss) (q : QRec) (o : Opd) (f : Nat) (rm : Rm) (sat : Bool) (w : Int × Nat) : Eng' Iss := do
  let p ← o.place f w.1
  match p, p.block with
  | .bytes m n, _ =>
    let (y, e) := convElem f (o.fmt f) rm sat w.2
    let s ← (x.s.scrub x.cov).writeMem q m n y
    return { x with s := s, evs := x.evs ++ e.toList }
  | _, some (key, pos) =>
    let l := (pos, (convElem f 7 .rne false w.2).1) :: (tblGetD x.blk key []).filter (fun e => e.1 != pos)
    let s ← (x.s.scrub x.cov).writeBlock q p l
    return { x with s := s, blk := tblSet x.blk key l }
  | _, _ => engF
def Iss.putAll (x : Iss) (q : QRec) (o : Opd) (f : Nat) (rm : Rm) (sat : Bool) (ws : Writes) : Eng' Iss :=
  ws.foldlM (fun x w => x.put q o f rm sat w) { x with cov := x.cov ++ x.s.covered q (ws.map (fun w => o.runs f w.1)).flatten }
/-- A raw element into a place of the same format. -/
def Iss.putRaw (x : Iss) (q : QRec) (o : Opd) (f : Nat) (i : Int) (v : Nat) : Eng' Iss := do
  match ← o.place f i with
  | .bytes m n => let s ← (x.s.scrub x.cov).writeMem q m n v; return { x with s := s }
  | _ => engF
def Iss.putRaws (x : Iss) (q : QRec) (o : Opd) (f : Nat) (ws : Writes) : Eng' Iss :=
  ws.foldlM (fun x w => x.putRaw q o f w.1 w.2) { x with cov := x.cov ++ x.s.covered q (ws.map (fun w => o.runs f w.1)).flatten }

end Sys2Proof.Machine
end

