-- ==== Sys2Proof/Machine/Issue.lean ====
section
/-! DEFINITION. One issue of an engine: which slot is served (R13, R290), what an issue does to its record (R39, R54, R131,
R162, R213), and a fault that ends the record (R216, R302, R310). -/

namespace Sys2Proof.Machine


def Slot.served (t : Slot) : Eng → Nat
  | .mx => t.servMx | .vx => t.servVx | .cx => t.servCx | .ae => t.servAe
def Slot.stamp (t : Slot) (e : Eng) (n : Nat) : Slot :=
  match e with
  | .mx => { t with servMx := n } | .vx => { t with servVx := n } | .cx => { t with servCx := n } | .ae => { t with servAe := n }
/-- The engine serves the slot now. -/
def State.serve (s : State) (e : Eng) (k : Nat) : State :=
  { s.setSlot k ((s.slot k).stamp e s.serial) with serial := s.serial + 1 }

/-- When the engine last served a slot, or the service queues of a core (R326). -/
def State.servedAt (s : State) (e : Eng) (k : Nat) : Nat :=
  if k < 65536 then (s.slot k).served e
  else match e with | .vx => (s.core (k - 65536)).redVx | _ => (s.core (k - 65536)).redCx
/-- Of some slots in rising order, the one of the highest effective priority, and of those the least recently served (R13). -/
def State.bestOf (s : State) (e : Eng) (c : List Nat) : Option Nat :=
  c.foldl (fun best k => match best with
    | none => some k
    | some b =>
      let pb := s.eff (s.ctxFor e b); let pk := s.eff (s.ctxFor e k)
      if pb < pk || (pb == pk && s.servedAt e k < s.servedAt e b) then some k else best) none
/-- Which of the ready slots is served next (R13): those in reservation before those on leftover, where what else they draw on has
leftover too. -/
def State.pick (s : State) (e : Eng) (elig : Nat → Bool) (ready : List Nat) (spare : Nat → Bool := fun _ => true) : Option Nat :=
  let res := ready.filter elig
  s.bestOf e (if res.isEmpty then ready.filter (fun k => (s.ctx (s.ctxFor e k)).gauge.lo && spare k) else res)

-- Waits and starts (R211, R213).

/-- The wait of a record passes (R211, R213). -/
def State.waitPasses (s : State) (q : QRec) : Bool := passes (s.sem q.ctx (rWsem q.r)).count (rWthr q.r)
/-- Records of the slot may start: no debug halt, and no pre-emption that has reached its engines (R311, R314). -/
def Slot.mayStartRecord (t : Slot) : Bool := !t.halted && !(t.preReq && t.lockend == 0)

-- The operand fetcher's operands (R161).

/-- The fetcher copies an operand of this MX record: a handle operand A, or the weight blocks of MX.BSW. -/
def mFetches (q : QRec) : Bool :=
  match rOp q.r with
  | 1 | 2 | 5 => dSpace (descA q.r) == 0xD
  | 6 => true
  | _ => false
/-- MX records that write memory: MX.ACRD and MX.HAD. -/
def mxStores (q : QRec) : Bool := rOp q.r == 3 || rOp q.r == 5
/-- The topology entry of an issue of MX.BSW, read from B as raw bytes (R159): in a bank of FORMAT LOG6 too, without the test of R106
that an offset is a multiple of 24 and without its fault for SCOFF 0, since the table's bytes are no elements; R159 gives no such
exemption in words, as R139 does (DESIGN CHOICE, log 33). -/
def State.bswEntry (s : State) (q : QRec) (k : Nat) : Eng' Nat :=
  match q.opB with
  | .bank b _ off => s.readMem q (.bank b (off + 8 * k)) 8
  | _ => engF
/-- The handle of the weight block that an entry names. -/
def bswHandle (q : QRec) (e : Nat) : BitVec 256 := (q.bsw[e / 2 ^ 16 % 32]?).getD 0
/-- An entry names a block that can be read: it is no padding and obeys R159. -/
def bswReads (q : QRec) (e : Nat) : Bool :=
  e / 2 ^ 63 != 0 && e / 2 ^ 50 % 2 ^ 13 == 0 && e / 2 ^ 21 % 2 ^ 11 == 0 && decide (e / 2 ^ 16 % 32 < q.bsw.length)
    && decide ((e / 2 ^ 32 % 2 ^ 16 + 1) * 2048 ≤ hCount (bswHandle q e))
/-- The entry that a fetch for an issue is of; 0 for an operand that is none, or an entry that cannot be read now. -/
def State.fetchEntry (s : State) (q : QRec) (k : Nat) : Option Nat :=
  if rOp q.r = 6 then (match s.bswEntry q k with | .ok e => some e | .error _ => none) else some 0
/-- The bytes of a fetch come from G. -/
def State.fetchesG (s : State) (q : QRec) (k : Nat) : Bool :=
  if rOp q.r = 6 then (match s.fetchEntry q k with | some e => bswReads q e && hSpace (bswHandle q e) == 0 | none => false)
  else q.opA.inG

def mFmt (o : Opd) : Nat := o.fmt 6
/-- Bytes of an operand that an issue of this record stages. -/
def stageBytes (q : QRec) : Nat :=
  match rOp q.r with
  | 1 | 5 => 4096 * fmtSize (mFmt q.opA) | 2 => 2048 * fmtSize (mFmt q.opA)
  | _ => 2048 * ((q.bsw.map (fun h => fmtSize (hFmt h))).headD 4)
/-- An operand that the fetcher holds for an issue; a padding entry has none. -/
def Run.holds (r : Run) (k : Nat) : Bool := match tblGet r.stage k with | some (_, xs) => !xs.isEmpty | none => false
/-- Bytes in a core's staging buffer: of operands, and of reductions (R161, R326). -/
def State.staging (s : State) (core : Nat) : Nat :=
  let held (r : Run) : Nat := if mFetches r.q then (r.stage.filter (fun e => !e.2.2.isEmpty)).length * stageBytes r.q else 0
  ((coreSlots core).map (fun k =>
    (match (s.slot k).rmx with | some r => held r | none => 0) + ((s.slot k).ahead.map (fun e => held e.2)).sum)).sum
    + (((s.core core).red.filter (fun j => j.copied)).map (fun j => j.bytes)).sum
/-- A record again needs the block of its next issue: its entry is another one than was fetched, or could not be. -/
def State.stale (s : State) (r : Run) : Bool :=
  rOp r.q.r == 6 && (match s.fetchEntry r.q r.next with
    | none => false
    | some e => match tblGet r.stage r.next, tblGet r.fetchBad r.next with
      | some (t, _), _ => e != t
      | none, some (t, _, _) => e != t
      | none, none => false)
/-- The issue that the fetcher fetches for, of a record running or queued: the one whose block has become another, else the next one
that it has not fetched. -/
def State.fetchFor (s : State) (r : Run) : Option Nat :=
  if r.done || !mFetches r.q then none
  else if s.stale r then some r.next
  else if r.staged < rIssues r.q.r then some r.staged else none
/-- The queued record of the slot that the fetcher may serve ahead of its start: its wait and those before it are satisfied,
something of it is not fetched, and no record before it writes memory (R161). A record behind one whose wait is not satisfied is not
served, so that the buffer never fills with what cannot run before that one has its data. -/
def State.fetchAhead (s : State) (k : Nat) : List QRec → Option Run
  | [] => none
  | q :: rest =>
    let r := (tblGet (s.slot k).ahead q.serial).getD { q := q }
    if !rNw q.r && ((s.sem q.ctx (rWsem q.r)).poison || !s.waitPasses q) then none
    else if (s.fetchFor r).isSome then some r
    else if mxStores q then none
    else State.fetchAhead s k rest
/-- What the fetcher fetches next for a slot: the record, the issue, and whether it runs. How the records of a core share the
buffer the specification does not say: room goes to what is fetched first, and what is staged stays until its issue or the end of
its record; without room a fetch waits (DESIGN CHOICE, log 33). -/
def State.fetchNext (s : State) (slot : Nat) : Option (Run × Nat × Bool) :=
  let t := s.slot slot
  let fits (r : Run) (k : Nat) : Bool :=
    decide (s.staging (coreOf slot) + (if r.holds k then 0 else stageBytes r.q) ≤ 262144)
  let of_ (r : Run) (running : Bool) : Option (Run × Nat × Bool) :=
    (s.fetchFor r).bind fun k => if fits r k then some (r, k, running) else none
  let ahead : Option (Run × Nat × Bool) := (s.fetchAhead slot t.qmx).bind fun r => of_ r false
  if t.landing.any (fun r => rEng r.q.r == 0 && mxStores r.q) then none
  else match t.rmx with
    | some r => if (s.fetchFor r).isSome then of_ r true else if mxStores r.q then none else ahead
    | none => ahead

-- Leftover (R290).

/-- The head record of a slot's CX queue waits for a channel: its wait is satisfied. -/
def State.cxHeadReady (s : State) (k : Nat) : Bool :=
  match (s.slot k).qcx with
  | [] => false
  | q :: _ => (s.slot k).mayStartRecord && (rNw q.r || (!(s.sem q.ctx (rWsem q.r)).poison && s.waitPasses q))
/-- The slots of a core that wait for a channel, with a record or a job (R326). -/
def State.cxWaiting (s : State) (core : Nat) : List Nat :=
  let b := s.redReady .cx core
  if b.isEmpty then (coreSlots core).filter s.cxHeadReady
  else (coreSlots core ++ [svcSlot core]).filter (fun k => s.cxHeadReady k || b.contains k)
/-- Leftover CX bytes remain: a channel is free, and nothing in reservation waits for one. -/
def State.cxLeftover (s : State) (core : Nat) : Bool :=
  decide ((s.core core).ch.length < 4) && !(s.cxWaiting core).any (fun k => s.avail (s.ctxFor .cx k) 3 core)
/-- CX bytes for a context: in reservation, or as leftover. -/
def State.mayCx (s : State) (ctx core : Nat) : Bool := s.avail ctx 3 core || ((s.ctx ctx).gauge.lo && s.cxLeftover core)
def cxUsesG (q : QRec) : Bool := q.opA.inG || q.opB.inG || q.opD.inG
/-- The issue of a channel before the next one is performed: what it read remotely has come (R182). One that only sends is complete
once its last message is queued (R272). -/
def Run.settled (r : Run) : Bool := r.stage.isEmpty
/-- An AE record draws on AE cycles, and on HBM bytes where an operand lies in G. -/
def aeUsesG (q : QRec) : Bool := ([q.opD, q.opA, q.opB, q.opC]).any Opd.inG
/-- An access of a slot, or of a channel of a core, or of a triggered operation, that draws on HBM bytes and would start in
reservation, waits to be issued: a fetch, a round, an issue of CX, a COPY or LRED. -/
def State.fetchWaits (s : State) (k : Nat) : Bool :=
  match s.fetchNext k with
  | some (r, i, _) => s.avail r.q.ctx 3 (coreOf k) && s.avail r.q.ctx 4 0 && s.fetchesG r.q i
  | none => false
def State.roundWaits (s : State) (k : Nat) : Bool :=
  match (s.slot k).rae with
  | some r => !r.done && aeUsesG r.q && s.avail r.q.ctx 2 (dieOf (coreOf k)) && s.avail r.q.ctx 4 0
  | none => false
def State.copyWaits (s : State) (core : Nat) (r : Run) : Bool :=
  !r.done && !r.opened && !r.listing && r.ixs.isNone && decide (r.next < rIssues r.q.r) && r.settled && cxUsesG r.q && s.avail r.q.ctx 3 core && s.avail r.q.ctx 4 0
def State.opWaits (s : State) (a : Armed) : Bool := a.fired && !a.spent && a.op != 5 && s.avail a.ctx 4 0
/-- Leftover HBM bytes remain: none of these waits. -/
def State.hbmLeftover (s : State) : Bool :=
  !s.slots.any (fun (e : Nat × Slot) => s.fetchWaits e.1 || s.roundWaits e.1)
    && !s.cores.any (fun (e : Nat × Core) => e.2.ch.any (fun x => s.copyWaits e.1 x.2))
    && !s.coll.armed.any (fun (e : Nat × Armed) => s.opWaits e.2)
/-- HBM bytes for a context: in reservation, or as leftover. -/
def State.mayHbm (s : State) (ctx : Nat) : Bool := s.avail ctx 4 0 || ((s.ctx ctx).gauge.lo && s.hbmLeftover)
/-- An issue of CX may start, with its bytes of G or none. -/
def State.cxMayStart (s : State) (ctx core : Nat) (usesG : Bool) : Bool := s.mayCx ctx core && (!usesG || s.mayHbm ctx)

-- Which slot an engine serves (R13).

/-- The slot, or the service queues, that an engine of a core serves now. -/
def State.servedNow (s : State) (e : Eng) (core : Nat) : Option Nat :=
  s.pick e (fun j => s.avail (s.ctxFor e j) (engRes e) core) (s.servable e core)
/-- The slot is the one that the engine of its core serves now. -/
def State.serves (s : State) (e : Eng) (k : Nat) : Bool := s.servedNow e (coreOf k) == some k
/-- The slot that takes the core's next free channel (R13, R182). -/
def State.cxChosen (s : State) (core : Nat) : Option Nat :=
  let ready := s.cxWaiting core
  let res := ready.filter (fun k => s.avail (s.ctxFor .cx k) 3 core)
  s.bestOf .cx (if res.isEmpty then ready else res)

/-- The EVAL of a record's fault (R302): OPC and the issue, or that of the machine check. -/
def faultEval (q : QRec) (issue cause : Nat) (eval : Word) : Word :=
  if cause = 0x0A then BitVec.ofNat 64 (rOpc q.r + issue % 2 ^ 32 * 2 ^ 16) else eval
/-- The record faults: no later issue runs; a machine check sends its event record (R216, R310). -/
def State.faulted (s : State) (r : Run) (cause : Nat) (eval : Word) : State × Run :=
  let v := faultEval r.q r.next cause eval
  let s := if cause = 0x20 then s.emit 4 r.q.ctx (leBytesN 8 v.toNat) else s
  (s.fxAll r.q.ctx (blockEvents r.blk), { r with fault := some (cause, v), done := true })
/-- Does the record name a LOG6 handle, whose scales are free values (log 19)? -/
def QRec.freeScales (q : QRec) : Bool := (([q.hD, q.hA, q.hB, q.hC].zip (descs q.r)).any (fun e => dSpace e.2 == 0xD && hFmt e.1 == 7))
/-- The record has performed an issue; after the last one it is done. What it drew of free scales is used up, and what was
staged for it. -/
def State.performed (x : Iss) (r : Run) (last : Bool) : State × Run :=
  let s := x.s.fxAll r.q.ctx x.evs
  let s := if r.q.freeScales then { s with freeCtr := s.freeCtr + 2 ^ 48 } else s
  let s := if last then s.fxAll r.q.ctx (blockEvents x.blk) else s
  (s, { r with next := r.next + 1, blk := x.blk, done := last, stage := tblErase r.stage r.next })

/-- What an issue does: on the state, the record, the issue's number and the record's blocks. -/
abbrev Body := State → QRec → Nat → Blocks → Eng' Iss

/-- One issue of a slot's running MX or VX record, when the record is of this kind and R13 serves the slot: it is charged at
its start, whatever comes of it; a stall leaves everything as it is, so that the slot stays the one that R13 chooses and no other
is served meanwhile: whether a slot whose issue stalls (on a waking cluster, on a stack that is not ready) is ready in the sense of
R13, the spec does not say (DESIGN CHOICE, log 32). `wake` is what the issue's start does and adds. -/
def State.issue (s : State) (e : Eng) (k : Nat) (want : QRec → Bool) (cost : QRec → Nat → Nat) (body : Body)
    (wake : State → QRec → Nat → State × Nat := fun s _ _ => (s, 0)) : Host.Outcome State Fault Refusal :=
  match (s.slot k).run e with
  | none => .next s
  | some r =>
    if !want r.q || !r.ready || !s.serves e k then .next s
    else
      let (t, extra) := wake s r.q r.next
      let t := (t.serve e k).chargeT k r.q.ctx (engRes e) (coreOf k) (cost r.q r.next + extra)
      match body t r.q r.next r.blk with
      | .error .stall => .next s
      | .error (.fault c v) =>
        let (t, r) := t.faulted r c v
        .next (t.setSlot k ((t.slot k).setRun e (some r)))
      | .ok x =>
        let (t, r) := State.performed x r (r.next + 1 == rIssues r.q.r)
        .next (t.setSlot k ((t.slot k).setRun e (some r)))

end Sys2Proof.Machine
end

