-- ==== Sys2Proof/Machine/Ae.lean ====
section
/-! DEFINITION. The auction engine (R334 to R348): one round per issue. -/

namespace Sys2Proof.Machine

-- The state area (R339).


def toSigned (bits v : Nat) : Int := if 2 ^ (bits - 1) ≤ v then (v : Int) - 2 ^ bits else v
def ofSigned (bits : Nat) (v : Int) : Nat := (v % (2 ^ bits : Int)).toNat
def sat32 (v : Int) : Int := clampInt (-(2 ^ 31)) (2 ^ 31 - 1) v
def aeBytes (n : Nat) : Nat := 1088 + 24 * n
def leAt (b : Array Nat) (off n : Nat) : Nat :=
  (List.range n).foldr (fun i acc => (b[off + i]?).getD 0 + 256 * acc) 0
def aucOf (b : Array Nat) : Auction :=
  let n := leAt b 0 2; let m := leAt b 2 2; let k := leAt b 4 1
  { n := n, m := m, k := k, pass := leAt b 5 1, status := leAt b 6 1, rounds := leAt b 8 4, total := leAt b 12 4
    price := (List.range 256).map (fun j => toSigned 32 (leAt b (64 + 4 * j) 4))
    bid := (List.range n).map (fun i => toSigned 32 (leAt b (1088 + 24 * i) 4))
    act := (List.range n).map (fun i => leAt b (1092 + 24 * i) 1)
    col := (List.range n).map (fun i => (List.range 8).map (fun q => toSigned 16 (leAt b (1096 + 24 * i + 2 * q) 2))) }
def leBytes' (n v : Nat) : List Nat := (List.range n).map (fun i => v / 256 ^ i % 256)
def Auction.bytes (a : Auction) : List Nat :=
  leBytes' 2 a.n ++ leBytes' 2 a.m ++ [a.k % 256, a.pass % 256, a.status % 256, 0] ++ leBytes' 4 a.rounds ++ leBytes' 4 a.total
    ++ List.replicate 48 0
    ++ (a.price.map (fun p => leBytes' 4 (ofSigned 32 p))).flatten
    ++ ((a.bid.zip (a.act.zip a.col)).map (fun (b, x, c) =>
        leBytes' 4 (ofSigned 32 b) ++ [x % 256, 0, 0, 0] ++ (c.map (fun v => leBytes' 2 (ofSigned 16 v))).flatten)).flatten
/-- The auction that AE.RUN starts with (R345). -/
def Auction.fresh (n m k : Nat) : Auction :=
  { n := n, m := m, k := k, pass := 0, status := 0, rounds := 0, total := 0
    price := List.replicate 256 0, bid := List.replicate n 0, act := List.replicate n 0
    col := List.replicate n ((List.range 8).map (fun q => if q < k then -1 else 0)) }
/-- The header obeys R336 and R339. -/
def Auction.ok (a : Auction) : Bool :=
  1 ≤ a.n && a.n ≤ 1024 && 1 ≤ a.m && a.m ≤ 256 && 1 ≤ a.k && a.k ≤ 8 && a.status ≤ 2 &&
  (if a.status = 1 then a.pass == a.k else a.pass < a.k)
def Auction.live (a : Auction) : List Nat := (List.range a.n).filter (fun i => a.act[i]? == some 0)

-- One round (R340 to R342).

def getI (l : List Int) (i : Nat) : Int := (l[i]?).getD 0
def Auction.colAt (a : Auction) (i t : Nat) : Int := getI ((a.col[i]?).getD []) t
/-- Capacity left for this pass. -/
def Auction.rem (a : Auction) (cap : List Nat) : List Int :=
  (List.range a.m).map (fun (j : Nat) =>
    let held : Nat := ((List.range a.n).map (fun i =>
      ((List.range a.pass).filter (fun t => a.colAt i t == (j : Int))).length)).sum
    let c : Nat := (cap[j]?).getD 0
    (c : Int) - (held : Int))
/-- What a row does: drop, or a bid for a column. `score j` is the row's score for a column that R338 allows. -/
def Auction.bids (a : Auction) (rem : List Int) (eps res : Int) (i : Nat) (score : Nat → Option Int) : Option (Nat × Int) :=
  let vs := (List.range a.m).filterMap (fun j =>
    match score j with
    | none => none
    | some x =>
      if 0 < getI rem j && (List.range a.pass).all (fun t => a.colAt i t != (j : Int)) then
        some (j, sat32 (x - getI a.price j)) else none)
  match vs with
  | [] => none
  | v :: r =>
    let b := r.foldl (fun (b : Nat × Int) x => if b.2 < x.2 then x else b) v
    let others := vs.filter (fun x => x.1 != b.1)
    let second := match others with | [] => res | x :: r => r.foldl (fun m y => if m < y.2 then y.2 else m) x.2
    if b.2 < res then none else some (b.1, sat32 (getI a.price b.1 + (b.2 - second) + eps))
def Auction.setRow (a : Auction) (i act : Nat) (bid : Int) (col : List Int) : Auction :=
  { a with act := a.act.set i act, bid := a.bid.set i bid, col := a.col.set i col }
def Auction.drop (a : Auction) (i : Nat) : Auction :=
  let c := (a.col[i]?).getD []
  a.setRow i 2 (getI a.bid i) ((c.zipIdx).map (fun e => if a.pass ≤ e.2 && e.2 < a.k then -2 else e.1))
/-- Column `j` accepts the best of its holders and bidders (R341). -/
def Auction.accept (rem : List Int) (targets : List (Nat × Nat × Int)) (a : Auction) (j : Nat) : Auction :=
  let holders := (List.range a.n).filterMap (fun i =>
    if a.act[i]? == some 1 && a.colAt i a.pass == (j : Int) then some (i, getI a.bid i) else none)
  let comers := targets.filterMap (fun t => if t.2.1 == j then some (t.1, t.2.2) else none)
  let before (x y : Nat × Int) : Bool := y.2 < x.2 || (x.2 == y.2 && x.1 ≤ y.1)
  let cand := (holders ++ comers).mergeSort before
  let cap := (getI rem j).toNat
  let kept := cand.take cap
  let put (a : Auction) (i act : Nat) (bid v : Int) : Auction := a.setRow i act bid (((a.col[i]?).getD []).set a.pass v)
  let a := kept.foldl (fun a x => put a x.1 1 x.2 j) a
  let a := (cand.drop cap).foldl (fun a x => put a x.1 0 0 (-1)) a
  if 0 < cap && kept.length == cap then
    match kept.getLast? with | some x => { a with price := a.price.set j x.2 } | none => a
  else a
/-- The end of passes (R342). -/
def Auction.endPass : Nat → Auction → Auction
  | 0, a => a
  | f + 1, a =>
    if !a.live.isEmpty then a
    else if a.pass + 1 = a.k then { a with pass := a.k, status := 1 }
    else
      let was := a.act
      Auction.endPass f { a with
        pass := a.pass + 1
        act := was.map (fun x => if x = 1 then 0 else x)
        bid := (a.bid.zip was).map (fun e => if e.2 = 1 then 0 else e.1) }
/-- A whole round; `rounds` counts those of this record with this one. -/
def Auction.round (a : Auction) (cap : List Nat) (score : Nat → Nat → Option Int) (eps res : Int) (rounds maxr : Nat) : Auction :=
  let a := { a with status := 0 }
  let rem := a.rem cap
  let outs := a.live.map (fun i => (i, a.bids rem eps res i (score i)))
  let b := (outs.filter (fun o => o.2.isNone)).foldl (fun b o => b.drop o.1) a
  let targets := outs.filterMap (fun o => o.2.map (fun t => (o.1, t.1, t.2)))
  let b := (List.range a.m).foldl (Auction.accept rem targets) b
  let b := Auction.endPass 9 { b with rounds := rounds, total := Nat.min (a.total + 1) 0xFFFFFFFF }
  if b.status != 1 && rounds == maxr then { b with status := 2 } else b

-- Operands (R337, R338).

def aBase (q : QRec) (i : Nat) : Int :=
  match i with
  | 0 => q.opD.baseElem 2 | 1 => q.opA.baseElem 6 | 2 => q.opB.baseElem 3 | _ => q.opC.baseElem 1
/-- A score in Q15.16; none where the column is not allowed. -/
def scoreOf (b : Nat) : Option Int :=
  match toNum fp32 b with
  | .nan => none
  | .inf neg => if neg then none else some (2 ^ 31 - 1)
  | .fin neg m e => some (sat32 (roundInt .rne neg m (e + 16)))
def State.aeRead (s : State) (q : QRec) (o : Opd) (f : Nat) (i : Int) : Eng' Nat := do s.readRaw q f (← o.place f i)
def State.aeArea (s : State) (q : QRec) (from_ n : Nat) : Eng' (List Nat) :=
  (List.range n).mapM (fun b => s.aeRead q q.opC 1 (aBase q 3 + (from_ + b : Nat)))
/-- The row pitch of the scores. -/
def aePitch (q : QRec) (m : Nat) : Nat := let p := dStride (descA q.r) 0; if p = 0 then m else p.toNat
/-- The operands have room for the sizes that C holds. -/
def aeFits (q : QRec) (a : Auction) : Bool :=
  let p := aePitch q a.m
  let last (o : Opd) (f : Nat) (base : Int) (n : Nat) : Bool := match o.place f (base + (n - 1 : Nat)) with | .ok _ => true | _ => false
  a.m ≤ p && last q.opD 2 (aBase q 0) (a.n * a.k) && last q.opA 6 (aBase q 1) (p * (a.n - 1) + a.m)
    && last q.opB 3 (aBase q 2) a.m && last q.opC 1 (aBase q 3) (aeBytes a.n)

/-- A write of a round: bytes of C, or an element of D. -/
abbrev AeWrite := Mem × Nat × Nat
def aeWriteC (q : QRec) (b v : Nat) : Eng' AeWrite := do
  match ← q.opC.place 1 (aBase q 3 + b) with | .bytes m n => return (m, n, v) | _ => engF
def aeWriteD (q : QRec) (i : Nat) (v : Int) : Eng' AeWrite := do
  match ← q.opD.place 2 (aBase q 0 + i) with | .bytes m n => return (m, n, ofSigned 32 v) | _ => engF

/-- What an issue of an AE record comes to: no round at all, a round from the auction it starts with, with its writes, or a
fault, of a round that has started or before one. -/
inductive AeOut where
  | stall
  | ended
  | fault (cause : Nat) (eval : Word) (a : Option Auction)
  | round (a b : Auction) (ws : List AeWrite)

/-- Bytes of G that a round of this record is charged for (R346). -/
def aeHbm (q : QRec) (a : Auction) (na : Nat) : Nat :=
  let g (o : Opd) (n : Nat) : Nat := match o with | .hnd h _ => if hSpace h = 0 then n else 0 | _ => 0
  g q.opA (4 * a.m * na) + g q.opB (4 * a.m) + g q.opC (2 * aeBytes a.n) + g q.opD (4 * a.n * a.k)

/-- The auction that a round starts with, and the bytes of its area; none where it is done already. Each round after a record's first,
and AE.CONT's first, starts from what C holds, which the round before has written, or another record has left (R334, R345, R348). -/
def State.aeStart (s : State) (q : QRec) (fresh first : Bool) : Eng' (Option (Auction × List Nat)) := do
  if fresh && first then
    let a := Auction.fresh (rField q.r 22 10 + 1) (rField q.r 14 8 + 1) (rField q.r 11 3 + 1)
    if !a.ok || !aeFits q a then engF else return some (a, List.replicate (aeBytes a.n) 256)
  else
    let old ← s.aeArea q 0 64
    let h := aucOf old.toArray
    if !h.ok || (first && h.status == 0) then engF
    else if h.status = 1 then return none
    else if !aeFits q h then engF
    else
      let area ← s.aeArea q 0 (aeBytes h.n)
      return some (aucOf area.toArray, area)
/-- A round from an auction: how it ends, and what it writes, all of D where it is the record's start. -/
def State.aeWork (s : State) (q : QRec) (start : Bool) (rounds : Nat) (a : Auction) (area : List Nat) : Eng' (Auction × List AeWrite) := do
  let cap ← (List.range a.m).mapM (fun j => do
    let c ← s.aeRead q q.opB 3 (aBase q 2 + (j : Nat))
    return if q.opB.fmt 3 = 2 && 2 ^ 31 ≤ c then 0 else Nat.min c 1024)
  let p := aePitch q a.m
  let rows ← a.live.mapM (fun i => do
    let xs ← (List.range a.m).mapM (fun j => s.aeRead q q.opA 6 (aBase q 1 + (p * i + j : Nat)))
    return (i, (xs.map scoreOf)))
  let score (i j : Nat) : Option Int := match rows.find? (fun x => x.1 == i) with
    | some x => ((x.2)[j]?).getD none | none => none
  let b := a.round cap score q.aeeps.toInt q.aeres.toInt rounds q.aemax.toNat
  let cs ← ((b.bytes.zip area).zipIdx).filterMapM (fun ((n, o), i) => do
    if n = o then return none else return some (← aeWriteC q i n))
  let ds ← (List.range (a.n * a.k)).filterMapM (fun x => do
    let i := x / a.k; let t := x % a.k
    if start || a.colAt i t != b.colAt i t then return some (← aeWriteD q x (b.colAt i t)) else return none)
  return (b, cs ++ ds)
/-- The writes of a round, in one piece: an ECC word that they cover whole between them is written whole (R413). -/
def State.aePut (s : State) (q : QRec) (ws : List AeWrite) : Eng' State :=
  ws.foldlM (fun (t : State) w => t.writeMem q w.1 w.2.1 w.2.2) (s.scrub (s.covered q (ws.map (fun w => (w.1, w.2.1)))))
/-- The AE of a die holds the state of this record. -/
def State.aeLoaded (s : State) (d : Nat) (q : QRec) : Bool := (s.die d).ae.serial == some q.serial
/-- Before a round of a record whose state is not loaded, the state that is goes to its record's area, where that record still
runs (R334). -/
def State.aeUnload (s : State) (d : Nat) (q : QRec) : State :=
  let h := (s.die d).ae
  if s.aeLoaded d q then s
  else match (List.range 128).findSome? (fun i => match (s.slot (128 * d + i)).rae with
      | some r => if some r.q.serial == h.serial && !r.done then some r.q else none
      | none => none) with
    | none => s
    | some p => match (h.auc.bytes.zipIdx).mapM (fun e => aeWriteC p e.2 e.1) with
      | .error _ => s
      | .ok ws => match s.aePut p ws with | .ok t => t | .error _ => s
/-- One issue of a record, `fresh` for AE.RUN. -/
def State.aeIssue (s : State) (q : QRec) (fresh : Bool) (rounds : Nat) : AeOut :=
  let first := rounds == 1
  match s.aeStart q fresh first with
  | .error .stall => .stall
  | .error (.fault c v) => .fault c v none
  | .ok none => .ended
  | .ok (some (a, area)) =>
    match s.aeWork q (fresh && first) rounds a area with
    | .error .stall => .stall
    | .error (.fault c v) => .fault c v (some a)
    | .ok (b, ws) => .round a b ws
/-- The charge of a round at its start, and the state that the engine then holds (R334, R346). -/
def State.aeCharge (s : State) (slot : Nat) (r : Run) (a : Auction) : State :=
  let q := r.q
  let d := dieOf (coreOf slot)
  let die := s.die d
  let na := a.live.length
  let more := if r.next == 0 || !s.aeLoaded d q then (aeBytes a.n + 63) / 64 else 0
  let s := s.setDie d { die with ae := { serial := some q.serial, auc := a } }
  let s := s.chargeT q.who.slot q.ctx 2 d (24 + (na * a.m + 63) / 64 + 2 * na + more)
  s.chargeT q.who.slot q.ctx 4 0 (aeHbm q a na)

/-- The slots of a die that have an AE record running, in rising order: those of a lower core come first (R13 numbers the slots of
one core only: DESIGN CHOICE, log 32). -/
def State.aeReady (s : State) (d : Nat) : List Nat :=
  (List.range 128).filterMap (fun i =>
    let k := 128 * d + i
    match (s.slot k).rae with | some r => if r.done then none else some k | none => none)

/-- A word of a faulting round is old or new (R347, log 13). -/
def State.aePartial (s : State) (q : QRec) (ws : List AeWrite) : State :=
  let t := ws.foldl (fun (t : State) w =>
    if Config.freeBool (s.freeCtr + w.1.off / 8) then
      match t.writeMem q w.1 w.2.1 w.2.2 with | .ok t => t | .error _ => t
    else t) s
  { t with freeCtr := s.freeCtr + 2 ^ 48 }

/-- One issue of a slot's running AE record. -/
def State.aeRow (s : State) (slot op : Nat) : Host.Outcome State Fault Refusal :=
  match (s.slot slot).rae with
  | none => .next s
  | some r =>
    let q := r.q
    let d := dieOf (coreOf slot)
    let hbm (k : Nat) (more : Bool) : Bool :=
      match (s.slot k).rae with | some r => !aeUsesG r.q || s.avail (s.ctxAt k) 4 0 || more | none => false
    let elig (k : Nat) : Bool := s.avail (s.ctxAt k) 2 d && hbm k false
    let put (s : State) (r : Run) : State := s.setSlot slot { s.slot slot with rae := some r }
    if rOp q.r != op || r.done then .next s
    else match (s.aeUnload d q).aeIssue q (op == 1) (r.next + 1) with
      | .stall => .next s
      | .ended => .next (put s { r with done := true })
      | out =>
        if s.pick .ae elig (s.aeReady d) (fun k => hbm k s.hbmLeftover) != some slot then .next s
        else
          let s0 := s
          let s := (s.aeUnload d q).serve .ae slot
          match out with
          | .round a b ws =>
            let s := s.aeCharge slot r a
            (match s.aePut q ws with
             | .ok t => .next (put (t.setDie d { t.die d with ae := { serial := some q.serial, auc := b } })
                 { r with next := r.next + 1, done := b.status != 0 })
             | .error .stall => .next s0
             | .error (.fault c v) =>
               let (t, r) := (s.aePartial q ws).faulted r c v
               .next (put t r))
          | .fault c v a =>
            let (t, r) := (match a with | some a => s.aeCharge slot r a | none => s).faulted r c v
            .next (put t r)
          | _ => .next s

/-- A round of AE.RUN (R340, R345). -/
def execAeRun (slot : Nat) (s : State) : Host.Outcome State Fault Refusal := s.aeRow slot 1
/-- A round of AE.CONT. -/
def execAeCont (slot : Nat) (s : State) : Host.Outcome State Fault Refusal := s.aeRow slot 2

end Sys2Proof.Machine
end

