-- ==== Sys2Proof/Machine/Counters.lean ====
section
/-! DEFINITION. Trigger counters (R317, R321), the end of a collective (R331), what core the distributors choose (R14, R203), and
where a package without reducers reduces (R326). -/

namespace Sys2Proof.Machine

def State.ctr (s : State) (c k : Nat) : Ctr := tblGetD (s.ctx c).ctrs k {}
/-- COUNT − THR, modulo 2^48, is below 2^47 (R317). -/
def ctrPasses (count thr : BitVec 48) : Bool := !(count - thr).msb
def State.setArmed (s : State) (a : Tbl Armed) : State := { s with coll := { s.coll with armed := a } }
def State.setColls (s : State) (a : Tbl Coll) : State := { s with coll := { s.coll with colls := a } }
/-- The armed operations of a counter that passes become due, all through this one update (R321). -/
def State.ctrDue (s : State) (c k : Nat) : State :=
  let n := (s.ctr c k).count
  let mark (a : Armed) : Armed :=
    if a.ctx == c && a.ctr == k && !a.fired && a.due.isNone && ctrPasses n a.thr then { a with due := some s.serial } else a
  { s.setArmed (s.coll.armed.map (fun (e : Nat × Armed) => (e.1, mark e.2))) with serial := s.serial + 1 }
/-- One update of a counter, before what it ends is looked at. -/
def State.ctrPut (s : State) (c k : Nat) (f : Ctr → Ctr) : State :=
  let x := s.ctx c
  (s.setCtx c { x with ctrs := tblPut x.ctrs k {} (f (s.ctr c k)) }).ctrDue c k

-- The end of a collective.

/-- A member that cannot be reached any more: its connection is down, or its node has failed (R260, R365). -/
def State.memberLost (s : State) (m : Bool × Nat) : Bool :=
  if m.1 then (match tblGet s.eth.nodes m.2 with | some v => v.failed | none => false)
  else (tblGetD s.fab.conns m.2 {}).down
/-- No operation of it is left: every completion has occurred. -/
def State.opsOver (s : State) (id : Nat) : Bool := !s.coll.armed.any (fun (e : Nat × Armed) => e.2.coll == some id)
/-- How a running collective stands: its CODE and PEER once it is over (R331). -/
def State.collVerdict (s : State) (id : Nat) (c : Coll) : Option (Nat × Nat) :=
  let poisoned := (List.range 20).any (fun j => (s.ctr c.ctx (c.base + j)).poison)
  if s.opsOver id && c.want.all (fun w => ctrPasses (s.ctr c.ctx w.1).count w.2) && !poisoned then some (1, 0)
  else match c.peers.find? s.memberLost with
    | some m => some (2, m.2)
    | none => if poisoned then some (3, c.bad) else none
/-- The status word (R331). -/
def Coll.word (c : Coll) (code peer : Nat) : Nat :=
  let bit (b : Bool) (k : Nat) : Nat := if b then 2 ^ k else 0
  code + bit c.nored 9 + bit c.incdown 10 + bit c.sub 11 + c.alg * 2 ^ 12 + peer * 2 ^ 32
/-- The collective ends: what it still has armed goes, CTRBASE + 2 rises, and the next one of its CTRBASE runs. -/
def State.collDone (s : State) (id : Nat) (c : Coll) : State :=
  let s := s.setArmed (s.coll.armed.filter (fun (e : Nat × Armed) => e.2.coll != some id || e.2.fired))
  let s := s.setColls (tblErase s.coll.colls id)
  let s := s.ctrPut c.ctx (c.base + 2) (fun v => { v with count := v.count + 1 })
  match s.coll.colls.find? (fun (e : Nat × Coll) => e.2.ctx == c.ctx && e.2.base == c.base) with
  | some e => s.setColls (tblSet s.coll.colls e.1 { e.2 with running := true })
  | none => s
/-- A collective that is over writes its status word and ends; while the stack of that word is not ready, it waits. A word
that cannot be written is lost (log 30). -/
def State.collSettle (s : State) (id : Nat) : State :=
  match tblGet s.coll.colls id with
  | none => s
  | some c =>
    if !c.running then s else
    match s.collVerdict id c with
    | none => s
    | some (code, peer) =>
      match s.writeG 2 c.ctx c.status (bytesOfLE 8 (c.word code peer)) with
      | .stall => s
      | .trap _ => s.collDone id c
      | .ok t => t.collDone id c
/-- Every collective of a context, or of all, that is over ends. -/
def State.collsSettle (s : State) (of : Coll → Bool) : State :=
  (s.coll.colls.filter (fun (e : Nat × Coll) => of e.2)).foldl (fun (s : State) (e : Nat × Coll) => s.collSettle e.1) s

/-- One update of a counter, and the collectives that it ends. -/
def State.ctrUpdate (s : State) (c k : Nat) (f : Ctr → Ctr) : State :=
  (s.ctrPut c k f).collsSettle (fun x => x.ctx == c)
/-- A counter rises; 0xFFFF names none. -/
def State.ctrRaise (s : State) (c k inc : Nat) : State :=
  if 4096 ≤ k then s else s.ctrUpdate c k (fun v => { v with count := v.count + BitVec.ofNat 48 inc })
def State.ctrPoison (s : State) (c k : Nat) : State :=
  if 4096 ≤ k then s else s.ctrUpdate c k (fun v => { v with poison := true })

-- The choice of a core (R203).

/-- The core takes work: it is present and not fenced, and its die is ready and not fenced (R14). -/
def State.coreUp (s : State) (c : Nat) : Bool :=
  let d := s.die (dieOf c)
  decide (c < 32 * s.nDies) && d.ready && !d.fenced && !(s.core c).fenced && (s.core c).power != .absent
/-- A core that receives work leaves IDLE or GATED and wakes. -/
def State.powerUp (s : State) (c : Nat) : State :=
  let v := s.core c
  s.setCore c { v with power := .on, waking := v.waking || v.power != .on }
/-- Tasks placed on a core that have not started. -/
def State.notStarted (s : State) (core : Nat) : Nat :=
  ((s.grps.filter (fun e => e.2.core == core)).map (fun e => e.2.nTasks - e.2.nextTask)).sum
def Power.wake : Power → Nat
  | .on | .absent => 0 | .idle => 20 | .gated => 2000
/-- wait(c) + wake(c) of a core, where the launch's last tasks took so long; all of it times the number of these tasks, so that
their mean is not rounded. -/
def State.placeCost (s : State) (durs : List Nat) (core : Nat) : Nat :=
  (s.notStarted core + 3) / 4 * durs.sum + (s.core core).power.wake * Nat.max 1 durs.length
/-- Of some cores, in rising order, the one that costs least; ties go to the lower wake(c), then to the lower number. -/
def State.cheapest (s : State) (durs : List Nat) (cores : List Nat) : Option Nat :=
  cores.foldl (fun (best : Option Nat) (c : Nat) => match best with
    | none => some c
    | some b =>
      let x := s.placeCost durs c; let y := s.placeCost durs b
      if x < y || (x == y && decide ((s.core c).power.wake < (s.core b).power.wake)) then some c else best) none

-- Reductions without reducers (R326).

/-- The core whose service queues the distributor of a die chooses, for a context: as for a group that claims no banks and no MX. -/
def State.serviceCore (s : State) (ctx die : Nat) : Option Nat :=
  let durs := match s.launchOf ctx with | some l => l.durs | none => []
  s.cheapest durs (((List.range 32).map (fun k => 32 * die + k)).filter s.coreUp)
/-- The die at which an address of a context is at home (R226). -/
def State.homeDie (s : State) (ctx : Nat) (va : Word) : Nat :=
  match s.translate ctx va .any with
  | .ok l => stackOf l.pa / 2
  | _ => 0
/-- The slot in which a task runs, if it has not ended. -/
def State.slotOfTask (s : State) (task : Nat) : Option Nat :=
  (s.slots.find? (fun (e : Nat × Slot) => match e.2.task with | some t => t.uid == task && !t.ended | none => false)).map
    (fun (e : Nat × Slot) => e.1)
/-- The task whose COLL is behind what arrives for a counter: that of the collective which counts it. -/
def State.taskFor (s : State) (ctx ctr : Nat) : Option Nat :=
  (s.coll.colls.find? (fun (e : Nat × Coll) => e.2.ctx == ctx && e.2.base ≤ ctr && ctr < e.2.base + 20)).map
    (fun (e : Nat × Coll) => e.2.task)
/-- Where a reduction is performed: at the slot of the task behind it, on its core, or without one in the service queues of a
core of the home die of the address. -/
def State.redPlace (s : State) (ctx : Nat) (task : Option Nat) (va : Word) : Option (Nat × Option (Nat × Nat)) :=
  match task.bind (fun t => (s.slotOfTask t).map (fun k => (k, t))) with
  | some h => some (coreOf h.1, some h)
  | none => (s.serviceCore ctx (s.homeDie ctx va)).map (fun c => (c, none))

end Sys2Proof.Machine
end

