-- ==== Sys2Proof/Machine/Mx.lean ====
section
/-! DEFINITION. The matrix engine: planes, accumulators and layouts (R148 to R150), paths and sums (R67 to R69, R152), the
operand fetcher (R161), and one issue of every op (R153 to R159). -/

namespace Sys2Proof.Machine

-- Fields of an MX record (R151).

def mAcb (q : QRec) : Nat := rField q.r 11 2
def mAci (q : QRec) : Bool := rField q.r 13 1 == 1
def mKh (q : QRec) : Nat := rField q.r 14 1
def mOvw (q : QRec) : Bool := rField q.r 15 1 == 1
def orElse (n d : Nat) : Nat := if n = 0 then d else n
def mApitch (q : QRec) : Nat := orElse (rField q.r 16 12) 64
def mNb (q : QRec) : Nat := rField q.r 13 2 + 1
def mIacc (q : QRec) : Bool := rField q.r 15 1 == 1
def mClr (q : QRec) : Bool := rField q.r 16 1 == 1
def mDpitch (q : QRec) : Nat := orElse (rField q.r 17 12) (64 * mNb q)
def mHsc (q : QRec) : Nat := rField q.r 11 3
def mHpitch (q : QRec) : Nat := orElse (rField q.r 14 12) 64

-- Arrays of the engine, as tables of their nonzero entries.

def tblArray {α : Type} (n : Nat) (d : α) (t : Tbl α) : Array α := t.foldl (fun a e => a.setIfInBounds e.1 e.2) (Array.replicate n d)
def arrayTbl {α : Type} [DecidableEq α] (d : α) (a : Array α) : Tbl α :=
  (a.toList.zipIdx).filterMap (fun e => if e.1 = d then none else some (e.2, e.1))
def getA (a : Array Nat) (i : Nat) : Nat := (a[i]?).getD 0

-- Geometry of LOG6 operands (R64, R150).

def geomK (g : Nat) : Nat := 2 ^ g
def geomM (g : Nat) : Nat := 2 ^ (5 - g)
/-- Block of element (m, k) of a panel, and its position there. -/
def panelBlock (g m k : Nat) : Nat := k / geomK g + 32 / geomK g * (m / geomM g)
def panelPos (g m k : Nat) : Nat := m % geomM g * geomK g + k % geomK g
def panelElem (g m k : Nat) : Nat := 32 * panelBlock g m k + panelPos g m k

def Opd.geom : Opd → Nat
  | .bank _ w _ => bfGeom w | _ => 0
/-- The base element of an operand in an issue. -/
def mBase (q : QRec) (o : Opd) (d : BitVec 88) (k : Nat) : Int := dElem d (o.baseElem 6) (rIndex q.r k)

/-- One element as the array takes it: its bits, or a LOG6 code with its scale word. -/
def State.mxRead (s : State) (q : QRec) (o : Opd) (i : Int) : Eng' (Nat × Nat) := do
  let p ← o.place 6 i
  match p with
  | .log6 .. => s.readCode q p
  | _ => return (← s.readRaw q 6 p, 0)
/-- An activation panel of 64 rows by 32 positions of K, element (m, k) at 32 m + k (R150). -/
def State.mxPanel (s : State) (q : QRec) (o : Opd) (base : Int) (pitch : Nat) : Eng' (List (Nat × Nat)) :=
  let at_ (m k : Nat) : Nat := if mFmt o = 7 then panelElem o.geom m k else m * pitch + k
  (List.range 2048).mapM (fun i => s.mxRead q o (base + (at_ (i / 32) (i % 32) : Nat)))
/-- A weight tile of 64 rows along K by 64 columns, element (k, n) at 64 k + n (R150). -/
def State.mxTile (s : State) (q : QRec) (o : Opd) (base : Int) (pitch : Nat) : Eng' (List (Nat × Nat)) :=
  let at_ (k n : Nat) : Nat :=
    if mFmt o = 7 then k / 32 * 2048 + panelElem o.geom n (k % 32) else k * pitch + n
  (List.range 4096).mapM (fun i => s.mxRead q o (base + (at_ (i / 64) (i % 64) : Nat)))

-- Paths (R152).

inductive MPath where
  | flt (f : Nat) | int | log
  deriving DecidableEq, Repr
def isI8 (f : Nat) : Bool := f == 0 || f == 1
/-- The path of an activation and a weight format, if they pair. -/
def mPair (a w : Nat) : Option MPath :=
  if isI8 a && isI8 w then some .int
  else if a = 7 && w = 7 then some .log
  else if a == w && isFlt a then some (.flt a)
  else none
/-- The path of an activation format against an unloaded plane. -/
def mSolo (a : Nat) : MPath := if isI8 a then .int else if a = 7 then .log else .flt a

-- Sums (R67 to R69).

/-- The exact sum of products of a K-step. -/
def sumProducts (ps : List Num) : Num :=
  match ps with | [] => .fin false 0 0 | p :: r => r.foldl (numAdd .rne) p
/-- acc := rne(acc + P), with its events: a NaN from operands that are none, and an overflow of either rounding (R155). -/
def accAdd (clean ovw : Bool) (acc : BitVec 32) (p : Nat × Ev) : BitVec 32 × List Nat :=
  let a := toNum fp32 acc.toNat
  let r : Nat × Ev := if ovw then (p.1, none) else deliver fp32 .rne false false (numAdd .rne a (toNum fp32 p.1))
  (BitVec.ofNat 32 r.1, (if (toNum fp32 r.1).isNan && clean && (ovw || !a.isNan) then [0] else [])
    ++ (if p.2 = some 2 || r.2 = some 2 then [2] else []))
/-- A K-step on a float path. -/
def stepFlt (f : Nat) (ovw : Bool) (acc : BitVec 32) (xs ws : List Nat) : BitVec 32 × List Nat :=
  let x := xs.map (elemNum f); let w := ws.map (elemNum f)
  let p := deliver fp32 .rne false false (sumProducts ((x.zip w).map (fun e => numMul e.1 e.2)))
  accAdd (!(x ++ w).any Num.isNan) ovw acc p
/-- A K-step on the I8 path. -/
def stepInt (fa fw : Nat) (sat ovw : Bool) (acc : BitVec 32) (xs ws : List Nat) : BitVec 32 × List Nat :=
  let p := ((xs.zip ws).map (fun e => intVal fa e.1 * intVal fw e.2)).foldl (· + ·) (0 : Int)
  (BitVec.ofNat 32 (intBits 2 sat ((if ovw then 0 else acc.toInt) + p)), [])
/-- A term of a segment, in quanta of 2^−23 (R69). -/
def logTerm (a b : Nat) : Int :=
  let ma := a % 32; let mb := b % 32
  if ma = 0 || mb = 0 then 0
  else
    let p : Int := ma + mb - 32
    let t : Nat := quarter (p % 4).toNat * 256
    let v : Nat := if 0 ≤ p / 4 then t * 2 ^ (p / 4).toNat else t / 2 ^ (-(p / 4)).toNat
    if (a / 32 % 2 == 1) != (b / 32 % 2 == 1) then -(v : Int) else v
/-- The value of a segment: its exact sum scaled, with one rounding. -/
def logSeg (terms : List Int) (sa sb : Nat) : Nat × Ev :=
  let sum := terms.foldl (· + ·) 0
  let q : Int := (sa % 1024 : Nat) + (sb % 1024 : Nat) - 1024
  roundFin fp32 .rne (decide (sum < 0)) (sum.natAbs * quarter (q % 4).toNat) (q / 4 - 38)
def isNar (e : Nat × Nat) : Bool := e.1 == 32 || e.2 % 1024 == 0x3FF
/-- A K-step on the LOG6 path, with segments of `len`. -/
def stepLog (len : Nat) (ovw : Bool) (acc : BitVec 32) (xs ws : List (Nat × Nat)) : BitVec 32 × List Nat :=
  let nar := (xs ++ ws).any isNar
  if nar then accAdd false ovw acc (nanBits fp32, none)
  else
    let ps := xs.zip ws
    let segs := (List.range (32 / len)).map (fun j =>
      let part := (ps.drop (len * j)).take len
      let h := part.headD ((0, 0), (0, 0))
      logSeg (part.map (fun e => logTerm e.1.1 e.2.1)) h.1.2 h.2.2)
    let r := match segs with
      | [] => (0, none)
      | g :: r => r.foldl (fun (x : Nat × Ev) y =>
          let z := deliver fp32 .rne false false (numAdd .rne (toNum fp32 x.1) (toNum fp32 y.1))
          (z.1, if x.2 = some 2 || y.2 = some 2 then some 2 else z.2)) g
    accAdd true ovw acc r

/-- One K-step of a panel against 32 rows of weights, for every output of a column block: the accumulators and the events.
`w k n` are the weights; an unloaded plane gives products of +0 or 0. -/
def mxStep (path : MPath) (fa fw len : Nat) (sat ovw loaded : Bool) (blk : Nat) (acc : Tbl (BitVec 32))
    (panel weights : Array (Nat × Nat)) : Tbl (BitVec 32) × List Nat :=
  let a := tblArray 16384 0 acc
  let col (n : Nat) : List (Nat × Nat) := (List.range 32).map (fun k => (weights[64 * k + n]?).getD (0, 0))
  let cols := ((List.range 64).map col).toArray
  let (a, evs) := (List.range 4096).foldl (fun (st : Array (BitVec 32) × List Nat) i =>
    let m := i / 64; let n := i % 64
    let ix := 256 * m + 64 * blk + n
    let old := (st.1[ix]?).getD 0
    let xs := (List.range 32).map (fun k => (panel[32 * m + k]?).getD (0, 0))
    let ws := (cols[n]?).getD []
    let (v, e) :=
      if !loaded then
        (match path with
         | .int => (if ovw then 0 else old, [])
         | _ => accAdd true ovw old (0, none))
      else match path with
        | .flt f => stepFlt f ovw old (xs.map (·.1)) (ws.map (·.1))
        | .int => stepInt fa fw sat ovw old (xs.map (·.1)) (ws.map (·.1))
        | .log => stepLog len ovw old xs ws
    (st.1.setIfInBounds ix v, e ++ st.2)) (a, [])
  (arrayTbl 0 a, evs)

-- Planes.

def Core.activePlane (c : Core) : Plane := if c.active then c.plane1 else c.plane0
def Core.shadowPlane (c : Core) : Plane := if c.active then c.plane0 else c.plane1
def Core.setShadow (c : Core) (p : Plane) : Core := if c.active then { c with plane0 := p } else { c with plane1 := p }
def Core.swap (c : Core) : Core := { c with active := !c.active }
def QRec.core (q : QRec) : Nat := coreOf q.who.slot
/-- A plane with some rows of weights written from `k0`. -/
def Plane.load (p : Plane) (fmt geom : Nat) (ws : List (Nat × Nat)) : Plane :=
  let cells := ((List.range 4096).map (fun i =>
    match ws[i]? with | some e => BitVec.ofNat 32 e.1 | none => tblGetD p.cells i 0)).toArray
  let blocks : List (Nat × Nat) := if fmt = 7 then
      (List.range 128).map (fun b =>
        -- the first element of block b of the tile
        let j := b % 64
        let k := b / 64 * 32 + j % (32 / geomK geom) * geomK geom
        let n := j / (32 / geomK geom) * geomM geom
        (b, ((ws[64 * k + n]?).getD (0, 0)).2))
    else []
  { cells := arrayTbl 0 cells, loaded := true, fmt := fmt, geom := if fmt = 7 then geom else 0
    scales := (blocks.filter (fun e => e.2 != 0)).map (fun e => (e.1, BitVec.ofNat 16 e.2)) }
/-- Weight (k, n) of a plane, with its scale word. -/
def Plane.weights (p : Plane) (half : Nat) : Array (Nat × Nat) :=
  let cells := tblArray 4096 0 p.cells
  ((List.range 2048).map (fun i =>
    let k := i / 64; let n := i % 64
    let c := (cells[64 * (32 * half + k) + n]?).getD 0
    (c.toNat, if p.fmt = 7 then (tblGetD p.scales (64 * half + panelBlock p.geom n k) 0).toNat else 0))).toArray

-- The operand fetcher (R161).


/-- The 32 × 64 weight block that a valid entry names. -/
def State.bswBlock (s : State) (q : QRec) (e : Nat) : Eng' (List Nat) :=
  (List.range 2048).mapM (fun i => do
    let (x, _) ← s.mxRead q (.hnd (bswHandle q e) 0) (e / 2 ^ 32 % 2 ^ 16 * 2048 + i : Nat)
    return x)
/-- What the fetcher stages for an issue: the elements of its operand, or of the block that an entry `e` of MX.BSW names. -/
def State.fetchOperand (s : State) (q : QRec) (k e : Nat) : Eng' (List Nat) := do
  let o := q.opA
  let base := mBase q o (descA q.r) k
  match rOp q.r with
  | 1 => let t ← s.mxTile q o base (mApitch q); return t.map (·.1)
  | 2 => let t ← s.mxPanel q o base (mApitch q); return t.map (·.1)
  | 5 =>
    let t ← (List.range 4096).mapM (fun i => s.mxRead q o (base + (i / 64 * mHpitch q + i % 64 : Nat)))
    return t.map (·.1)
  | _ => if bswReads q e then s.bswBlock q e else return []
/-- The bytes that this fetch charges; an entry that names no block, or none that can be read, fetches nothing. -/
def fetchBytes (q : QRec) (e : Nat) : Nat :=
  let z := fmtSize (mFmt q.opA)
  match rOp q.r with
  | 1 | 5 => 4096 * z
  | 2 => 2048 * z
  | _ => if bswReads q e then 2048 * fmtSize (hFmt (bswHandle q e)) else 0
/-- One fetch for a record: its bytes are charged, whatever comes of it, to the CX bytes, and to the HBM bytes where they come from
G; without AVAIL it waits, or is leftover where some remains (R161, R290). A read that faults is kept for the issue to meet. -/
def State.fetchOne (s : State) (core : Nat) (r : Run) (k : Nat) : Option (State × Run) :=
  let q := r.q
  let e := (s.fetchEntry q k).getD 0
  let n := fetchBytes q e
  let g := s.fetchesG q k
  let more : Run := { r with staged := Nat.max r.staged (k + 1) }
  if n != 0 && !(s.mayCx q.ctx core && (!g || s.mayHbm q.ctx)) then none
  else
    let t := (s.chargeT q.who.slot q.ctx 3 core n).chargeT q.who.slot q.ctx 4 0 (if g then n else 0)
    match s.fetchOperand q k e with
    | .error .stall => none
    | .error (.fault c v) => some (t, { more with stage := tblErase r.stage k, fetchBad := tblSet r.fetchBad k (e, c, v) })
    | .ok xs => some (t, { more with stage := tblSet r.stage k (e, xs), fetchBad := tblErase r.fetchBad k })
/-- The operand fetcher of a core: for the slot's running MX record, else for a queued one. -/
def execOperandFetch (slot : Nat) (s : State) : Host.Outcome State Fault Refusal :=
  .next (match s.fetchNext slot with
    | none => s
    | some (r, k, running) =>
      match s.fetchOne (coreOf slot) r k with
      | none => s
      | some (u, r) =>
        let t := u.slot slot
        u.setSlot slot (if running then { t with rmx := some r } else { t with ahead := tblSet t.ahead r.q.serial r }))
/-- The staged elements of an issue: it waits until they are there, and meets the fault that their fetch has met. -/
def State.stagedOf (s : State) (q : QRec) (k tag : Nat) : Eng' (List Nat) :=
  match (s.slot q.who.slot).rmx with
  | none => .error .stall
  | some r =>
    match tblGet r.stage k, tblGet r.fetchBad k with
    | some (t, xs), _ => if t = tag then .ok xs else .error .stall
    | none, some (t, c, v) => if t = tag then .error (.fault c v) else .error .stall
    | none, none => .error .stall

-- Issues.

/-- The A operand of an issue, from the staging buffer or from a bank. -/
def State.mxA (s : State) (q : QRec) (k : Nat) (read : Eng' (List (Nat × Nat))) : Eng' (List (Nat × Nat)) :=
  if mFetches q then (s.stagedOf q k 0).map (fun xs => xs.map (fun x => (x, 0))) else read

/-- MX.LDW: a weight tile into the shadow plane; .ACT then swaps the planes (R154). -/
def ldwB : Body := fun s q k blk => do
  let o := q.opA
  let ws ← s.mxA q k (s.mxTile q o (mBase q o (descA q.r) k) (mApitch q))
  let c := s.core q.core
  let c := c.setShadow (c.shadowPlane.load (mFmt o) o.geom ws)
  return { s := s.setCore q.core (if rVar q.r = 1 then c.swap else c), blk := blk }

/-- MX.MM: one K-step of a panel through the active plane; .SW swaps the planes before the first issue (R155). Where that first issue
faults, R155 has swapped the planes and R162 has the issue change none: the model leaves them unswapped (DESIGN CHOICE, log 33). -/
def mmB : Body := fun s q k blk => do
  let o := q.opA
  let ix := rIndex q.r k
  let c := s.core q.core
  let c := if rVar q.r = 1 && k == 0 then c.swap else c
  let p := c.activePlane
  let fa := mFmt o
  let path ← (if p.loaded then (match mPair fa p.fmt with | some x => .ok x | none => engF) else .ok (mSolo fa) : Eng' MPath)
  let xs ← s.mxA q k (s.mxPanel q o (mBase q o (descA q.r) k) (mApitch q))
  let b := mAcb q + (if mAci q then ix.2.1 else 0)
  let len := Nat.min (geomK o.geom) (geomK p.geom)
  let (acc, evs) := mxStep path fa p.fmt len (rSat q.r) (mOvw q && ix.1 == 0) p.loaded b c.acc xs.toArray
    (p.weights ((mKh q + ix.1) % 2))
  return { s := s.setCore q.core { c with acc := acc }, blk := blk, evs := evs }

/-- MX.ACRD: column blocks of the accumulators to D, converted; CLR clears them (R156). -/
def acrdB : Body := fun s q k blk => do
  let o := q.opD
  let c := s.core q.core
  let acc := tblArray 16384 0 c.acc
  let cols := 64 * mNb q; let c0 := 64 * mAcb q
  let base := mBase q o (descD q.r) k
  let at_ (m j : Nat) : Nat := if mFmt o = 7 then j / 32 * 2048 + panelElem o.geom m (j % 32) else m * mDpitch q + j
  let ws := (List.range (64 * cols)).map (fun i =>
    let m := i / cols; let j := i % cols
    let v := ((acc[256 * m + c0 + j]?).getD 0).toNat
    (base + (at_ m j : Nat), if mFmt o = 6 && !mIacc q then (cvtElem 6 6 (rRound q.r) (rSat q.r) v).1 else v))
  let x ← ({ s := s, blk := blk } : Iss).putAll q o (if mIacc q then 2 else 6) (rRound q.r) (rSat q.r) ws
  if mClr q then
    let c := x.s.core q.core
    let c := { c with acc := c.acc.filter (fun e => e.1 % 256 < c0 || c0 + cols ≤ e.1 % 256) }
    return { x with s := x.s.setCore q.core c }
  else return x

/-- MX.ACCLR: column blocks of the accumulators become 0 (R157). -/
def acclrB : Body := fun s q _ blk =>
  let c := s.core q.core
  let c0 := 64 * mAcb q; let cols := 64 * mNb q
  .ok { s := s.setCore q.core { c with acc := c.acc.filter (fun e => e.1 % 256 < c0 || c0 + cols ≤ e.1 % 256) }, blk := blk }

def scaleNum (n : Num) (e : Int) : Num := match n with | .fin s m x => .fin s m (x + e) | y => y
/-- The sign of a term of a Hadamard transform: odd parity of i & t. -/
def hadNeg (i t : Nat) : Bool := ((List.range 6).filter (fun b => (i &&& t).testBit b)).length % 2 == 1
/-- MX.HAD: each row of a 64 × 64 tile in blocks of P points (R158). -/
def hadB : Body := fun s q k blk => do
  let o := q.opA
  let base := mBase q o (descA q.r) k
  let xs ← s.mxA q k ((List.range 4096).mapM (fun i => s.mxRead q o (base + (i / 64 * mHpitch q + i % 64 : Nat))))
  let a := (xs.map (fun x => elemNum (mFmt o) x.1)).toArray
  let P := 16 * 2 ^ rVar q.r
  let d := q.opD
  let fd := mFmt d
  let dbase := mBase q d (descD q.r) k
  let outs := (List.range 4096).map (fun i =>
    let m := i / 64; let j := i % 64
    let b := j / P * P; let t0 := j % P
    let ins := (List.range P).map (fun t => (a[64 * m + b + t]?).getD .nan)
    let y := sumSigned (rRound q.r) ((ins.zipIdx).map (fun e => if hadNeg t0 e.2 then e.1.negate else e.1))
    let r := fxOf fd (deliver (fltOf fd) (rRound q.r) (rSat q.r) (!ins.any Num.isNan) (scaleNum y (-(mHsc q : Int))))
    (dbase + (m * mHpitch q + j : Nat), r))
  ({ s := s, blk := blk, evs := (outs.map (fun x => x.2.2.toList)).flatten } : Iss).putAll q d fd (rRound q.r) (rSat q.r)
    (outs.map (fun x => (x.1, x.2.1)))
where
  sumSigned (rm : Rm) (xs : List Num) : Num :=
    match xs with | [] => .fin false 0 0 | x :: r => r.foldl (numAdd rm) x

/-- MX.BSW: one entry of the walk: its weight block streams through the shadow plane (R159). Between two issues the plane holds that
block of 32 rows; the specification does not say which rows it takes. The model writes rows 0 to 31 and keeps rows 32 to 63, and the
plane is loaded, in the handles' format (DESIGN CHOICE, log 33). A by handle is no operand that R161 lists for the fetcher: it is
read when the issue runs, neither staged nor charged to CX or HBM bytes (DESIGN CHOICE, log 33). -/
def bswB : Body := fun s q k blk => do
  let e ← s.bswEntry q k
  if e / 2 ^ 50 % 2 ^ 13 != 0 || e / 2 ^ 21 % 2 ^ 11 != 0 then engF
  else if e / 2 ^ 63 = 0 then return { s := s, blk := blk }
  else if !bswReads q e then engF
  else
    let ws ← s.stagedOf q k e
    let fw := ((q.bsw[e / 2 ^ 16 % 32]?).map hFmt).getD 6
    let o := q.opA
    let fa := mFmt o
    let path ← (match mPair fa fw with | some x => .ok x | none => engF : Eng' MPath)
    let xs ← s.mxPanel q o (mBase q o (descA q.r) 0 + (e % 2 ^ 16 * 2048 : Nat)) 32
    let c := s.core q.core
    let w := ws.map (fun x => (x, 0))
    let (acc, evs) := mxStep path fa fw 32 (rSat q.r) false true (e / 2 ^ 48 % 4) c.acc xs.toArray w.toArray
    let c := { c.setShadow (c.shadowPlane.load fw 0 w) with acc := acc }
    return { s := s.setCore q.core c, blk := blk, evs := evs }

-- Cost (R153).

def mCost (q : QRec) (_ : Nat) : Nat :=
  let f := mFmt q.opA
  match rOp q.r with
  | 1 => if f = 6 then 32 else 16
  | 2 => if f = 6 then 128 else if f = 7 then 8 else if isI8 f then 16 else 32
  | 3 => 16 * mNb q
  | 4 => 4 * mNb q
  | 5 => 16
  | _ =>
    let w := (q.bsw.map hFmt).headD 5
    if w = 6 then 144 else if isI8 w then 32 else 48

/-- One issue of an MX op (R148). -/
def State.mxRow (s : State) (slot op : Nat) (body : Body) : Host.Outcome State Fault Refusal :=
  s.issue .mx slot (fun q => rOp q.r == op) mCost body

def execMxLdw (slot : Nat) (s : State) : Host.Outcome State Fault Refusal := s.mxRow slot 1 ldwB
def execMxMm (slot : Nat) (s : State) : Host.Outcome State Fault Refusal := s.mxRow slot 2 mmB
def execMxAcrd (slot : Nat) (s : State) : Host.Outcome State Fault Refusal := s.mxRow slot 3 acrdB
def execMxAcclr (slot : Nat) (s : State) : Host.Outcome State Fault Refusal := s.mxRow slot 4 acclrB
def execMxHad (slot : Nat) (s : State) : Host.Outcome State Fault Refusal := s.mxRow slot 5 hadB
def execMxBsw (slot : Nat) (s : State) : Host.Outcome State Fault Refusal := s.mxRow slot 6 bswB

/-- The shadow plane is zeroed and marked unloaded as an MX.BSW that has started an issue retires (R159). -/
def State.bswEnd (s : State) (q : QRec) : State :=
  if rEng q.r == 0 && rOp q.r == 6 && rIssues q.r != 0 then
    let c := s.core q.core
    s.setCore q.core (c.setShadow { fmt := c.shadowPlane.fmt, geom := c.shadowPlane.geom })
  else s

end Sys2Proof.Machine
end

