-- ==== Sys2Proof/WellFormed.lean ====
section
/-! DEFINITION. Which terms of `Instr` the encodings of chapter 03 allow: the operand limits of R22, R24, R28 to R37
and R44 and the scope and cache values each space accepts (R111, R178, R262, R368). -/

namespace Sys2Proof

/-- The CSR addresses of R77. -/
def csrKnown (n : BitVec 12) : Bool :=
  let a := n.toNat
  a ≤ 0x004 || (0x010 ≤ a && a ≤ 0x014) || a == 0x018 || a == 0x100 || a == 0x101 ||
  (0x110 ≤ a && a ≤ 0x11B) || a == 0x120 || (0x200 ≤ a && a ≤ 0x202) || (0x204 ≤ a && a ≤ 0x206) ||
  (0x208 ≤ a && a ≤ 0x20A) || a == 0x210 || a == 0x211 || (0x300 ≤ a && a ≤ 0x302) ||
  (0x4C0 ≤ a && a ≤ 0x4CF) || a == 0x4D0 || a == 0xF00 || a == 0xF01

/-- The CSRs whose writes are rows of their own: BFMT0 to BFMT11, VMODE and LCE0 to LCE2. -/
def csrOwnRow (n : BitVec 12) : Bool :=
  let a := n.toNat
  (0x110 ≤ a && a ≤ 0x11B) || a == 0x101 || (0x204 ≤ a && a ≤ 0x206)

/-- The operand limits of LOOP and LOOPI (R33). -/
def loopOk (n : BitVec 2) (fin : BitVec 16) : Bool :=
  n != 3 && 2 ≤ fin.toNat && fin.toNat ≤ 257

/-- Scope and cache policy within the given limits (R25). -/
def memOk (m : MemOp) (scopeLo scopeHi cacheLo cacheHi : Nat) : Bool :=
  scopeLo ≤ m.scope.toNat && m.scope.toNat ≤ scopeHi && cacheLo ≤ m.cache.toNat && m.cache.toNat ≤ cacheHi

/-- The row is an instruction word of the sequencer (R19). -/
def Instr.isWord : Instr → Bool
  | .nop .. | .yield .. | .halt .. | .trap .. | .eret .. | .bkpt .. | .csrr .. | .csrw .. | .csrs .. | .csrc ..
  | .bfmtWrite .. | .vmodeCsrWrite .. | .lceWrite ..
  | .add .. | .sub .. | .mul .. | .mulh .. | .mulhu .. | .madd .. | .div .. | .divu .. | .rem .. | .remu ..
  | .and .. | .or .. | .xor .. | .andn .. | .sll .. | .srl .. | .sra .. | .rotr .. | .min .. | .max .. | .minu .. | .maxu ..
  | .clz .. | .ctz .. | .popc .. | .sext .. | .zext ..
  | .addi .. | .andi .. | .ori .. | .xori .. | .slli .. | .srli .. | .srai .. | .muli .. | .li .. | .lih .. | .mini .. | .maxi ..
  | .cmp .. | .cmpi .. | .pand .. | .por .. | .pxor .. | .pnot .. | .pset .. | .pget .. | .sel ..
  | .fadd .. | .fsub .. | .fmul .. | .ffma .. | .fmin .. | .fmax .. | .fabs .. | .fneg .. | .fcmp .. | .fcvtFi .. | .fcvtIf ..
  | .br .. | .jal .. | .jalr .. | .loop .. | .loopi ..
  | .ldsp .. | .stsp .. | .ldds .. | .stds .. | .ldg .. | .stg .. | .ldf .. | .stf .. | .stfFlag .. | .ldn .. | .stn .. | .ldh .. | .sth ..
  | .amo .. | .amoCas .. | .amoClaim .. | .fence .. | .fenceE ..
  | .seminit .. | .semsig .. | .semwait .. | .semrd .. | .semtry .. | .aqpush .. | .aqpop .. | .aqbr ..
  | .time .. | .waitt .. | .waittLock .. | .hld .. | .hst .. | .hset .. | .hget .. | .hoff .. | .hxl .. | .winreg .. | .winrev ..
  | .enq .. | .enqr .. | .enqm .. | .tspawn .. | .tend .. | .epush .. | .epop .. | .etry .. | .scopeo .. | .scopec .. | .vmode ..
  | .poll .. | .pause .. | .coll .. | .trig .. | .ctrset .. | .ctradd .. | .ctrrd .. | .pbind .. | .punbind .. | .pquery .. => true
  | _ => false

/-- The operand values the encoding admits. A step that is no word has no encoding to break. -/
def Instr.wf : Instr → Bool
  | .csrr _ _ csr => csrKnown csr
  | .csrw _ _ _ csr | .csrs _ _ _ csr | .csrc _ _ _ csr => csrKnown csr && !csrOwnRow csr
  | .bfmtWrite _ _ _ _ n => n.toNat < 12
  | .lceWrite _ _ _ _ n => n.toNat < 3
  | .sext _ w _ _ | .zext _ w _ _ => w != .w64
  | .loop _ n _ fin => loopOk n fin
  | .loopi _ n cnt fin => loopOk n fin && cnt != 0
  | .ldsp _ m | .stsp _ m => memOk m 0 0 0 0
  | .ldds _ m | .stds _ m => memOk m 0 1 0 0
  | .ldg _ m | .stg _ m => memOk m 0 2 0 1
  | .ldf _ m | .stf _ m => memOk m 3 3 0 0
  | .stfFlag _ m => memOk m 3 3 1 1 && m.scale == 0
  | .ldn _ m | .stn _ m | .ldh _ m | .sth _ m => memOk m 4 4 0 0
  | .fence _ _ sc => sc.toNat ≤ 4
  | .aqpush _ q r | .aqpop _ q r => q != 2 || r.toNat < 8
  | .waittLock _ _ len => len != 0
  | .hset _ _ _ f | .hget _ _ _ f => f.toNat < 12
  | .enqr _ _ k => k.toNat % 8 == 0
  | .scopeo _ n => 1 ≤ n.toNat && n.toNat ≤ 64
  | _ => true

end Sys2Proof
end

