-- ==== Sys2Proof/Decode.lean ====
section
/-! DEFINITION. The decoder of sequencer words: checks 1 to 5 of R52 in their order, over the formats of R21 and the maps
of R27 to R37 and R44; total on any bytes, rejecting by name. After it the encoder, written from the same maps. -/

namespace Sys2Proof

/-- Why a word is no instruction: the sub-causes of checks 1 to 5 (R52, R53), or too few bytes for one. -/
inductive Reject where
  | allOnes | major | fn | reserved | operand | truncated
  deriving DecidableEq, Repr

/-- What decoding answers. -/
abbrev Decoded := Except Reject Instr

/-- Check 4, then check 5, then the instruction (R52). -/
def checked (reservedOk operandOk : Bool) (i : Instr) : Decoded :=
  if !reservedOk then .error .reserved else if !operandOk then .error .operand else .ok i

-- Fields of R20 and R21.
def fMajor (w : Word) : BitVec 8 := w.extractLsb' 56 8
def fGuard (w : Word) : Guard := { neg := w.getLsbD 55, pred := w.extractLsb' 52 3 }
def fD (w : Word) : BitVec 6 := w.extractLsb' 46 6
def fA (w : Word) : BitVec 6 := w.extractLsb' 40 6
def fB (w : Word) : BitVec 6 := w.extractLsb' 34 6
def fC (w : Word) : BitVec 6 := w.extractLsb' 28 6
def fFnA (w : Word) : BitVec 12 := w.extractLsb' 16 12
def fLow (w : Word) : BitVec 16 := w.extractLsb' 0 16
def fFnB (w : Word) : BitVec 8 := w.extractLsb' 32 8
def fImm (w : Word) : BitVec 32 := w.extractLsb' 0 32
def fScale (w : Word) : BitVec 2 := w.extractLsb' 32 2
def fModif (w : Word) : BitVec 8 := w.extractLsb' 24 8
def fDisp (w : Word) : BitVec 24 := w.extractLsb' 0 24
def fEng (w : Word) : BitVec 4 := w.extractLsb' 48 4
def fForm (w : Word) : BitVec 4 := w.extractLsb' 44 4
def fBase (w : Word) : BitVec 6 := w.extractLsb' 38 6
def fZeroE (w : Word) : BitVec 38 := w.extractLsb' 0 38

/-- A field that names a predicate: its bits [5:3] are reserved (R22). -/
def pOk (r : BitVec 6) : Bool := r.toNat < 8
/-- The predicate index of a field (R22). -/
def pIx (r : BitVec 6) : PReg := r.extractLsb' 0 3
/-- A field that names a handle: its bit [5] is reserved (R22). -/
def hOk (r : BitVec 6) : Bool := r.toNat < 32
/-- The handle index of a field (R22). -/
def hIx (r : BitVec 6) : HReg := r.extractLsb' 0 5

def decWidth (n : BitVec 2) : Width :=
  match n with | 0 => .w8 | 1 => .w16 | 2 => .w32 | _ => .w64
def encWidth : Width → BitVec 2
  | .w8 => 0 | .w16 => 1 | .w32 => 2 | .w64 => 3
def decRm (n : BitVec 2) : Rm :=
  match n with | 0 => .rne | 1 => .rz | 2 => .ru | _ => .rd
def encRm : Rm → BitVec 2
  | .rne => 0 | .rz => 1 | .ru => 2 | .rd => 3
/-- Condition codes 0 to 5 of CMP and CMPI (R31). -/
def decCond (n : Nat) : Cond :=
  match n with | 0 => .eq | 1 => .ne | 2 => .lt | 3 => .ltu | 4 => .le | _ => .leu
def encCond : Cond → BitVec 8
  | .eq => 0 | .ne => 1 | .lt => 2 | .ltu => 3 | .le => 4 | .leu => 5

/-- SYS (R28), with the CSR writes that are rows of their own. -/
def decodeCsrWrite (op : CsrOp) (g : Guard) (d a : SReg) (csr : BitVec 12) : Instr :=
  let n := csr.toNat
  if 0x110 ≤ n && n ≤ 0x11B then .bfmtWrite g op d a (BitVec.ofNat 4 (n - 0x110))
  else if n == 0x101 then .vmodeCsrWrite g op d a
  else if 0x204 ≤ n && n ≤ 0x206 then .lceWrite g op d a (BitVec.ofNat 2 (n - 0x204))
  else match op with
    | .w => .csrw g d a csr
    | .s => .csrs g d a csr
    | .c => .csrc g d a csr

def decodeSys (w : Word) : Decoded :=
  let g := fGuard w; let d := fD w; let a := fA w; let i := fImm w
  let csr : BitVec 12 := i.extractLsb' 0 12
  let csrOk := i.toNat < 4096
  let known := csrKnown csr
  match (fFnB w).toNat with
  | 0x00 => checked (d == 0 && a == 0 && i == 0) true (.nop g)
  | 0x01 => checked (d == 0 && a == 0 && i == 0) true (.yield g)
  | 0x02 => checked (d == 0 && a == 0 && i == 0) true (.halt g)
  | 0x03 => checked (d == 0 && a == 0) true (.trap g i)
  | 0x04 => checked (d == 0 && a == 0 && i == 0) true (.eret g)
  | 0x05 => checked (d == 0 && a == 0) true (.bkpt g i)
  | 0x08 => checked (a == 0 && csrOk) known (.csrr g d csr)
  | 0x09 => checked csrOk known (decodeCsrWrite .w g d a csr)
  | 0x0A => checked csrOk known (decodeCsrWrite .s g d a csr)
  | 0x0B => checked csrOk known (decodeCsrWrite .c g d a csr)
  | _ => .error .fn

/-- INT (R29). -/
def decodeInt (w : Word) : Decoded :=
  let g := fGuard w; let d := fD w; let a := fA w; let b := fB w; let c := fC w
  let low := fLow w == 0
  let bin (i : Instr) : Decoded := checked (c == 0 && low) true i
  let una (i : Instr) : Decoded := checked (b == 0 && c == 0 && low) true i
  match (fFnA w).toNat with
  | 0x000 => bin (.add g d a b)
  | 0x001 => bin (.sub g d a b)
  | 0x002 => bin (.mul g d a b)
  | 0x003 => bin (.mulh g d a b)
  | 0x004 => bin (.mulhu g d a b)
  | 0x005 => bin (.div g d a b)
  | 0x006 => bin (.divu g d a b)
  | 0x007 => bin (.rem g d a b)
  | 0x008 => bin (.remu g d a b)
  | 0x010 => bin (.and g d a b)
  | 0x011 => bin (.or g d a b)
  | 0x012 => bin (.xor g d a b)
  | 0x013 => bin (.andn g d a b)
  | 0x020 => bin (.sll g d a b)
  | 0x021 => bin (.srl g d a b)
  | 0x022 => bin (.sra g d a b)
  | 0x023 => bin (.rotr g d a b)
  | 0x030 => bin (.min g d a b)
  | 0x031 => bin (.max g d a b)
  | 0x032 => bin (.minu g d a b)
  | 0x033 => bin (.maxu g d a b)
  | 0x040 => una (.clz g .w8 d a)
  | 0x041 => una (.clz g .w16 d a)
  | 0x042 => una (.clz g .w32 d a)
  | 0x043 => una (.clz g .w64 d a)
  | 0x044 => una (.ctz g .w8 d a)
  | 0x045 => una (.ctz g .w16 d a)
  | 0x046 => una (.ctz g .w32 d a)
  | 0x047 => una (.ctz g .w64 d a)
  | 0x048 => una (.popc g .w8 d a)
  | 0x049 => una (.popc g .w16 d a)
  | 0x04A => una (.popc g .w32 d a)
  | 0x04B => una (.popc g .w64 d a)
  | 0x050 => una (.sext g .w8 d a)
  | 0x051 => una (.sext g .w16 d a)
  | 0x052 => una (.sext g .w32 d a)
  | 0x054 => una (.zext g .w8 d a)
  | 0x055 => una (.zext g .w16 d a)
  | 0x056 => una (.zext g .w32 d a)
  | 0x060 => checked low true (.madd g d a b c)
  | _ => .error .fn

/-- IMM (R30). -/
def decodeImm (w : Word) : Decoded :=
  let g := fGuard w; let d := fD w; let a := fA w; let i := fImm w
  let sh : BitVec 6 := i.extractLsb' 0 6
  let shOk := i.toNat < 64
  match (fFnB w).toNat with
  | 0x00 => .ok (.addi g d a i)
  | 0x01 => .ok (.andi g d a i)
  | 0x02 => .ok (.ori g d a i)
  | 0x03 => .ok (.xori g d a i)
  | 0x04 => checked shOk true (.slli g d a sh)
  | 0x05 => checked shOk true (.srli g d a sh)
  | 0x06 => checked shOk true (.srai g d a sh)
  | 0x07 => .ok (.muli g d a i)
  | 0x08 => checked (a == 0) true (.li g d i)
  | 0x09 => checked (a == 0) true (.lih g d i)
  | 0x0A => .ok (.mini g d a i)
  | 0x0B => .ok (.maxi g d a i)
  | _ => .error .fn

/-- CMP (R31). -/
def decodeCmp (w : Word) : Decoded :=
  let g := fGuard w; let d := fD w; let a := fA w; let i := fImm w
  let fn := (fFnB w).toNat
  let rb : BitVec 6 := i.extractLsb' 0 6
  let pb : PReg := i.extractLsb' 0 3
  if fn ≤ 0x05 then checked (pOk d && i.toNat < 64) true (.cmp g (decCond fn) (pIx d) a rb)
  else if 0x08 ≤ fn && fn ≤ 0x0D then checked (pOk d) true (.cmpi g (decCond (fn - 8)) (pIx d) a i)
  else match fn with
  | 0x10 => checked (pOk d && pOk a && i.toNat < 8) true (.pand g (pIx d) (pIx a) pb)
  | 0x11 => checked (pOk d && pOk a && i.toNat < 8) true (.por g (pIx d) (pIx a) pb)
  | 0x12 => checked (pOk d && pOk a && i.toNat < 8) true (.pxor g (pIx d) (pIx a) pb)
  | 0x13 => checked (pOk d && pOk a && i == 0) true (.pnot g (pIx d) (pIx a))
  | 0x14 => checked (pOk d && i == 0) true (.pset g (pIx d) a)
  | 0x15 => checked (pOk a && i == 0) true (.pget g d (pIx a))
  | 0x18 => checked (i.extractLsb' 6 2 == 0 && i.extractLsb' 11 21 == 0) true (.sel g d a rb (i.extractLsb' 8 3))
  | _ => .error .fn

/-- FP (R32). -/
def decodeFp (w : Word) : Decoded :=
  let g := fGuard w; let d := fD w; let a := fA w; let b := fB w; let c := fC w
  let fn := fFnA w
  let rmBits : BitVec 2 := fn.extractLsb' 8 2
  let rm := decRm rmBits
  let base := fn.extractLsb' 10 2 == 0 && fLow w == 0
  let exact := rmBits == 0
  match (fn.extractLsb' 0 8).toNat with
  | 0x00 => checked (base && c == 0) true (.fadd g rm d a b)
  | 0x01 => checked (base && c == 0) true (.fsub g rm d a b)
  | 0x02 => checked (base && c == 0) true (.fmul g rm d a b)
  | 0x03 => checked base true (.ffma g rm d a b c)
  | 0x04 => checked (base && c == 0) exact (.fmin g d a b)
  | 0x05 => checked (base && c == 0) exact (.fmax g d a b)
  | 0x06 => checked (base && b == 0 && c == 0) exact (.fabs g d a)
  | 0x07 => checked (base && b == 0 && c == 0) exact (.fneg g d a)
  | 0x08 => checked (base && c == 0 && pOk d) exact (.fcmp g .eq (pIx d) a b)
  | 0x09 => checked (base && c == 0 && pOk d) exact (.fcmp g .lt (pIx d) a b)
  | 0x0A => checked (base && c == 0 && pOk d) exact (.fcmp g .le (pIx d) a b)
  | 0x0C => checked (base && b == 0 && c == 0) true (.fcvtFi g rm d a)
  | 0x0D => checked (base && b == 0 && c == 0) true (.fcvtIf g rm d a)
  | _ => .error .fn

/-- CTL (R33). -/
def decodeCtl (w : Word) : Decoded :=
  let g := fGuard w; let link := fD w; let a := fA w; let o := fImm w
  let n : BitVec 2 := link.extractLsb' 0 2
  let nOk := link.toNat < 4
  let fin : BitVec 16 := o.extractLsb' 0 16
  let cnt : BitVec 16 := o.extractLsb' 16 16
  match (fFnB w).toNat with
  | 0x00 => checked (link == 0 && a == 0) true (.br g o)
  | 0x01 => checked (a == 0) true (.jal g link o)
  | 0x02 => .ok (.jalr g link a o)
  | 0x03 => checked (nOk && cnt == 0) (loopOk n fin) (.loop g n a fin)
  | 0x04 => checked (nOk && a == 0) (loopOk n fin && cnt != 0) (.loopi g n cnt fin)
  | _ => .error .fn

/-- The format M fields of an access, and its direction bit (R25). -/
def decMem (w : Word) : MemOp :=
  { width := decWidth ((fModif w).extractLsb' 5 2), data := fD w, base := fA w, index := fB w, scale := fScale w,
    cache := (fModif w).extractLsb' 3 2, scope := (fModif w).extractLsb' 0 3, disp := fDisp w }

/-- The memory groups 0x08 to 0x0D (R34, R111, R178, R262, R368). -/
def decodeMem (w : Word) (ld st : Guard → MemOp → Instr) : Decoded :=
  let m := decMem w; let g := fGuard w
  let i := if (fModif w).getLsbD 7 then st g m else ld g m
  checked true i.wf i

/-- Stores to F: cache policy 1 is the flag form (R262). -/
def decodeStf (g : Guard) (m : MemOp) : Instr := if m.cache == 1 then .stfFlag g m else .stf g m

/-- AMO (R26). -/
def decodeAmo (w : Word) : Decoded :=
  let g := fGuard w; let m := fModif w; let ix := fB w
  let op := (m.extractLsb' 4 4).toNat
  let spBits := (m.extractLsb' 2 2).toNat
  let sp : ASpace := match spBits with | 0 => .ds | 1 => .g | _ => .f
  let f : AmoFields := { wide := (fScale w).getLsbD 0, space := sp, acq := m.getLsbD 1, rel := m.getLsbD 0,
                         data := fD w, base := fA w, disp := fDisp w }
  let opnd := (fScale w).getLsbD 1 && spBits != 3
  match op with
  | 0 => checked (ix == 0) opnd (.amo g .add f)
  | 1 => checked (ix == 0) opnd (.amo g .and f)
  | 2 => checked (ix == 0) opnd (.amo g .or f)
  | 3 => checked (ix == 0) opnd (.amo g .xor f)
  | 4 => checked (ix == 0) opnd (.amo g .min f)
  | 5 => checked (ix == 0) opnd (.amo g .max f)
  | 6 => checked (ix == 0) opnd (.amo g .minu f)
  | 7 => checked (ix == 0) opnd (.amo g .maxu f)
  | 8 => checked (ix == 0) opnd (.amo g .swap f)
  | 9 => checked true opnd (.amoCas g f ix)
  | 10 => checked true opnd (.amoClaim g f ix)
  | _ => .error .fn

/-- FENCE (R35, R234, R235). -/
def decodeFence (w : Word) : Decoded :=
  let g := fGuard w; let d := fD w; let i := fImm w
  let sc : BitVec 3 := i.extractLsb' 0 3
  match (fFnB w).toNat with
  | 0x00 => checked (fA w == 0 && i.toNat < 8) (sc.toNat ≤ 4) (.fence g d sc)
  | 0x01 => checked (fA w == 0 && i == 0) true (.fenceE g d)
  | _ => .error .fn

/-- SEM (R35, R218). -/
def decodeSem (w : Word) : Decoded :=
  let g := fGuard w; let d := fD w; let a := fA w; let i := fImm w
  let k : BitVec 8 := i.extractLsb' 0 8
  let v : BitVec 16 := i.extractLsb' 16 16
  let mid := i.extractLsb' 8 8 == 0
  match (fFnB w).toNat with
  | 0x00 => checked (d == 0 && mid) true (.seminit g a k v)
  | 0x01 => checked (d == 0 && mid) true (.semsig g a k v)
  | 0x02 => checked (d == 0 && mid) true (.semwait g a k v)
  | 0x03 => checked (a == 0 && i.toNat < 256) true (.semrd g d k)
  | 0x04 => checked mid true (.semtry g d a k v)
  | _ => .error .fn

/-- AQ (R36, R222). -/
def decodeAq (w : Word) : Decoded :=
  let g := fGuard w; let link := fD w; let a := fA w; let o := fImm w
  let fn := fFnB w
  let q : BitVec 2 := fn.extractLsb' 0 2
  let mid := fn.extractLsb' 2 2 == 0
  match (fn.extractLsb' 4 4).toNat with
  | 0 => checked (mid && link == 0 && o == 0 && (q != 2 || pOk a)) true (.aqpush g q a)
  | 1 => checked (mid && a == 0 && o == 0 && (q != 2 || pOk link)) true (.aqpop g q link)
  | 2 => checked (mid && link == 0 && a == 0) (q == 2) (.aqbr g o)
  | _ => .error .fn

/-- TIME (R35, R93 to R95). -/
def decodeTime (w : Word) : Decoded :=
  let g := fGuard w; let d := fD w; let a := fA w; let i := fImm w
  match (fFnB w).toNat with
  | 0x00 => checked (a == 0 && i == 0) true (.time g d)
  | 0x01 => checked (d == 0 && i == 0) true (.waitt g a)
  | 0x02 => checked (d == 0) (i != 0) (.waittLock g a i)
  | _ => .error .fn

/-- HANDLE (R37, R166 to R169, R180, R181). -/
def decodeHandle (w : Word) : Decoded :=
  let g := fGuard w; let d := fD w; let a := fA w; let b := fB w
  let cl := fC w == 0 && fLow w == 0
  let spOk := b.toNat == 0 || b.toNat == 4 || b.toNat == 5
  let sp : HSpace := match b.toNat with | 0 => .g | 4 => .ds | _ => .sp
  match (fFnA w).toNat with
  | 0x000 => checked (hOk d && cl) spOk (.hld g (hIx d) a sp)
  | 0x001 => checked (hOk d && cl) spOk (.hst g (hIx d) a sp)
  | 0x002 => checked (hOk d && cl) (b.toNat < 12) (.hset g (hIx d) a b)
  | 0x003 => checked (hOk a && cl) (b.toNat < 12) (.hget g d (hIx a) b)
  | 0x004 => checked (hOk d && b == 0 && cl) true (.hoff g (hIx d) a)
  | 0x005 => checked (hOk a && cl) true (.hxl g d (hIx a) b)
  | 0x008 => checked (hOk a && cl) true (.winreg g d (hIx a) b)
  | 0x009 => checked (b == 0 && cl) true (.winrev g d a)
  | _ => .error .fn

/-- ENQ, ENQR and ENQM (R44). -/
def decodeEnq (w : Word) (lits : BitVec 512) : Decoded :=
  let g := fGuard w; let k := fBase w; let z := fZeroE w == 0
  let eng : Eng := match (fEng w).toNat with | 0 => .mx | 1 => .vx | 2 => .cx | _ => .ae
  let engOk := (fEng w).toNat < 4
  match (fForm w).toNat with
  | 0 => checked (k == 0 && z) engOk (.enq g eng lits)
  | 1 => checked z (engOk && k.toNat % 8 == 0) (.enqr g eng k)
  | 2 => checked z engOk (.enqm g eng k)
  | _ => .error .fn

/-- TASK (R35). -/
def decodeTask (w : Word) : Decoded :=
  let g := fGuard w; let d := fD w; let a := fA w; let i := fImm w
  let e : BitVec 12 := i.extractLsb' 0 12
  let eOk := i.toNat < 4096
  match (fFnB w).toNat with
  | 0x00 => checked (d == 0 && i.toNat < 256) true (.tspawn g a (i.extractLsb' 0 8))
  | 0x01 => checked (d == 0 && a == 0 && i == 0) true (.tend g)
  | 0x02 => checked (d == 0 && eOk) true (.epush g a e)
  | 0x03 => checked (a == 0 && eOk) true (.epop g d e)
  | 0x04 => checked (pOk a && eOk) true (.etry g d (pIx a) e)
  | 0x05 => checked (d == 0 && a == 0) (1 ≤ i.toNat && i.toNat ≤ 64) (.scopeo g (i.extractLsb' 0 7))
  | 0x06 => checked (d == 0 && a == 0 && i == 0) true (.scopec g)
  | 0x07 => checked (d == 0 && a == 0 && i.toNat < 512) true (.vmode g (i.extractLsb' 0 8) (i.getLsbD 8))
  | _ => .error .fn

/-- WAIT (R37, R238, R239). A word with op 0 whose fn[11:9], which R37 gives as zero, is not zero is no assigned fn: FN and not
RESERVED, a point that R37 and R52 leave open (DESIGN CHOICE, log 32). -/
def decodeWait (w : Word) : Decoded :=
  let g := fGuard w; let d := fD w; let a := fA w; let b := fB w
  let fn := fFnA w
  let cl := fC w == 0 && fLow w == 0
  let cc : PCond := match (fn.extractLsb' 4 2).toNat with | 0 => .eq | 1 => .ne | 2 => .geu | _ => .ltu
  let spBits := (fn.extractLsb' 6 2).toNat
  let sp : ASpace := match spBits with | 0 => .ds | 1 => .g | _ => .f
  if fn.extractLsb' 0 4 == 0 && fn.extractLsb' 9 3 == 0 then
    checked cl (spBits != 3) (.poll g cc sp (fn.getLsbD 8) d a b)
  else if fn == 1 then checked (d == 0 && b == 0 && cl) true (.pause g a)
  else .error .fn

/-- COLL (R37, R318, R320, R329). -/
def decodeColl (w : Word) : Decoded :=
  let g := fGuard w; let d := fD w; let a := fA w; let b := fB w; let c := fC w
  let low := fLow w == 0
  match (fFnA w).toNat with
  | 0x000 => checked (b == 0 && c == 0 && low) true (.coll g d a)
  | 0x001 => checked (d == 0 && low) true (.trig g a b c)
  | 0x002 => checked (d == 0 && c == 0 && low) true (.ctrset g a b)
  | 0x003 => checked (d == 0 && c == 0 && low) true (.ctradd g a b)
  | 0x004 => checked (b == 0 && c == 0 && low) true (.ctrrd g d a)
  | _ => .error .fn

/-- PIPE (R37, R354, R359, R361). -/
def decodePipe (w : Word) : Decoded :=
  let g := fGuard w; let d := fD w; let a := fA w; let b := fB w
  let cl := fC w == 0 && fLow w == 0
  match (fFnA w).toNat with
  | 0x000 => checked (b == 0 && cl) true (.pbind g d a)
  | 0x001 => checked (b == 0 && cl) true (.punbind g d a)
  | 0x002 => checked cl true (.pquery g d a b)
  | _ => .error .fn

/-- The instruction of a word; `lits` are the eight words after it, which only an inline ENQ takes (R27, R52). -/
def decode (w : Word) (lits : BitVec 512) : Decoded :=
  if w == BitVec.allOnes 64 then .error .allOnes
  else match (fMajor w).toNat with
  | 0x00 => decodeSys w
  | 0x01 => decodeInt w
  | 0x02 => decodeImm w
  | 0x03 => decodeCmp w
  | 0x04 => decodeFp w
  | 0x05 => decodeCtl w
  | 0x08 => decodeMem w .ldsp .stsp
  | 0x09 => decodeMem w .ldds .stds
  | 0x0A => decodeMem w .ldg .stg
  | 0x0B => decodeMem w .ldf decodeStf
  | 0x0C => decodeMem w .ldn .stn
  | 0x0D => decodeMem w .ldh .sth
  | 0x10 => decodeAmo w
  | 0x11 => decodeFence w
  | 0x12 => decodeSem w
  | 0x13 => decodeAq w
  | 0x14 => decodeTime w
  | 0x18 => decodeHandle w
  | 0x19 => decodeEnq w lits
  | 0x1A => decodeTask w
  | 0x1B => decodeWait w
  | 0x1C => decodeColl w
  | 0x1D => decodePipe w
  | _ => .error .major

/-- The word is the head of an inline ENQ, which eight literal words follow (R44). -/
def isInlineEnq (w : Word) : Bool :=
  match decode w 0 with
  | .ok (.enq ..) => true
  | _ => false

/-- The little-endian number of a list of bytes (R6). -/
def leNat : List Byte → Nat
  | [] => 0
  | b :: bs => b.toNat + 256 * leNat bs

/-- Decoding of the bytes that stand at an address: 8, or 72 for an inline ENQ (R19). -/
def decodeBytes (bs : List Byte) : Decoded :=
  if bs.length < 8 then .error .truncated
  else
    let w : Word := BitVec.ofNat 64 (leNat (bs.take 8))
    if isInlineEnq w && bs.length < 72 then .error .truncated
    else decode w (BitVec.ofNat 512 (leNat ((bs.drop 8).take 64)))

/-- The first `n` bytes of a number, the least significant first (R6). -/
def leBytes : Nat → Nat → List Byte
  | 0, _ => []
  | n + 1, v => BitVec.ofNat 8 v :: leBytes n (v / 256)

/-- What the decoder reads from an instruction whose bits are `w`, bit 0 the least significant bit of its first word,
every bit at or above `nbits` zero. -/
def decodeTableWord (nbits w : Nat) : Option Instr :=
  match decodeBytes (leBytes 72 (w % 2 ^ nbits)) with
  | .ok i => some i
  | .error _ => none

/-! The encoder (R20, R21). -/

/-- Bits [63:52]: major and guard. -/
def encHead (major : BitVec 8) (g : Guard) : BitVec 12 := major ++ BitVec.ofBool g.neg ++ g.pred
/-- Format A. -/
def encA (major : BitVec 8) (g : Guard) (d a b c : BitVec 6) (fn : BitVec 12) : Word :=
  encHead major g ++ d ++ a ++ b ++ c ++ fn ++ (0 : BitVec 16)
/-- Formats B and C. -/
def encB (major : BitVec 8) (g : Guard) (d a : BitVec 6) (fn : BitVec 8) (imm : BitVec 32) : Word :=
  encHead major g ++ d ++ a ++ fn ++ imm
/-- Format M. -/
def encM (major : BitVec 8) (g : Guard) (data base index : BitVec 6) (scale : BitVec 2) (modif : BitVec 8) (disp : BitVec 24) : Word :=
  encHead major g ++ data ++ base ++ index ++ scale ++ modif ++ disp
/-- Format E. -/
def encE (g : Guard) (eng form : BitVec 4) (base : BitVec 6) : Word :=
  encHead 0x19 g ++ eng ++ form ++ base ++ (0 : BitVec 38)

def encP (p : PReg) : BitVec 6 := (0 : BitVec 3) ++ p
def encH (h : HReg) : BitVec 6 := (0 : BitVec 1) ++ h
def encMem (major : BitVec 8) (dir : Bool) (g : Guard) (m : MemOp) : Word :=
  encM major g m.data m.base m.index m.scale (BitVec.ofBool dir ++ encWidth m.width ++ m.cache ++ m.scope) m.disp
def encASpace : ASpace → BitVec 2
  | .ds => 0 | .g => 1 | .f => 2
def encAmo (g : Guard) (op : BitVec 4) (f : AmoFields) (ix : BitVec 6) : Word :=
  encM 0x10 g f.data f.base ix ((1 : BitVec 1) ++ BitVec.ofBool f.wide)
    (op ++ encASpace f.space ++ BitVec.ofBool f.acq ++ BitVec.ofBool f.rel) f.disp
def encAmoOp : AmoOp → BitVec 4
  | .add => 0 | .and => 1 | .or => 2 | .xor => 3 | .min => 4 | .max => 5 | .minu => 6 | .maxu => 7 | .swap => 8
def encHSpace : HSpace → BitVec 6
  | .g => 0 | .ds => 4 | .sp => 5
def encEng : Eng → BitVec 4
  | .mx => 0 | .vx => 1 | .cx => 2 | .ae => 3
def encPCond : PCond → BitVec 2
  | .eq => 0 | .ne => 1 | .geu => 2 | .ltu => 3
def encFCond : FCond → BitVec 8
  | .eq => 0x08 | .lt => 0x09 | .le => 0x0A
def encCsrOp : CsrOp → BitVec 8
  | .w => 0x09 | .s => 0x0A | .c => 0x0B
/-- fn of an FP operation: two zero bits, the rounding mode, the operation (R32). -/
def encFpFn (rm : Rm) (op : BitVec 8) : BitVec 12 := (0 : BitVec 2) ++ encRm rm ++ op
def encCsr (g : Guard) (fn : BitVec 8) (d a : SReg) (csr : BitVec 12) : Word :=
  encB 0x00 g d a fn ((0 : BitVec 20) ++ csr)
def encSem (g : Guard) (fn : BitVec 8) (d a : SReg) (k : BitVec 8) (v : BitVec 16) : Word :=
  encB 0x12 g d a fn (v ++ (0 : BitVec 8) ++ k)
def encAq (g : Guard) (op : BitVec 4) (q : BitVec 2) (link a : SReg) (o : BitVec 32) : Word :=
  encB 0x13 g link a (op ++ (0 : BitVec 2) ++ q) o

/-- The word of a sequencer instruction; `none` for a step that is no word. An inline ENQ's literal words stand beside it
in `encode`. -/
def encodeWord : Instr → Option Word
  | .nop g => some (encB 0x00 g 0 0 0x00 0)
  | .yield g => some (encB 0x00 g 0 0 0x01 0)
  | .halt g => some (encB 0x00 g 0 0 0x02 0)
  | .trap g code => some (encB 0x00 g 0 0 0x03 code)
  | .eret g => some (encB 0x00 g 0 0 0x04 0)
  | .bkpt g code => some (encB 0x00 g 0 0 0x05 code)
  | .csrr g d csr => some (encCsr g 0x08 d 0 csr)
  | .csrw g d a csr => some (encCsr g 0x09 d a csr)
  | .csrs g d a csr => some (encCsr g 0x0A d a csr)
  | .csrc g d a csr => some (encCsr g 0x0B d a csr)
  | .bfmtWrite g op d a n => some (encCsr g (encCsrOp op) d a ((0x11 : BitVec 8) ++ n))
  | .vmodeCsrWrite g op d a => some (encCsr g (encCsrOp op) d a 0x101)
  | .lceWrite g op d a n => some (encCsr g (encCsrOp op) d a ((0x081 : BitVec 10) ++ n))
  | .add g d a b => some (encA 0x01 g d a b 0 0x000)
  | .sub g d a b => some (encA 0x01 g d a b 0 0x001)
  | .mul g d a b => some (encA 0x01 g d a b 0 0x002)
  | .mulh g d a b => some (encA 0x01 g d a b 0 0x003)
  | .mulhu g d a b => some (encA 0x01 g d a b 0 0x004)
  | .madd g d a b c => some (encA 0x01 g d a b c 0x060)
  | .div g d a b => some (encA 0x01 g d a b 0 0x005)
  | .divu g d a b => some (encA 0x01 g d a b 0 0x006)
  | .rem g d a b => some (encA 0x01 g d a b 0 0x007)
  | .remu g d a b => some (encA 0x01 g d a b 0 0x008)
  | .and g d a b => some (encA 0x01 g d a b 0 0x010)
  | .or g d a b => some (encA 0x01 g d a b 0 0x011)
  | .xor g d a b => some (encA 0x01 g d a b 0 0x012)
  | .andn g d a b => some (encA 0x01 g d a b 0 0x013)
  | .sll g d a b => some (encA 0x01 g d a b 0 0x020)
  | .srl g d a b => some (encA 0x01 g d a b 0 0x021)
  | .sra g d a b => some (encA 0x01 g d a b 0 0x022)
  | .rotr g d a b => some (encA 0x01 g d a b 0 0x023)
  | .min g d a b => some (encA 0x01 g d a b 0 0x030)
  | .max g d a b => some (encA 0x01 g d a b 0 0x031)
  | .minu g d a b => some (encA 0x01 g d a b 0 0x032)
  | .maxu g d a b => some (encA 0x01 g d a b 0 0x033)
  | .clz g w d a => some (encA 0x01 g d a 0 0 ((0x010 : BitVec 10) ++ encWidth w))
  | .ctz g w d a => some (encA 0x01 g d a 0 0 ((0x011 : BitVec 10) ++ encWidth w))
  | .popc g w d a => some (encA 0x01 g d a 0 0 ((0x012 : BitVec 10) ++ encWidth w))
  | .sext g w d a => some (encA 0x01 g d a 0 0 ((0x014 : BitVec 10) ++ encWidth w))
  | .zext g w d a => some (encA 0x01 g d a 0 0 ((0x015 : BitVec 10) ++ encWidth w))
  | .addi g d a i => some (encB 0x02 g d a 0x00 i)
  | .andi g d a i => some (encB 0x02 g d a 0x01 i)
  | .ori g d a i => some (encB 0x02 g d a 0x02 i)
  | .xori g d a i => some (encB 0x02 g d a 0x03 i)
  | .slli g d a sh => some (encB 0x02 g d a 0x04 ((0 : BitVec 26) ++ sh))
  | .srli g d a sh => some (encB 0x02 g d a 0x05 ((0 : BitVec 26) ++ sh))
  | .srai g d a sh => some (encB 0x02 g d a 0x06 ((0 : BitVec 26) ++ sh))
  | .muli g d a i => some (encB 0x02 g d a 0x07 i)
  | .li g d i => some (encB 0x02 g d 0 0x08 i)
  | .lih g d i => some (encB 0x02 g d 0 0x09 i)
  | .mini g d a i => some (encB 0x02 g d a 0x0A i)
  | .maxi g d a i => some (encB 0x02 g d a 0x0B i)
  | .cmp g cc d a b => some (encB 0x03 g (encP d) a (encCond cc) ((0 : BitVec 26) ++ b))
  | .cmpi g cc d a i => some (encB 0x03 g (encP d) a (0x08 + encCond cc) i)
  | .pand g d a b => some (encB 0x03 g (encP d) (encP a) 0x10 ((0 : BitVec 29) ++ b))
  | .por g d a b => some (encB 0x03 g (encP d) (encP a) 0x11 ((0 : BitVec 29) ++ b))
  | .pxor g d a b => some (encB 0x03 g (encP d) (encP a) 0x12 ((0 : BitVec 29) ++ b))
  | .pnot g d a => some (encB 0x03 g (encP d) (encP a) 0x13 0)
  | .pset g d a => some (encB 0x03 g (encP d) a 0x14 0)
  | .pget g d a => some (encB 0x03 g d (encP a) 0x15 0)
  | .sel g d a b c => some (encB 0x03 g d a 0x18 ((0 : BitVec 21) ++ c ++ (0 : BitVec 2) ++ b))
  | .fadd g rm d a b => some (encA 0x04 g d a b 0 (encFpFn rm 0x00))
  | .fsub g rm d a b => some (encA 0x04 g d a b 0 (encFpFn rm 0x01))
  | .fmul g rm d a b => some (encA 0x04 g d a b 0 (encFpFn rm 0x02))
  | .ffma g rm d a b c => some (encA 0x04 g d a b c (encFpFn rm 0x03))
  | .fmin g d a b => some (encA 0x04 g d a b 0 0x004)
  | .fmax g d a b => some (encA 0x04 g d a b 0 0x005)
  | .fabs g d a => some (encA 0x04 g d a 0 0 0x006)
  | .fneg g d a => some (encA 0x04 g d a 0 0 0x007)
  | .fcmp g cc d a b => some (encA 0x04 g (encP d) a b 0 ((0 : BitVec 4) ++ encFCond cc))
  | .fcvtFi g rm d a => some (encA 0x04 g d a 0 0 (encFpFn rm 0x0C))
  | .fcvtIf g rm d a => some (encA 0x04 g d a 0 0 (encFpFn rm 0x0D))
  | .br g o => some (encB 0x05 g 0 0 0x00 o)
  | .jal g l o => some (encB 0x05 g l 0 0x01 o)
  | .jalr g l a o => some (encB 0x05 g l a 0x02 o)
  | .loop g n a fin => some (encB 0x05 g ((0 : BitVec 4) ++ n) a 0x03 ((0 : BitVec 16) ++ fin))
  | .loopi g n cnt fin => some (encB 0x05 g ((0 : BitVec 4) ++ n) 0 0x04 (cnt ++ fin))
  | .ldsp g m => some (encMem 0x08 false g m)
  | .stsp g m => some (encMem 0x08 true g m)
  | .ldds g m => some (encMem 0x09 false g m)
  | .stds g m => some (encMem 0x09 true g m)
  | .ldg g m => some (encMem 0x0A false g m)
  | .stg g m => some (encMem 0x0A true g m)
  | .ldf g m => some (encMem 0x0B false g m)
  | .stf g m => some (encMem 0x0B true g m)
  | .stfFlag g m => some (encMem 0x0B true g m)
  | .ldn g m => some (encMem 0x0C false g m)
  | .stn g m => some (encMem 0x0C true g m)
  | .ldh g m => some (encMem 0x0D false g m)
  | .sth g m => some (encMem 0x0D true g m)
  | .amo g op f => some (encAmo g (encAmoOp op) f 0)
  | .amoCas g f c => some (encAmo g 9 f c)
  | .amoClaim g f l => some (encAmo g 10 f l)
  | .fence g d sc => some (encB 0x11 g d 0 0x00 ((0 : BitVec 29) ++ sc))
  | .fenceE g d => some (encB 0x11 g d 0 0x01 0)
  | .seminit g a k v => some (encSem g 0x00 0 a k v)
  | .semsig g a k v => some (encSem g 0x01 0 a k v)
  | .semwait g a k v => some (encSem g 0x02 0 a k v)
  | .semrd g d k => some (encSem g 0x03 d 0 k 0)
  | .semtry g d a k v => some (encSem g 0x04 d a k v)
  | .aqpush g q a => some (encAq g 0 q 0 a 0)
  | .aqpop g q d => some (encAq g 1 q d 0 0)
  | .aqbr g o => some (encAq g 2 2 0 0 o)
  | .time g d => some (encB 0x14 g d 0 0x00 0)
  | .waitt g a => some (encB 0x14 g 0 a 0x01 0)
  | .waittLock g a len => some (encB 0x14 g 0 a 0x02 len)
  | .hld g d a sp => some (encA 0x18 g (encH d) a (encHSpace sp) 0 0x000)
  | .hst g d a sp => some (encA 0x18 g (encH d) a (encHSpace sp) 0 0x001)
  | .hset g d a f => some (encA 0x18 g (encH d) a f 0 0x002)
  | .hget g d a f => some (encA 0x18 g d (encH a) f 0 0x003)
  | .hoff g d a => some (encA 0x18 g (encH d) a 0 0 0x004)
  | .hxl g d a b => some (encA 0x18 g d (encH a) b 0 0x005)
  | .winreg g d a b => some (encA 0x18 g d (encH a) b 0 0x008)
  | .winrev g d a => some (encA 0x18 g d a 0 0 0x009)
  | .enq g e _ => some (encE g (encEng e) 0 0)
  | .enqr g e k => some (encE g (encEng e) 1 k)
  | .enqm g e a => some (encE g (encEng e) 2 a)
  | .tspawn g a q => some (encB 0x1A g 0 a 0x00 ((0 : BitVec 24) ++ q))
  | .tend g => some (encB 0x1A g 0 0 0x01 0)
  | .epush g a e => some (encB 0x1A g 0 a 0x02 ((0 : BitVec 20) ++ e))
  | .epop g d e => some (encB 0x1A g d 0 0x03 ((0 : BitVec 20) ++ e))
  | .etry g d p e => some (encB 0x1A g d (encP p) 0x04 ((0 : BitVec 20) ++ e))
  | .scopeo g n => some (encB 0x1A g 0 0 0x05 ((0 : BitVec 25) ++ n))
  | .scopec g => some (encB 0x1A g 0 0 0x06 0)
  | .vmode g u r => some (encB 0x1A g 0 0 0x07 ((0 : BitVec 23) ++ BitVec.ofBool r ++ u))
  | .poll g cc sp wide d a b =>
    some (encA 0x1B g d a b 0 ((0 : BitVec 3) ++ BitVec.ofBool wide ++ encASpace sp ++ encPCond cc ++ (0 : BitVec 4)))
  | .pause g a => some (encA 0x1B g 0 a 0 0 0x001)
  | .coll g d a => some (encA 0x1C g d a 0 0 0x000)
  | .trig g a b c => some (encA 0x1C g 0 a b c 0x001)
  | .ctrset g a b => some (encA 0x1C g 0 a b 0 0x002)
  | .ctradd g a b => some (encA 0x1C g 0 a b 0 0x003)
  | .ctrrd g d a => some (encA 0x1C g d a 0 0 0x004)
  | .pbind g d a => some (encA 0x1D g d a 0 0 0x000)
  | .punbind g d a => some (encA 0x1D g d a 0 0 0x001)
  | .pquery g d a b => some (encA 0x1D g d a b 0 0x002)
  | _ => none

/-- The literal words that follow the instruction word: an inline ENQ's record (R44). -/
def encodeLits : Instr → BitVec 512
  | .enq _ _ rec => rec
  | _ => 0

/-- The length of an instruction in bytes (R19). -/
def Instr.size : Instr → Nat
  | .enq .. => 72
  | _ => 8

/-- The bytes of an instruction as they stand in memory; none for a step that is no word. -/
def encode (i : Instr) : List Byte :=
  match encodeWord i with
  | none => []
  | some w => leBytes 8 w.toNat ++ (if i.size = 72 then leBytes 64 (encodeLits i).toNat else [])

end Sys2Proof
end

