-- ==== Sys2Proof/Machine/Control.lean ====
section
/-! DEFINITION. SYS, the CSRs, and CTL: NOP, YIELD, HALT, TRAP, ERET and BKPT (R92, R306 to R308), CSR reads and writes (R77
to R79, R300, R301, R309), branches and loops (R87 to R91). -/

namespace Sys2Proof.Machine

-- Boundaries and debug halts.

/-- Waits that an asynchronous cause or a halt ends at the boundary before them (R305). -/
def endsEarly : Instr → Bool
  | .semwait .. | .waitt .. | .waittLock .. | .scopeo .. | .enq .. | .enqr .. | .enqm .. | .winreg .. | .aqpush ..
  | .aqpop .. | .aqbr .. | .fence .. | .fenceE .. | .poll .. | .trig .. => true
  | _ => false
/-- Waits that a pre-emption ends at the boundary before them (R311): these, and the others that block. -/
def preempts (i : Instr) : Bool :=
  endsEarly i || match i with
  | .epush .. | .epop .. | .tspawn .. | .scopec .. | .tend .. | .vmode .. | .vmodeCsrWrite .. | .winrev .. => true
  | _ => false
def isPause : Instr → Bool
  | .pause .. => true | _ => false
/-- An access that may stall before anything of it is performed, or, with a token, awaits its answer (R112, R271). -/
def mayStall : Instr → Bool
  | .ldsp .. | .ldf .. | .stf .. | .stfFlag .. | .ldn .. | .stn .. | .ldh .. | .sth .. | .amo .. | .amoCas .. | .amoClaim .. => true
  | _ => false
def isLdsp : Instr → Bool
  | .ldsp .. => true | _ => false
/-- A wait that nothing answers: the access is tried again. -/
def Wait.stalls (w : Wait) : Bool := mayStall w.ins && w.tok == 0
/-- The sequencer stands at an instruction boundary for a cause of R305, or can be put there. An LDSP that stalls under STRICT (R112)
is not among the instructions that R305 lists: it completes first. -/
def Seq.atBoundary (q : Seq) : Bool :=
  match q.wait with | none => true | some w => endsEarly w.ins || isPause w.ins || (w.stalls && !isLdsp w.ins)
/-- It can be pre-empted (R311). A stalled LDSP is ended too: the records that it waits for do not start any more (log 33). -/
def Seq.atPreempt (q : Seq) : Bool :=
  match q.wait with | none => true | some w => preempts w.ins || isPause w.ins || w.stalls
/-- The waiting instruction ends at the boundary before it; a PAUSE counts as complete (R239, R305). -/
def Seq.endWait (q : Seq) : Seq :=
  match q.wait with
  | none => q
  | some w =>
    let q := { q with wait := none, timecmp := 0 }
    if isPause w.ins then q.advance 8 else q
/-- A cause is due at a sequencer, which is outside a handler and stands at a boundary or can be put there: its wait ends at that
boundary, whatever else it waits for (R305). -/
def Seq.trapDue (q : Seq) : Bool := !q.held.isEmpty && !q.intrap && q.atBoundary
/-- The wait that a sequencer's blocked instruction can complete from: none where a cause is due (R305). -/
def State.waiting (s : State) (r : SeqRef) : Option Wait :=
  let q := s.seq r
  if q.trapDue then none else q.wait
/-- The wait of a sequencer ends; the cycles it has spun are counted (R294), a SCOPEO request leaves the core's queue (R117), an
ENQ releases its pins (R179). -/
def State.endWaitOf (s : State) (r : SeqRef) : State :=
  let s := (s.spinAccrue r.slot).unpin (s.seq r).heldPins
  let c := s.core (coreOf r.slot)
  let s := if c.scopeQ.any (fun e => e.1 == .seq r) then
      s.setCore (coreOf r.slot) { c with scopeQ := c.scopeQ.filter (fun e => e.1 != .seq r) } else s
  s.setSeq r (s.seq r).endWait

/-- A slot halts for debug once both its sequencers are at boundaries at which no trap is due, and tells the host (R313, R314,
R316). `held`: it has been halted and a trap that is due waits for its resume. -/
def State.tryHalt (s : State) (k : Nat) (held : Bool := false) : State :=
  let t := s.slot k
  let here (r : SeqRef) : Bool := (s.seq r).atBoundary && (held || (s.seq r).stopped || !(s.seq r).trapDue)
  if t.haltReq && !t.halted && here (seqA k) && here (seqX k) then
    let s := (s.endWaitOf (seqA k)).endWaitOf (seqX k)
    let s := s.setSlot k { s.slot k with halted := true, haltReq := false, stepOne := none, stepping := false }
    s.emit 0x30 t.ctxOf (leBytesN 8 (coreOf k) ++ leBytesN 8 (k % 4) ++ leBytesN 8 (s.seq (seqA k)).pc.toNat
      ++ leBytesN 8 (s.seq (seqX k)).pc.toNat)
  else s
/-- A halt is asked for; a slot that is halted stays so. -/
def State.askHalt (s : State) (k : Nat) : State :=
  if (s.slot k).halted then s else (s.setSlot k { s.slot k with haltReq := true }).tryHalt k

-- SYS.

def execNop (g : Guard) (s : State) : Host.Outcome State Fault Refusal := s.guarded g fun s => s.go
/-- YIELD changes no architectural state (R92). -/
def execYield (g : Guard) (s : State) : Host.Outcome State Fault Refusal := s.guarded g fun s => s.go
/-- HALT (R308): a debug halt after itself while HALTEN is set, else the task ends unhandled. -/
def execHalt (g : Guard) (s : State) : Host.Outcome State Fault Refusal :=
  s.guarded g fun s =>
    if s.cxv.halten then (s.go.closeLock s.cur.slot).askHalt s.cur.slot
    else s.endUnhandled s.cur 0x11 false s.q.pc (BitVec.allOnes 64)
/-- TRAP raises SWTRAP after itself (R307). -/
def execTrap (g : Guard) (code : BitVec 32) (s : State) : Host.Outcome State Fault Refusal :=
  s.guarded g fun s => let s := s.go; s.takeTrap s.cur 0x11 false s.q.pc (code.zeroExtend 64)
def execEret (g : Guard) (s : State) : Host.Outcome State Fault Refusal := s.guarded g fun s => s.eretDo
/-- BKPT halts the slot at its word while BKEN is set, else traps BKPT (R307). -/
def execBkpt (g : Guard) (code : BitVec 32) (s : State) : Host.Outcome State Fault Refusal :=
  s.guarded g fun s =>
    if s.cxv.bken then s.askHalt s.cur.slot
    else s.trap { code := 0x10, eval := code.zeroExtend 64 }

-- CSRs.

/-- CAP0 (R391). -/
def State.cap0 (s : State) : Word := if s.vond8 then 0x0000000880108003 else 0x0000000440084000
def bitIf (b : Bool) (k : Nat) : Nat := if b then 2 ^ k else 0
def State.portReady (s : State) (p : Nat) : Bool := (tblGetD s.fab.ports p {}).ready
def State.ethReady (s : State) (p : Nat) : Bool := (tblGetD s.eth.ports p {}).ready
/-- CAP1 (R393). -/
def State.cap1 (s : State) : Word :=
  BitVec.ofNat 64 (bitIf s.preg.endptReady 0 + bitIf s.preg.secReady 1
    + ((List.range 8).map (fun d => bitIf (s.die d).ready (2 + d))).sum
    + ((List.range 16).map (fun k => bitIf (tblGetD s.mem.stk k false) (10 + k))).sum
    + ((List.range 8).map (fun p => bitIf (s.ethReady p) (26 + p))).sum
    + ((List.range 16).map (fun g =>
        bitIf (decide (8 * g < s.nPorts) && (List.range 8).all (fun i => s.portReady (8 * g + i))) (34 + g))).sum)

def Cluster.gatedB : Cluster → Bool
  | .gated => true | _ => false
def Cluster.drowsyB : Cluster → Bool
  | .drowsy => true | _ => false
/-- VMODE (R123). -/
def Slot.vmodeCsr (t : Slot) : Word :=
  match t.scope with
  | none => BitVec.ofNat 64 (bitIf t.vrest 24)
  | some sc =>
    let bits (f : Cluster → Bool) (lo : Nat) : Nat :=
      ((List.range sc.cl.length).map (fun k => bitIf (match sc.cl[k]? with | some c => f c | none => false) (lo + k))).sum
    BitVec.ofNat 64 (sc.n * 2 ^ 25 + bitIf t.vrest 24 + bits Cluster.gatedB 16 + bits Cluster.drowsyB 8 + t.vuse.toNat)

/-- The value a CSR reads as for the sequencer that runs (R77 and the chapters it cites). BFMTn is checked before. -/
def State.csr (s : State) (n : Nat) : Word :=
  let q := s.q; let t := s.sl; let c := s.cxv
  let z (x : BitVec 32) : Word := x.zeroExtend 64
  if 0x110 ≤ n && n ≤ 0x11B then
    (match s.grp t.grpOf with | some g => g.fmtOf (n - 0x110) | none => 0)
  else if 0x4C0 ≤ n && n ≤ 0x4CF then z (tblGetD c.fxc (n - 0x4C0) 0)
  else if 0x200 ≤ n && n ≤ 0x202 then (q.loopAt (n - 0x200)).start
  else if 0x204 ≤ n && n ≤ 0x206 then
    let l := q.loopAt (n - 0x204); l.fin ||| l.depth.zeroExtend 64
  else if 0x208 ≤ n && n ≤ 0x20A then (q.loopAt (n - 0x208)).count
  else match n with
  | 0x000 => BitVec.ofNat 64 (bitIf (s.cx == 0) 8 + bitIf (s.quiet s.cur.slot) 3 + bitIf c.fx 2 + bitIf q.strict 1
      + bitIf q.intrap 0)
  | 0x001 => q.cause.zeroExtend 64
  | 0x002 => q.epc
  | 0x003 => q.eval
  | 0x004 => q.tvec
  | 0x010 => BitVec.ofNat 64 s.cx
  | 0x011 => c.asid.zeroExtend 64
  | 0x012 => c.gang.zeroExtend 64
  | 0x013 => z c.spinlim
  | 0x014 => z c.lockmax
  | 0x018 => z c.gridstarve
  | 0x100 => t.vshape
  | 0x101 => t.vmodeCsr
  | 0x120 => z t.hazcnt
  | 0x210 => q.timecmp
  | 0x211 => t.lockend
  | 0x300 => z t.aeeps
  | 0x301 => z t.aemax
  | 0x302 => z t.aeres
  | 0x4D0 => z c.fxthr
  | 0xF00 => s.cap0
  | 0xF01 => s.cap1
  | _ => 0

/-- The fields of VSHAPE that are not reserved (R125). -/
def vshapeMask : Word := 0x0000FFFF07FF07FF
/-- BFMT written field by field: a reserved FORMAT or GEOM keeps its previous value (R103). -/
def bfmtMerge (old new : Word) : Word :=
  let fmt := if (new.extractLsb' 0 4).toNat ≤ 0xA then new.extractLsb' 0 4 else old.extractLsb' 0 4
  let geom := if (new.extractLsb' 4 3).toNat ≤ 5 then new.extractLsb' 4 3 else old.extractLsb' 4 3
  (0 : BitVec 28) ++ new.extractLsb' 24 12 ++ (0 : BitVec 17) ++ geom ++ fmt

/-- The effect of a CSR write: `v` is the merged value, `raw` the bits of s[a] that a W1C field receives (R78). Fields that
are RO keep their value. -/
def State.csrSet (s : State) (n : Nat) (v raw : Word) : State :=
  let q := s.q; let t := s.sl; let c := s.cxv
  let lo : BitVec 32 := v.extractLsb' 0 32
  if 0x110 ≤ n && n ≤ 0x11B then
    (match s.grp t.grpOf with
     | some g => s.setGrp t.grpOf { g with bfmt := tblPut g.bfmt (n - 0x110) 0 (bfmtMerge (g.fmtOf (n - 0x110)) v) }
     | none => s)
  else if 0x4C0 ≤ n && n ≤ 0x4CF then s.setCtx s.cx { c with fxc := tblPut c.fxc (n - 0x4C0) 0 lo }
  else if 0x200 ≤ n && n ≤ 0x202 then
    s.setQ (q.setLoop (n - 0x200) { q.loopAt (n - 0x200) with start := v &&& ~~~7 }).prune
  else if 0x204 ≤ n && n ≤ 0x206 then
    s.setQ (q.setLoop (n - 0x204)
      { q.loopAt (n - 0x204) with fin := v &&& ~~~7, depth := v.extractLsb' 0 2 }).prune
  else if 0x208 ≤ n && n ≤ 0x20A then s.setQ (q.setLoop (n - 0x208) { q.loopAt (n - 0x208) with count := v })
  else match n with
  | 0x000 =>
    let s := s.setQ { q with strict := v.getLsbD 1 }
    if raw.getLsbD 2 then s.setCtx s.cx { c with fx := false } else s
  | 0x001 => s.setQ { q with cause := v.extractLsb' 0 9 }
  | 0x002 => s.setQ { q with epc := v &&& ~~~7 }
  | 0x003 => s.setQ { q with eval := v }
  | 0x004 => s.setQ { q with tvec := v &&& ~~~6 }
  | 0x018 => s.setCtx s.cx { c with gridstarve := lo }
  | 0x100 => s.setSl { t with vshape := v &&& vshapeMask }
  | 0x120 => s.setSl { t with hazcnt := lo }
  | 0x300 => s.setSl { t with aeeps := lo }
  | 0x301 => s.setSl { t with aemax := lo }
  | 0x302 => s.setSl { t with aeres := lo }
  | 0x4D0 => s.setCtx s.cx { c with fxthr := lo }
  | _ => s

/-- BFMTn of a bank outside the group's mask traps PROT (R98). -/
def State.csrReach (s : State) (n : Nat) : Bool :=
  !(0x110 ≤ n && n ≤ 0x11B) || s.hasBank s.cur.slot (n - 0x110)
/-- The new value of a CSR write (R78). -/
def csrNew (op : CsrOp) (old x : Word) : Word :=
  match op with | .w => x | .s => old ||| x | .c => old &&& ~~~x
/-- CSRW, CSRS and CSRC: one atomic action, the old value into s[d] (R78); LOCKMAX traps PRIV (R309). -/
def State.csrWrite (s : State) (op : CsrOp) (d a : SReg) (n : Nat) : State :=
  if n = 0x014 then s.trap { code := 2, eval := BitVec.ofNat 64 n }
  else if !s.csrReach n then s.trap (prot (BitVec.ofNat 64 n))
  else
    let old := s.csr n
    let x := s.q.s a
    (s.csrSet n (csrNew op old x) x).ret d old

def execCsrr (g : Guard) (d : SReg) (csr : BitVec 12) (s : State) : Host.Outcome State Fault Refusal :=
  s.guarded g fun s =>
    if !s.csrReach csr.toNat then s.trap (prot (csr.zeroExtend 64)) else s.ret d (s.csr csr.toNat)
def execCsrw (g : Guard) (d a : SReg) (csr : BitVec 12) (s : State) : Host.Outcome State Fault Refusal :=
  s.guarded g fun s => s.csrWrite .w d a csr.toNat
def execCsrs (g : Guard) (d a : SReg) (csr : BitVec 12) (s : State) : Host.Outcome State Fault Refusal :=
  s.guarded g fun s => s.csrWrite .s d a csr.toNat
def execCsrc (g : Guard) (d a : SReg) (csr : BitVec 12) (s : State) : Host.Outcome State Fault Refusal :=
  s.guarded g fun s => s.csrWrite .c d a csr.toNat
/-- Writes of BFMT0 to BFMT11 (R103). -/
def execBfmtWrite (g : Guard) (op : CsrOp) (d a : SReg) (n : BitVec 4) (s : State) : Host.Outcome State Fault Refusal :=
  s.guarded g fun s => s.csrWrite op d a (0x110 + n.toNat)
/-- Writes of LCE0 to LCE2: a nonzero DEPTH activates the loop (R91). -/
def execLceWrite (g : Guard) (op : CsrOp) (d a : SReg) (n : BitVec 2) (s : State) : Host.Outcome State Fault Refusal :=
  s.guarded g fun s => s.csrWrite op d a (0x204 + n.toNat)

-- Control transfer (R87).

def target (pc : Word) (off : BitVec 32) : Word := pc + 8 * sext32 off

def execBr (g : Guard) (off : BitVec 32) (s : State) : Host.Outcome State Fault Refusal :=
  s.guarded g fun s => s.setQ (s.q.jump (target s.q.pc off))
def execJal (g : Guard) (link : SReg) (off : BitVec 32) (s : State) : Host.Outcome State Fault Refusal :=
  s.guarded g fun s => let q := s.q; s.setQ ((q.setS link (q.pc + 8)).jump (target q.pc off))
def execJalr (g : Guard) (link a : SReg) (off : BitVec 32) (s : State) : Host.Outcome State Fault Refusal :=
  s.guarded g fun s =>
    let q := s.q
    let t := target (q.s a) off
    if !aligned t 8 then s.trap (alignT t) else s.setQ ((q.setS link (q.pc + 8)).jump t)

-- Fetch and loops.

/-- One word of the stream: the captured one inside an active loop, else from memory (R87, R89, R171). -/
def State.fetchWord (s : State) (q : Seq) (a : Word) : Acc (Word × State) :=
  match tblGet q.loopBuf a.toNat with
  | some w => .ok (w, s)
  | none => (s.loadG s.cx a 8 .fetch).bind fun (v, s) => .ok (BitVec.ofNat 64 v, s)

/-- A word fetched inside an active loop's body is captured (R89). A body that a CSRW of LCE makes longer than the loop buffer
of R74 is captured whole too: the spec does not say what is captured then (DESIGN CHOICE, log 32). -/
def Seq.capture (q : Seq) (a w : Word) : Seq :=
  if [0, 1, 2].any (fun n => inLoop (q.loopAt n) a) then { q with loopBuf := tblSet q.loopBuf a.toNat w } else q

/-- The body from `a` up to `fin` ends inside an inline ENQ (R33), as a sequencer with these captured words would read it. A word
that cannot be fetched now (it would trap, or its stack is not ready) ends the search: the body counts as one that splits no ENQ,
the loop opens, and the fetch fault comes when the word is reached. What a word that cannot be fetched makes of the check the spec
does not say (DESIGN CHOICE, log 33). -/
def State.splitsEnq (s : State) (q : Seq) : Nat → Word → Word → Bool
  | 0, _, _ => false
  | k + 1, a, fin =>
    if !a.ult fin then decide (fin.toNat < a.toNat)
    else match s.fetchWord q a with
      | .ok (w, _) => State.splitsEnq s q k (a + (if isInlineEnq w then 72 else 8)) fin
      | _ => false

/-- LOOP and LOOPI with the count they take (R88). A skipped loop captures no body (R33). -/
def State.loopOpen (s : State) (n : Nat) (cnt : Word) (fin : BitVec 16) : State :=
  let q := s.q
  let e := q.pc + 8 * fin.zeroExtend 64
  let dn := (q.loopAt n).depth
  let close (q : Seq) (k : Nat) : Seq :=
    if dn != 0 && dn.ule (q.loopAt k).depth && loopActive (q.loopAt k) then
      q.setLoop k { q.loopAt k with depth := 0 } else q
  let q' := ([0, 1, 2].foldl close q).prune
  if cnt = 0 then
    s.setQ (if q'.intrap then { q' with pc := e } else Seq.flow 4 q' e)
  else if s.splitsEnq q' 258 (q.pc + 8) e then s.ill 4
  else
    let beyond := match q'.deepest with | none => false | some k => (q'.loopAt k).fin.ult e
    if beyond then s.ill 4
    else
      let act := ([0, 1, 2].filter (fun k => loopActive (q'.loopAt k))).length
      let l : Loop := { start := q.pc + 8, fin := e, depth := BitVec.ofNat 2 (act + 1), count := cnt }
      s.setQ { (q'.setLoop n l).prune with pc := q.pc + 8 }

def execLoop (g : Guard) (n : BitVec 2) (a : SReg) (fin : BitVec 16) (s : State) : Host.Outcome State Fault Refusal :=
  s.guarded g fun s => s.loopOpen n.toNat (s.q.s a) fin
def execLoopi (g : Guard) (n : BitVec 2) (cnt fin : BitVec 16) (s : State) : Host.Outcome State Fault Refusal :=
  s.guarded g fun s => s.loopOpen n.toNat (cnt.zeroExtend 64) fin

/-- Check 6: MX, VX and AE records by X, CX records by A, whatever the guard (R12, R52). -/
def State.inStream (s : State) (e : Eng) : Bool := match e with | .cx => !s.cur.x | _ => s.cur.x

-- Fetch failures and words that are no instruction (R52, R53, R87, R310).

def rejectCode : Reject → Nat
  | .major => 1 | .fn => 2 | .reserved => 3 | .operand => 4 | .allOnes => 6 | .truncated => 2
/-- A word that fails checks 1 to 5 of R52 traps ILL with its sub-cause, whatever its guard. -/
def execUnassignedEncoding (w : Word) (s : State) : Host.Outcome State Fault Refusal :=
  match decode w 0 with
  | .error e => .next (s.ill (rejectCode e))
  | .ok _ => .next s
/-- The words of an instruction from its first one: 1, or 9 for an inline ENQ (R19, R44), captured inside a loop. -/
def State.fetchMore (s : State) : Nat → Word → List Word → Acc (List Word × State)
  | 0, _, ws => .ok (ws, s)
  | k + 1, a, ws => (s.fetchWord s.q a).bind fun (w, s) =>
      State.fetchMore (s.setQ (s.q.capture a w)) k (a + 8) (ws ++ [w])
/-- The word is an inline ENQ that passes checks 1 to 6 under a true guard: only then are its literal words read (R23, R179). -/
def State.readsRecord (s : State) (w : Word) : Bool :=
  match decode w 0 with
  | .ok (.enq g e _) => s.inStream e && s.q.guard g
  | _ => false
/-- Fetch at the program counter: the instruction word, and the literal words after it where the ENQ reads them. -/
def State.fetchInstr (s : State) : Acc ((Word × BitVec 512) × State) :=
  (s.fetchMore 1 s.q.pc []).bind fun (ws, s) =>
    let w := ws.headD 0
    if s.readsRecord w then
      (s.fetchMore 8 (s.q.pc + 8) []).bind fun (ls, s) =>
        .ok ((w, BitVec.ofNat 512 (ls.foldr (fun (x : Word) (n : Nat) => x.toNat + 2 ^ 64 * n) 0)), s)
    else .ok ((w, 0), s)
/-- A fetch that PAGE, PROT, KEY or MCHK stops: a precise trap at the word (R87, R310). -/
def execInstructionFetchFault (q : SeqRef) (s : State) : Host.Outcome State Fault Refusal :=
  match (s.asSeq q).fetchInstr with
  | .trap t => .next ((s.asSeq q).trap t)
  | _ => .next s

end Sys2Proof.Machine
end

