-- ==== Sys2Proof/Machine/Sync.lean ====
section
/-! DEFINITION. Semaphore instructions (R211, R217 to R219), architectural queues (R221 to R223), time and locked windows
(R93 to R96), PAUSE and the spin counter (R239, R294). -/

namespace Sys2Proof.Machine

-- Spinning (R294).

/-- The counter of a slot whose sequencers wait is brought up to now (R294). -/
def execSpinLimit (slot : Nat) (s : State) : Host.Outcome State Fault Refusal := .next (s.spinAccrue slot)

-- Semaphores.

def semPoisonEval (record : Bool) (cause : BitVec 8) (k : Nat) : Word :=
  BitVec.ofNat 64 (bitIf record 16 + cause.toNat * 256 + k % 256)
def State.semPoisonTrap (s : State) (k : Nat) : State :=
  s.trap { code := 9, eval := semPoisonEval false (s.sem s.cx k).cause k }
/-- v of R218. -/
def State.semVal (s : State) (a : SReg) (v : BitVec 16) : BitVec 16 := v + (s.q.s a).truncate 16

def execSeminit (g : Guard) (a : SReg) (k : BitVec 8) (v : BitVec 16) (s : State) : Host.Outcome State Fault Refusal :=
  s.guarded g fun s => (s.setSem s.cx k.toNat { count := s.semVal a v }).go
def execSemsig (g : Guard) (a : SReg) (k : BitVec 8) (v : BitVec 16) (s : State) : Host.Outcome State Fault Refusal :=
  s.guarded g fun s => (s.signal s.cx k.toNat (s.semVal a v)).go
/-- SEMWAIT, from its start (R218). -/
def State.semwaitDo (s : State) (g : Guard) (a : SReg) (k : BitVec 8) (v : BitVec 16) : State :=
  let m := s.sem s.cx k.toNat
  if m.poison then s.semPoisonTrap k.toNat
  else if passes m.count (s.semVal a v) then s.go
  else s.block (.semwait g a k v)
def execSemwait (g : Guard) (a : SReg) (k : BitVec 8) (v : BitVec 16) (s : State) : Host.Outcome State Fault Refusal :=
  s.guarded g fun s => s.semwaitDo g a k v
def execSemwaitPass (q : SeqRef) (s : State) : Host.Outcome State Fault Refusal :=
  match s.waiting q with
  | some { ins := .semwait g a k v, .. } => .next ((s.asSeq q).semwaitDo g a k v)
  | _ => .next s
def execSemrd (g : Guard) (d : SReg) (k : BitVec 8) (s : State) : Host.Outcome State Fault Refusal :=
  s.guarded g fun s =>
    let m := s.sem s.cx k.toNat
    s.ret d (BitVec.ofNat 64 (m.cause.toNat * 2 ^ 24 + bitIf m.poison 16 + m.count.toNat))
def execSemtry (g : Guard) (d a : SReg) (k : BitVec 8) (v : BitVec 16) (s : State) : Host.Outcome State Fault Refusal :=
  s.guarded g fun s =>
    let m := s.sem s.cx k.toNat
    if m.poison then s.semPoisonTrap k.toNat
    else if passes m.count (s.semVal a v) then (s.spinClear s.cur.slot).ret d 1
    else (s.spinAdd s.cur.slot 64).ret d 0

-- Architectural queues.

/-- The sequencer that pushes this queue is X (R221). -/
def aqPushX (q : BitVec 2) : Bool := q == 3
def aqLen (t : Slot) (q : BitVec 2) : Nat :=
  match q.toNat with | 0 => t.aq0.length | 1 => t.aq1.length | 2 => t.aq2.length | _ => t.aq3.length
def State.other (s : State) : Seq := s.seq { s.cur with x := !s.cur.x }

/-- AQPUSH from its start (R222). -/
def State.aqpushDo (s : State) (g : Guard) (q : BitVec 2) (a : SReg) : State :=
  let t := s.sl
  let v := s.q.s a
  if s.other.stopped then s.go
  else if 32 ≤ aqLen t q then s.block (.aqpush g q a)
  else
    let t' := match q.toNat with
      | 0 => { t with aq0 := t.aq0 ++ [v] }
      | 1 => { t with aq1 := t.aq1 ++ [v] }
      | 2 => { t with aq2 := t.aq2 ++ [s.q.p (a.truncate 3)] }
      | _ => { t with aq3 := t.aq3 ++ [v] }
    (s.setSl t').go
def execAqpush (g : Guard) (q : BitVec 2) (a : SReg) (s : State) : Host.Outcome State Fault Refusal :=
  if s.cur.x != aqPushX q then .next (s.ill 5) else s.guarded g fun s => s.aqpushDo g q a
def execAqpushRoom (q : SeqRef) (s : State) : Host.Outcome State Fault Refusal :=
  match s.waiting q with
  | some { ins := .aqpush g k a, .. } => .next ((s.asSeq q).aqpushDo g k a)
  | _ => .next s
/-- The head of a 64-bit queue and the slot without it. -/
def aqHead (t : Slot) (q : BitVec 2) : Option Word × Slot :=
  match q.toNat with
  | 0 => (t.aq0.head?, { t with aq0 := t.aq0.tail })
  | 1 => (t.aq1.head?, { t with aq1 := t.aq1.tail })
  | 2 => (t.aq2.head?.map Word.ofBool, { t with aq2 := t.aq2.tail })
  | _ => (t.aq3.head?, { t with aq3 := t.aq3.tail })
/-- A pop (R222): blocked on an empty queue whose producer has not ended; then the head, or 0. -/
def State.aqpopThen (s : State) (i : Instr) (q : BitVec 2) (f : State → Word → State) : State :=
  match aqHead s.sl q with
  | (some v, t) => f (s.setSl t) v
  | (none, _) => if s.other.stopped then f s 0 else s.block i
def State.aqpopDo (s : State) (g : Guard) (q : BitVec 2) (d : SReg) : State :=
  s.aqpopThen (.aqpop g q d) q fun s v => if q = 2 then s.retP (d.truncate 3) (v == 1) else s.ret d v
def State.aqbrDo (s : State) (g : Guard) (off : BitVec 32) : State :=
  s.aqpopThen (.aqbr g off) 2 fun s v =>
    if v == 1 then s.setQ ({ s.q with wait := none }.jump (target s.q.pc off)) else s.go
def execAqpop (g : Guard) (q : BitVec 2) (d : SReg) (s : State) : Host.Outcome State Fault Refusal :=
  if s.cur.x == aqPushX q then .next (s.ill 5) else s.guarded g fun s => s.aqpopDo g q d
def execAqbr (g : Guard) (off : BitVec 32) (s : State) : Host.Outcome State Fault Refusal :=
  if !s.cur.x then .next (s.ill 5) else s.guarded g fun s => s.aqbrDo g off
def execAqpopData (q : SeqRef) (s : State) : Host.Outcome State Fault Refusal :=
  match s.waiting q with
  | some { ins := .aqpop g k d, .. } => .next ((s.asSeq q).aqpopDo g k d)
  | some { ins := .aqbr g off, .. } => .next ((s.asSeq q).aqbrDo g off)
  | _ => .next s

-- Time.

def execTime (g : Guard) (d : SReg) (s : State) : Host.Outcome State Fault Refusal :=
  s.guarded g fun s => s.ret d s.clk.time
def State.setTimecmp (s : State) (t : Word) : State := s.setQ { s.q with timecmp := t }
/-- WAITT from its start (R94). -/
def State.waittDo (s : State) (g : Guard) (a : SReg) : State :=
  let t := s.q.s a
  if t.ule s.clk.time then (s.setTimecmp 0).go else (s.setTimecmp t).block (.waitt g a)
def execWaitt (g : Guard) (a : SReg) (s : State) : Host.Outcome State Fault Refusal := s.guarded g fun s => s.waittDo g a
def execWaittComplete (q : SeqRef) (s : State) : Host.Outcome State Fault Refusal :=
  match s.waiting q with
  | some { ins := .waitt g a, .. } => .next ((s.asSeq q).waittDo g a)
  | _ => .next s
/-- WAITT.LOCK once LOCKMAX allows it (R95): at the end of the wait a window opens and its cycles are charged to MX and VX, as
leftover only where leftover remains (R290). -/
def State.waittLockDo (s : State) (g : Guard) (a : SReg) (len : BitVec 32) : State :=
  let t := s.q.s a
  if t.ule s.clk.time then
    let n := (5 * len.toNat + 1) / 2
    let core := coreOf s.cur.slot
    let s := s.setSl { s.sl with lockend := s.clk.time + len.zeroExtend 64 }
    let s := s.chargeT s.cur.slot s.cx 0 core n (s.engLeftover .mx core)
    let s := s.chargeT s.cur.slot s.cx 1 core n (s.engLeftover .vx core)
    (s.setTimecmp 0).go
  else (s.setTimecmp t).block (.waittLock g a len)
/-- LOCKMAX bounds the window before the wait, and only then (R95). -/
def execWaittLock (g : Guard) (a : SReg) (len : BitVec 32) (s : State) : Host.Outcome State Fault Refusal :=
  s.guarded g fun s =>
    if s.cxv.lockmax.ult len then s.trap { code := 0x0C, eval := len.zeroExtend 64 } else s.waittLockDo g a len
def execWaittLockComplete (q : SeqRef) (s : State) : Host.Outcome State Fault Refusal :=
  match s.waiting q with
  | some { ins := .waittLock g a len, .. } => .next ((s.asSeq q).waittLockDo g a len)
  | _ => .next s
/-- A window closes when the counter reaches LOCKEND (R95). -/
def execLockWindowClose (slot : Nat) (s : State) : Host.Outcome State Fault Refusal :=
  .next (if (s.slot slot).lockend.ule s.clk.time then s.closeLock slot else s)

-- PAUSE (R239).

def execPause (g : Guard) (a : SReg) (s : State) : Host.Outcome State Fault Refusal :=
  s.guarded g fun s =>
    if s.q.pauseCycles a = 0 then s.go else (s.spinAccrue s.cur.slot).block (.pause g a)
/-- A PAUSE is over once its cycles have passed on the clock of its core (R239, R400). -/
def execPauseExpiry (q : SeqRef) (s : State) : Host.Outcome State Fault Refusal :=
  match s.waiting q with
  | some { ins := .pause _ a, seen := n, .. } =>
    let v := s.seq q
    .next (if 4 * v.pauseCycles a ≤ n + v.spun (s.pace q.slot) s.now then ((s.spinAccrue q.slot).asSeq q).go else s)
  | _ => .next s

end Sys2Proof.Machine
end

