-- ==== Sys2Proof/Machine/Lpath.lean ====
section
/-! DEFINITION. The log path: L and E of R140, the exact operations of R141 and the functions of R142. -/

namespace Sys2Proof.Machine

/-- floor(2^128 × 2^(2^−k)) for k from 1 to 24: the factors that E is a product of. -/
def rootTwo (k : Nat) : Nat :=
  match k with
  | 1 => 0x16A09E667F3BCC908B2FB1366EA957D3E
  | 2 => 0x1306FE0A31B7152DE8D5A46305C85EDEC
  | 3 => 0x1172B83C7D517ADCDF7C8C50EB14A7920
  | 4 => 0x10B5586CF9890F6298B92B71842A98364
  | 5 => 0x1059B0D31585743AE7C548EB68CA417FE
  | 6 => 0x102C9A3E778060EE6F7CACA4F7A29BDE9
  | 7 => 0x10163DA9FB33356D84A66AE336DCDFA40
  | 8 => 0x100B1AFA5ABCBED6129AB13EC11DC9544
  | 9 => 0x10058C86DA1C09EA1FF19D294CF2F679C
  | 10 => 0x1002C605E2E8CEC506D21BFC89A23A010
  | 11 => 0x100162F3904051FA128BCA9C55C31E5E0
  | 12 => 0x1000B175EFFDC76BA38E31671CA939726
  | 13 => 0x100058BA01FB9F96D6CACD4B180917C3E
  | 14 => 0x10002C5CC37DA9491D0985C348C68E7B3
  | 15 => 0x1000162E525EE054754457D5995292026
  | 16 => 0x10000B17255775C040618BF4A4ADE83FC
  | 17 => 0x1000058B91B5BC9AE2EED81E9B7D4CFAC
  | 18 => 0x100002C5C89D5EC6CA4D7C8ACC017B7C9
  | 19 => 0x10000162E43F4F831060E02D839A9D16D
  | 20 => 0x100000B1721BCFC99D9F890EA06911763
  | 21 => 0x10000058B90CF1E6D97F9CA14DBCC1628
  | 22 => 0x1000002C5C863B73F016468F6BAC5CA2C
  | 23 => 0x100000162E430E5A18F6119E3C02282A5
  | 24 => 0x1000000B1721835514B86E6D96EFD1BFF
  | _ => 2 ^ 128

/-- The code of the logarithm of zero (R140). -/
def logZero : BitVec 32 := 0x80000000
def logTop : Int := 2 ^ 31 - 1
def logBot : Int := -(2 ^ 31) + 1

/-- 2^128 × 2^(f / 2^24) for f below 2^24, from the bits of f. -/
def expFrac (f : Nat) : Nat :=
  (List.range 24).foldl (fun acc i => if f / 2 ^ i % 2 = 1 then acc * rootTwo (24 - i) / 2 ^ 128 else acc) (2 ^ 128)

/-- E(v): 2^(v / 2^24) in FP32, by RNE (R140). The value is irrational unless the fraction is zero; then a last bit keeps
it from looking exact. With the event of that rounding. -/
def logE (v : BitVec 32) : Nat × Ev :=
  if v = logZero then (0, none)
  else
    let i : Int := v.toInt / 2 ^ 24
    let f := (v.toInt % 2 ^ 24).toNat
    let m := if f = 0 then 2 ^ 129 else 2 * expFrac f + 1
    roundFin fp32 .rne false m (i - 129)

/-- The bits of log2 of y / 2^256, for y from 2^256 up to below 2^257: `k` more bits by squaring. -/
def logBits : Nat → Nat → Nat → Nat
  | 0, _, acc => acc
  | k + 1, y, acc =>
    let z := y * y / 2 ^ 256
    if 2 ^ 257 ≤ z then logBits k (z / 2) (2 * acc + 1) else logBits k z (2 * acc)

/-- log2(m × 2^e) × 2^24 rounded to the nearest integer, for m > 0 (R140). -/
def logNear (m : Nat) (e : Int) : Int :=
  let k := Nat.log2 m
  let frac := logBits 25 (m * 2 ^ 256 / 2 ^ k) 0
  (((k : Int) + e) * 2 ^ 25 + frac + 1) / 2

/-- L(x) for an FP32 value x ≥ 0, of which the magnitude is taken (R140). NaN gives the greatest code. -/
def logL (x : Num) : BitVec 32 :=
  match x with
  | .nan => BitVec.ofInt 32 logTop
  | .inf _ => BitVec.ofInt 32 logTop
  | .fin _ m e => if m = 0 then logZero else BitVec.ofInt 32 (clampInt logBot logTop (logNear m e))

-- R141.

def logClamp (v : Int) : BitVec 32 := BitVec.ofInt 32 (clampInt logBot logTop v)
def logAdd (a b : BitVec 32) : BitVec 32 :=
  if a = logZero || b = logZero then logZero else logClamp (a.toInt + b.toInt)
def logSub (a b : BitVec 32) : BitVec 32 :=
  if a = logZero then logZero else if b = logZero then BitVec.ofInt 32 logTop else logClamp (a.toInt - b.toInt)
def logShr (k : Nat) (a : BitVec 32) : BitVec 32 := if a = logZero then logZero else a.sshiftRight k
def logPow (c : BitVec 9) (a : BitVec 32) : BitVec 32 :=
  if a = logZero then
    (if c = 0 then 0 else if c.msb then BitVec.ofInt 32 logTop else logZero)
  else logClamp (a.toInt * c.toInt / 16)

-- R142. Every step rounds to FP32 by RNE. A function gives its FP32 result with the event of its last step; the steps
-- before it count nothing.

def f32 (x : Num) : Nat × Ev := deliver fp32 .rne false false x
def n32 (b : Nat) : Num := toNum fp32 b
def neg32 (b : Nat) : Nat := (b + 2 ^ 31) % 2 ^ 32
def fnExpe (x : Nat) : Nat × Ev :=
  match n32 x with
  | .nan => (nanBits fp32, none)
  | .inf neg => (if neg then 0 else infBits fp32 false, none)
  | v =>
    let y := (f32 (numMul v (n32 0x3FB8AA3B))).1
    let w := match n32 y with
      | .fin neg m e => clampInt logBot logTop (roundInt .rne neg m (e + 24))
      | .inf neg => if neg then logBot else logTop
      | .nan => 0
    logE (BitVec.ofInt 32 w)
def fnRcp (x : Nat) : Nat × Ev :=
  match n32 x with
  | .nan => (nanBits fp32, none)
  | .inf neg => (signBit fp32 neg, none)
  | .fin neg m e =>
    if m = 0 then (infBits fp32 neg, some 1)
    else let (b, v) := logE (0 - logL (.fin false m e)); (b + signBit fp32 neg, v)
def fnRsqrt (x : Nat) : Nat × Ev :=
  match n32 x with
  | .nan => (nanBits fp32, none)
  | .inf neg => if neg then (nanBits fp32, some 0) else (0, none)
  | .fin neg m e =>
    if m = 0 then (infBits fp32 neg, some 1)
    else if neg then (nanBits fp32, some 0)
    else logE (0 - (logL (.fin false m e)).sshiftRight 1)
def fnSigm (x : Nat) : Nat × Ev :=
  if (n32 x).isNan then (nanBits fp32, none)
  else fnRcp (f32 (numAdd .rne (n32 0x3F800000) (n32 (fnExpe (neg32 x)).1))).1
def fnTanh (x : Nat) : Nat × Ev :=
  if (n32 x).isNan then (nanBits fp32, none)
  else
    let t := (f32 (numMul (n32 0x40000000) (n32 x))).1
    f32 (numAdd .rne (numMul (n32 0x40000000) (n32 (fnSigm t).1)) (n32 0xBF800000))
def fnSilu (x : Nat) : Nat × Ev :=
  match n32 x with
  | .nan => (nanBits fp32, none)
  | .inf true => (0x80000000, none)
  | v => f32 (numMul v (n32 (fnSigm x).1))
/-- A function's FP32 result in format `f` (R142, R143): a NaN or infinity that the function produced counts against `f`. An infinity
that SAT then clamps to the greatest finite value counts as produced all the same: R70 says `whether clamped` of an overflow only
(DESIGN CHOICE, log 33). -/
def fnFinish (f : Nat) (rm : Rm) (sat : Bool) (r : Nat × Ev) : Elem :=
  if f = 6 then fxOf 6 (satInf fp32 sat r.1, r.2)
  else
    let (b, e) := deliver (fltOf f) rm sat false (n32 r.1)
    fxOf f (b, match r.2 with | some 0 => some 0 | some 1 => some 1 | _ => e)

end Sys2Proof.Machine
end

