-- ==== Sys2Proof/Machine/Vx.lean ====
section
/-! DEFINITION. The vector engine: shapes, masks and formats (R125 to R132), and one issue of every op (R133 to R143). -/

namespace Sys2Proof.Machine

-- Fields of a VX record (R128) and its shape (R125).

def vOpx (q : QRec) : Nat := rField q.r 23 9
def vMdst (q : QRec) : Nat := rField q.r 20 3
def vMz (q : QRec) : Bool := rField q.r 19 1 == 1
def vMsel (q : QRec) : Nat := rField q.r 16 3
def vMen (q : QRec) : Bool := rField q.r 15 1 == 1
def vOfmt (q : QRec) : Nat := rField q.r 11 4
def vRows (q : QRec) : Nat := (q.vshape.extractLsb' 0 11).toNat
def vLanes (q : QRec) : Nat := (q.vshape.extractLsb' 16 11).toNat
def vPitch (q : QRec) : Nat :=
  let p := (q.vshape.extractLsb' 32 16).toNat
  if p = 0 then vLanes q else p
def vE (q : QRec) : Nat := vRows q * vLanes q

-- What each op uses (R132).

/-- How an op uses a descriptor. -/
inductive Use where
  | no | yes | opt | tile | mem
  deriving DecidableEq, Repr
/-- Format classes (R132). -/
inductive Cls where
  | any | int | float | i32
  deriving DecidableEq, Repr
/-- An op: its use of D, A, B and C, where its format comes from (0 D, 1 A, 2 B), its class, and k of R131. -/
structure VSpec where
  d : Use
  a : Use := .yes
  b : Use := .no
  c : Use := .no
  src : List Nat
  cls : Cls := .any
  k : Nat := 1

def vSpec (op : Nat) : Option VSpec :=
  if op ∈ [0x01, 0x02, 0x03, 0x05, 0x06, 0x11, 0x12, 0x13] then some { d := .yes, b := .yes, src := [0, 1] }
  else if op = 0x04 then some { d := .yes, b := .yes, c := .yes, src := [0, 1] }
  else if op ∈ [0x07, 0x08, 0x14] then some { d := .yes, src := [0, 1] }
  else if op ∈ [0x15, 0x16, 0x17] then some { d := .yes, b := .yes, src := [0, 1], cls := .int }
  else if op ∈ [0x18, 0x19, 0x1A] then some { d := .yes, src := [0, 1], cls := .int }
  else if op = 0x21 then some { d := .no, b := .yes, src := [1, 2] }
  else if op = 0x22 then some { d := .yes, b := .yes, src := [0, 1, 2] }
  else if op = 0x23 then some { d := .yes, src := [1] }
  else if op = 0x24 then some { d := .yes, b := .opt, src := [1], cls := .float }
  else if op ∈ [0x31, 0x32, 0x33, 0x34, 0x35] then some { d := .yes, src := [1], k := 2 }
  else if op = 0x41 then some { d := .yes, b := .yes, src := [0, 1], k := 2 }
  else if op = 0x42 then some { d := .yes, src := [0, 1], k := 2 }
  else if op ∈ [0x43, 0x46] then some { d := .yes, src := [0, 1] }
  else if op = 0x44 then some { d := .tile, a := .mem, src := [1] }
  else if op = 0x45 then some { d := .mem, a := .tile, src := [0] }
  else if op = 0x51 then some { d := .yes, src := [1], cls := .float, k := 4 }
  else if op = 0x52 then some { d := .yes, src := [0], cls := .float, k := 4 }
  else if op ∈ [0x53, 0x54] then some { d := .yes, b := .yes, src := [], cls := .i32 }
  else if op ∈ [0x55, 0x56] then some { d := .yes, src := [], cls := .i32 }
  else if op ∈ [0x61, 0x62, 0x63, 0x64, 0x65, 0x66] then some { d := .yes, src := [0, 1], cls := .float, k := 4 }
  else none

def QRec.opd (q : QRec) (i : Nat) : Opd :=
  match i with | 0 => q.opD | 1 => q.opA | 2 => q.opB | _ => q.opC
def descI (r : BitVec 512) (i : Nat) : BitVec 88 :=
  match i with | 0 => descD r | 1 => descA r | 2 => descB r | _ => descC r
def Opd.ownFmt : Opd → Option Nat
  | .bank _ w _ => some (bfFmt w) | .hnd h _ => some (hFmt h) | _ => none

/-- The operation format F (R129). -/
def vF (q : QRec) : Nat :=
  let op := rOp q.r
  match vSpec op with
  | none => 6
  | some sp =>
    if sp.cls = .i32 then 2
    else if vOfmt q ≠ 0 then vOfmt q - 1
    else
      let f := ((sp.src.filterMap (fun i => (q.opd i).ownFmt)).head?).getD 6
      if f = 8 && (op = 0x44 || op = 0x45) then 10 else f
/-- The format that a tile or immediate operand has, and in which a source is read (R129, R136 to R140). -/
def vOpFmt (q : QRec) (i : Nat) : Nat :=
  match rOp q.r, i with
  | 0x23, 0 => if q.opD.ownFmt.isSome then vF q else vOpx q % 16
  | 0x34, 0 => (q.opD.ownFmt).getD 3
  | 0x51, 0 => 2
  | 0x52, 1 => 2
  | 0x41, 2 => 10
  | 0x24, 2 => 8
  | _, _ => vF q

-- Where elements lie (R126).

/-- The base element of an operand in an issue. -/
def vBase (q : QRec) (i k : Nat) : Int := dElem (descI q.r i) ((q.opd i).baseElem (vOpFmt q i)) (rIndex q.r k)
/-- Element (r, l) of an operand: with PITCH for banks and handles, without it for tiles. -/
def vAt (q : QRec) (i k r l : Nat) : Int :=
  match q.opd i with
  | .imm _ => 0
  | .tile _ => vBase q i k + (r * vLanes q + l : Nat)
  | _ => vBase q i k + (r * vPitch q + l : Nat)

/-- VMOV with a raw operand (R139). -/
def vRaw (q : QRec) : Bool := rOp q.r == 0x46 && vOpx q % 4 != 0
/-- The elements that an issue reaches contiguously through a tile operand, and their size in bytes. -/
def vTileRun (q : QRec) (i : Nat) : Nat × Nat :=
  if vRaw q then (128, 1)
  else
    let n := match rOp q.r, i with
      | 0x31, 0 | 0x32, 0 | 0x33, 0 | 0x34, 0 => if vOpx q % 2 = 0 then vRows q else vLanes q
      | _, _ => vE q
    (n, fmtSize (vOpFmt q i))
/-- The bytes of the tile file that an issue reaches through operand `i` (R119, R126). -/
def vTileBytes (q : QRec) (i k : Nat) : Int × Nat :=
  let (n, z) := vTileRun q i
  let d := descI q.r i
  (dElem d (dOff d / z : Nat) (rIndex q.r k) * z, n * z)

-- Masks (R127, R130).

def Slot.mask (t : Slot) (n : Nat) : BitVec 1024 := tblGetD t.masks n 0
def Slot.setMask (t : Slot) (n : Nat) (m : BitVec 1024) : Slot := { t with masks := tblPut t.masks n 0 m }
/-- Element `e` is not masked off. -/
def State.vLive (s : State) (q : QRec) (e : Nat) : Bool :=
  !vMen q || ((s.slot q.who.slot).mask (vMsel q)).getLsbD e

-- Cost and wakes (R121, R131).

def vCost (q : QRec) (_ : Nat) : Nat :=
  if vRaw q then 1
  else
    let z := if rOp q.r = 0x51 || rOp q.r = 0x52 then 4 else fmtSize (vF q)
    (vE q * z + 255) / 256 * ((vSpec (rOp q.r)).map VSpec.k).getD 1
/-- DROWSY clusters that the issue reaches wake, for 8 cycles of the slot (R121). -/
def State.vWake (s : State) (q : QRec) (k : Nat) : State × Nat :=
  let t := s.slot q.who.slot
  match t.scope with
  | none => (s, 0)
  | some sc =>
    let runs := ([0, 1, 2, 3].filter (fun i => dSpace (descI q.r i) == 0xC)).map (fun i => vTileBytes q i k)
    let hit (c : Nat) : Bool := runs.any (fun r => decide (r.1 < (8192 * (c + 1) : Nat) ∧ (8192 * c : Nat) < r.1 + r.2))
    let cl := (List.range sc.cl.length).filterMap (fun c => (sc.cl[c]?).map (fun x =>
      if x = .drowsy && hit c then .on else x))
    if cl = sc.cl then (s, 0) else (s.setSlot q.who.slot { t with scope := some { sc with cl := cl } }, 8)

-- Shared bodies.

def State.vGet (s : State) (q : QRec) (i : Nat) (p : Int) : Eng' (Nat × List Nat) :=
  s.readAs q (q.opd i) (vOpFmt q i) (rRound q.r) (rSat q.r) p
/-- Results by position in D, in format `f`. -/
def vPut (s : State) (q : QRec) (blk : Blocks) (f : Nat) (evs : List Nat) (ws : Writes) : Eng' Iss :=
  ({ s := s, blk := blk, evs := evs } : Iss).putAll q q.opD f (rRound q.r) (rSat q.r) ws
/-- The elements of a tile: number, row, lane. -/
def vElems (q : QRec) : List (Nat × Nat × Nat) := (List.range (vE q)).map (fun e => (e, e / vLanes q, e % vLanes q))
def evsOf (l : List (List Nat)) : List Nat := l.flatten

/-- A result for every element of the tile, `res` giving its bits in format `f` and the counters raised; masked-off elements
keep their value or become zero (R130). `at_` places element (r, l) in D. -/
def vTile (f : Nat) (at_ : QRec → Nat → Nat → Nat → Int)
    (res : State → QRec → Nat → Nat → Nat → Eng' (Nat × List Nat)) : Body := fun s q k blk => do
  let outs ← (vElems q).mapM (fun (e, r, l) => do
    if s.vLive q e then
      let (v, evs) ← res s q k r l
      return some (at_ q k r l, v, evs)
    else return (if vMz q then some (at_ q k r l, 0, []) else none))
  let outs := outs.filterMap id
  vPut s q blk f (evsOf (outs.map (fun o => o.2.2))) (outs.map (fun o => (o.1, o.2.1)))
def vAtD (q : QRec) (k r l : Nat) : Int := vAt q 0 k r l

/-- An element-wise op on the first `n` sources (R133, R134, R141, R142). -/
def vMap (n : Nat) (g : QRec → List Nat → Elem) : Body := fun s q k blk =>
  vTile (vF q) vAtD (fun s q k r l => do
    let xs ← ([1, 2, 3].take n).mapM (fun i => s.vGet q i (vAt q i k r l))
    let (v, e) := g q (xs.map (·.1))
    return (v, evsOf (xs.map (·.2)) ++ e.toList)) s q k blk

-- Element-wise arithmetic (R133).

def arg (xs : List Nat) (i : Nat) : Nat := (xs[i]?).getD 0
/-- An arithmetic op: an exact value of floats delivered by R58 and R59, or an exact integer reduced by R57. -/
def vArith (q : QRec) (fl : List Num → Num) (int : List Int → Int) (xs : List Nat) : Elem :=
  let f := vF q
  if isFlt f then
    let ns := xs.map (elemNum f)
    fxOf f (deliver (fltOf f) (rRound q.r) (rSat q.r) (!ns.any Num.isNan) (fl ns))
  else (intBits f (rSat q.r) (int (xs.map (intVal f))), none)
def nArg (xs : List Num) (i : Nat) : Num := (xs[i]?).getD .nan
def iArg (xs : List Int) (i : Nat) : Int := (xs[i]?).getD 0
def numMin (a b : Num) : Num := if a.isNan || b.isNan then .nan else if numLess b a then b else a
def numMax (a b : Num) : Num := if a.isNan || b.isNan then .nan else if numLess a b then b else a
def numAbs : Num → Num
  | .nan => .nan | .inf _ => .inf false | .fin _ m e => .fin false m e

def vaddB : Body := vMap 2 fun q => vArith q (fun n => numAdd (rRound q.r) (nArg n 0) (nArg n 1)) (fun v => iArg v 0 + iArg v 1)
def vsubB : Body :=
  vMap 2 fun q => vArith q (fun n => numAdd (rRound q.r) (nArg n 0) (nArg n 1).negate) (fun v => iArg v 0 - iArg v 1)
def vmulB : Body := vMap 2 fun q => vArith q (fun n => numMul (nArg n 0) (nArg n 1)) (fun v => iArg v 0 * iArg v 1)
def vfmaB : Body :=
  vMap 3 fun q => vArith q (fun n => numAdd (rRound q.r) (numMul (nArg n 0) (nArg n 1)) (nArg n 2))
    (fun v => iArg v 0 * iArg v 1 + iArg v 2)
def vminB : Body :=
  vMap 2 fun q => vArith q (fun n => numMin (nArg n 0) (nArg n 1)) (fun v => if iArg v 1 < iArg v 0 then iArg v 1 else iArg v 0)
def vmaxB : Body :=
  vMap 2 fun q => vArith q (fun n => numMax (nArg n 0) (nArg n 1)) (fun v => if iArg v 0 < iArg v 1 then iArg v 1 else iArg v 0)
def vabsB : Body := vMap 1 fun q => vArith q (fun n => numAbs (nArg n 0)) (fun v => (iArg v 0).natAbs)
def vnegB : Body := vMap 1 fun q => vArith q (fun n => (nArg n 0).negate) (fun v => -(iArg v 0))

-- Logic and bits (R134), on the raw w bits of F.

def vW (q : QRec) : Nat := fmtBits (vF q)
def vBits (n : Nat) (g : Nat → List Nat → Nat) : Body := vMap n fun q xs => (g (vW q) xs % 2 ^ vW q, none)
def bitsTrue (w x : Nat) : List Bool := (List.range w).map x.testBit
def vandB : Body := vBits 2 fun _ x => arg x 0 &&& arg x 1
def vorB : Body := vBits 2 fun _ x => arg x 0 ||| arg x 1
def vxorB : Body := vBits 2 fun _ x => arg x 0 ^^^ arg x 1
def vnotB : Body := vBits 1 fun w x => 2 ^ w - 1 - arg x 0
def vshlB : Body := vBits 2 fun w x => if w ≤ arg x 1 then 0 else arg x 0 * 2 ^ arg x 1
def vshrB : Body := vBits 2 fun w x => if w ≤ arg x 1 then 0 else arg x 0 / 2 ^ arg x 1
def vsraB : Body := vBits 2 fun w x =>
  let a : Int := if (arg x 0).testBit (w - 1) then (arg x 0 : Int) - 2 ^ w else arg x 0
  ((a / (2 ^ Nat.min (arg x 1) w : Nat)) % (2 ^ w : Int)).toNat
def vclzB : Body := vBits 1 fun w x => ((bitsTrue w (arg x 0)).reverse.takeWhile (fun b => !b)).length
def vffsB : Body := vBits 1 fun w x => ((bitsTrue w (arg x 0)).takeWhile (fun b => !b)).length
def vpopcB : Body := vBits 1 fun w x => ((bitsTrue w (arg x 0)).filter id).length

-- Compare and select (R135).

/-- .EQ, .NE, .LT and .LE of two elements of F. -/
def vCond (f var a b : Nat) : Bool :=
  let x := elemNum f a; let y := elemNum f b
  match var with
  | 0 => numEq x y | 1 => !numEq x y | 2 => numLt x y | _ => numLt x y || numEq x y
def maskOf (bits : List Bool) : BitVec 1024 :=
  BitVec.ofNat 1024 (bits.foldr (fun (b : Bool) (n : Nat) => (if b then 1 else 0) + 2 * n) 0)
def vcmpB : Body := fun s q k blk => do
  let outs ← (vElems q).mapM (fun (e, r, l) => do
    if s.vLive q e then
      let (a, ea) ← s.vGet q 1 (vAt q 1 k r l)
      let (b, eb) ← s.vGet q 2 (vAt q 2 k r l)
      return (vCond (vF q) (rVar q.r) a b, ea ++ eb)
    else return (false, []))
  let t := s.slot q.who.slot
  return { s := s.setSlot q.who.slot (t.setMask (vMdst q) (maskOf (outs.map (·.1)))), blk := blk, evs := evsOf (outs.map (·.2)) }
/-- VSEL reads, and so converts and checks, only the element that the mask selects (R135 names no read of the other: DESIGN
CHOICE, log 32). -/
def vselB : Body := fun s q k blk =>
  let m := (s.slot q.who.slot).mask (vMsel q)
  vTile (vF q) vAtD (fun s q k r l =>
    let i := if m.getLsbD (r * vLanes q + l) then 1 else 2
    s.vGet q i (vAt q i k r l)) s q k blk

-- Conversion and quantisation (R136).

/-- One conversion, from F to G: here where D is a tile register or of format F, and as D is written where its format is
another. -/
def vcvtB : Body := fun s q k blk =>
  vTile (vOpFmt q 0) vAtD (fun s q k r l => do
    let (x, e) ← s.vGet q 1 (vAt q 1 k r l)
    if ((q.opd 0).ownFmt).any (· != vF q) then return (x, e)
    else
      let (y, e') := cvtElem (vF q) (vOpFmt q 0) (rRound q.r) (rSat q.r) x
      return (y, e ++ e'.toList)) s q k blk
/-- The LOG6 blocks of a tile go to D in tile order, and each block's scale code to B. R136 tests that E and the strides are multiples
of 32, and nothing of the element offset of D's handle: one that is none is accepted, the tile's blocks then lie across two of D's,
and each scale code is still that of 32 successive elements of the tile (DESIGN CHOICE, log 33). -/
def vql6B : Body := fun s q k blk => do
  let xs ← (vElems q).mapM (fun (e, r, l) => do
    let (x, ev) ← s.vGet q 1 (vAt q 1 k r l)
    return (e, x, ev))
  let base := vBase q 0 k
  let x ← vPut s q blk (vF q) (evsOf (xs.map (fun x => x.2.2))) (xs.map (fun x => (base + x.1, x.2.1)))
  if q.opB = .absent then return x
  else
    let vals := xs.map (fun x => some (toNum fp32 (convElem (vF q) 6 .rne false x.2.1).1))
    (List.range (vE q / 32)).foldlM (fun (x : Iss) (j : Nat) =>
      x.putRaw q q.opB 8 (vBase q 2 k + (j : Nat)) (log6Quant ((vals.drop (32 * j)).take 32)).1) x

-- Reductions and scans (R137).

def vAxis (q : QRec) : Bool := vOpx q % 2 == 1
/-- The lines of a tile along the axis, each with the element numbers it holds in order. -/
def vLines (q : QRec) : List (List (Nat × Nat)) :=
  if vAxis q then (List.range (vLanes q)).map (fun l => (List.range (vRows q)).map (fun r => (r, l)))
  else (List.range (vRows q)).map (fun r => (List.range (vLanes q)).map (fun l => (r, l)))
/-- The included elements of a line: index within the line and bits in F. -/
def State.vLine (s : State) (q : QRec) (k : Nat) (line : List (Nat × Nat)) : Eng' (List (Nat × Nat) × List Nat) := do
  let xs ← (line.zipIdx).mapM (fun ((r, l), i) => do
    if s.vLive q (r * vLanes q + l) then
      let (x, e) ← s.vGet q 1 (vAt q 1 k r l)
      return some (i, x, e)
    else return none)
  let xs := xs.filterMap id
  return (xs.map (fun x => (x.1, x.2.1)), evsOf (xs.map (fun x => x.2.2)))
/-- A result for each line with the counters that it raises, written as a contiguous run. -/
def vReduce (f : QRec → Nat) (g : QRec → List (Nat × Nat) → Nat × List Nat) : Body := fun s q k blk => do
  let rs ← (vLines q).mapM (fun line => do
    let (xs, e) ← s.vLine q k line
    let (v, e') := g q xs
    return (v, e ++ e'))
  vPut s q blk (f q) (evsOf (rs.map (·.2))) ((rs.zipIdx).map (fun ((v, _), j) => (vBase q 0 k + (j : Nat), v)))
/-- One rounded addition in F; each event that a sum meets counts once for it (R70; log 29). -/
def vAdd1 (q : QRec) (a : Nat × List Nat) (b : Nat) : Nat × List Nat :=
  let r := vArith q (fun n => numAdd (rRound q.r) (nArg n 0) (nArg n 1)) (fun _ => 0) [a.1, b]
  (r.1, a.2 ++ r.2.toList.filter (fun e => !a.2.contains e))
/-- The sum of the elements so far: exact and then reduced for integers; for floats the first element, then rounded after
each addition. -/
def vSum (q : QRec) (xs : List Nat) : Nat × List Nat :=
  let f := vF q
  if isFlt f then
    match xs with
    | [] => (0, [])
    | x :: r =>
      let (v, e) := r.foldl (vAdd1 q) (x, [])
      ((deliver (fltOf f) (rRound q.r) (rSat q.r) false (elemNum f v)).1, e)
  else (intBits f (rSat q.r) ((xs.map (intVal f)).foldl (· + ·) 0), [])
/-- The greatest (`up`) or least element. -/
def vExtreme (up : Bool) (q : QRec) (xs : List Nat) : Nat :=
  let f := vF q
  let pick (a b : Num) : Num := if up then numMax a b else numMin a b
  match xs with
  | [] =>
    if isFlt f then satInf (fltOf f) (rSat q.r) (infBits (fltOf f) up)
    else ((if up then intLo f else intHi f) % (2 ^ fmtBits f : Int)).toNat
  | x :: r =>
    if isFlt f then
      (deliver (fltOf f) (rRound q.r) (rSat q.r) false (r.foldl (fun a b => pick a (elemNum f b)) (elemNum f x))).1
    else r.foldl (fun a b => if numLt (elemNum f a) (elemNum f b) == up then b else a) x
/-- The index of the first maximum; the first NaN ranks above every value. -/
def vArgMax (q : QRec) (xs : List (Nat × Nat)) : Nat :=
  let f := vF q
  match xs with
  | [] => 0xFFFFFFFF
  | x :: r =>
    (r.foldl (fun (b : Nat × Nat) y =>
      let nb := elemNum f b.2; let ny := elemNum f y.2
      if !nb.isNan && (ny.isNan || numLess nb ny) then y else b) x).1
def vredsB : Body := vReduce vF fun q xs => vSum q (xs.map (·.2))
/-- The infinity of a line with no included element is R137's given value and counts nothing (R70 speaks of results from finite
operands: DESIGN CHOICE, log 32). -/
def vredxB : Body := vReduce vF fun q xs => (vExtreme true q (xs.map (·.2)), [])
def vrednB : Body := vReduce vF fun q xs => (vExtreme false q (xs.map (·.2)), [])
def vargxB : Body := vReduce (fun q => vOpFmt q 0) fun q xs => (vArgMax q xs, [])
/-- Running sums: inclusive, or exclusive with OPX[1]. -/
def vscanB : Body := fun s q k blk => do
  let excl := vOpx q / 2 % 2 == 1
  let outs ← (vLines q).mapM (fun line => do
    let (xs, e) ← s.vLine q k line
    let ws := (line.zipIdx).filterMap (fun ((r, l), i) =>
      if s.vLive q (r * vLanes q + l) then
        some (vAt q 0 k r l, vSum q ((xs.filter (fun x => x.1 < i || (!excl && x.1 == i))).map (·.2)))
      else if vMz q then some (vAt q 0 k r l, (0, [])) else none)
    return (ws.map (fun w => (w.1, w.2.1)), e ++ evsOf (ws.map (fun w => w.2.2))))
  vPut s q blk (vF q) (evsOf (outs.map (·.2))) (outs.map (·.1)).flatten

-- Data movement (R138, R139).

/-- A is read in full first; an index of E or more gives zero. Masked-off elements count nothing (R143). -/
def vpermB : Body := fun s q k blk => do
  let all ← (vElems q).mapM (fun (_, r, l) => s.vGet q 1 (vAt q 1 k r l))
  let x ← vTile (vF q) vAtD (fun s q k r l => do
    let (i, _) ← s.vGet q 2 (vAt q 2 k r l)
    return (((all[i]?).map (·.1)).getD 0, [])) s q k blk
  let live := ((vElems q).zip all).filterMap (fun (e, a) => if s.vLive q e.1 then some a.2 else none)
  return { x with evs := evsOf live ++ x.evs }
def vtrnB : Body := fun s q k blk =>
  vTile (vF q) (fun q k r l => vBase q 0 k + (l * vRows q + r : Nat)) (fun s q k r l => s.vGet q 1 (vAt q 1 k r l)) s q k blk
/-- Each element of lane or row 0 is read, and its conversion counted, once: with the first element of D that it goes to. -/
def vbcastB : Body := fun s q k blk =>
  vTile (vF q) vAtD (fun s q k r l => do
    let (v, e) ← s.vGet q 1 (if vAxis q then vAt q 1 k r 0 else vAt q 1 k 0 l)
    let before := if vAxis q then (List.range l).map (fun i => r * vLanes q + i) else (List.range r).map (fun i => i * vLanes q + l)
    return (v, if before.any (s.vLive q) then [] else e)) s q k blk
def vcopyB : Body := vMap 1 fun _ xs => (arg xs 0, none)
/-- VLD and VST move the raw bytes of their elements, those of an S10 bank included (R139; log 29). -/
def vmoveB : Body := fun s q k blk => do
  let outs ← (vElems q).mapM (fun (e, r, l) => do
    if s.vLive q e then
      let v ← s.readRaw q (vF q) (← (q.opd 1).place (vF q) (vAt q 1 k r l))
      return some (vAtD q k r l, v)
    else return (if vMz q then some (vAtD q k r l, 0) else none))
  ({ s := s, blk := blk } : Iss).putRaws q q.opD (vF q) (outs.filterMap id)
/-- The 128 raw bytes of a VMOV operand (R139). -/
def vRawMem (q : QRec) (i k : Nat) : Eng' Mem :=
  let d := descI q.r i
  let off := dElem d (dOff d) (rIndex q.r k)
  if off < 0 then engF else
  match q.opd i with
  | .bank b _ _ => .ok (.bank b off.toNat)
  | .tile _ => .ok (.tile off.toNat)
  | _ => engF
def vmovB : Body := fun s q k blk =>
  match vOpx q % 4 with
  | 0 => vcopyB s q k blk
  | 1 => do
    let m ← vRawMem q 0 k
    let t ← s.writeMem q m 128 ((s.slot q.who.slot).mask (vMsel q)).toNat
    return { s := t, blk := blk }
  | _ => do
    let m ← vRawMem q 1 k
    let v ← s.readMem q m 128
    return { s := s.setSlot q.who.slot ((s.slot q.who.slot).setMask (vMdst q) (BitVec.ofNat 1024 v)), blk := blk }

-- The log path (R140 to R142).

/-- The FP32 bits of an element of a float F, widened exactly. -/
def vWide (q : QRec) (x : Nat) : Nat := (convElem (vF q) 6 .rne false x).1
def vlog2B : Body := fun s q k blk =>
  vTile 2 vAtD (fun s q k r l => do
    let (x, e) ← s.vGet q 1 (vAt q 1 k r l)
    return ((logL (toNum fp32 (vWide q x))).toNat, e)) s q k blk
def vexp2B : Body := vMap 1 fun q xs => fnFinish (vF q) (rRound q.r) (rSat q.r) (logE (BitVec.ofNat 32 (arg xs 0)))
def vLog (n : Nat) (g : QRec → List (BitVec 32) → BitVec 32) : Body :=
  vMap n fun q xs => ((g q (xs.map (BitVec.ofNat 32))).toNat, none)
def lArg (xs : List (BitVec 32)) (i : Nat) : BitVec 32 := (xs[i]?).getD 0
def vladdB : Body := vLog 2 fun _ x => logAdd (lArg x 0) (lArg x 1)
def vlsubB : Body := vLog 2 fun _ x => logSub (lArg x 0) (lArg x 1)
def vlshrB : Body := vLog 1 fun q x => logShr (vOpx q % 32) (lArg x 0)
def vlpowB : Body := vLog 1 fun q x => logPow (BitVec.ofNat 9 (vOpx q)) (lArg x 0)
def vFun (fn : Nat → Nat × Ev) : Body := vMap 1 fun q xs => fnFinish (vF q) (rRound q.r) (rSat q.r) (fn (vWide q (arg xs 0)))

-- The rows.

/-- One issue of a VX op (R131). -/
def State.vxRow (s : State) (slot op : Nat) (body : Body) : Host.Outcome State Fault Refusal :=
  s.issue .vx slot (fun q => rOp q.r == op) vCost body State.vWake

def execVadd (slot : Nat) (s : State) : Host.Outcome State Fault Refusal := s.vxRow slot 0x01 vaddB
def execVsub (slot : Nat) (s : State) : Host.Outcome State Fault Refusal := s.vxRow slot 0x02 vsubB
def execVmul (slot : Nat) (s : State) : Host.Outcome State Fault Refusal := s.vxRow slot 0x03 vmulB
def execVfma (slot : Nat) (s : State) : Host.Outcome State Fault Refusal := s.vxRow slot 0x04 vfmaB
def execVmin (slot : Nat) (s : State) : Host.Outcome State Fault Refusal := s.vxRow slot 0x05 vminB
def execVmax (slot : Nat) (s : State) : Host.Outcome State Fault Refusal := s.vxRow slot 0x06 vmaxB
def execVabs (slot : Nat) (s : State) : Host.Outcome State Fault Refusal := s.vxRow slot 0x07 vabsB
def execVneg (slot : Nat) (s : State) : Host.Outcome State Fault Refusal := s.vxRow slot 0x08 vnegB
def execVand (slot : Nat) (s : State) : Host.Outcome State Fault Refusal := s.vxRow slot 0x11 vandB
def execVor (slot : Nat) (s : State) : Host.Outcome State Fault Refusal := s.vxRow slot 0x12 vorB
def execVxor (slot : Nat) (s : State) : Host.Outcome State Fault Refusal := s.vxRow slot 0x13 vxorB
def execVnot (slot : Nat) (s : State) : Host.Outcome State Fault Refusal := s.vxRow slot 0x14 vnotB
def execVshl (slot : Nat) (s : State) : Host.Outcome State Fault Refusal := s.vxRow slot 0x15 vshlB
def execVshr (slot : Nat) (s : State) : Host.Outcome State Fault Refusal := s.vxRow slot 0x16 vshrB
def execVsra (slot : Nat) (s : State) : Host.Outcome State Fault Refusal := s.vxRow slot 0x17 vsraB
def execVclz (slot : Nat) (s : State) : Host.Outcome State Fault Refusal := s.vxRow slot 0x18 vclzB
def execVffs (slot : Nat) (s : State) : Host.Outcome State Fault Refusal := s.vxRow slot 0x19 vffsB
def execVpopc (slot : Nat) (s : State) : Host.Outcome State Fault Refusal := s.vxRow slot 0x1A vpopcB
def execVcmp (slot : Nat) (s : State) : Host.Outcome State Fault Refusal := s.vxRow slot 0x21 vcmpB
def execVsel (slot : Nat) (s : State) : Host.Outcome State Fault Refusal := s.vxRow slot 0x22 vselB
def execVcvt (slot : Nat) (s : State) : Host.Outcome State Fault Refusal := s.vxRow slot 0x23 vcvtB
def execVql6 (slot : Nat) (s : State) : Host.Outcome State Fault Refusal := s.vxRow slot 0x24 vql6B
def execVreds (slot : Nat) (s : State) : Host.Outcome State Fault Refusal := s.vxRow slot 0x31 vredsB
def execVredx (slot : Nat) (s : State) : Host.Outcome State Fault Refusal := s.vxRow slot 0x32 vredxB
def execVredn (slot : Nat) (s : State) : Host.Outcome State Fault Refusal := s.vxRow slot 0x33 vrednB
def execVargx (slot : Nat) (s : State) : Host.Outcome State Fault Refusal := s.vxRow slot 0x34 vargxB
def execVscan (slot : Nat) (s : State) : Host.Outcome State Fault Refusal := s.vxRow slot 0x35 vscanB
def execVperm (slot : Nat) (s : State) : Host.Outcome State Fault Refusal := s.vxRow slot 0x41 vpermB
def execVtrn (slot : Nat) (s : State) : Host.Outcome State Fault Refusal := s.vxRow slot 0x42 vtrnB
def execVbcast (slot : Nat) (s : State) : Host.Outcome State Fault Refusal := s.vxRow slot 0x43 vbcastB
def execVld (slot : Nat) (s : State) : Host.Outcome State Fault Refusal := s.vxRow slot 0x44 vmoveB
def execVst (slot : Nat) (s : State) : Host.Outcome State Fault Refusal := s.vxRow slot 0x45 vmoveB
def execVmov (slot : Nat) (s : State) : Host.Outcome State Fault Refusal := s.vxRow slot 0x46 vmovB
def execVlog2 (slot : Nat) (s : State) : Host.Outcome State Fault Refusal := s.vxRow slot 0x51 vlog2B
def execVexp2 (slot : Nat) (s : State) : Host.Outcome State Fault Refusal := s.vxRow slot 0x52 vexp2B
def execVladd (slot : Nat) (s : State) : Host.Outcome State Fault Refusal := s.vxRow slot 0x53 vladdB
def execVlsub (slot : Nat) (s : State) : Host.Outcome State Fault Refusal := s.vxRow slot 0x54 vlsubB
def execVlshr (slot : Nat) (s : State) : Host.Outcome State Fault Refusal := s.vxRow slot 0x55 vlshrB
def execVlpow (slot : Nat) (s : State) : Host.Outcome State Fault Refusal := s.vxRow slot 0x56 vlpowB
def execVexpe (slot : Nat) (s : State) : Host.Outcome State Fault Refusal := s.vxRow slot 0x61 (vFun fnExpe)
def execVrcp (slot : Nat) (s : State) : Host.Outcome State Fault Refusal := s.vxRow slot 0x62 (vFun fnRcp)
def execVrsqrt (slot : Nat) (s : State) : Host.Outcome State Fault Refusal := s.vxRow slot 0x63 (vFun fnRsqrt)
def execVsigm (slot : Nat) (s : State) : Host.Outcome State Fault Refusal := s.vxRow slot 0x64 (vFun fnSigm)
def execVtanh (slot : Nat) (s : State) : Host.Outcome State Fault Refusal := s.vxRow slot 0x65 (vFun fnTanh)
def execVsilu (slot : Nat) (s : State) : Host.Outcome State Fault Refusal := s.vxRow slot 0x66 (vFun fnSilu)

end Sys2Proof.Machine
end

