-- ==== Sys2Proof/Machine/Hazard.lean ====
section
/-! DEFINITION. Pending X writes and the collision filter (R112, R113). -/

namespace Sys2Proof.Machine

/-- A run of bytes of a logical bank: bank, offset, length. -/
abbrev BankRun := Nat × Nat × Nat

/-- The bank bytes that element `i` of a bank, or of a handle of space SP, occupies; one that lies out of range has none, and is
neither read nor written (R54, R106, R165). -/
def bankRuns (o : Opd) (i : Int) : List BankRun :=
  (o.runs 6 i).filterMap (fun r => match r with
    | (.bank b off, n) => if off + n ≤ 262144 then some (b, off, n) else none
    | _ => none)

/-- The elements of D that an issue of a VX record addresses, masked off or not. -/
def vDest (q : QRec) (k : Nat) : List Int :=
  let el (f : Nat → Nat → Int) : List Int := (vElems q).map (fun e => f e.2.1 e.2.2)
  match rOp q.r with
  | 0x21 => []
  | 0x31 | 0x32 | 0x33 | 0x34 => (List.range (vTileRun q 0).1).map (fun (j : Nat) => vBase q 0 k + (j : Int))
  | 0x24 => (List.range (vE q)).map (fun (e : Nat) => vBase q 0 k + (e : Int))
  | 0x42 => el (fun r l => vBase q 0 k + (l * vRows q + r : Nat))
  | _ => if vRaw q then [] else el (vAt q 0 k)
/-- The bank bytes that an issue of a VX record writes. Elements that its mask leaves unwritten are among them: the mask is read
when the issue runs, so before that the write of each of them is pending (R112: DESIGN CHOICE, log 32). -/
def vWrites (q : QRec) (k : Nat) : List BankRun :=
  ((vDest q k).map (bankRuns q.opD)).flatten ++
  (match rOp q.r with
   | 0x24 => ((List.range (vE q / 32)).map (fun (j : Nat) => bankRuns q.opB (vBase q 2 k + (j : Int)))).flatten
   | 0x46 => if vOpx q % 4 = 1 then (match vRawMem q 0 k with | .ok (.bank b o) => [(b, o, 128)] | _ => []) else []
   | _ => [])

/-- The elements of D that an issue of an MX record writes: those of ACRD and HAD. -/
def mDest (q : QRec) (k : Nat) : List Int :=
  let o := q.opD
  let base := mBase q o (descD q.r) k
  if rOp q.r = 3 then
    let cols := 64 * mNb q
    (List.range (64 * cols)).map (fun i =>
      let m := i / cols; let j := i % cols
      base + ((if mFmt o = 7 then j / 32 * 2048 + panelElem o.geom m (j % 32) else m * mDpitch q + j) : Nat))
  else if rOp q.r = 5 then (List.range 4096).map (fun i => base + (i / 64 * mHpitch q + i % 64 : Nat))
  else []
/-- The bank bytes that an issue of an MX record writes. -/
def mWrites (q : QRec) (k : Nat) : List BankRun := ((mDest q k).map (bankRuns q.opD)).flatten

/-- The bank bytes that an AE record writes: its state area and its schedule. -/
def State.aWrites (s : State) (q : QRec) : List BankRun :=
  let a : Auction := match rOp q.r, s.aeArea q 0 64 with
    | 2, .ok x => aucOf x.toArray
    | _, _ => Auction.fresh (rField q.r 22 10 + 1) (rField q.r 14 8 + 1) (rField q.r 11 3 + 1)
  let at_ (w : Eng' AeWrite) : List BankRun := match w with | .ok (.bank b o, n, _) => [(b, o, n)] | _ => []
  ((List.range (aeBytes a.n)).map (fun i => at_ (aeWriteC q i 0))).flatten
    ++ ((List.range (a.n * a.k)).map (fun i => at_ (aeWriteD q i 0))).flatten

/-- The bank bytes that a record has still to write, from issue `k` on. -/
def State.recWrites (s : State) (q : QRec) (k : Nat) : List BankRun :=
  let from_ (f : Nat → List BankRun) : List BankRun :=
    ((List.range (rIssues q.r - k)).map (fun i => f (k + i))).flatten
  match rEng q.r with
  | 0 => from_ (mWrites q)
  | 1 => from_ (vWrites q)
  | 3 => s.aWrites q
  | _ => []

/-- The pending X writes of a slot (R112). A store of X is complete when it is executed (log 3). -/
def State.pendingX (s : State) (k : Nat) : List BankRun :=
  let t := s.slot k
  let mine (q : QRec) : Bool := q.who.x
  let queued := ((t.qmx ++ t.qvx ++ t.qae).filter mine).map (fun q => s.recWrites q 0)
  let running := (([t.rmx, t.rvx, t.rae].filterMap id).filter (fun r => mine r.q && !r.done)).map (fun r => s.recWrites r.q r.next)
  (queued ++ running).flatten
def runsMeet (a b : BankRun) : Bool := a.1 == b.1 && decide (a.2.1 < b.2.1 + b.2.2) && decide (b.2.1 < a.2.1 + a.2.2)
/-- Some bytes that an A-stream read is about to read meet a pending X write. -/
def State.meets (s : State) (k : Nat) (reads : List BankRun) : Bool :=
  let p := s.pendingX k
  reads.any (fun r => p.any (runsMeet r))
/-- HAZCNT rises by 1, and holds at its greatest value (R113). -/
def State.hazard (s : State) (k : Nat) : State :=
  let t := s.slot k
  s.setSlot k { t with hazcnt := if t.hazcnt = 0xFFFFFFFF then t.hazcnt else t.hazcnt + 1 }

end Sys2Proof.Machine
end

