-- ==== Sys2Proof/Machine/Send.lean ====
section
/-! DEFINITION. Remote addresses (R257, R364), routes and destination queues (R270 to R272), and the queueing of messages and
packets (R262, R365, R367, R368). -/

namespace Sys2Proof.Machine

-- Addresses.

/-- Peer, node or session; window; offset of an F, N or H address. -/
def rPeer (a : Word) : Nat := a.toNat / 2 ^ 52
def rWin (a : Word) : Nat := a.toNat / 2 ^ 44 % 256
def rOff (a : Word) : Nat := a.toNat % 2 ^ 44

def State.port (s : State) (p : Nat) : Port := tblGetD s.fab.ports p {}
def State.setPort (s : State) (p : Nat) (v : Port) : State := { s with fab := { s.fab with ports := tblSet s.fab.ports p v } }
def State.conn (s : State) (q : Nat) : Conn := tblGetD s.fab.conns q {}
def State.setConn (s : State) (q : Nat) (c : Conn) : State := { s with fab := { s.fab with conns := tblSet s.fab.conns q c } }
def State.setPkts (s : State) (l : List OutPkt) : State := { s with eth := { s.eth with pkts := l } }

-- SLOTCFG (R265).

def Port.en (p : Port) : Bool := p.slotcfg.getLsbD 63
def Port.relayOn (p : Port) : Bool := p.slotcfg.getLsbD 61
def Port.loen (p : Port) : Bool := p.slotcfg.getLsbD 60
def Port.nslot (p : Port) : Nat := (p.slotcfg.extractLsb' 52 8).toNat + 1
def Port.guardNs (p : Port) : Nat := (p.slotcfg.extractLsb' 32 20).toNat
def Port.slotNs (p : Port) : Nat := (p.slotcfg.extractLsb' 0 32).toNat
/-- The peer of a slot of the table, if the entry is VALID (R266). -/
def Port.peerAt (p : Port) (k : Nat) : Option Nat :=
  let e := tblGetD p.slottab k 0
  if e.getLsbD 15 then some (e.extractLsb' 0 12).toNat else none
def Port.meets (p : Port) (q : Nat) : Bool := (List.range p.nslot).any (fun k => p.peerAt k == some q)
/-- FCAP (R273). -/
def fcap (slot guard : Nat) : Nat := 64 * (16 * (7 * (slot - guard - 100) / 40) * 64 / 65)

/-- The home port of a package (R270). -/
def State.homePort (s : State) (q : Nat) : Option Nat :=
  let e := tblGetD s.fab.routes q 0
  if e.getLsbD 15 then some (e.extractLsb' 0 8).toNat
  else (List.range s.nPorts).find? (fun p => (s.port p).en && (s.port p).meets q)

-- Messages (R255, R256).

/-- RDATA, ACK and NACK. -/
def isResp (op : Nat) : Bool := op == 3 || op == 6 || op == 7
/-- WRITE, RDATA, FRAG and RFRAG carry data. -/
def carries (op : Nat) : Bool := op == 1 || op == 3 || op == 8 || op == 9
/-- The data stand in the HEAD. A fragment's ARGS leave no room for them. -/
def msgInlined (m : Msg) : Bool := (m.op == 1 || m.op == 3) && decide (m.len ≤ 32)
def msgFlits (m : Msg) : Nat := if carries m.op && !msgInlined m then 1 + (m.len + 63) / 64 else 1
def roundUp64 (n : Nat) : Nat := Nat.max 64 ((n + 63) / 64 * 64)
/-- The charge of a message (R272). -/
def msgCost (m : Msg) : Nat :=
  if isResp m.op then 0 else if m.op == 4 || m.op == 5 then 64 else roundUp64 m.len

/-- The target context that the custodian has set for a context and a peer (R257). -/
def State.tctx (s : State) (ctx peer : Nat) : Nat := tblGetD s.shr.tctx (ctx * 4096 + peer) ctx
/-- A request from a context to a package; its number comes when it leaves. -/
def State.request (s : State) (ctx op : Nat) (addr : Word) (len : Nat) (args data : List Byte) (flag : Option Word := none) : Msg :=
  { src := s.pkgId, dst := rPeer addr, msn := 0, op := op, flag := flag.isSome, tctx := s.tctx ctx (rPeer addr),
    gang := (s.ctx ctx).gang.toNat, addr := addr, flagAddr := flag.getD 0, len := len, args := args, data := data }

/-- Something of this package is outstanding on the connection (R260). -/
def State.busyConn (s : State) (q : Nat) : Bool :=
  let c := s.conn q
  !c.out.isEmpty || !c.held.isEmpty ||
    s.fab.ports.any (fun e => (tblGetD e.2.queues q []).any (fun m => m.m.dst == q))
def State.downTime (s : State) : Word := s.now + s.preg.fabdown.zeroExtend 64

/-- What becomes of a message offered to its connection: queued, no room at the port (R271), or a connection that is down or
has no home port (R260, R270). -/
inductive Sent where
  | ok (s : State)
  | full (port : Nat)
  | down (s : State)

/-- The room a port has for messages to a destination (R271). -/
def Port.room (p : Port) (q : Nat) : Nat :=
  let n := (tblGetD p.queues q []).length
  if n = 0 && decide (1024 ≤ p.queues.length) then 0 else 512 - n

/-- The connection is declared down, with its one event record (R236, R260); what was outstanding on it is dropped by the step
CONNECTION_DOWN. -/
def State.markDown (s : State) (q : Nat) : State :=
  if (s.conn q).down then s else (s.setConn q { s.conn q with down := true }).emit 3 0xFFFF (leBytesN 8 0 ++ leBytesN 8 q)
/-- Queue a message at the tail of its destination's queue. A destination without a home port is unreachable: its connection is
declared down (R270). -/
def State.fabSend (s : State) (m : Msg) (ctx : Nat) (own : Owner) : Sent :=
  let q := m.dst
  if (s.conn q).down then .down s
  else match s.homePort q with
    | none => .down (s.markDown q)
    | some p =>
      let v := s.port p
      if v.room q = 0 then .full p
      else
        let s := if s.busyConn q then s else s.setConn q { s.conn q with downAt := s.downTime }
        let o : OutMsg := { m := m, ctx := ctx, own := own, cost := msgCost m, born := s.serial, node := s.storeNode own }
        let s := { s with serial := s.serial + 1 }
        .ok (s.setPort p { v with queues := tblSet v.queues q (tblGetD v.queues q [] ++ [o]) })

/-- A stall is counted in QSTALL (R271, R279). -/
def Port.stallCount (p : Port) : Port :=
  let n := (p.sloterr.extractLsb' 32 16).toNat
  if n = 0xFFFF then p else { p with sloterr := p.sloterr + 0x100000000 }
def State.qstall (s : State) (p : Nat) : State := s.setPort p (s.port p).stallCount

/-- Who pays for a message: the payers of the task whose store, load or record it is (R358). -/
def State.paying (s : State) (own : Owner) (node : Option Nat) (ctx n : Nat) : List (Nat × Nat) :=
  match own with
  | .store .. => s.sharers node ctx n
  | .load q _ => s.payers q.slot ctx n
  | .record core ch _ _ _ =>
    match tblGet (s.core core).ch ch with
    | some r => s.payers r.q.who.slot ctx n
    | none => [(ctx, n)]
  | _ => [(ctx, n)]

-- Ethernet.

/-- Where an N or H address leads (R364): nowhere, to this package itself, to a node or session, or to one that has failed. -/
inductive EthTo where
  | none | self | failed
  | to (node : Nat) (host : Bool)
  deriving DecidableEq, Repr

def State.node (s : State) (n : Nat) : Option Node := tblGet s.eth.nodes n
def State.ethTo (s : State) (host : Bool) (a : Word) : EthTo :=
  if host then
    match s.session (rPeer a) with
    | none => .none
    | some v =>
      if (tblGet v.windows (rWin a)).isNone then .none
      else if v.failed then .failed else .to (rPeer a) true
  else
    match s.node (rPeer a) with
    | none => .none
    | some v =>
      if v.self then .self
      else if v.enc && v.key.isNone then .none
      else if v.failed then .failed else .to (rPeer a) false

/-- A request packet from a context; its payload is what a fabric message's would be. -/
def State.packet (s : State) (ctx : Nat) (host : Bool) (addr : Word) (len : Nat) (data : List Byte) : Pkt :=
  { node := rPeer addr, host := host, tok := s.eth.nextTok, win := rWin addr, off := rOff addr, tctx := ctx,
    gang := (s.ctx ctx).gang.toNat, len := len, code := 0, frag := false, rfrag := false, args := [], data := data,
    authOk := true }
def State.failTime (s : State) : Word := s.now + s.preg.ethfail.zeroExtend 64
def State.ethOut (s : State) (node : Nat) (host : Bool) : List OutPkt :=
  s.eth.pkts.filter (fun o => o.p.node == node && o.p.host == host)
/-- The timer of R365 starts again: packets go out, or an answer has come. -/
def State.ethProgress (s : State) (node : Nat) (host : Bool) : State :=
  if host then
    match s.session node with
    | some v => { s with eth := { s.eth with sessions := tblSet s.eth.sessions node { v with failAt := s.failTime } } }
    | none => s
  else
    match s.node node with
    | some v => { s with eth := { s.eth with nodes := tblSet s.eth.nodes node { v with failAt := s.failTime } } }
    | none => s
/-- The packet is for a host window that is being revoked (R378). -/
def State.isLate (s : State) (p : Pkt) : Bool :=
  p.host && (match (s.session p.node).bind (fun v => tblGet v.windows p.win) with | some w => w.revoking | none => false)
/-- Queue a packet (R368). -/
def State.ethSend (s : State) (p : Pkt) (ctx : Nat) (own : Owner) (read : Bool) : State :=
  let s := if (s.ethOut p.node p.host).isEmpty then s.ethProgress p.node p.host else s
  let o : OutPkt := { p := { p with tok := s.eth.nextTok }, ctx := ctx, own := own, read := read, cost := roundUp64 p.len,
                      late := s.isLate p, node := s.storeNode own }
  { s with eth := { s.eth with pkts := s.eth.pkts ++ [o], nextTok := s.eth.nextTok + 1 } }

end Sys2Proof.Machine
end

