-- ==== Sys2Proof/Machine/Remote.lean ====
section
/-! DEFINITION. A remote access at its target: windows (R180, R257, R259), atomics (R237), POLL (R238), fragments and their
reduction (R323, R325), the selvedge (R293), stashes (R296, R298). -/

namespace Sys2Proof.Machine

-- The selvedge.

def State.carries (s : State) (g : Nat) : Bool := s.ctxs.any (fun e => e.2.gang.toNat == g)
/-- An accepted arrival tagged with a gang (R293). -/
def State.arrival (s : State) (g : Nat) : State :=
  if g = 0 || !s.carries g then s else
  let e := tblGetD s.shr.selv g {}
  let add := Nat.min 4 (Nat.min (tblGetD s.shr.caps g 32 - e.granted) (255 - e.acc))
  { s with shr := { s.shr with selv := tblSet s.shr.selv g { acc := e.acc + add, granted := e.granted + add } } }

-- Windows.

/-- NACK codes of R259. -/
def nStashFull : Nat := 1
def nRevoked : Nat := 2
def nBounds : Nat := 3
def nPerm : Nat := 4
def nNoWin : Nat := 5
def nNoCtx : Nat := 6
def nBadOp : Nat := 7
def nUncorr : Nat := 8

/-- The context stays resident, so that new work of it starts (R286). -/
def Ctx.stays (c : Ctx) : Bool := c.resident && !c.leaving

/-- The virtual address of a remote access, or the code of its NACK. An access accepted before (`kept`) completes whatever
becomes of its window (R181). -/
def State.window (s : State) (ctx win : Nat) (net rd wr : Bool) (off n : Nat) (kept : Bool := false) : Except Nat Word :=
  match tblGet s.ctxs ctx with
  | none => .error nNoCtx
  | some c =>
    match tblGet c.windows win with
    | none => .error nNoWin
    | some w =>
      if w.revoking && !kept then .error nRevoked
      else if w.span < off + n then .error nBounds
      else if !(if net then w.net else w.fab) || (rd && !w.rd) || (wr && !w.wr) then .error nPerm
      else .ok (w.base + BitVec.ofNat 64 off)

-- Reductions.

/-- y := b op x (R325). -/
def redElem (f op b x : Nat) : Elem :=
  if isFlt f then
    let u := elemNum f b; let v := elemNum f x
    let r := if op = 0 then numAdd .rne u v else if op = 1 then numMin u v else numMax u v
    fxOf f (deliver (fltOf f) .rne false (!u.isNan && !v.isNan) r)
  else
    let u := intVal f b; let v := intVal f x
    (intBits f false (if op = 0 then u + v else if op = 1 then (if v < u then v else u) else (if u < v then v else u)), none)

def byteAt (l : List Byte) (k : Nat) : Nat := ((l[k]?).getD 0).toNat
def leIn (l : List Byte) (k n : Nat) : Nat := leOfBytes ((l.drop k).take n)

/-- red(b[i], x[i]) of every element, and the exception events (R325). -/
def redAll (f op : Nat) (b x : List Byte) : List Byte × List Nat :=
  let z := fmtSize f
  let r := (List.range (if z = 0 then 0 else x.length / z)).map (fun i => redElem f op (leIn b (z * i) z) (leIn x (z * i) z))
  (r.flatMap (fun (e : Elem) => bytesOfLE z e.1), r.filterMap (fun (e : Elem) => e.2))
/-- DST[i] := red(DST[i] + DISP, data[i]), every element read before it is written (R325). -/
def State.reduceInto (s : State) (ctx : Nat) (dst : Word) (op f : Nat) (disp : Word) (data : List Byte) : Eng' State := do
  let b ← s.pinnedRead (data.length + 1) ctx (dst + disp) data.length
  let (y, es) := redAll f op b data
  let s ← s.pinnedWrite (data.length + 1) ctx dst y
  return es.foldl (fun (s : State) i => s.fxElem ctx (some i)) s

-- Applying a request.

def State.winBase (s : State) (ctx win : Nat) : Word :=
  match tblGet (s.ctx ctx).windows win with | some w => w.base | none => 0

/-- The runs of bytes that a request writes, each from its offset: a byte that a later packet has written stays as it is (R365). -/
def keptRuns (skip : List Nat) : List (Byte × Nat) → List (Nat × List Byte)
  | [] => []
  | (b, i) :: rest =>
    if skip.contains i then keptRuns skip rest
    else match keptRuns skip rest with
      | (j, bs) :: more => if j = i + 1 then (i, b :: bs) :: more else (i, [b]) :: (j, bs) :: more
      | [] => [(i, [b])]
/-- The data of a request, written where nothing later stands: each run meets the lines that it covers in part (R413). -/
def State.writeData (s : State) (r : Req) (va : Word) : Eng' State :=
  if r.skip.isEmpty then s.pinnedWrite (r.data.length + 1) r.ctx va r.data
  else (keptRuns r.skip r.data.zipIdx).foldlM (fun (s : State) (e : Nat × List Byte) =>
    s.pinnedWrite (e.2.length + 1) r.ctx (va + BitVec.ofNat 64 e.1) e.2) s
/-- The data of a request: written, or reduced into the target (R256, R323). -/
def State.applyData (s : State) (r : Req) : Eng' State :=
  let va := s.winBase r.ctx r.win + BitVec.ofNat 64 r.off
  let put : Eng' State := s.writeData r va
  match r.args with
  | some a => if r.red then s.reduceInto r.ctx va (byteAt a 2 % 4) (byteAt a 3) (BitVec.ofNat 64 (leIn a 8 8)) r.data else put
  | none => put
/-- The flag word rises by 1 (R185, R256). -/
def State.applyFlag (s : State) (r : Req) : Eng' State :=
  match r.flag with
  | none => .ok s
  | some (w, o) => do
    let va := s.winBase r.ctx w + BitVec.ofNat 64 o
    let b ← s.pinnedRead 9 r.ctx va 8
    s.pinnedWrite 9 r.ctx va (bytesOfLE 8 (leOfBytes b + 1))
def State.applyCtr (s : State) (r : Req) : State :=
  match r.args with | some a => s.ctrRaise r.ctx (leIn a 0 2) (leIn a 4 4) | none => s

/-- What applying a request comes to: a stall, or a state and the fault that stopped it, if any. -/
inductive Applied where
  | stall
  | done (s : State)
  | failed (s : State) (cause : Nat) (eval : Word)

def State.apply (s : State) (r : Req) : Applied :=
  match s.applyData r with
  | .error .stall => .stall
  | .error (.fault c v) => .failed s c v
  | .ok t =>
    match t.applyFlag r with
    | .error .stall => .stall
    | .error (.fault c v) => .failed t c v
    | .ok u => .done (u.applyCtr r)

/-- The event record of an uncorrectable error met by a remote access (R259, R310). -/
def State.uncorrEvent (s : State) (ctx cause : Nat) (eval : Word) : State :=
  if cause = 0x20 then s.emit 4 ctx (leBytesN 8 eval.toNat) else s

/-- The target's answer: done, data, a NACK code, or a POLL that is held. -/
inductive Ans where
  | ack
  | data (bs : List Byte)
  | nack (code : Nat)
  | hold
  deriving DecidableEq, Repr

/-- The header of a stash entry (R296), with ARGS bytes 0 to 15 of a fragment (R323). -/
def stashHeader (e : StashEntry) : List Byte :=
  let r := e.req
  bytesOfLE 2 r.src ++ bytesOfLE 2 r.gang ++ bytesOfLE 1 r.win ++ bytesOfLE 1 (if r.flag.isSome then 1 else 0)
    ++ bytesOfLE 2 ((r.data.length + 65535) % 65536) ++ bytesOfLE 8 r.off ++ bytesOfLE 8 ((r.flag.map (·.2)).getD 0)
    ++ bytesOfLE 8 e.time.toNat ++ (r.args.getD []).take 16 ++ bytesOfLE (32 - ((r.args.getD []).take 16).length) 0
/-- A stash entry is written: held by the device as a request, and laid out in HBM at STASHBASE, its header and its data under
the key of the window page that the data are bound for (R296). -/
def State.stashWrite (s : State) (k : Nat) (e : StashEntry) : State :=
  let r := e.req
  let c := s.ctx r.ctx
  let key := match s.walk c.asid.toNat (s.winBase r.ctx r.win + BitVec.ofNat 64 r.off).toNat with
    | some l => s.keyVal l.key | none => 0
  (s.setCtx r.ctx { c with stash := tblSet c.stash k e }).writeHbm (c.stashBase.toNat + 4160 * k) (stashHeader e ++ r.data) key
/-- A write or fragment at its target (R259, R296); `loc` for an access that never left the package, which is no arrival
(R293); one that is to be stashed in a fenced stack meets an uncorrectable error there (R396). None: it waits for a stack. -/
def State.takeWrite (s : State) (r : Req) (net loc : Bool) : Option (State × Ans) :=
  let flagOk : Except Nat Word := match r.flag with
    | none => .ok 0
    | some (w, o) => s.window r.ctx w net false true o 8
  match s.window r.ctx r.win net false true r.off r.data.length, flagOk with
  | .error e, _ => some (s, .nack e)
  | _, .error e => some (s, .nack e)
  | .ok _, .ok _ =>
    let c := s.ctx r.ctx
    let count (s : State) : State := if loc then s else s.arrival r.gang
    if !c.present then
      match tblFree c.stash 8 with
      | none => some (s, .nack nStashFull)
      | some k =>
        match s.stackAt c.stashBase.toNat with
        | .absent => none
        | .fenced => some (s.uncorrEvent r.ctx 0x20 (mchkEval 3 false (c.stashBase.toNat + 4160 * k)), .nack nUncorr)
        | .ready => some (count (s.stashWrite k { time := s.clk.time, req := r }), .ack)
    else
      match s.apply r with
      | .stall => none
      | .failed t cause v => some (t.uncorrEvent r.ctx cause v, .nack nUncorr)
      | .done t => some (count t, .ack)

/-- Bytes of a resident context's window, or the answer that says why not (R259, R296). -/
def State.takeRead (s : State) (ctx win off n : Nat) (net wr : Bool) (kept : Bool := false) :
    Option (Except (State × Nat) (Word × List Byte)) :=
  if (tblGet s.ctxs ctx).isSome && !(s.ctx ctx).present then some (.error (s, nStashFull))
  else match s.window ctx win net true wr off n kept with
  | .error e => some (.error (s, e))
  | .ok va =>
    match s.pinnedRead (n + 1) ctx va n with
      | .error .stall => none
      | .error (.fault c v) => some (.error (s.uncorrEvent ctx c v, nUncorr))
      | .ok bs => some (.ok (va, bs))

-- Atomics and POLL.

/-- An atomic on a word of `n` bytes: the new value, if one is written, and the result (R237). Codes as R26 numbers them. -/
def amoDo (op n old x y : Nat) : Option Nat × Nat :=
  let w := 8 * n
  let sg (v : Nat) : Int := if v < 2 ^ (w - 1) then v else (v : Int) - 2 ^ w
  let x := x % 2 ^ w; let y := y % 2 ^ w
  match op with
  | 0 => (some ((old + x) % 2 ^ w), old)
  | 1 => (some (old &&& x), old)
  | 2 => (some (old ||| x), old)
  | 3 => (some (old ^^^ x), old)
  | 4 => (some (if sg old ≤ sg x then old else x), old)
  | 5 => (some (if sg old ≤ sg x then x else old), old)
  | 6 => (some (if old ≤ x then old else x), old)
  | 7 => (some (if old ≤ x then x else old), old)
  | 8 => (some x, old)
  | 9 => (if old = y then some x else none, old)
  | _ => if old < y then (some (old + 1), old) else (none, 2 ^ 64 - 1)
/-- The condition of a POLL: 0 EQ, 1 NE, 2 GEU, 3 LTU (R37, R238). -/
def pollHolds (cc n v y : Nat) : Bool :=
  let y := y % 2 ^ (8 * n)
  match cc with | 0 => v == y | 1 => v != y | 2 => decide (y ≤ v) | _ => decide (v < y)

/-- ARGS of an AMO or POLL (log 23): code, width in bytes, and at bytes 8 and 16 the two operands. -/
def accessArgs (code n x y : Nat) : List Byte := bytesOfLE 1 code ++ bytesOfLE 7 n ++ bytesOfLE 8 x ++ bytesOfLE 8 y ++ bytesOfLE 8 0

def State.takeAmo (s : State) (ctx win off : Nat) (a : List Byte) (net : Bool) : Option (State × Ans) :=
  let n := if byteAt a 1 = 4 then 4 else 8
  match s.takeRead ctx win off n net true with
  | none => none
  | some (.error (t, e)) => some (t, .nack e)
  | some (.ok (va, bs)) =>
    let (new, ret) := amoDo (byteAt a 0) n (leOfBytes bs) (leIn a 8 8) (leIn a 16 8)
    match new with
    | none => some (s, .data (bytesOfLE 8 ret))
    | some v =>
      match s.pinnedWrite 9 ctx va (bytesOfLE n v) with
      | .ok t => some (t, .data (bytesOfLE 8 ret))
      | .error .stall => none
      | .error (.fault c e) => some (s.uncorrEvent ctx c e, .nack nUncorr)
def State.takePoll (s : State) (ctx win off : Nat) (a : List Byte) (net : Bool) (kept : Bool := false) : Option (State × Ans) :=
  let n := if byteAt a 1 = 4 then 4 else 8
  match s.takeRead ctx win off n net false kept with
  | none => none
  | some (.error (t, e)) => some (t, .nack e)
  | some (.ok (_, bs)) =>
    if pollHolds (byteAt a 0) n (leOfBytes bs) (leIn a 8 8) then some (s, .data (bytesOfLE 8 (leOfBytes bs)))
    else some (s, .hold)

/-- The request that a write message or fragment makes. -/
def reqOf (src : Nat) (m : Msg) : Req :=
  { src := src, ctx := m.tctx, gang := m.gang, win := rWin m.addr, off := rOff m.addr, data := m.data
    flag := if m.flag then some (rWin m.flagAddr, rOff m.flagAddr) else none
    args := if m.op = 1 then none else some (m.args.take 16), red := m.op == 9 }
/-- A message at its target (R256, R323); a POLL that is held there has been accepted before. -/
def State.target (s : State) (src : Nat) (m : Msg) (net loc : Bool) (kept : Bool := false) : Option (State × Ans) :=
  match m.op with
  | 1 | 8 | 9 => s.takeWrite (reqOf src m) net loc
  | 2 =>
    (s.takeRead m.tctx (rWin m.addr) (rOff m.addr) m.len net false).map (fun r => match r with
      | .error (t, e) => (t, .nack e)
      | .ok (_, bs) => (s, .data bs))
  | 4 => s.takeAmo m.tctx (rWin m.addr) (rOff m.addr) m.args net
  | 5 => s.takePoll m.tctx (rWin m.addr) (rOff m.addr) m.args net kept
  | _ => some (s, .nack nBadOp)

-- Stashes at swap-in (R298).

/-- The stash entries in ascending TIME. -/
def stashOrder (t : Tbl StashEntry) : List (Nat × StashEntry) :=
  let rec insert (x : Nat × StashEntry) : List (Nat × StashEntry) → List (Nat × StashEntry)
    | [] => [x]
    | y :: r => if x.2.time.ule y.2.time then x :: y :: r else y :: insert x r
  t.foldr insert []
/-- Apply one entry and free it; one with an uncorrectable error, or in a fenced stack, is freed unapplied, with an event record. -/
def State.stashApply (s : State) (ctx k : Nat) (e : StashEntry) : State :=
  let free (s : State) : State := let c := s.ctx ctx; s.setCtx ctx { c with stash := tblErase c.stash k }
  if s.bad (.stashEntry ctx k) || s.stackAt (s.ctx ctx).stashBase.toNat == .fenced then
    ((free s).scrub [.stashEntry ctx k]).emit 4 ctx (leBytesN 8 (mchkEval 7 false 0).toNat)
  else match s.apply e.req with
    | .done t => free t
    | .failed t c v => (free t).uncorrEvent ctx c v
    | .stall => s
/-- Apply every entry in its turn; one whose stack is not ready stays, and with it those after it. -/
def State.stashAll (s : State) (ctx : Nat) : List (Nat × StashEntry) → State
  | [] => s
  | (k, e) :: r =>
    let t := s.stashApply ctx k e
    if (tblGet (t.ctx ctx).stash k).isSome then t else State.stashAll t ctx r

end Sys2Proof.Machine
end

