-- ==== Sys2Proof/Machine/CxBase.lean ====
section
/-! DEFINITION. What an issue of a copy channel moves (R183 to R187): its elements, local copies, and the messages and packets
of remote ones (R272, R365). -/

namespace Sys2Proof.Machine

/-- Elements per issue (R183). -/
def cxLen (q : QRec) : Nat := rField q.r 11 16 + 1
def cxBaseOf (q : QRec) (o : Opd) (d : BitVec 88) (k : Nat) : Int := dElem d (o.baseElem 6) (rIndex q.r k)
def cxA (q : QRec) (k : Nat) : Int := cxBaseOf q q.opA (descA q.r) k
def cxD (q : QRec) (k : Nat) : Int := cxBaseOf q q.opD (descD q.r) k
def cxB (q : QRec) (k : Nat) : Int := cxBaseOf q q.opB (descB q.r) k
/-- The remote space of an operand: 1 F, 2 N, 3 H; 0 for the local ones. -/
def Opd.remote (o : Opd) : Nat :=
  match o with | .hnd h _ => if 1 ≤ hSpace h && hSpace h ≤ 3 then hSpace h else 0 | _ => 0

/-- The results of `f` up to the first element that it stops on. -/
def untilStop {α β : Type} (f : α → Eng' β) : List α → List β × Option Stop
  | [] => ([], none)
  | a :: r =>
    match f a with
    | .error e => ([], some e)
    | .ok b => let (bs, e) := untilStop f r; (b :: bs, e)

/-- The remote address of an element and the bytes fetched or written there. -/
def remotePiece (o : Opd) (i : Int) : Eng' (Word × Nat × Nat) := do
  match ← o.place 6 i with
  | .bytes (.remote _ a) n => return (a, n, 0)
  | .code (.remote _ a) pos => return (a, 24, pos)
  | _ => engF

/-- The index list is fetched from a remote space (R184). -/
def cxFarList (q : QRec) : Bool := (rOp q.r == 3 || rOp q.r == 4) && q.opB.remote != 0
/-- Index `i` of an issue's list: where the list lies remotely, `ixs` holds its bytes. -/
def State.cxIndex (s : State) (q : QRec) (k : Nat) (ixs : Option Memory) (i : Nat) : Eng' Nat := do
  match ixs with
  | some m => let (a, n, _) ← remotePiece q.opB (cxB q k + (i : Int)); return m.readLE a.toNat n
  | none => s.readRaw q 3 (← q.opB.place 3 (cxB q k + (i : Int)))
/-- The source and destination element of each transfer of an issue, in ascending i; skipped elements have none (R184). -/
def State.cxMap (s : State) (q : QRec) (k : Nat) (ixs : Option Memory) : List (Int × Int) × Option Stop :=
  let a := cxA q k; let d := cxD q k
  let idx := s.cxIndex q k ixs
  let none_ (x : Nat) : Bool := x == 0xFFFFFFFF
  let pick (i : Nat) : Eng' (Option (Int × Int)) :=
    match rOp q.r with
    | 3 => do let x ← idx i; return if none_ x then none else some (a + (x : Int), d + (i : Int))
    | 4 => do let x ← idx i; return if none_ x then none else some (a + (i : Int), d + (x : Int))
    | _ => .ok (some (a + (i : Int), d + (i : Int)))
  let (l, e) := untilStop pick (List.range (cxLen q))
  (l.filterMap id, e)

-- Local copies.

/-- One element, read before it is written (R184, R188). -/
def cxElem (q : QRec) (t : Int × Int) (x : Iss) : Eng' Iss := do
  let f := q.opD.fmt 6
  let (v, e) ← x.s.readAs q q.opA f (rRound q.r) (rSat q.r) t.1
  let y ← x.put q q.opD f (rRound q.r) (rSat q.r) (t.2, v)
  return { y with evs := y.evs ++ e }
/-- One element of FILL: the low bytes of A (R184). -/
def cxFillElem (q : QRec) (t : Int × Int) (x : Iss) : Eng' Iss :=
  match q.opA with
  | .imm v => x.put q q.opD (q.opD.fmt 6) .rne false (t.2, v.toNat % 2 ^ fmtBits (q.opD.fmt 6))
  | _ => engF
/-- The 24 bytes of codes of the LOG6 block that an element lies in. -/
def State.blockAt (s : State) (q : QRec) (o : Opd) (i : Int) : Eng' Nat := do
  match ← o.place 7 i with
  | .log6 b k _ _ => s.readMem q (.bank b (24 * k)) 24
  | .code m _ => s.readMem q m 24
  | _ => engF
/-- Write the codes of a whole block. -/
def State.setBlockAt (s : State) (q : QRec) (o : Opd) (i : Int) (codes : Nat) : Eng' State := do
  match ← o.place 7 i with
  | .log6 b k _ _ => s.writeMem q (.bank b (24 * k)) 24 codes
  | .code m _ => s.writeMem q m 24 codes
  | _ => engF
/-- A whole block of LOG6, its codes and, between banks, its scale, unchanged (R60, R107). -/
def cxBlockMove (q : QRec) (t : Int × Int) (x : Iss) : Eng' Iss := do
  let codes ← x.s.blockAt q q.opA t.1
  let s ← (x.s.scrub x.cov).setBlockAt q q.opD t.2 codes
  match ← q.opA.place 7 t.1, ← q.opD.place 7 t.2 with
  | .log6 b k _ w, .log6 b' k' _ w' => do
    let sc ← x.s.readMem q (.bank b (bfScoff w + 2 * k)) 2
    let s ← s.writeMem q (.bank b' (bfScoff w' + 2 * k')) 2 (s10Bits 8 sc)
    return { x with s := s }
  | _, _ => return { x with s := s }
/-- Blocks move unchanged: a run of elements in order between two operands of LOG6, aligned to blocks, which are two banks of
one geometry or of which one is a handle (R60, R107; log 19). -/
def cxWhole (q : QRec) (k : Nat) : Bool :=
  [1, 5, 6, 7, 8].contains (rOp q.r) && q.opA.fmt 6 == 7 && q.opD.fmt 6 == 7 &&
  cxA q k % 32 == 0 && cxD q k % 32 == 0 && cxLen q % 32 == 0 &&
  (match q.opA, q.opD with | .bank _ w _, .bank _ w' _ => bfGeom w == bfGeom w' | _, _ => true)
/-- The first elements of the blocks of such an issue, in source and destination. -/
def cxBlocks (q : QRec) (k : Nat) : List (Int × Int) :=
  (List.range (cxLen q / 32)).map (fun (i : Nat) => (cxA q k + (32 * i : Nat), cxD q k + (32 * i : Nat)))

/-- The pieces of a local issue, each performed whole or not at all. -/
def State.cxSteps (s : State) (q : QRec) (k : Nat) (ixs : Option Memory) : List (Iss → Eng' Iss) × Option Stop :=
  let (ts, e) := s.cxMap q k ixs
  if cxWhole q k then ((cxBlocks q k).map (cxBlockMove q), e)
  else if rOp q.r = 2 then (ts.map (cxFillElem q), e)
  else (ts.map (cxElem q), e)

/-- Perform pieces in order up to the first that stops. -/
def runSteps (x : Iss) : List (Iss → Eng' Iss) → Iss × Nat × Option Stop
  | [] => (x, 0, none)
  | f :: r => match f x with
    | .error e => (x, 0, some e)
    | .ok y => let (z, n, e) := runSteps y r; (z, n + 1, e)
/-- Of the pieces before a faulting one, each is performed or not, independently (R187, log 13). -/
def runSome (x : Iss) (fs : List (Iss → Eng' Iss)) : Iss :=
  let y := (fs.zipIdx).foldl (fun (x' : Iss) (f, i) =>
    if Config.freeBool (x.s.freeCtr + i) then (match f x' with | .ok y => y | .error _ => x') else x') x
  { y with s := { y.s with freeCtr := x.s.freeCtr + fs.length } }

-- Bytes moved (R182, R290).

/-- The bytes of `n` elements of an operand. -/
def opdBytes (o : Opd) (n : Nat) : Nat :=
  let f := o.fmt 6
  if f = 7 then (n + 31) / 32 * (match o with | .bank .. => 26 | _ => 24) else n * fmtSize f
/-- The bytes of an issue's index list. -/
def cxListBytes (q : QRec) : Nat := match q.opB with | .absent | .imm _ => 0 | _ => 4 * cxLen q
/-- The bytes an issue reads, near or far, index list included (R182), and its bytes of G. A list that had to be fetched first is
charged with its own reads. -/
def State.cxBytes (s : State) (q : QRec) (k : Nat) (ixs : Option Memory) : Nat × Nat :=
  let n := (s.cxMap q k ixs).1.length
  let a := match q.opA with | .imm _ => 0 | o => opdBytes o n
  let c := if ixs.isSome then 0 else cxListBytes q
  let g := (if q.opA.inG then a else 0) + (if q.opB.inG then c else 0) + (if q.opD.inG then opdBytes q.opD n else 0)
  (a + c, g)
/-- The bank bytes that an issue reads (R112). -/
def State.cxReads (s : State) (q : QRec) (k : Nat) (ixs : Option Memory) : List BankRun :=
  let ts := (s.cxMap q k ixs).1
  (ts.map (fun t => bankRuns q.opA t.1)).flatten
    ++ ((List.range (cxLen q)).map (fun i => bankRuns q.opB (cxB q k + (i : Nat)))).flatten

-- Remote pieces.

/-- Join pieces that follow one another. -/
def joinRuns : List (Word × List Byte) → List (Word × List Byte)
  | [] => []
  | (a, b) :: r =>
    match joinRuns r with
    | (a', b') :: r' => if a + BitVec.ofNat 64 b.length = a' then (a, b ++ b') :: r' else (a, b) :: (a', b') :: r'
    | [] => [(a, b)]
/-- Cut a run into messages of at most `l` bytes (R272). -/
def cutRun (l : Nat) : Nat → Word → List Byte → List (Word × List Byte)
  | 0, _, _ => []
  | k + 1, a, b =>
    if b.length ≤ l then [(a, b)] else (a, b.take l) :: cutRun l k (a + BitVec.ofNat 64 l) (b.drop l)
def cutRuns (l : Nat) (rs : List (Word × List Byte)) : List (Word × List Byte) :=
  ((joinRuns rs).map (fun e => cutRun l (e.2.length + 1) e.1 e.2)).flatten
/-- L of R272; packets hold at most 4,096 bytes (R365). -/
def State.cutLen (s : State) (ctx sp : Nat) : Nat :=
  let fb := (s.ctx ctx).gauge.fb
  if sp != 1 || fb < 64 then 4096 else Nat.min 4096 (fb / 64 * 64)

/-- Elements bound for a remote operand, with their bits in the format they move in: pieces of bytes and the counters that
blocks of LOG6 raise. -/
def remoteOut (o : Opd) (vals : List (Int × Nat)) : Eng' (List (Word × List Byte) × List Nat) := do
  let f := o.fmt 6
  let ps ← vals.mapM (fun v => do let (a, n, pos) ← remotePiece o v.1; return (a, n, pos, v.2))
  if f = 7 then
    let starts := ps.foldl (fun (l : List Word) p => if l.contains p.1 then l else l ++ [p.1]) []
    let blocks := starts.map (fun a =>
      (a, log6Quant (blockVals ((ps.filter (fun p => p.1 == a)).foldl (fun l p => (p.2.2.1, p.2.2.2) :: l.filter (fun e => e.1 != p.2.2.1)) []))))
    return (blocks.map (fun b => (b.1, bytesOfLE 24 (packCodes b.2.2.1))), (blocks.map (fun b => b.2.2.2)).flatten)
  else return (ps.map (fun p => (p.1, bytesOfLE p.2.1 (s10Bits f p.2.2.2))), [])

/-- What an issue with a remote operand sends, the transfers that await data, and the counters raised. -/
structure CxSends where
  msgs : List CxMsg
  ts   : List (Int × Int) := []
  evs  : List Nat := []
  deriving DecidableEq, Repr

def writesTo (sp l : Nat) (flag : Option Word) (ps : List (Word × List Byte)) : List CxMsg :=
  let ms := cutRuns l ps
  (ms.zipIdx).map (fun (m, i) =>
    { sp := sp, addr := m.1, len := m.2.length, data := some m.2, flag := if i + 1 = ms.length then flag else none })

/-- Decode an element that has been fetched from a remote operand, in format `f` (R60, R107, R129). -/
def fetchedAs (s : State) (q : QRec) (recv : Memory) (i : Int) (f : Nat) : Eng' (Nat × List Nat) := do
  let (a, n, pos) ← remotePiece q.opA i
  let x := recv.readLE a.toNat n
  if n = 24 then return log6As f (rRound q.r) (rSat q.r) (x / 2 ^ (6 * pos) % 64) (s.freeScale (.remote 0 a))
  else
    let (z, e) := convElem (q.opA.fmt 6) f (rRound q.r) (rSat q.r) x
    return (z, e.toList)

/-- The flag of a PUTF or MCST, on the last issue of the record (R185). -/
def cxFlag (q : QRec) (k : Nat) : Option Word :=
  if k + 1 = rIssues q.r then (match q.opB with | .imm v => some v | _ => none) else none

/-- The reads that fetch pieces of a remote operand. -/
def State.readsOf (s : State) (q : QRec) (sp : Nat) (ps : List (Word × Nat)) : List CxMsg :=
  (cutRuns (s.cutLen q.ctx sp) (ps.map (fun p => (p.1, List.replicate p.2 (0 : Byte))))).map (fun m =>
    { sp := sp, addr := m.1, len := m.2.length, data := none })
/-- The reads that fetch the index list of an issue (R184). -/
def State.cxListReads (s : State) (q : QRec) (k : Nat) : Eng' CxSends := do
  let ps ← (List.range (cxLen q)).mapM (fun (i : Nat) => do
    let (a, n, _) ← remotePiece q.opB (cxB q k + (i : Int)); return (a, n))
  return { msgs := s.readsOf q q.opB.remote ps }
/-- What an issue with a remote source or destination sends. -/
def State.cxSends (s : State) (q : QRec) (k : Nat) (ixs : Option Memory) : Eng' CxSends := do
  let (ts, stop) := s.cxMap q k ixs
  if let some e := stop then throw e
  let d := q.opD.remote
  if q.opA.remote != 0 then
    for t in ts do
      if d = 0 then let _ ← q.opD.place 6 t.2 else let _ ← remotePiece q.opD t.2
    let ps ← ts.mapM (fun t => do let (a, n, _) ← remotePiece q.opA t.1; return (a, n))
    let ps := ps.foldl (fun (l : List (Word × Nat)) p => if l.getLast? == some p && p.2 == 24 then l else l ++ [p]) []
    return { msgs := s.readsOf q q.opA.remote ps, ts := ts }
  else if cxWhole q k then
    let ps ← (cxBlocks q k).mapM (fun t => do
      let (a, _, _) ← remotePiece q.opD t.2
      return (a, bytesOfLE 24 (← s.blockAt q q.opA t.1)))
    return { msgs := writesTo d (s.cutLen q.ctx d) (cxFlag q k) ps }
  else
    let f := q.opD.fmt 6
    let vs ← ts.mapM (fun t => do
      if rOp q.r = 2 then (match q.opA with | .imm v => return ((t.2, v.toNat % 2 ^ fmtBits f), []) | _ => engF)
      else let (v, e) ← s.readAs q q.opA f (rRound q.r) (rSat q.r) t.1; return ((t.2, v), e))
    let (ps, evs) ← remoteOut q.opD (vs.map (·.1))
    return { msgs := writesTo d (s.cutLen q.ctx d) (cxFlag q k) ps, evs := (vs.map (·.2)).flatten ++ evs }

/-- The run of a MCST issue as bytes: elements in A's format, codes of whole blocks for LOG6. -/
def State.mcstBytes (s : State) (q : QRec) (k : Nat) : Eng' (List Byte) := do
  let f := q.opA.fmt 6
  if f = 7 then
    let bs ← (List.range (cxLen q / 32)).mapM (fun (i : Nat) => do
      return bytesOfLE 24 (← s.blockAt q q.opA (cxA q k + (32 * i : Nat))))
    return bs.flatten
  else
    let bs ← (List.range (cxLen q)).mapM (fun (i : Nat) => do
      let x ← s.readRaw q f (← q.opA.place f (cxA q k + (i : Nat)))
      return bytesOfLE (fmtSize f) (s10Bits f x))
    return bs.flatten
/-- What a MCST issue sends: the same bytes at the same offset of every member's window (R185, R327). -/
def State.mcstSends (s : State) (q : QRec) (k : Nat) : Eng' CxSends := do
  match q.opD with
  | .imm v =>
    match tblGet s.coll.groups (v.toNat % 2 ^ 16) with
    | none => engF
    | some g =>
      if g.owner != q.ctx || 1024 ≤ v.toNat % 2 ^ 16 then engF
      else
        let bs ← s.mcstBytes q k
        let off := v.toNat / 2 ^ 16 % 2 ^ 44
        return { msgs := (g.members.map (fun m =>
          let sp := if m.net then 2 else 1
          writesTo sp (s.cutLen q.ctx sp) ((cxFlag q k).map (fun f => m.addr + f)) [(m.addr + BitVec.ofNat 64 off, bs)])).flatten }
  | _ => engF

-- Sending.

/-- What offering a message comes to: sent, with an answer to await, or with the data at hand; a full queue at a port; not
now; or a fault. -/
inductive CxSent where
  | wait (s : State)
  | now (s : State) (data : List Byte)
  | full (port : Nat)
  | later
  | fault (s : State)

/-- The result of an access that never leaves the package (R257, R364). -/
def localSent (x : Option (State × Ans)) : CxSent :=
  match x with
  | none => .later
  | some (t, .ack) => .now t []
  | some (t, .data bs) => .now t bs
  | some (t, .nack e) => if e = nStashFull then .later else .fault t
  | some (_, .hold) => .later
def State.cxSend (s : State) (ctx : Nat) (own : Owner) (m : CxMsg) : CxSent :=
  let op := if m.data.isSome then 1 else 2
  let msg := s.request ctx op m.addr m.len [] (m.data.getD []) m.flag
  if m.sp = 1 then
    if rPeer m.addr = s.pkgId then localSent (s.target s.pkgId msg false true)
    else match s.fabSend msg ctx own with
      | .ok t => .wait t
      | .full p => .full p
      | .down t => .fault t
  else
    match s.ethTo (m.sp == 3) m.addr with
    | .none | .failed => .fault s
    | .self => localSent (s.target (0x8000 + rPeer m.addr) { msg with tctx := ctx } true true)
    | .to _ h =>
      let p := s.packet ctx h m.addr m.len (m.data.getD [])
      let p := match m.flag with | some f => { p with args := bytesOfLE 8 f.toNat } | none => p
      .wait (s.ethSend p ctx own (op == 2))

/-- Data that have arrived for a remote read, by address. -/
def Run.receive (r : Run) (addr : Word) (bs : List Byte) : Run := { r with recv := r.recv.writeBytes addr.toNat bs }
def pairUp : List Nat → List (Int × Int)
  | a :: b :: r => ((a : Int), (b : Int)) :: pairUp r
  | _ => []
/-- The transfers of an issue that reads remotely, as it named them. -/
def Run.transfers (r : Run) (k : Nat) : List (Int × Int) := match tblGet r.stage k with | some (_, l) => pairUp l | none => []
def Run.setTransfers (r : Run) (k : Nat) (ts : List (Int × Int)) : Run :=
  { r with stage := tblSet r.stage k (0, (ts.map (fun t => [t.1.toNat, t.2.toNat])).flatten) }

/-- Every message of an issue is answered and every byte of it is here: its elements go to D, or on to a remote D. -/
def State.cxArrive (s : State) (r : Run) (core ch k : Nat) : Eng' (Iss × Run) := do
  let q := r.q
  let f := q.opD.fmt 6
  let whole := cxWhole q k
  let codes (i : Int) : Eng' Nat := do let (a, _, _) ← remotePiece q.opA i; return r.recv.readLE a.toNat 24
  let vs ← (if whole then .ok [] else (r.transfers k).mapM (fun t => do
    let (v, e) ← fetchedAs s q r.recv t.1 f
    return ((t.2, v), e)) : Eng' (List ((Int × Nat) × List Nat)))
  let evs := (vs.map (·.2)).flatten
  let r := { r with stage := tblErase r.stage k, recv := [] }
  if q.opD.remote = 0 then
    let x : Iss := { s := s, blk := r.blk, evs := evs,
                     cov := s.covered q ((if whole then cxBlocks q k else []).map (fun t => q.opD.runs 7 t.2)).flatten }
    if whole then
      let x ← (cxBlocks q k).foldlM (fun (x : Iss) t => do
        let s ← (x.s.scrub x.cov).setBlockAt q q.opD t.2 (← codes t.1)
        return { x with s := s }) x
      return (x, r)
    else return (← x.putAll q q.opD f (rRound q.r) (rSat q.r) (vs.map (·.1)), r)
  else
    let (ps, e) ← (if whole then do
        let l ← (cxBlocks q k).mapM (fun t => do
          let (a, _, _) ← remotePiece q.opD t.2
          return (a, bytesOfLE 24 (← codes t.1)))
        return (l, [])
      else remoteOut q.opD (vs.map (·.1)) : Eng' (List (Word × List Byte) × List Nat))
    let ms := writesTo q.opD.remote 4096 none ps
    let (s, r) ← (ms.zipIdx).foldlM (fun (s, (r : Run)) (m, i) =>
      match State.cxSend s q.ctx (.record core ch q.serial k (2 ^ 20 + i)) m with
      | .wait t => .ok (t, { r with pend := r.pend ++ [(k, 2 ^ 20 + i)] })
      | .now t _ => .ok (t, r)
      | _ => engF) (s, r)
    return ({ s := s, blk := r.blk, evs := evs ++ e }, r)

end Sys2Proof.Machine
end

