-- ==== Sys2Proof/Machine/Settle.lean ====
section
/-! DEFINITION. What the answer of a remote operation does here: to a store or load of a sequencer (R236, R238, R262, R368),
to a record (R186, R187), to a triggered operation (R321, R322). -/

namespace Sys2Proof.Machine

-- The task of a store.

/-- Change one sequencer of a task, whether it is in a slot or saved. -/
def State.atTask (s : State) (uid : Nat) (x : Bool) (f : Seq → Seq) : State :=
  match s.slots.find? (fun e => match e.2.task with | some t => t.uid == uid | none => false) with
  | some (k, _) => let r : SeqRef := { slot := k, x := x }; s.setSeq r (f (s.seq r))
  | none =>
    let fix (v : SavedSlot) : SavedSlot :=
      match v.slot.task with
      | some t => if t.uid == uid then (if x then { v with x := f v.x } else { v with a := f v.a }) else v
      | none => v
    { s with ctxs := s.ctxs.map (fun e => (e.1, { e.2 with savedSlots := e.2.savedSlots.map fix })) }
/-- An asynchronous PROT for a task: at its slot, or held where it is saved. -/
def State.postTask (s : State) (uid : Nat) (x : Bool) (addr : Word) : State :=
  match s.slots.find? (fun e => match e.2.task with | some t => t.uid == uid | none => false) with
  | some (k, _) => s.post { slot := k, x := x } 5 addr
  | none => s.atTask uid x (fun q => { q with held := q.held ++ [{ code := 5, eval := addr }] })

-- Loads that block a sequencer.

def amoAddr (q : Seq) (f : AmoFields) : Word := q.s f.base + f.disp.signExtend 64
/-- The remote address that a blocked instruction reads. -/
def waitAddr (q : Seq) : Instr → Word
  | .ldf _ m | .ldn _ m | .ldh _ m => effAddr q m
  | .amo _ _ f | .amoCas _ f _ | .amoClaim _ f _ => amoAddr q f
  | .poll _ _ _ _ _ a _ => q.s a
  | _ => 0
/-- The value has come. -/
def State.loadDone (s : State) (v : Nat) : State :=
  let w := BitVec.ofNat 64 v
  match s.q.wait with
  | some { ins := .ldf _ m, .. } | some { ins := .ldn _ m, .. } | some { ins := .ldh _ m, .. } => s.ret m.data w
  | some { ins := .amo _ _ f, .. } | some { ins := .amoCas _ f _, .. } | some { ins := .amoClaim _ f _, .. } => s.ret f.data w
  | some { ins := .poll _ _ _ _ d _ _, .. } => (s.spinClear s.cur.slot).ret d w
  | _ => s
/-- Instructions that await the answer of a remote read. -/
def readsRemote : Instr → Bool
  | .ldf .. | .ldn .. | .ldh .. | .amo .. | .amoCas .. | .amoClaim .. | .poll .. => true
  | _ => false
/-- The sequencer awaits the answer with this token, and no cause is due that ends its wait first (R305). -/
def State.awaits (s : State) (q : SeqRef) (tok : Nat) : Bool :=
  match s.waiting q with | some w => w.tok == tok && readsRemote w.ins | none => false

-- Records.

/-- Change the record that a channel runs, if it is still the one. -/
def State.atRun (s : State) (core ch serial : Nat) (f : Run → State × Run) : State :=
  match tblGet (s.core core).ch ch with
  | some r =>
    if r.q.serial = serial && !r.done then
      let (s, r) := f r
      let c := s.core core
      s.setCore core { c with ch := tblSet c.ch ch r }
    else s
  | none => s
/-- A record all of whose issues are performed and answered is done (R182, R186). -/
def State.cxFinish (s : State) (r : Run) : State × Run :=
  if !r.done && r.next == rIssues r.q.r && r.pend.isEmpty then (s.fxAll r.q.ctx (blockEvents r.blk), { r with done := true })
  else (s, r)
/-- A fault of a given issue. -/
def State.faultedAt (s : State) (r : Run) (issue cause : Nat) (eval : Word) : State × Run :=
  let (s, r') := s.faulted { r with next := issue } cause eval
  (s, { r' with next := r.next })

/-- A message of a record that comes after another one of it, in the order of its elements. -/
def Owner.after (own : Owner) (core ch serial issue off : Nat) : Bool :=
  match own with
  | .record c h n i o => c == core && h == ch && n == serial && (decide (issue < i) || (i == issue && decide (off < o)))
  | _ => false
/-- What a faulted record has queued behind the faulting message and not yet sent is dropped: no later element is written (R187). A
message that has left has its MSN or its packet on the line, and is not called back. -/
def State.dropAfter (s : State) (core ch serial issue off : Nat) : State :=
  let keep (l : List OutMsg) : List OutMsg := l.filter (fun o => !o.own.after core ch serial issue off)
  let queues (p : Port) : Tbl (List OutMsg) := p.queues.filterMap (fun e => let l := keep e.2; if l.isEmpty then none else some (e.1, l))
  let conn (c : Conn) : Conn := { c with held := c.held.filterMap (fun h => let l := keep h.msgs; if l.isEmpty && !h.probing then none else some { h with msgs := l }) }
  { s with
    fab := { s.fab with ports := s.fab.ports.map (fun e => (e.1, { e.2 with queues := queues e.2 }))
                        conns := s.fab.conns.map (fun e => (e.1, conn e.2)) }
    eth := { s.eth with pkts := s.eth.pkts.filter (fun o => o.sent || !o.own.after core ch serial issue off) } }
-- Triggered operations.

def State.atArmed (s : State) (id : Nat) (f : Armed → Armed) : State := s.setArmed (tblModify s.coll.armed id f)

-- Answers.

/-- A message has its answer: data for a read, nothing for a write. None: what it writes waits for a stack. -/
def State.settleOk (s : State) (own : Owner) (addr : Word) (data : List Byte) : Option State :=
  match own with
  | .store .. | .none => some s
  | .load q tok => some (if s.awaits q tok then (s.asSeq q).loadDone (leOfBytes data) else s)
  | .trig id => some (s.atArmed id (fun a => { a with pend := a.pend - 1 }))
  | .record core ch serial issue off =>
    match tblGet (s.core core).ch ch with
    | none => some s
    | some r =>
      if r.q.serial != serial || r.done then some s else
      let r := { r with pend := r.pend.erase (issue, off) }.receive addr data
      let whole := !(r.pend.any (fun p => p.1 == issue)) && (tblGet r.stage issue).isSome && issue < r.next
      if !whole then some (s.atRun core ch serial (fun _ => s.cxFinish r))
      else match s.cxArrive r core ch issue with
        | .error .stall => none
        | .error (.fault c v) => some (s.atRun core ch serial (fun _ => s.faultedAt r issue c v))
        | .ok (x, r) => some (s.atRun core ch serial (fun _ => (x.s.fxAll r.q.ctx x.evs).cxFinish { r with blk := x.blk }))

/-- A message has drawn a final NACK, or its target is lost: which one, and whether it is an Ethernet target. -/
def State.settleBad (s : State) (own : Owner) (addr : Word) (lost : Option (Bool × Nat)) : State :=
  match own with
  | .none => s
  | .store uid x _ =>
    let s := match lost with
      | some t => s.atTask uid x (fun q => if q.failed.contains t then q else { q with failed := q.failed ++ [t] })
      | none => s
    s.postTask uid x addr
  | .load q tok =>
    if s.awaits q tok then
      let v := s.seq q
      let amo := match v.wait with
        | some { ins := .amo .., .. } | some { ins := .amoCas .., .. } | some { ins := .amoClaim .., .. } => true
        | _ => false
      let s := match lost with
        | some t => if amo && !v.failed.contains t then s.setSeq q { v with failed := v.failed ++ [t] } else s
        | none => s
      let s := (s.asSeq q)
      let s := if (match s.q.wait with | some { ins := .poll .., .. } => true | _ => false) then s.spinAccrue q.slot else s
      s.trap (prot addr)
    else s
  | .trig id =>
    let cause := if lost.isSome then 1 else 2
    s.atArmed id (fun a => { a with pend := a.pend - 1, cause := if a.cause = 0 then cause else a.cause
                                    peer := match lost with | some t => lostPeer t | none => a.peer })
  | .record core ch serial issue off =>
    (s.atRun core ch serial (fun r => s.faultedAt r issue 0x0A 0)).dropAfter core ch serial issue off

end Sys2Proof.Machine
end

