-- ==== Sys2Proof/Machine/Memops.lean ====
section
/-! DEFINITION. Scalar loads and stores of every space (R111, R178, R262, R368), atomics (R237), POLL (R238), FENCE and FENCE.E
(R234 to R236), and the handle instructions (R166 to R169). -/

namespace Sys2Proof.Machine

/-- The bytes that a store takes from s[data]. -/
def State.storeVal (s : State) (m : MemOp) : Nat := (s.q.s m.data).toNat % 2 ^ (8 * wBytes m.width)
/-- The address of an access, checked for alignment (R111). -/
def State.atAddr (s : State) (a : Word) (n : Nat) (f : State → State) : State :=
  if aligned a n then f s else s.trap (alignT a)
def State.waitsIn (s : State) (i : Instr) : Bool := match s.q.wait with | some w => w.ins == i | none => false
/-- The instruction awaits an answer with this token. -/
def State.await (s : State) (i : Instr) (tok : Nat) : State :=
  let w : Wait := match s.q.wait with
    | some w => if w.ins == i then { ins := i, tok := tok, fin := w.fin, since := w.since, seen := w.seen, upto := w.upto }
                else { ins := i, tok := tok, since := s.now }
    | none => { ins := i, tok := tok, since := s.now }
  s.setQ { s.q with wait := some w }

-- Scratchpad and DS.

/-- LDSP (R111); a read of the A sequencer that meets a pending X write is counted, and under STRICT it stalls before it reads, so that
it takes what that write leaves (R112, R113). A stalled LDSP that a trap or a pre-emption ends, and that executes anew, is counted
again: whether it is still one read of the stream the spec does not say (DESIGN CHOICE, log 33). -/
def State.ldspDo (s : State) (g : Guard) (m : MemOp) : State :=
  let a := effAddr s.q m
  let n := wBytes m.width
  let k := s.cur.slot
  s.atAddr a n fun s =>
    s.accept (s.spAt k a) fun (b, off) =>
      let pending := !s.cur.x && s.meets k [(b, off, n)]
      let count (s : State) : State := if pending && !s.waitsIn (.ldsp g m) then s.hazard k else s
      if pending && s.q.strict then (count s).block (.ldsp g m)
      else s.accept (s.loadSp k a n) fun v => (count s).ret m.data (BitVec.ofNat 64 v)
def execLdsp (g : Guard) (m : MemOp) (s : State) : Host.Outcome State Fault Refusal := s.guarded g fun s => s.ldspDo g m
def execStsp (g : Guard) (m : MemOp) (s : State) : Host.Outcome State Fault Refusal :=
  s.guarded g fun s =>
    let a := effAddr s.q m
    s.atAddr a (wBytes m.width) fun s => s.accept (s.storeSp s.cur.slot a (wBytes m.width) (s.storeVal m)) State.go
def execLdds (g : Guard) (m : MemOp) (s : State) : Host.Outcome State Fault Refusal :=
  s.guarded g fun s =>
    let a := effAddr s.q m
    s.atAddr a (wBytes m.width) fun s =>
      s.accept (s.loadDs s.cur.slot a (wBytes m.width)) fun v => s.ret m.data (BitVec.ofNat 64 v)
def execStds (g : Guard) (m : MemOp) (s : State) : Host.Outcome State Fault Refusal :=
  s.guarded g fun s =>
    let a := effAddr s.q m
    s.atAddr a (wBytes m.width) fun s => s.accept (s.storeDs s.cur.slot a (wBytes m.width) (s.storeVal m)) State.go

-- G.

def execLdg (g : Guard) (m : MemOp) (s : State) : Host.Outcome State Fault Refusal :=
  s.guarded g fun s =>
    let a := effAddr s.q m
    s.atAddr a (wBytes m.width) fun s =>
      s.accept (s.loadG s.cx a (wBytes m.width)) fun (v, s) => s.ret m.data (BitVec.ofNat 64 v)
def execStg (g : Guard) (m : MemOp) (s : State) : Host.Outcome State Fault Refusal :=
  s.guarded g fun s =>
    let a := effAddr s.q m
    s.atAddr a (wBytes m.width) fun s => s.accept (s.storeG s.cx a (wBytes m.width) (s.storeVal m)) State.go

-- Remote loads and stores.

/-- The sequencer stalls before its message is queued; a stall for want of room is counted once (R271). -/
def State.stallAt (s : State) (i : Instr) (port : Option Nat) : State :=
  let s := if s.waitsIn i then s else match port with | some p => s.qstall p | none => s
  s.await i 0
/-- The POLL that waits is held at its target in this package: it has been accepted (R181). -/
def State.markHeld (s : State) : State := s.setQ { s.q with wait := s.q.wait.map (fun w => { w with fin := 1 }) }
def State.isHeld (s : State) (i : Instr) : Bool := match s.q.wait with | some w => w.ins == i && w.fin == 1 | none => false
/-- What an access served within the package gives at once (R257, R364): a load that draws a final NACK traps precisely. -/
def State.served (s : State) (i : Instr) (a : Word) (r : Option (State × Ans)) (f : State → Nat → State) : State :=
  match r with
  | none => s.stallAt i none
  | some (t, .ack) => f t 0
  | some (t, .data bs) => f t (leOfBytes bs)
  | some (t, .hold) => (t.await i 0).markHeld
  | some (t, .nack e) => if e = nStashFull then s.stallAt i none else t.trap (prot a)
/-- A store served within the package: complete, and a final NACK traps PROT at the next boundary (R262, R368). -/
def State.servedStore (s : State) (i : Instr) (a : Word) (r : Option (State × Ans)) : State :=
  match r with
  | some (t, .nack e) => if e = nStashFull then s.stallAt i none else t.go.post t.cur 5 a
  | r => s.served i a r (fun s _ => s.go)
/-- Send a request to F and await its answer (R237, R238, R262). -/
def State.askF (s : State) (i : Instr) (op : Nat) (a : Word) (n : Nat) (args : List Byte) (f : State → Nat → State) : State :=
  let m := s.request s.cx op a n args []
  if rPeer a = s.pkgId then s.served i a (s.target s.pkgId m false true (s.isHeld i)) f
  else
    let tok := s.serial
    match { s with serial := s.serial + 1 }.fabSend m s.cx (.load s.cur tok) with
    | .ok t => t.await i tok
    | .full p => s.stallAt i (some p)
    | .down t => t.trap (prot a)
def State.ret' (d : SReg) (s : State) (v : Nat) : State := s.ret d (BitVec.ofNat 64 v)
def execLdf (g : Guard) (m : MemOp) (s : State) : Host.Outcome State Fault Refusal :=
  s.guarded g fun s =>
    let a := effAddr s.q m
    s.atAddr a (wBytes m.width) fun s => s.askF (.ldf g m) 2 a (wBytes m.width) (List.replicate 32 0) (State.ret' m.data)
/-- The task's own number, which its stores carry. -/
def State.uid (s : State) : Nat := match s.sl.task with | some t => t.uid | none => 0
/-- A remote store: complete once its message is queued (R262). -/
def State.putF (s : State) (i : Instr) (a : Word) (n v : Nat) (flag : Option Word) : State :=
  let m := s.request s.cx 1 a n [] (bytesOfLE n v) flag
  if rPeer a = s.pkgId then s.servedStore i a (s.target s.pkgId m false true)
  else
    match s.fabSend m s.cx (.store s.uid s.cur.x a) with
    | .ok t => t.go
    | .full p => s.stallAt i (some p)
    | .down t => t.trap (prot a)
def execStf (g : Guard) (m : MemOp) (s : State) : Host.Outcome State Fault Refusal :=
  s.guarded g fun s =>
    let a := effAddr s.q m
    s.atAddr a (wBytes m.width) fun s => s.putF (.stf g m) a (wBytes m.width) (s.storeVal m) none
/-- The flag form: the index field names the scalar that holds the flag's address (R262). -/
def execStfFlag (g : Guard) (m : MemOp) (s : State) : Host.Outcome State Fault Refusal :=
  s.guarded g fun s =>
    let a := s.q.s m.base + m.disp.signExtend 64
    let fa := s.q.s m.index
    s.atAddr a (wBytes m.width) fun s => s.atAddr fa 8 fun s =>
      if rPeer fa != rPeer a then s.trap (prot fa)
      else s.putF (.stfFlag g m) a (wBytes m.width) (s.storeVal m) (some fa)
def State.askEth (s : State) (i : Instr) (host : Bool) (a : Word) (n : Nat) (d : SReg) : State :=
  match s.ethTo host a with
  | .none | .failed => s.trap (prot a)
  | .self => s.served i a (s.target (0x8000 + rPeer a) { s.request s.cx 2 a n [] [] with tctx := s.cx } true true) (State.ret' d)
  | .to _ h =>
    let tok := s.serial
    ({ s with serial := s.serial + 1 }.ethSend (s.packet s.cx h a n []) s.cx (.load s.cur tok) true).await i tok
def State.putEth (s : State) (i : Instr) (host : Bool) (a : Word) (n v : Nat) : State :=
  match s.ethTo host a with
  | .none | .failed => s.trap (prot a)
  | .self =>
    s.servedStore i a (s.target (0x8000 + rPeer a) { s.request s.cx 1 a n [] (bytesOfLE n v) with tctx := s.cx } true true)
  | .to _ h => (s.ethSend (s.packet s.cx h a n (bytesOfLE n v)) s.cx (.store s.uid s.cur.x a) false).go
def execLdn (g : Guard) (m : MemOp) (s : State) : Host.Outcome State Fault Refusal :=
  s.guarded g fun s =>
    let a := effAddr s.q m
    s.atAddr a (wBytes m.width) fun s => s.askEth (.ldn g m) false a (wBytes m.width) m.data
def execLdh (g : Guard) (m : MemOp) (s : State) : Host.Outcome State Fault Refusal :=
  s.guarded g fun s =>
    let a := effAddr s.q m
    s.atAddr a (wBytes m.width) fun s => s.askEth (.ldh g m) true a (wBytes m.width) m.data
def execStn (g : Guard) (m : MemOp) (s : State) : Host.Outcome State Fault Refusal :=
  s.guarded g fun s =>
    let a := effAddr s.q m
    s.atAddr a (wBytes m.width) fun s => s.putEth (.stn g m) false a (wBytes m.width) (s.storeVal m)
def execSth (g : Guard) (m : MemOp) (s : State) : Host.Outcome State Fault Refusal :=
  s.guarded g fun s =>
    let a := effAddr s.q m
    s.atAddr a (wBytes m.width) fun s => s.putEth (.sth g m) true a (wBytes m.width) (s.storeVal m)

-- Atomics.

def amoCode : AmoOp → Nat
  | .add => 0 | .and => 1 | .or => 2 | .xor => 3 | .min => 4 | .max => 5 | .minu => 6 | .maxu => 7 | .swap => 8
/-- An atomic on G: one action, its bytes counted once (R178, R237). -/
def State.amoG (s : State) (ctx : Nat) (a : Word) (n op x y : Nat) : Acc (Nat × State) :=
  (s.translate ctx a .rw).bind fun l =>
  (s.hbmGuard l.pa n false).bind fun _ =>
    let key := s.keyVal l.key
    let bs := s.readHbm l.pa n key
    let (new, ret) := amoDo op n (leOfBytes bs) x y
    let s := match new with | some v => s.writeHbm l.pa (bytesOfLE n v) key | none => s
    .ok (ret, s.chargeT s.cur.slot ctx 4 0 n)
def State.amoDs (s : State) (k : Nat) (a : Word) (n op x y : Nat) : Acc (Nat × State) :=
  (s.loadDs k a n).bind fun old =>
    let (new, ret) := amoDo op n old x y
    match new with
    | some v => (s.storeDs k a n v).bind fun s => .ok (ret, s)
    | none => .ok (ret, s)
/-- The AMO group (R237): `y` is the comparand or the limit. -/
def State.amoDoIt (s : State) (i : Instr) (f : AmoFields) (op : Nat) (y : Word) : State :=
  let a := amoAddr s.q f
  let n := if f.wide then 8 else 4
  let x := (s.q.s f.data).toNat
  s.atAddr a n fun s =>
    match f.space with
    | .ds => s.accept (s.amoDs s.cur.slot a n op x y.toNat) fun (v, s) => s.ret f.data (BitVec.ofNat 64 v)
    | .g => s.accept (s.amoG s.cx a n op x y.toNat) fun (v, s) => s.ret f.data (BitVec.ofNat 64 v)
    | .f => s.askF i 4 a n (accessArgs op n x y.toNat) (State.ret' f.data)
def execAmo (g : Guard) (op : AmoOp) (f : AmoFields) (s : State) : Host.Outcome State Fault Refusal :=
  s.guarded g fun s => s.amoDoIt (.amo g op f) f (amoCode op) 0
def execAmoCas (g : Guard) (f : AmoFields) (cmp : SReg) (s : State) : Host.Outcome State Fault Refusal :=
  s.guarded g fun s => s.amoDoIt (.amoCas g f cmp) f 9 (s.q.s cmp)
def execAmoClaim (g : Guard) (f : AmoFields) (lim : SReg) (s : State) : Host.Outcome State Fault Refusal :=
  s.guarded g fun s => s.amoDoIt (.amoClaim g f lim) f 10 (s.q.s lim)

-- POLL.

def pollCode : PCond → Nat
  | .eq => 0 | .ne => 1 | .geu => 2 | .ltu => 3
/-- A POLL passes: the cycles waited are counted first, then the penalty is cleared (R238, R294). -/
def State.pollPassed (d : SReg) (s : State) (v : Nat) : State :=
  (s.spinClear s.cur.slot).ret d (BitVec.ofNat 64 v)
/-- POLL from its start (R238); the cycles waited until now are counted. -/
def State.pollDo (s : State) (g : Guard) (cc : PCond) (sp : ASpace) (wide : Bool) (d a b : SReg) : State :=
  let i : Instr := .poll g cc sp wide d a b
  let addr := s.q.s a
  let n := if wide then 8 else 4
  let y := (s.q.s b).toNat
  let got (s : State) (v : Nat) : State :=
    if pollHolds (pollCode cc) n v y then State.pollPassed d s v else s.block i
  s.atAddr addr n fun s =>
    match sp with
    | .ds => s.accept (s.loadDs s.cur.slot addr n) fun v => got s v
    | .g => s.accept (s.loadG s.cx addr n) fun (v, t) => got t v
    | .f => s.askF i 5 addr n (accessArgs (pollCode cc) n y 0) (State.pollPassed d)
def execPoll (g : Guard) (cc : PCond) (sp : ASpace) (wide : Bool) (d a b : SReg) (s : State) :
    Host.Outcome State Fault Refusal := s.guarded g fun s => (s.spinAccrue s.cur.slot).pollDo g cc sp wide d a b
/-- The device reads again; a remote POLL that has been sent awaits its answer. -/
def execPollPass (q : SeqRef) (s : State) : Host.Outcome State Fault Refusal :=
  match s.waiting q with
  | some { ins := .poll g cc sp wide d a b, tok := 0, .. } => .next (((s.asSeq q).spinAccrue q.slot).pollDo g cc sp wide d a b)
  | _ => .next s

-- FENCE.

/-- Does a remote store of a task's sequencer still await its acknowledgement: in the fabric, or in Ethernet? -/
def storeOf (uid : Nat) (x : Bool) : Owner → Bool
  | .store u y _ => u == uid && y == x
  | _ => false
def State.fabPending (s : State) (uid : Nat) (x : Bool) : Bool :=
  s.fab.conns.any (fun e => (e.2.out ++ (e.2.held.map Hold.msgs).flatten).any (fun o => storeOf uid x o.own))
  || s.fab.ports.any (fun e => e.2.queues.any (fun q => q.2.any (fun o => storeOf uid x o.own)))
def State.ethPending (s : State) (uid : Nat) (x : Bool) : Bool := s.eth.pkts.any (fun o => storeOf uid x o.own)
/-- The status of a FENCE (R236): the distinct failed targets, the lowest of them, and CODE. -/
def fenceStatus (failed : List (Bool × Nat)) : Word :=
  match failed with
  | [] => 0
  | f :: r =>
    let low := r.foldl (fun (b : Bool × Nat) x =>
      if lostPeer x < lostPeer b || (lostPeer x == lostPeer b && !x.1) then x else b) f
    BitVec.ofNat 64 (bitIf low.1 32 + Nat.min 4095 failed.length * 2 ^ 20 + lostPeer low * 2 ^ 8 + 1)
/-- Is a failed target one that a FENCE of this scope reports (R236)? -/
def fenceSees (sc : Nat) (t : Bool × Nat) : Bool := sc == 4 || (sc == 3 && !t.1)
/-- FENCE from its start (R234). A store or AMO to a failed target counts as outstanding until a FENCE has reported it. -/
def State.fenceDo (s : State) (g : Guard) (d : SReg) (scope : BitVec 3) : State :=
  let sc := scope.toNat
  let wait := (3 ≤ sc && s.fabPending s.uid s.cur.x) || (sc == 4 && s.ethPending s.uid s.cur.x)
  if wait then s.block (.fence g d scope)
  else
    let told := s.q.failed.filter (fenceSees sc)
    (s.setQ { s.q with failed := s.q.failed.filter (fun t => !fenceSees sc t) }).ret d (fenceStatus told)
def execFence (g : Guard) (d : SReg) (scope : BitVec 3) (s : State) : Host.Outcome State Fault Refusal :=
  s.guarded g fun s => s.fenceDo g d scope
def execFenceComplete (q : SeqRef) (s : State) : Host.Outcome State Fault Refusal :=
  match s.waiting q with
  | some { ins := .fence g d scope, .. } => .next ((s.asSeq q).fenceDo g d scope)
  | _ => .next s
/-- Records of the slot that FENCE.E awaits: those whose signal, of a local scope, has been applied before their acknowledgements
are none of them (R186, R235). -/
def State.openRecords (s : State) (slot : Nat) : List QRec :=
  let t := s.slot slot
  t.qmx ++ t.qvx ++ t.qcx ++ t.qae
    ++ ([t.rmx, t.rvx, t.rae].filterMap id ++ t.landing ++ ((s.channelsOf slot).map (·.2)).filter (fun r => !r.sigDone)).map Run.q
/-- FENCE.E from its start (R235): 2 where a record that this sequencer enqueued has faulted. -/
def State.fenceEDo (s : State) (g : Guard) (d : SReg) : State :=
  if (s.openRecords s.cur.slot).any (fun r => r.who == s.cur) then s.block (.fenceE g d)
  else s.ret d (if s.q.recFault then 2 else 0)
def execFenceE (g : Guard) (d : SReg) (s : State) : Host.Outcome State Fault Refusal :=
  s.guarded g fun s => s.fenceEDo g d
def execFenceEComplete (q : SeqRef) (s : State) : Host.Outcome State Fault Refusal :=
  match s.waiting q with
  | some { ins := .fenceE g d, .. } => .next ((s.asSeq q).fenceEDo g d)
  | _ => .next s

-- Handles.

def execHld (g : Guard) (d : HReg) (a : SReg) (spc : HSpace) (s : State) : Host.Outcome State Fault Refusal :=
  s.guarded g fun s =>
    let addr := s.q.s a
    let put (s : State) (v : Nat) : State := (s.setQ (s.q.setH d (BitVec.ofNat 256 v))).go
    s.atAddr addr 32 fun s =>
      match spc with
      | .g => s.accept (s.loadG s.cx addr 32) fun (v, s) => put s v
      | .ds => s.accept (s.loadDs s.cur.slot addr 32) fun v => put s v
      | .sp => s.accept (s.loadSp s.cur.slot addr 32) fun v => put s v
def execHst (g : Guard) (d : HReg) (a : SReg) (spc : HSpace) (s : State) : Host.Outcome State Fault Refusal :=
  s.guarded g fun s =>
    let addr := s.q.s a
    let v := (s.q.h d).toNat
    s.atAddr addr 32 fun s =>
      match spc with
      | .g => s.accept (s.storeG s.cx addr 32 v) State.go
      | .ds => s.accept (s.storeDs s.cur.slot addr 32 v) State.go
      | .sp => s.accept (s.storeSp s.cur.slot addr 32 v) State.go

/-- Where a field of a handle lies: its lowest bit and its width (R37, R46, R167). -/
def hField (f : Nat) : Nat × Nat :=
  match f with
  | 0 => (0, 64) | 1 => (64, 4) | 2 => (68, 4) | 3 => (72, 4) | 4 => (76, 4)
  | 5 => (96, 16) | 6 => (112, 16) | 7 => (128, 16) | 8 => (144, 16)
  | 9 => (160, 32) | 10 => (192, 32) | _ => (224, 32)
def hGetField (h : BitVec 256) (f : Nat) : Word :=
  let (lo, n) := hField f
  BitVec.ofNat 64 (h.toNat / 2 ^ lo % 2 ^ n)
def hSetField (h : BitVec 256) (f : Nat) (v : Word) : BitVec 256 :=
  let (lo, n) := hField f
  let mask : BitVec 256 := BitVec.ofNat 256 ((2 ^ n - 1) * 2 ^ lo)
  (h &&& ~~~mask) ||| BitVec.ofNat 256 (v.toNat % 2 ^ n * 2 ^ lo)
def execHset (g : Guard) (d : HReg) (a : SReg) (fld : BitVec 6) (s : State) : Host.Outcome State Fault Refusal :=
  s.guarded g fun s => (s.setQ (s.q.setH d (hSetField (s.q.h d) fld.toNat (s.q.s a)))).go
def execHget (g : Guard) (d : SReg) (a : HReg) (fld : BitVec 6) (s : State) : Host.Outcome State Fault Refusal :=
  s.guarded g fun s => s.ret d (hGetField (s.q.h a) fld.toNat)
/-- HOFF (R168). -/
def execHoff (g : Guard) (d : HReg) (a : SReg) (s : State) : Host.Outcome State Fault Refusal :=
  s.guarded g fun s =>
    let h := s.q.h d
    let k := (s.q.s a).toInt
    let move (by_ : Int) : State := (s.setQ (s.q.setH d (hSetField h 0 (hBase h + BitVec.ofInt 64 by_)))).go
    if 0xA < hFmt h then s.ill 4
    else if hFmt h = 7 then (if k % 32 != 0 then s.trap (alignT (hBase h)) else move (24 * (k / 32)))
    else move (fmtSize (hFmt h) * k)
/-- HXL (R169). -/
def execHxl (g : Guard) (d : SReg) (a : HReg) (b : SReg) (s : State) : Host.Outcome State Fault Refusal :=
  s.guarded g fun s =>
    let h := s.q.h a
    let j := s.q.s b
    if !handleOk h then s.ill 4
    else match hPos h j.toNat with
      | none => s.trap (prot j)
      | some x => s.ret d (BitVec.ofNat 64 (elemByte (hFmt h) (hBase h).toNat x))

end Sys2Proof.Machine
end

