-- ==== Sys2Proof/Machine/Check.lean ====
section
/-! DEFINITION. What an enqueue checks in a record before it is queued (R52, checks 7 to 11): op maps (R49 to R51), operands
and reserved fields (R40 to R42, R48), and the conditions of each engine (R125 to R144, R150 to R163, R183 to R188, R336, R345);
and what it captures (R43, R104, R125, R159, R335). -/

namespace Sys2Proof.Machine

/-- Conditions in the order in which they are tested: one that holds is a failure, with its trap. -/
abbrev Checks := List (Bool × Trp)
def firstFailure (l : Checks) : Option Trp := (l.find? (fun e => e.1)).map (fun e => e.2)
/-- ILL, RECORD with the record word that failed (R53). -/
def recordT (w : Nat) : Trp := { code := 1, eval := BitVec.ofNat 64 (8 + 256 * w) }
def engineOpT : Trp := { code := 1, eval := 7 }
def scopeT : Trp := { code := 8, eval := 0 }
/-- The first record word of descriptor D, A, B or C, which R52 reports for an invalid handle. A descriptor whose reserved bits,
use or offset fail reports it too, also where the failing bits stand in its next word: R53 names no word for those (DESIGN
CHOICE, log 32). -/
def descWord (i : Nat) : Nat := match i with | 0 => 2 | 1 => 3 | 2 => 4 | _ => 6
def engOf : Nat → Eng
  | 0 => .mx | 1 => .vx | 2 => .cx | _ => .ae
def engCode : Eng → Nat
  | .mx => 0 | .vx => 1 | .cx => 2 | .ae => 3

/-- Check 7 (R49, R50). -/
def opAssigned (r : BitVec 512) : Bool :=
  match rEng r with
  | 0 => (match rOp r with
    | 1 | 2 => decide (rVar r ≤ 1) | 3 | 4 | 6 => rVar r == 0 | 5 => decide (rVar r ≤ 2) | _ => false)
  | 1 => (vSpec (rOp r)).isSome && (rVar r == 0 || (rOp r == 0x21 && decide (rVar r ≤ 3)))
  | 2 => decide (1 ≤ rOp r) && decide (rOp r ≤ 9) && rVar r == 0
  | 3 => (rOp r == 1 || rOp r == 2) && rVar r == 0
  | _ => false

/-- The handle that a handle-indirect descriptor names. -/
def dHandle (d : BitVec 88) : HReg := d.extractLsb' 15 5
/-- Check 8, second stage, on one descriptor. -/
def State.descReach (s : State) (r : BitVec 512) (i : Nat) : Checks :=
  let d := descI r i
  [(dSpace d == 0xD && !handleOk (s.q.h (dHandle d)), recordT (descWord i)),
   (decide (dSpace d ≤ 0xB) && !s.hasBank s.cur.slot (dSpace d), prot (BitVec.ofNat 64 (dSpace d * 2 ^ 18 + dOff d % 2 ^ 18)))]
/-- Reserved bits of a descriptor (R40). -/
def descReserved (d : BitVec 88) : Bool :=
  let sp := dSpace d; let o := dOff d
  if sp ≤ 0xB then decide (2 ^ 18 ≤ o)
  else if sp = 0xE then (if 2 ^ 19 ≤ o then decide (64 ≤ o % 2 ^ 19) else o != 0)
  else if sp = 0xF then d != dNone
  else false

/-- Replace a scalar immediate by its value (R43). -/
def takeScalar (q : Seq) (d : BitVec 88) : BitVec 88 :=
  if dSpace d = 0xE && decide (2 ^ 19 ≤ dOff d) then
    BitVec.ofNat 88 ((q.s (d.extractLsb' 0 6)).toNat * 2 ^ 24 + 0xE00000)
  else d
def putDescs (r : BitVec 512) (d a b c : BitVec 88) : BitVec 512 :=
  (rMod r ++ c ++ b ++ a ++ d ++ r.extractLsb' 0 128).cast (by decide)
/-- The record as an enqueue captures it (R43, R104, R125, R335). -/
def State.capture (s : State) (r : BitVec 512) : QRec :=
  let q := s.q; let t := s.sl
  let h (d : BitVec 88) : BitVec 256 := if dSpace d = 0xD then q.h (dHandle d) else 0
  let named := (descs r).map dSpace
  let fmts := match s.grp t.grpOf with | some g => g.bfmt.filter (fun e => named.contains e.1) | none => []
  { r := putDescs r (takeScalar q (descD r)) (takeScalar q (descA r)) (takeScalar q (descB r)) (takeScalar q (descC r))
    who := s.cur, serial := s.serial, ctx := s.cx, grp := t.grpOf
    hD := h (descD r), hA := h (descA r), hB := h (descB r), hC := h (descC r)
    bfmt := fmts
    vshape := if rEng r = 1 then t.vshape else 0
    aeeps := if rEng r = 3 then t.aeeps else 0
    aemax := if rEng r = 3 then t.aemax else 0
    aeres := if rEng r = 3 then t.aeres else 0 }

-- Conditions that the engines share.

def Opd.isMem : Opd → Bool
  | .bank .. | .hnd .. => true | _ => false
def Opd.isBank : Opd → Bool
  | .bank .. => true | _ => false
def Opd.isImm : Opd → Bool
  | .imm _ => true | _ => false
def Opd.isNone : Opd → Bool
  | .absent => true | _ => false
def Opd.isTile : Opd → Bool
  | .tile _ => true | _ => false
/-- The space of a handle operand is one of these; other operands pass. -/
def Opd.inSpaces (o : Opd) (l : List Nat) : Bool :=
  match o with | .hnd h _ => l.contains (hSpace h) | _ => true
/-- The base offset is a multiple of the element size; `f` for operands without a format of their own (R40, R106). -/
def Opd.divides (o : Opd) (f : Nat) : Bool :=
  match o with
  | .bank _ w off => off % (if bfFmt w = 7 then 24 else Nat.max 1 (fmtSize (bfFmt w))) == 0
  | .tile off => off % Nat.max 1 (fmtSize f) == 0
  | _ => true
/-- A LOG6 handle's extent and strides are multiples of 32 (R165). -/
def Opd.logOk : Opd → Bool
  | .hnd h _ => hLogOk h | _ => true
def QRec.logChecks (q : QRec) : Checks := [0, 1, 2, 3].map (fun i => (!(q.opd i).logOk, recordT (descWord i)))

/-- Check 8, third stage, the conditions of every record (R40, R41, R212). A cache policy of 1 needs an operand in G (R178). -/
def commonChecks (r : BitVec 512) (q : QRec) : Checks :=
  [0, 1, 2, 3].map (fun i => (descReserved (descI r i), recordT (descWord i)))
  ++ [(rSb r && !rNs r && rSinc r != 0, recordT 0),
      (!rNs r && decide (5 ≤ rScope r), recordT 7),
      (let c := rField r 9 2; decide (2 ≤ c) || (c == 1 && ! [0, 1, 2, 3].any (fun i => match q.opd i with
        | .hnd h _ => hSpace h == 0 | _ => false)), recordT 7)]

-- VX (R125, R128 to R144).

def vMode (q : QRec) : Nat := if rOp q.r = 0x46 then vOpx q % 4 else 0
/-- How the record uses a descriptor (R132, R139). -/
def vUse (q : QRec) (sp : VSpec) (i : Nat) : Use :=
  match vMode q, i with
  | 1, 1 => .no
  | 2, 0 => .no
  | _, 0 => sp.d | _, 1 => sp.a | _, 2 => sp.b | _, _ => sp.c
def vUseBad (q : QRec) (sp : VSpec) (i : Nat) : Bool :=
  let o := q.opd i
  match vUse q sp i with
  | .no => descI q.r i != dNone
  | .yes => o.isNone || (i == 0 && o.isImm) || (vRaw q && !(o.isBank || o.isTile))
  | .opt => i == 0 && o.isImm
  | .tile => !o.isTile
  | .mem => !o.isMem
/-- The bits of OPX that an op gives a meaning. -/
def vOpxMask (q : QRec) : Nat :=
  match rOp q.r with
  | 0x23 => if q.opD.isTile then 0x1F else 0
  | 0x31 | 0x32 | 0x33 | 0x34 => 1
  | 0x35 => 3
  | 0x43 => if q.opA.isImm then 0 else 1
  | 0x46 => 3
  | 0x55 => 0x1F
  | 0x56 => 0x1FF
  | _ => 0
def vReduces (q : QRec) : Bool := decide (0x31 ≤ rOp q.r) && decide (rOp q.r ≤ 0x34)
/-- MOD[31:11] of a VX record (R128, R130, R135 to R139). -/
def vModBad (q : QRec) : Bool :=
  let op := rOp q.r; let m := vMode q
  let noMask := op == 0x22 || op == 0x24 || op == 0x42 || m != 0
  decide (12 ≤ vOfmt q) || (vMz q && !vMen q) || (vOpx q &&& vOpxMask q) != vOpx q || m == 3
    || (vMdst q != 0 && !(op == 0x21 || m == 2))
    || (vMsel q != 0 && !(vMen q || op == 0x22 || m == 1))
    || (vMen q && noMask) || (vMz q && (vReduces q || op == 0x21))
    || (m != 0 && vOfmt q != 0)
    || (op == 0x23 && q.opD.isTile &&
        (vOpx q / 16 != 1 || decide (0xA < vOpx q % 16) || vOpx q % 16 == 7 || vOpx q % 16 == 8))
def vClsOk (c : Cls) (f : Nat) : Bool :=
  f != 7 && f != 8 && decide (f ≤ 0xA) &&
  (match c with | .any => true | .int => !isFlt f | .float => isFlt f | .i32 => f == 2)
/-- Formats that contradict R129, R132 or R136 to R140. -/
def vFmtBad (q : QRec) (sp : VSpec) : Bool :=
  let op := rOp q.r
  let own (i : Nat) (ok : Nat → Bool) : Bool := match (q.opd i).ownFmt with | some f => ok f | none => true
  let raw16 (i : Nat) : Bool := match q.opd i with
    | .bank _ w _ => (if bfFmt w = 8 then 10 else bfFmt w) == vF q | .hnd h _ => hFmt h == vF q | _ => true
  [0, 1, 2, 3].any (fun i => !(q.opd i).inSpaces [4, 5])
    || (!vRaw q && !vClsOk sp.cls (vF q))
    || (sp.cls == .i32 && !(vOfmt q == 0 || vOfmt q == 3))
    || (op == 0x44 && !raw16 1) || (op == 0x45 && !raw16 0)
    || (op == 0x34 && !own 0 (fun f => f == 2 || f == 3))
    || (op == 0x41 && !own 2 (fun f => f == 10))
    || (op == 0x51 && !own 0 (fun f => f == 2)) || (op == 0x52 && !own 1 (fun f => f == 2))
    || (op == 0x24 && (q.opD.ownFmt != some 7 || !(q.opB.isNone || q.opB.ownFmt == some 8) || vE q % 32 != 0
        || [0, 1, 2, 3].any (fun k => dStride (descD q.r) k % 32 != 0)))
/-- The element size of an operand, for the tile's size (R125). A LOG6 element is counted as 1 byte (log 30). For VMOV modes 1 and 2,
which have no elements, R139 does not say whether R125's limit on ROWS × LANES × z applies, nor with which z: it is applied with
z = 1 (DESIGN CHOICE, log 33). -/
def vSize (q : QRec) (i : Nat) : Nat :=
  if vRaw q then 1 else
  match q.opd i with
  | .absent => 0
  | o => Nat.max 1 (fmtSize (o.fmt (vOpFmt q i)))
/-- VSHAPE at capture (R125). -/
def vShapeBad (q : QRec) : Bool :=
  vRows q == 0 || vLanes q == 0
    || decide (1024 < vE q * ([0, 1, 2, 3].map (vSize q)).foldl Nat.max 0)
def vChecks (q : QRec) : Checks :=
  match vSpec (rOp q.r) with
  | none => []
  | some sp =>
    [(vModBad q, recordT 7)]
    ++ [0, 1, 2, 3].map (fun i => (vUseBad q sp i, recordT (descWord i)))
    ++ [(vFmtBad q sp, recordT 7), (vShapeBad q, recordT 7)]
    ++ [0, 1, 2, 3].map (fun i => (!vRaw q && !(q.opd i).divides (vOpFmt q i), recordT (descWord i)))

/-- The lowest and highest byte of the tile file that any issue reaches through operand `i` (R119). -/
def vTileRange (q : QRec) (i : Nat) : Option (Int × Int) :=
  if rIssues q.r = 0 then none else
  let d := descI q.r i
  let (n, z) := vTileRun q i
  let reach (k : Nat) : Int := (rTrip q.r k - 1 : Nat) * dStride d k * (z : Int)
  let sum (f : Int → Int) : Int := f (reach 0) + f (reach 1) + f (reach 2) + f (reach 3)
  let base : Int := dOff d / z * z
  some (base + sum (fun x => if x < 0 then x else 0), base + sum (fun x => if x < 0 then 0 else x) + n * z - 1)
/-- The first register of a range in a gated cluster. -/
def firstGated (sc : Scope) (lo hi : Nat) : Option Nat :=
  ((List.range (hi / 8192 + 1 - lo / 8192)).map (fun i => lo / 8192 + i)).findSome? (fun (c : Nat) =>
    match sc.cl[c]? with | some .gated => some (Nat.max (8 * c) (lo / 1024)) | _ => none)
/-- Check 10 on one descriptor (R119). -/
def State.tileCheck (s : State) (q : QRec) (i : Nat) : Checks :=
  if !(q.opd i).isTile then [] else
  match s.sl.scope, vTileRange q i with
  | none, _ => [(true, scopeT)]
  | some _, none => []
  | some sc, some (lo, hi) =>
    [(decide (lo < 0) || decide ((1024 * sc.n : Nat) ≤ hi), scopeT)]
    ++ (match firstGated sc lo.toNat hi.toNat with
        | some v => [(true, { code := 7, eval := BitVec.ofNat 64 v })] | none => [])

-- MX (R150 to R163).

/-- The descriptors an op uses: 0 none, 1 a bank or handle, 2 a bank. -/
def mUse (op i : Nat) : Nat :=
  match op, i with
  | 1, 1 | 2, 1 | 3, 0 | 5, 0 | 5, 1 | 6, 1 => 1
  | 6, 2 | 6, 3 => 2
  | _, _ => 0
def mUseBad (q : QRec) (i : Nat) : Bool :=
  match mUse (rOp q.r) i with
  | 0 => descI q.r i != dNone
  | 1 => !(q.opd i).isMem
  | _ => !(q.opd i).isBank
/-- The bits of MOD[31:11] that an op uses (R151). -/
def mModMask (op : Nat) : Nat :=
  match op with
  | 1 => 0x0FFF0000 | 2 => 0x0FFFF800 | 3 => 0x1FFFF800 | 4 => 0x00007800 | 5 => 0x03FFF800 | _ => 0x0000F800
def mTripBad (r : BitVec 512) : Bool :=
  let t := [rTrip r 0, rTrip r 1, rTrip r 2, rTrip r 3]
  match rOp r with
  | 1 | 3 | 4 => t.any (fun n => decide (1 < n))
  | 6 => (t.drop 1).any (fun n => n != 1)
  | _ => false
def mLastBlock (q : QRec) : Nat :=
  match rOp q.r with
  | 2 => mAcb q + (if mAci q then rTrip q.r 1 - 1 else 0)
  | 3 | 4 => mAcb q + (mNb q - 1)
  | _ => 0
def mOperandFmt (f : Nat) : Bool := [0, 1, 4, 5, 6, 7].contains f
/-- Formats and handle spaces (R150, R152, R156, R158). For A of MX.BSW by handle neither R150 nor R159 lists spaces: G, DS and SP, as
for A of the other ops, and any other space traps with word 7 (DESIGN CHOICE, log 33). -/
def mFmtBad (q : QRec) : Bool :=
  let a := (q.opA.ownFmt).getD 6; let d := (q.opD.ownFmt).getD 6
  let log (o : Opd) : Bool := match o with | .hnd h _ => hFmt h == 7 | _ => false
  let strides (x : BitVec 88) : Bool := [0, 1, 2, 3].any (fun k => dStride x k % 2048 != 0)
  log q.opA || log q.opD ||
  (match rOp q.r with
   | 1 | 2 => !q.opA.inSpaces [0, 4, 5] || !mOperandFmt a || (a == 7 && (rField q.r 16 12 != 0 || strides (descA q.r)))
   | 3 => !q.opD.inSpaces [4, 5] || d == 8 || (d == 7 && (rField q.r 17 12 != 0 || strides (descD q.r)))
   | 5 => !q.opA.inSpaces [0, 4, 5] || !q.opD.inSpaces [4, 5] || !isFlt a || !isFlt d
   | 6 => !q.opA.inSpaces [0, 4, 5] || !mOperandFmt a
   | _ => false)
/-- The number of handles in the table of a BSW (R151). -/
def mHandles (q : QRec) : Nat := rField q.r 11 5 + 1
def mTableOff (q : QRec) : Nat := dOff (descC q.r) % 2 ^ 18
/-- Stage 3 of check 8: the reserved bits of MOD, then unused descriptors, then formats (R52), then what R163 lists after them,
in its order (log 30). -/
def mChecks (q : QRec) : Checks :=
  let bsw := rOp q.r == 6
  [((rMod q.r).toNat / 2 ^ 11 * 2 ^ 11 &&& mModMask (rOp q.r) != (rMod q.r).toNat / 2 ^ 11 * 2 ^ 11, recordT 7)]
  ++ [0, 1, 2, 3].map (fun i => (mUseBad q i, recordT (descWord i)))
  ++ [(mFmtBad q, recordT 7), (decide (3 < mLastBlock q), recordT 7), (mTripBad q.r, recordT 1)]
  ++ [1, 2, 3].map (fun i => (bsw && dStrides (descI q.r i) != 0, recordT (descWord i)))
  ++ [(bsw && (mTableOff q % 32 != 0 || decide (262144 < mTableOff q + 32 * mHandles q)), recordT 6),
      (!bsw && !q.opD.divides 6, recordT 2), (!q.opA.divides 6, recordT 3)]
/-- Check 9 (R51, R145). EVAL of its PROT is 0: R302 asks for the address or offset that the rule names, and R145 names none
(DESIGN CHOICE, log 32). -/
def State.mUnit (s : State) (q : QRec) : Checks :=
  [(rOp q.r == 5 && !s.vond8, { code := 6, eval := 0 }),
   ((s.core (coreOf s.cur.slot)).mxGrp != some q.grp, prot 0)]

/-- The handle table of a BSW, read as ENQM reads, in a bank of any FORMAT (log 33); check 11 on its handles (R159). -/
def State.bswTable (s : State) (q : QRec) : Except Trp (List (BitVec 256)) := do
  let rd (i : Nat) : Except Trp (BitVec 256) :=
    match s.loadSp s.cur.slot (BitVec.ofNat 64 (dSpace (descC q.r) * 2 ^ 18 + mTableOff q + 32 * i)) 32 with
    | .ok v => .ok (BitVec.ofNat 256 v)
    | .trap t => .error t
    | .stall => .error (recordT 6)
  let hs ← (List.range (mHandles q)).mapM rd
  let f0 := hFmt (hs.headD 0)
  let ok (h : BitVec 256) : Bool :=
    handleOk h && [0, 4, 5].contains (hSpace h) && [0, 1, 4, 5, 6].contains (hFmt h) && hFmt h == f0 && hDense h
  if hs.all ok then return hs else throw (recordT 6)

-- CX (R183 to R188).

/-- What a CX op's descriptor may be: 0 none; 1 a bank or a handle of G, DS, SP or H; 2 a bank or a handle of G, DS or SP;
3 an immediate; 4 an immediate or none; 5 a handle of F; 6 a handle of N; 7 a bank or a handle of any space, for an index
list. -/
def cUse (op i : Nat) : Nat :=
  match op, i with
  | 1, 0 | 1, 1 | 2, 0 | 3, 0 | 3, 1 | 4, 0 | 4, 1 => 1
  | 5, 1 | 6, 0 | 7, 1 | 8, 0 | 9, 1 => 2
  | 2, 1 | 9, 0 => 3
  | 5, 2 | 9, 2 => 4
  | 5, 0 | 6, 1 => 5
  | 7, 0 | 8, 1 => 6
  | 3, 2 | 4, 2 => 7
  | _, _ => 0
def cUseBad (q : QRec) (i : Nat) : Bool :=
  let o := q.opd i
  let hnd (sp : Nat) : Bool := match o with | .hnd h _ => hSpace h == sp | _ => false
  match cUse (rOp q.r) i with
  | 0 => descI q.r i != dNone
  | 1 => !(o.isMem && o.inSpaces [0, 3, 4, 5])
  | 2 => !(o.isMem && o.inSpaces [0, 4, 5])
  | 3 => !o.isImm
  | 4 => !(o.isImm || o.isNone)
  | 5 => !hnd 1
  | 6 => !hnd 2
  | _ => !o.isMem
def cImm (o : Opd) : Word := match o with | .imm v => v | _ => 0
/-- Words that R185 names: the flag of a PUTF or MCST, and the zero bits of a MCST's group. -/
def cFlagBad (q : QRec) : Bool :=
  let f := cImm q.opB
  match rOp q.r, q.opD with
  | 5, .hnd h _ => q.opB.isImm && (f.toNat % 8 != 0 || rPeer f != rPeer (hBase h))
  | 9, _ => q.opB.isImm && f.toNat % 8 != 0
  | _, _ => false
def cRunBad (q : QRec) : Bool :=
  let n := cxLen q
  let op := rOp q.r
  let side (o : Opd) : Nat := if o.isMem then opdBytes o n else 0
  let log (o : Opd) : Bool := o.ownFmt == some 7
  decide (65536 < Nat.max (side q.opA) (side q.opD))
    || ((log q.opA || log q.opD) && n % 32 != 0)
    || (op == 2 && log q.opD)
    || ((op == 3 || op == 4) && q.opB.ownFmt != some 3)
def cChecks (q : QRec) : Checks :=
  let op := rOp q.r
  [(rField q.r 27 5 != 0, recordT 7)]
  ++ [0, 1, 2, 3].map (fun i => (cUseBad q i, recordT (descWord i)))
  ++ [(op == 9 && (cImm q.opD).extractLsb' 60 4 != 0, recordT 2),
      ((op == 7 || op == 8) && !rNs q.r && rScope q.r == 3, recordT 7),
      (cRunBad q, recordT 7), (cFlagBad q, recordT 4)]
  ++ [0, 1, 2].map (fun i => (!(q.opd i).divides 6, recordT (descWord i)))

-- AE (R336, R337, R345).

def aFmtOk (i f : Nat) : Bool :=
  match i with | 0 => f == 2 | 1 => f == 6 | 2 => f == 2 || f == 3 | _ => f == 1
/-- An operand holds `n` elements of `z` bytes from its base. -/
def aHolds (q : QRec) (i n : Nat) : Bool :=
  match q.opd i with
  | .bank _ w off => decide (off + n * fmtSize (bfFmt w) ≤ 262144)
  | .hnd h off => decide (off + n ≤ hCount h)
  | _ => false
def aChecks (q : QRec) : Checks :=
  let run := rOp q.r == 1
  let n := rField q.r 22 10 + 1; let m := rField q.r 14 8 + 1; let k := rField q.r 11 3 + 1
  let p := dStride (descA q.r) 0
  let need (i : Nat) : Nat :=
    match i with | 0 => n * k | 1 => (if p = 0 then m else p.toNat) * (n - 1) + m | 2 => m | _ => 1088 + 24 * n
  let strideBad (i : Nat) : Bool := dStrides (descI q.r i) != 0 && (i != 1 || [1, 2, 3].any (fun k => dStride (descA q.r) k != 0))
  let strided (o : Opd) : Bool := o.isMem || o.isTile
  let kindBad (i : Nat) : Bool :=
    !(q.opd i).isMem || !(q.opd i).inSpaces [0, 4, 5] || !aFmtOk i (((q.opd i).ownFmt).getD 15)
  [([0, 1, 2, 3].any (fun k => decide (1 < rTrip q.r k)) || [0, 1, 2, 3].any (fun i => strided (q.opd i) && strideBad i), recordT 1)]
  ++ [0, 1, 2, 3].map (fun i => (kindBad i, recordT (descWord i)))
  ++ [0, 1, 2, 3].map (fun i => (run && (!aHolds q i (need i) || (i == 1 && p != 0 && decide (p < m))), recordT (descWord i)))
  ++ [((run && decide (m < k)) || (!run && rField q.r 11 21 != 0) || rField q.r 6 5 != 0 || rSb q.r || q.aemax == 0, recordT 7)]
  ++ [0, 1, 2, 3].map (fun i => (!(q.opd i).divides 6, recordT (descWord i)))

-- All of them.

/-- Does the record write through descriptor `i` (R48, R173)? VQL6 writes block scales through B (R136). -/
def QRec.writesTo (q : QRec) (i : Nat) : Bool :=
  i == 0 || (rEng q.r == 3 && i == 3) || (rEng q.r == 1 && rOp q.r == 0x24 && i == 2)
def QRec.handle (q : QRec) (i : Nat) : BitVec 256 :=
  match i with | 0 => q.hD | 1 => q.hA | 2 => q.hB | _ => q.hC
/-- No write through a handle with RO set (R48). EVAL of its PROT is the handle's base: no rule names the address (DESIGN
CHOICE, log 32). -/
def QRec.roChecks (q : QRec) : Checks :=
  [0, 1, 2, 3].map (fun i => (q.writesTo i && (match q.opd i with | .hnd h _ => hRo h | _ => false), prot (hBase (q.handle i))))

/-- Checks 7 to 11 of R52 on a record bound for an engine, and what is captured of it. -/
def State.checkRecord (s : State) (e : Eng) (r : BitVec 512) : Except Trp QRec := do
  let fail (l : Checks) : Except Trp Unit := match firstFailure l with | some t => .error t | none => .ok ()
  fail [(!opAssigned r, engineOpT), (rEng r != engCode e, recordT 0)]
  fail ([0, 1, 2, 3].map (s.descReach r)).flatten
  let q := s.capture r
  fail (commonChecks r q)
  fail (match e with | .mx => mChecks q | .vx => vChecks q | .cx => cChecks q | .ae => aChecks q)
  fail q.logChecks
  if e = .mx then fail (s.mUnit q)
  if e = .vx then fail ([0, 1, 2, 3].map (s.tileCheck q)).flatten
  let hs ← if e = .mx && rOp r = 6 then s.bswTable q else pure []
  fail q.roChecks
  return { q with bsw := hs }

end Sys2Proof.Machine
end

