-- ==== Sys2Proof/Machine/Capture.lean ====
section
/-! DEFINITION. The enqueue instructions (R43 to R45, R179), pinning (R173), and windows (R180, R181). -/

namespace Sys2Proof.Machine

-- Pages.

/-- The pages that `n` bytes from `va` overlap, translated in ascending order (R173). -/
def State.spanPages : Nat → State → Nat → Access → Word → Nat → Acc (List Nat)
  | 0, _, _, _, _, _ => .ok []
  | k + 1, s, ctx, kind, va, n =>
    if n = 0 then .ok [] else
    (s.translate ctx va kind).bind fun l =>
      let step := Nat.min n (l.page + l.size - va.toNat)
      (State.spanPages k s ctx kind (va + BitVec.ofNat 64 step) (n - step)).bind fun r =>
        .ok (pageId (s.ctx ctx).asid.toNat l.page :: r)
def spanFuel (n : Nat) : Nat := n / 65536 + 2
def dedup (l : List Nat) : List Nat := l.foldl (fun acc p => if acc.contains p then acc else acc ++ [p]) []
/-- The pin table, of 262,144 pages, has room for all of these (R173). -/
def State.pinRoom (s : State) (ps : List Nat) : Bool :=
  decide (s.mem.pins.length + (ps.filter (fun p => (tblGet s.mem.pins p).isNone)).length ≤ 262144)

/-- Check 12 on one handle (R173): its span, and its pages in G. -/
def State.handlePages (s : State) (q : QRec) (kind : Access) (w : Nat) (h : BitVec 256) : Acc (List Nat) :=
  let n := hSpan h
  let base := hBase h
  if 2 ^ 30 < n then .trap (recordT w)
  else match hSpace h with
  | 0 => s.spanPages (spanFuel n) q.ctx kind base n
  | 4 => if (s.dsOf q.who.slot).2 < base.toNat + n then .trap (prot base) else .ok []
  | 5 => (s.spAt q.who.slot base).bind fun (_, o) => if 262144 < o + n then .trap (prot base) else .ok []
  | _ => .ok []
/-- How the record uses the memory behind a descriptor: C of an AE record is read and written (R339). -/
def QRec.access (q : QRec) (i : Nat) : Access :=
  if i = 0 then .write else if rEng q.r = 3 && i = 3 then .rw else .read
/-- Check 12 on the record, its descriptors in the order D, A, B, C: the pages that it pins, each once. -/
def State.recordPages (s : State) (q : QRec) : Acc (List Nat) :=
  let own (i : Nat) : Acc (List Nat) :=
    Acc.concat ((match q.opd i with | .hnd h _ => s.handlePages q (q.access i) (descWord i) h | _ => .ok []) ::
      if i = 3 then q.bsw.map (s.handlePages q .read 6) else [])
  (Acc.concat ([0, 1, 2, 3].map own)).bind fun l => .ok (dedup l)

-- Enqueueing.

/-- The ENQ waits with its captured record: for pins, holding none (`tok` 1), or for a place, holding them (`tok` 2); it has waited since it
began to (R206). -/
def State.enqHold (s : State) (i : Instr) (tok : Nat) (q : QRec) : State :=
  let since := match s.q.wait with | some w => if w.ins == i then w.since else s.now | none => s.now
  s.setQ { s.q with wait := some { ins := i, tok := tok, since := since, held := some q } }
/-- The bytes of an enqueue instruction (R19, R44). -/
def enqBytes : Instr → Nat
  | .enq .. => 72 | _ => 8
/-- The tail of the engine's queue of the slot, which holds 16 records (R12, R45). -/
def State.enqPlace (s : State) (i : Instr) (q : QRec) : State :=
  let t := s.sl
  let e := engOf (rEng q.r)
  if 16 ≤ (t.queue e).length then s.enqHold i 2 q
  else
    let s := s.setSl (t.setQueue e (t.queue e ++ [{ q with serial := s.serial }]))
    { s with serial := s.serial + 1 }.go (enqBytes i)
/-- Check 12, the pins, and the place; while a stack that the check reaches is not ready, it waits as for pins (R396). -/
def State.enqPin (s : State) (i : Instr) (q : QRec) : State :=
  match s.recordPages q with
  | .trap t => s.trap t
  | .stall => s.enqHold i 1 q
  | .ok ps => if s.pinRoom ps then (s.pin ps).enqPlace i { q with pins := ps } else s.enqHold i 1 q
/-- An enqueue from the record that it has read (R179). -/
def State.enqTake (s : State) (i : Instr) (e : Eng) (r : BitVec 512) : State :=
  match s.checkRecord e r with
  | .error t => s.trap t
  | .ok q => s.enqPin i q
def execEnq (g : Guard) (eng : Eng) (rec : BitVec 512) (s : State) : Host.Outcome State Fault Refusal :=
  if !s.inStream eng then .next (s.ill 5)
  else s.guarded g (fun s => s.enqTake (.enq g eng rec) eng rec) 72
/-- s(k) to s(k + 7) as a record; s0 reads as zero. -/
def Seq.eight (q : Seq) (k : SReg) : BitVec 512 :=
  BitVec.ofNat 512 ((List.range 8).foldr (fun i acc => (q.s (k + BitVec.ofNat 6 i)).toNat + 2 ^ 64 * acc) 0)
def execEnqr (g : Guard) (eng : Eng) (k : BitVec 6) (s : State) : Host.Outcome State Fault Refusal :=
  if !s.inStream eng then .next (s.ill 5)
  else s.guarded g fun s => s.enqTake (.enqr g eng k) eng (s.q.eight k)
def execEnqm (g : Guard) (eng : Eng) (a : SReg) (s : State) : Host.Outcome State Fault Refusal :=
  if !s.inStream eng then .next (s.ill 5)
  else s.guarded g fun s =>
    s.atAddr (s.q.s a) 64 fun s =>
      s.accept (s.loadSp s.cur.slot (s.q.s a) 64) fun v => s.enqTake (.enqm g eng a) eng (BitVec.ofNat 512 v)
/-- A place has come free (R45). -/
def execEnqQueuePlace (q : SeqRef) (s : State) : Host.Outcome State Fault Refusal :=
  match s.waiting q with
  | some { ins := i, tok := 2, held := some r, .. } => .next ((s.asSeq q).enqPlace i r)
  | _ => .next s

-- Windows.

/-- Every access of the window that was accepted has completed (R181): no stashed write and no held POLL names it. -/
def State.windowBusy (s : State) (ctx win : Nat) : Bool :=
  (s.ctx ctx).stash.any (fun e => e.2.req.win == win || (match e.2.req.flag with | some (w, _) => w == win | none => false))
  || s.fab.conns.any (fun e => e.2.waiting.any (fun m => m.tctx == ctx && rWin m.addr == win))
  || s.seqs.any (fun e => match e.2.wait with
      | some { ins := .poll _ _ .f _ _ a _, fin := 1, .. } =>
        let addr := e.2.s a
        rPeer addr == s.pkgId && rWin addr == win && s.tctx (s.ctxAt (e.1 / 2)) s.pkgId == ctx
      | _ => false)
def State.setWindows (s : State) (ctx : Nat) (w : Tbl Win) : State := s.setCtx ctx { s.ctx ctx with windows := w }
/-- WINREG from its start (R180). -/
def State.winregDo (s : State) (g : Guard) (d : SReg) (a : HReg) (b : SReg) : State :=
  let h := s.q.h a
  let f := s.q.s b
  let rd := f.getLsbD 0; let wr := f.getLsbD 1
  let n := hSpan h
  if !handleOk h || hSpace h != 0 || !hDense h || f.extractLsb' 4 60 != 0 || f.extractLsb' 2 2 == 0 then s.ill 4
  else if wr && hRo h then s.trap (prot (hBase h))
  else if 2 ^ 44 < n then s.ill 4
  else match tblFree s.cxv.windows 256 with
  | none => s.ret d 0xFFFFFFFFFFFFFFFF
  | some k =>
    let kind : Access := if rd && wr then .rw else if rd then .read else if wr then .write else .any
    match s.spanPages (spanFuel n) s.cx kind (hBase h) n with
    | .trap t => s.trap t
    | .stall => s.block (.winreg g d a b)
    | .ok ps =>
      let ps := dedup ps
      if !s.pinRoom ps then s.block (.winreg g d a b)
      else
        let w : Win := { base := hBase h, span := n, rd := rd, wr := wr, fab := f.getLsbD 2, net := f.getLsbD 3, pins := ps }
        ((s.pin ps).setWindows s.cx (tblSet s.cxv.windows k w)).ret d (BitVec.ofNat 64 k)
def execWinreg (g : Guard) (d : SReg) (a : HReg) (b : SReg) (s : State) : Host.Outcome State Fault Refusal :=
  s.guarded g fun s => s.winregDo g d a b
/-- The pin table has room for an ENQ or a WINREG that waits for pins (R173, R180). -/
def execEnqPinRoom (q : SeqRef) (s : State) : Host.Outcome State Fault Refusal :=
  match s.waiting q with
  | some { ins := .winreg g d a b, .. } => .next ((s.asSeq q).winregDo g d a b)
  | some { ins := i, tok := 1, held := some r, .. } => .next ((s.asSeq q).enqPin i r)
  | _ => .next s

/-- A revoked window has drained: its pins are released and its id is free (R181). -/
def State.freeWindow (s : State) (ctx k : Nat) (w : Win) : State :=
  (s.setWindows ctx (tblErase (s.ctx ctx).windows k)).unpin w.pins
/-- WINREV: from its start, or, with `again`, once it waits; then an id freed by another WINREV counts as drained. -/
def State.winrevDo (s : State) (g : Guard) (d a : SReg) (again : Bool) : State :=
  let k := (s.q.s a).toNat
  match tblGet s.cxv.windows k with
  | none => s.ret d (if again then 0 else 1)
  | some w =>
    if again && !w.revoking then s.ret d 0
    else
      let s := if w.revoking then s else s.setWindows s.cx (tblSet s.cxv.windows k { w with revoking := true })
      if s.windowBusy s.cx k then s.block (.winrev g d a)
      else (s.freeWindow s.cx k w).ret d 0
def execWinrev (g : Guard) (d a : SReg) (s : State) : Host.Outcome State Fault Refusal :=
  s.guarded g fun s => s.winrevDo g d a false
def execWinrevDrain (q : SeqRef) (s : State) : Host.Outcome State Fault Refusal :=
  match s.waiting q with
  | some { ins := .winrev g d a, .. } => .next ((s.asSeq q).winrevDo g d a true)
  | _ => .next s

end Sys2Proof.Machine
end

