-- ==== Sys2Proof/Machine/Reduce.lean ====
section
/-! DEFINITION. Reductions on a package without reducers (R326): the places of a job behind a slot's records or in service queues,
its issue of CX, which stages what has come, and its issue of VX, with which the reduction is performed. -/

namespace Sys2Proof.Machine

def State.redFind (s : State) (key : RedKey) : Option (Nat × RedJob) :=
  s.cores.findSome? (fun (e : Nat × Core) => (e.2.red.find? (fun j => j.key == key)).map (fun j => (e.1, j)))
/-- The job is no more; a core without another one may become IDLE. -/
def State.redDrop (s : State) (key : RedKey) : State :=
  match s.redFind key with
  | none => s
  | some (c, _) =>
    let v := s.core c
    (s.setCore c { v with red := v.red.filter (fun j => j.key != key) }).settleCore c
/-- The job's task runs in its slot still, or it has none. -/
def State.redStands (s : State) (j : RedJob) : Bool :=
  match j.home with | none => true | some (k, t) => s.slotOfTask t == some k
/-- Its queues have room for it: 16 places each, the slot's own records among them. -/
def State.redRoom (s : State) (core : Nat) (slot : Option Nat) : Bool :=
  let js := (s.core core).red.filter (fun j => j.home.map (fun h => h.1) == slot)
  let own (e : Eng) : Nat := match slot with | some k => ((s.slot k).queue e).length | none => 0
  decide (own .cx + (js.filter (fun j => !j.copied)).length < 16 ∧ own .vx + js.length < 16)
/-- A job takes its places, where they are free; a core that receives it wakes. -/
def State.redPut (s : State) (key : RedKey) (ctx n : Nat) (task : Option Nat) (va : Word) : State :=
  match s.redPlace ctx task va with
  | none => s
  | some (c, home) =>
    if !s.redRoom c (home.map (fun h => h.1)) then s
    else
      let s := if home.isNone then s.powerUp c else s
      s.setCore c { s.core c with red := (s.core c).red ++ [{ key := key, ctx := ctx, home := home, bytes := n }] }
/-- The slot or service queues in which a job stands, as the engines choose among them. -/
def RedJob.place (j : RedJob) (core : Nat) : Nat := match j.home with | some h => h.1 | none => svcSlot core
/-- An engine serves the job's queues now (R13). -/
def State.redServe (s : State) (e : Eng) (core : Nat) (j : RedJob) : State :=
  match j.home with
  | some h => s.serve e h.1
  | none =>
    let v := s.core core
    { s.setCore core (if e == .vx then { v with redVx := s.serial } else { v with redCx := s.serial }) with serial := s.serial + 1 }
/-- The issue of CX: what is to be reduced is staged, and its bytes charged. None: it waits for its turn, a channel, the
context's CX bytes, or room in the staging buffer. -/
def State.redCopy (s : State) (core : Nat) (j : RedJob) : Option State :=
  if s.redHead .cx core (j.home.map (fun h => h.1)) != some j || 4 ≤ (s.core core).ch.length || s.cxChosen core != some (j.place core)
    || !s.mayCx j.ctx core || decide (262144 < s.staging core + j.bytes) then none
  else
    let s := (s.charge j.ctx 3 core j.bytes).redServe .cx core j
    let v := s.core core
    some (s.setCore core { v with red := v.red.map (fun x => if x.key == j.key then { x with copied := true } else x) })
/-- The issue of VX: its cycles, as R131 counts those of an op on so many bytes, are charged, and the job is over. -/
def State.redReduce (s : State) (core : Nat) (j : RedJob) : Option State :=
  if s.redHead .vx core (j.home.map (fun h => h.1)) != some j || s.servedNow .vx core != some (j.place core) then none
  else
    some (((s.charge j.ctx 1 core ((j.bytes + 255) / 256)).redServe .vx core j).redDrop j.key)
/-- A reduction of `n` bytes as far as CX and VX bring it now; true: it is to be performed at once. With reducers it always is. -/
def State.redGate (s : State) (key : RedKey) (ctx n : Nat) (task : Option Nat) (va : Word) : State × Bool :=
  if s.vond8 || n = 0 then (s, true)
  else
    let s := match s.redFind key with | some (_, j) => if s.redStands j then s else s.redDrop key | none => s
    let s := if (s.redFind key).isNone then s.redPut key ctx n task va else s
    match s.redFind key with
    | none => (s, false)
    | some (core, j) =>
      match (if j.copied then some s else s.redCopy core j) with
      | none => (s, false)
      | some t => match t.redReduce core { j with copied := true } with
        | none => (t, false)
        | some u => (u, true)
/-- What must come before a message reaches its target: for a fragment that the target takes and reduces, the work of CX and VX.
True: it may go to the target. One that is refused or stashed needs none. -/
def State.redFor (s : State) (key : RedKey) (src : Nat) (m : Msg) (net loc : Bool) (task : Option Nat) : State × Bool :=
  if m.op != 9 || s.vond8 then (s, true)
  else if !(s.ctx m.tctx).present then (s.redDrop key, true)
  else match s.target src m net loc with
    | some (_, .ack) =>
      let task := match task with | some t => some t | none => s.taskFor m.tctx (leIn m.args 0 2)
      s.redGate key m.tctx m.data.length task (s.winBase m.tctx (rWin m.addr) + BitVec.ofNat 64 (rOff m.addr))
    | _ => (s, true)
/-- Before an admitted context returns, the work of CX and VX for the reducing entries of its stash is done, in their order; its tasks
stand in no slot, so that the service queues do it (DESIGN CHOICE, log 30). True: all of it has been. -/
def State.stashServe (s : State) (ctx : Nat) : List (Nat × StashEntry) → State × Bool
  | [] => (s, true)
  | (k, e) :: rest =>
    let r := e.req
    if s.vond8 || !r.red || e.served || s.bad (.stashEntry ctx k) then State.stashServe s ctx rest
    else
      let (t, go) := s.redGate (.stash ctx k) ctx r.data.length none (s.winBase ctx r.win + BitVec.ofNat 64 r.off)
      if !go then (t, false)
      else State.stashServe (t.setCtx ctx { t.ctx ctx with stash := tblSet (t.ctx ctx).stash k { e with served := true } }) ctx rest

end Sys2Proof.Machine
end

