-- ==== Sys2Proof/Machine/Signal.lean ====
section
/-! DEFINITION. The signal of a record (R41, R212, R214) and what a faulted record poisons or raises (R216, R217). -/

namespace Sys2Proof.Machine


/-- The bytes that one issue writes into its destination operands, by the record's fields, where D is not of LOG6 (R212). -/
def State.issueBytes (s : State) (q : QRec) : Nat :=
  let op := rOp q.r
  match rEng q.r with
  | 0 => if op = 3 then opdBytes q.opD (4096 * mNb q) else if op = 5 then opdBytes q.opD 4096 else 0
  | 1 =>
    if op = 0x21 || vRaw q then 128
    else
      let n := (vTileRun q 0).1
      let d := match q.opD with | .tile _ => n * fmtSize (vOpFmt q 0) | o => opdBytes o n
      d
  | 2 =>
    let n := cxLen q
    if op = 9 then
      let f := q.opA.fmt 6
      let one := if f = 7 then n / 32 * 24 else n * fmtSize f
      match tblGet s.coll.groups ((match q.opD with | .imm v => v.toNat | _ => 0) % 2 ^ 16) with
      | some g => g.members.length * one | none => 0
    else opdBytes q.opD n
  | _ => 0
/-- The elements of D that an issue addresses. Those of SCT depend on its index list; its run stands for them, since B is
fixed by the record's fields (R212; log 32). -/
def destElems (q : QRec) (k : Nat) : List Int :=
  match rEng q.r with
  | 0 => mDest q k
  | 1 => vDest q k
  | 2 => (List.range (cxLen q)).map (fun (i : Nat) => cxD q k + (i : Int))
  | _ => []
/-- The blocks of LOG6 that a record writes: each whole, with its scale word in a bank, and once, since its codes and scale come
from all elements that the record writes into it (R108; log 32). -/
def logBlocks (q : QRec) : Nat :=
  let keys (k : Nat) : List Nat :=
    (destElems q k).filterMap (fun i => match q.opD.place 7 i with | .ok p => p.block.map (·.1) | .error _ => none)
  (((List.range (rIssues q.r)).map keys).flatten).eraseDups.length
/-- B of R212: the bytes that a record writes over all of its issues. -/
def State.recBytes (s : State) (q : QRec) : Nat :=
  if q.opD.fmt 6 = 7 && rEng q.r != 3 && !(rEng q.r == 1 && vRaw q) then
    logBlocks q * (match q.opD with | .bank .. => 26 | _ => 24)
      + (if rEng q.r = 1 && rOp q.r = 0x24 && !(dSpace (descB q.r) == 0xF) then rIssues q.r * (2 * (vE q / 32)) else 0)
  else s.issueBytes q * rIssues q.r
/-- The increment of a record's signal (R212). -/
def State.signalInc (s : State) (q : QRec) : BitVec 16 :=
  if rSb q.r then BitVec.ofNat 16 ((s.recBytes q + 63) / 64) else rSinc q.r
/-- The record applies its signal (R214); with NS set it has none (R41). -/
def State.recSignal (s : State) (q : QRec) : State :=
  if rNs q.r then s else s.signal q.ctx (rSsem q.r) (s.signalInc q)

/-- FENCE.E of the enqueuing sequencer reports the fault (R235). -/
def State.markFault (s : State) (q : QRec) : State := s.setSeq q.who { s.seq q.who with recFault := true }
/-- A record has faulted with this cause and EVAL: its signal semaphore is poisoned, or, with NS set, its enqueuing sequencer
takes ENGFAULT, or MCHK, with the EVAL of R302: PAGE too, of a page that fails at a restore, is an ENGFAULT there (R177,
R216). -/
def State.recFaulted (s : State) (q : QRec) (cause : Nat) (eval : Word) : State :=
  let s := s.markFault q
  if rNs q.r then (if cause = 0x04 then s.post q.who 0x0A (faultEval q 0 0x0A 0) else s.post q.who cause eval)
  else s.poison q.ctx (rSsem q.r) cause
/-- A record whose wait has met poison: its own semaphore takes the root cause, and its sequencer takes SEMPOISON (R217). -/
def State.recPoisoned (s : State) (q : QRec) : State :=
  let k := rWsem q.r
  let c := (s.sem q.ctx k).cause
  let s := s.markFault q
  let s := if rNs q.r then s else s.poison q.ctx (rSsem q.r) c.toNat
  s.post q.who 9 (semPoisonEval true c k)

end Sys2Proof.Machine
end

