-- ==== Sys2Proof/Machine/Cx.lean ====
section
/-! DEFINITION. The issues of the copy channels (R182 to R187, R290), with the collision filter (R112, R113) and stalls at a
full port (R271). -/

namespace Sys2Proof.Machine

def State.setRunAt (s : State) (core ch : Nat) (r : Run) : State :=
  s.setCore core { s.core core with ch := tblSet (s.core core).ch ch r }

-- What an issue needs (R290).


/-- The charge of an issue at its start (R182, R287). -/
def State.cxCharge (s : State) (q : QRec) (core k : Nat) (ixs : Option Memory) : State :=
  let (n, g) := s.cxBytes q k ixs
  (s.chargeT q.who.slot q.ctx 3 core n).chargeT q.who.slot q.ctx 4 0 g
/-- What the collision filter says of an issue: none to wait under STRICT, else the state and the record, counted once. -/
def State.cxFilter (s : State) (q : QRec) (r : Run) (k : Nat) : Bool × State × Run :=
  let slot := q.who.slot
  if r.hazed then (s.meets slot (s.cxReads q k r.ixs) && (s.seq (seqA slot)).strict, s, r)
  else if s.meets slot (s.cxReads q k r.ixs) then ((s.seq (seqA slot)).strict, s.hazard slot, { r with hazed := true })
  else (false, s, r)

-- Local issues.

/-- The ECC words in error that the writes of a local issue cover whole (R413). -/
def State.cxCover (s : State) (q : QRec) (k : Nat) (ixs : Option Memory) : List UeLoc :=
  if s.mem.ue.isEmpty then [] else
  s.covered q ((if cxWhole q k then cxBlocks q k else (s.cxMap q k ixs).1).map (fun t => q.opD.runs 7 t.2)).flatten
def State.cxLocal (s : State) (core ch : Nat) (r : Run) : State :=
  let q := r.q; let k := r.next
  let x0 : Iss := { s := s.cxCharge q core k r.ixs, blk := r.blk, cov := s.cxCover q k r.ixs }
  let (fs, stop) := s.cxSteps q k r.ixs
  let (y, n, e) := runSteps x0 fs
  match (match e with | some _ => e | none => stop) with
  | some .stall => s.setRunAt core ch r
  | some (.fault c v) =>
    let z := runSome x0 (fs.take n)
    let (t, r) := (z.s.fxAll q.ctx z.evs).faulted { r with blk := z.blk } c v
    t.setRunAt core ch r
  | none =>
    let (t, r) := State.performed y { r with hazed := false, ixs := none } (k + 1 == rIssues q.r)
    t.setRunAt core ch r

-- Remote issues.

/-- Why offering messages ends early. -/
inductive CxStop where
  | full (port : Nat)
  | later
  | fault
/-- The flag of an Ethernet member follows that member's data, whose packets may arrive in any order (R185, R365): its packet
waits until what the record sent before it is acknowledged. -/
def Run.flagWaits (r : Run) (m : CxMsg) : Bool := m.sp == 2 && m.flag.isSome && !r.pend.isEmpty
/-- Offer the messages of issue `k` that are left, in order; the state and record after it, and what stopped it. -/
def State.cxOffer (core ch k : Nat) : List CxMsg → State → Run → State × Run × Option CxStop
  | [], s, r => (s, { r with todo := [] }, none)
  | m :: ms, s, r =>
    if r.flagWaits m then (s, { r with todo := m :: ms }, some .later)
    else
      let sent : Run := { r with part := r.part + 1, stalled := false }
      match s.cxSend r.q.ctx (.record core ch r.q.serial k r.part) m with
      | .wait t => State.cxOffer core ch k ms t { sent with pend := r.pend ++ [(k, r.part)] }
      | .now t data => State.cxOffer core ch k ms t (if m.data.isNone then sent.receive m.addr data else sent)
      | .full p => (s, { r with todo := m :: ms }, some (.full p))
      | .later => (s, { r with todo := m :: ms }, some .later)
      | .fault t => (t, { r with todo := m :: ms }, some .fault)
/-- Every message of the issue is on its way. -/
def Run.sent (r : Run) : Run :=
  { r with next := r.next + 1, opened := false, part := 0, stalled := false, hazed := false, ixs := none }
/-- An issue with a remote side begins: its source bytes are read, its messages cut by the L of that moment (R272, R280), and
it is charged (R182). With the last source bytes read, a PUTF, PUTN or MCST applies a signal of a local scope (R186). -/
def State.cxOpen (s : State) (core : Nat) (r : Run) (snd : CxSends) (put : Bool) : State × Run :=
  let q := r.q
  let s := (s.cxCharge q core r.next r.ixs).fxAll q.ctx snd.evs
  let sig := put && r.next + 1 == rIssues q.r && !rNs q.r && decide (rScope q.r ≤ 2)
  (if sig then s.recSignal q else s,
   { (if snd.ts.isEmpty then r else r.setTransfers r.next snd.ts) with
     opened := true, todo := snd.msgs, part := 0, sigDone := r.sigDone || sig })
/-- As many messages of the issue under way as find room; with the last one the issue is performed, or awaits its answers. -/
def State.cxPush (s : State) (core ch : Nat) (r : Run) : State :=
  let k := r.next
  let (t, r', stop) := State.cxOffer core ch k r.todo s r
  match stop with
  | some .fault => let (t, r) := t.faultedAt r' k 0x0A 0; t.setRunAt core ch r
  | some .later => t.setRunAt core ch r'
  | some (.full p) => (if r'.stalled then t else t.qstall p).setRunAt core ch { r' with stalled := true }
  | none =>
    if r'.listing then t.setRunAt core ch { r' with opened := false, part := 0, stalled := false } else
    let r' := r'.sent
    if (tblGet r'.stage k).isNone || r'.pend.any (fun e => e.1 == k) then
      let (t, r) := t.cxFinish r'
      t.setRunAt core ch r
    else match t.cxArrive r' core ch k with
      | .error .stall => s.setRunAt core ch r
      | .error (.fault c v) => let (t, r) := t.faultedAt r' k c v; t.setRunAt core ch r
      | .ok (x, r) => let (t, r) := (x.s.fxAll r.q.ctx x.evs).cxFinish { r with blk := x.blk }; t.setRunAt core ch r
def State.cxRemote (s : State) (core ch : Nat) (r : Run) (sends : Eng' CxSends) (put : Bool) : State :=
  match sends with
  | .error .stall => s.setRunAt core ch r
  | .error (.fault c v) => let (t, r) := s.faulted r c v; t.setRunAt core ch r
  | .ok snd =>
    let (t, r) := s.cxOpen core r snd put
    t.cxPush core ch r

/-- An issue whose index list lies remotely begins with the reads of its list, which are charged here (R182, R184). -/
def State.cxList (s : State) (core ch : Nat) (r : Run) : State :=
  match s.cxListReads r.q r.next with
  | .error .stall => s.setRunAt core ch r
  | .error (.fault c v) => let (t, r) := s.faulted r c v; t.setRunAt core ch r
  | .ok snd =>
    (s.chargeT r.q.who.slot r.q.ctx 3 core (cxListBytes r.q)).cxPush core ch { r with opened := true, listing := true, todo := snd.msgs, part := 0 }
/-- The reads of the list: once every one of them is answered, the issue goes on with it. -/
def State.cxListed (s : State) (core ch : Nat) (r : Run) : State :=
  if r.pend.any (fun p => p.1 == r.next) then s
  else s.setRunAt core ch { r with listing := false, ixs := some r.recv, recv := [] }

-- The rows.

/-- The ops whose signal may come before their acknowledgements (R186). -/
def cxPuts (op : Nat) : Bool := op == 5 || op == 7 || op == 9

/-- One issue of a channel, or as much of a remote one as its ports have room for. -/
def State.cxRow (s : State) (core ch op : Nat) : Host.Outcome State Fault Refusal :=
  match tblGet (s.core core).ch ch with
  | none => .next s
  | some r =>
    let q := r.q; let k := r.next
    if rOp q.r != op || r.done || decide (rIssues q.r ≤ k) then .next s
    else if r.opened then .next (s.cxPush core ch r)
    else if r.listing then .next (s.cxListed core ch r)
    else if !r.settled || (r.ixs.isNone && !s.cxMayStart q.ctx core (cxUsesG q)) then .next s
    else if cxFarList q && r.ixs.isNone then .next (s.cxList core ch r)
    else
      let (wait, s, r) := s.cxFilter q r k
      if wait then .next (s.setRunAt core ch r)
      else if op = 9 then .next (s.cxRemote core ch r (s.mcstSends q k) true)
      else if q.opA.remote = 0 && q.opD.remote = 0 then .next (s.cxLocal core ch r)
      else .next (s.cxRemote core ch r (s.cxSends q k r.ixs) (cxPuts op))

def execCxCpy (core ch : Nat) (s : State) : Host.Outcome State Fault Refusal := s.cxRow core ch 1
def execCxFill (core ch : Nat) (s : State) : Host.Outcome State Fault Refusal := s.cxRow core ch 2
def execCxGth (core ch : Nat) (s : State) : Host.Outcome State Fault Refusal := s.cxRow core ch 3
def execCxSct (core ch : Nat) (s : State) : Host.Outcome State Fault Refusal := s.cxRow core ch 4
def execCxPutf (core ch : Nat) (s : State) : Host.Outcome State Fault Refusal := s.cxRow core ch 5
def execCxGetf (core ch : Nat) (s : State) : Host.Outcome State Fault Refusal := s.cxRow core ch 6
def execCxPutn (core ch : Nat) (s : State) : Host.Outcome State Fault Refusal := s.cxRow core ch 7
def execCxGetn (core ch : Nat) (s : State) : Host.Outcome State Fault Refusal := s.cxRow core ch 8
def execCxMcst (core ch : Nat) (s : State) : Host.Outcome State Fault Refusal := s.cxRow core ch 9

end Sys2Proof.Machine
end

