-- ==== Sys2Proof/Machine/Records.lean ====
section
/-! DEFINITION. The start of a record (R182, R213, R217) and its retirement (R174, R214, R216). -/

namespace Sys2Proof.Machine

def State.dropHead (s : State) (e : Eng) (k : Nat) : State :=
  let t := s.slot k
  s.setSlot k (t.setQueue e (t.queue e).tail)
/-- What the fetcher has staged ahead of a record's start is dropped. -/
def State.unstage (s : State) (q : QRec) : State :=
  let t := s.slot q.who.slot
  if (tblGet t.ahead q.serial).isNone then s else s.setSlot q.who.slot { t with ahead := tblErase t.ahead q.serial }
/-- The record is no more: its pins are released, and a slot whose task has ended may become free (R174, R195). -/
def State.letGo (s : State) (q : QRec) : State := ((s.unstage q).unpin q.pins).settleSlot q.who.slot

-- Start.


/-- A record as it starts. One without issues is done; one whose operands are not fetched needs no staging. -/
def Run.start (q : QRec) : Run :=
  { q := q, done := rIssues q.r == 0, staged := if rEng q.r == 0 && mFetches q then 0 else rIssues q.r }
/-- What the operand fetcher has staged for the record already stands ready for it (R161). -/
def Run.withAhead (r : Run) : Option Run → Run
  | none => r
  | some a => { r with staged := a.staged, stage := a.stage, fetchBad := a.fetchBad }
/-- A record that has performed its last issue makes room for the next one of its queue (R213). -/
def Slot.advance (t : Slot) (e : Eng) : Slot :=
  match t.run e with
  | some r => { t.setRun e none with landing := t.landing ++ [r] }
  | none => t
def Slot.engineFree (t : Slot) (e : Eng) : Bool := match t.run e with | some r => r.done | none => true
def State.startRecord (s : State) (e : Eng) (k : Nat) (q : QRec) : State :=
  match e with
  | .cx =>
    let core := coreOf k
    (match tblFree (s.core core).ch 4 with
     | none => s
     | some c => if s.cxChosen core != some k then s
       else ((s.dropHead .cx k).serve .cx k).setRunAt core c (Run.start q))
  | _ =>
    let t := s.slot k
    if t.engineFree e then
      let s := (s.dropHead e k).unstage { q with who := { q.who with slot := k } }
      s.setSlot k (((s.slot k).advance e).setRun e (some ((Run.start q).withAhead (tblGet t.ahead q.serial))))
    else s
/-- The head record of a queue: it starts when its wait passes, or, when its wait has met poison, retires faulted (R213,
R217). -/
def execRecordStart (eng : Eng) (slot : Nat) (s : State) : Host.Outcome State Fault Refusal :=
  match (s.slot slot).queue eng with
  | [] => .next s
  | q :: _ =>
    if !(s.slot slot).mayStartRecord then .next s
    else if rNw q.r then .next (s.startRecord eng slot q)
    else if (s.sem q.ctx (rWsem q.r)).poison then .next (((s.dropHead eng slot).recPoisoned q).letGo q)
    else if s.waitPasses q then .next (s.startRecord eng slot q)
    else .next s

-- Retirement.

/-- The record applies its signal, or poisons or raises what its fault asks for, and is gone. -/
def State.retire (s : State) (r : Run) : State :=
  let s := match r.fault with
    | some (c, v) => s.recFaulted r.q c v
    | none => if r.sigDone then s else s.recSignal r.q
  let s := s.setSlot r.q.who.slot { s.slot r.q.who.slot with moved := s.now }
  (s.bswEnd r.q).letGo r.q
/-- The oldest record of the engine that has performed its last issue, and the slot without it: signals come in queue order
(R214). -/
def Slot.retiring (t : Slot) (e : Eng) : Option (Run × Slot) :=
  match t.landing.find? (fun r => rEng r.q.r == engCode e) with
  | some r => some (r, { t with landing := t.landing.erase r })
  | none =>
    match t.run e with
    | some r => if r.done then some (r, t.setRun e none) else none
    | none => none
def execRecordRetire (eng : Eng) (slot : Nat) (ch : Nat) (s : State) : Host.Outcome State Fault Refusal :=
  match eng with
  | .cx =>
    let core := coreOf slot
    let c := s.core core
    (match tblGet c.ch ch with
     | some r => .next (if r.done && r.q.who.slot == slot then (s.setCore core { c with ch := tblErase c.ch ch }).retire r else s)
     | none => .next s)
  | _ =>
    (match (s.slot slot).retiring eng with
     | some (r, t) => .next ((s.setSlot slot t).retire r)
     | none => .next s)

end Sys2Proof.Machine
end

