-- ==== Sys2Proof/Machine/Traps.lean ====
section
/-! DEFINITION. Asynchronous traps at a boundary (R305) and debug halts (R313, R314). -/

namespace Sys2Proof.Machine

/-- Which held cause a boundary takes: a machine check first, the others in ascending code order (R305). -/
def firstHeld (hs : List Trp) : Option Trp :=
  hs.foldl (fun best h => match best with
    | none => some h
    | some b => if b.code = 0x20 then best else if h.code = 0x20 || decide (h.code < b.code) then some h else best) none

/-- An asynchronous cause is taken at a boundary of the sequencer, while it is outside a handler (R305). -/
def execAsyncTrapTaken (q : SeqRef) (s : State) : Host.Outcome State Fault Refusal :=
  let v := s.seq q
  match firstHeld v.held with
  | none => .next s
  | some h =>
    if v.stopped || v.intrap || !v.atBoundary || (s.slot q.slot).halted then .next s
    else
      let s := s.endWaitOf q
      let v := s.seq q
      let s := s.setSeq q { v with held := v.held.erase h }
      .next (s.takeTrap q h.code true v.pc h.eval)

/-- A requested debug halt takes effect once both sequencers stand at boundaries (R314). -/
def execDebugHalt (slot : Nat) (s : State) : Host.Outcome State Fault Refusal := .next (s.tryHalt slot)

end Sys2Proof.Machine
end

