-- ==== Sys2Proof/Machine/Save.lean ====
section
/-! DEFINITION. Pre-emption and the context save (R311, R312, and what R90, R100, R120, R147, R177, R210, R221 add to it),
and what is free on a core (R98, R115, R145). -/

namespace Sys2Proof.Machine

-- What is free on a core.

def slotsOf (core : Nat) : List Nat := [4 * core, 4 * core + 1, 4 * core + 2, 4 * core + 3]
def State.freeSlots (s : State) (core : Nat) : List Nat := (slotsOf core).filter (fun k => (s.slot k).task.isNone)
def popcount12 (m : BitVec 12) : Nat := ((List.range 12).filter m.getLsbD).length
def State.freeBanks (s : State) (core : Nat) : Nat :=
  12 - ((s.grps.filter (fun e => e.2.core == core)).map (fun e => popcount12 e.2.mask)).sum
def State.freeClusters (s : State) (core : Nat) : Nat :=
  8 - ((slotsOf core).map (fun k => match (s.slot k).scope with | some sc => sc.cl.length | none => 0)).sum
def State.mxFree (s : State) (core : Nat) : Bool := (s.core core).mxGrp.isNone

-- The save.

/-- A cluster as it is saved: a wake has run to its end (R120, R122). -/
def Cluster.settled : Cluster → Cluster
  | .waking _ true => .drowsy
  | .waking _ false => .on
  | c => c
/-- A sequencer as it is saved: at a boundary, its loop buffer to be filled again from memory (R90). -/
def Seq.saved (q : Seq) : Seq := { q.endWait with loopBuf := [] }
/-- A slot as it is saved: unissued records keep their places, their pins released (R177); what was fetched ahead of them is fetched
again. -/
def Slot.saved (t : Slot) : Slot :=
  let free (q : List QRec) : List QRec := q.map (fun r => { r with pins := [] })
  { t with preReq := false, stepping := false, spincnt := 0, spinFrac := 0, ahead := []
           qmx := free t.qmx, qvx := free t.qvx, qcx := free t.qcx, qae := free t.qae
           scope := t.scope.map (fun sc => { sc with cl := sc.cl.map Cluster.settled }) }

/-- The task of a slot is saved (R312). -/
def State.saveSlot (s : State) (k : Nat) : State :=
  match (s.slot k).task with
  | none => s
  | some tk =>
    let s := ((s.beginSave tk.ctx).endWaitOf (seqA k)).endWaitOf (seqX k)
    let t := s.slot k
    let pins := ((t.qmx ++ t.qvx ++ t.qcx ++ t.qae).map QRec.pins).flatten
    let s := s.unpin pins
    let sv : SavedSlot := { grp := tk.grp, from_ := k, slot := t.saved, a := (s.seq (seqA k)).saved, x := (s.seq (seqX k)).saved }
    let c := s.ctx tk.ctx
    let s := s.setCtx tk.ctx { c with savedSlots := c.savedSlots ++ [sv] }
    let s := ((s.setSlot k { gen := t.gen + 1 }).setSeq (seqA k) {}).setSeq (seqX k) {}
    ((s.saveGrp tk.grp).settleCore (coreOf k)).settleCtx tk.ctx

/-- A pre-emption, or the stop of a task whose launch is ending, takes effect at a pre-emption point of the slot: both
sequencers at boundaries, no locked window open, and for a save no record running (R95, R304, R311, R312). -/
def execPreemption (slot : Nat) (s : State) : Host.Outcome State Fault Refusal :=
  let t := s.slot slot
  let here := (s.seq (seqA slot)).atPreempt && (s.seq (seqX slot)).atPreempt && t.lockend == 0
  if !here then .next s
  else if t.stopReq then .next (((s.endWaitOf (seqA slot)).endWaitOf (seqX slot)).stopTask slot)
  else if t.preReq && s.quiet slot then .next (s.saveSlot slot)
  else .next s

end Sys2Proof.Machine
end

