-- ==== Sys2Proof/Machine/Tile.lean ====
section
/-! DEFINITION. Register scopes and cluster power: SCOPEO (R117), SCOPEC (R118), VMODE (R122, R123), wakes (R121, R122). -/

namespace Sys2Proof.Machine

-- Which clusters a queued or running record names.

/-- The bytes of the tile file that a descriptor names; for an empty record, its base register. -/
def tileNames (q : QRec) (i : Nat) : Option (Nat × Nat) :=
  if dSpace (descI q.r i) != 0xC then none
  else match vTileRange q i with
    | some (lo, hi) => some (lo.toNat, hi.toNat)
    | none => some (dOff (descI q.r i), dOff (descI q.r i))
def namesCluster (q : QRec) (c : Nat) : Bool :=
  [0, 1, 2, 3].any (fun i => match tileNames q i with
    | some (lo, hi) => decide (lo < 8192 * (c + 1) ∧ 8192 * c ≤ hi) | none => false)
/-- Some record of the slot, queued, running or waiting for its place, names a register of the cluster. -/
def State.clusterNamed (s : State) (k c : Nat) : Bool := (s.takenOf k).any (fun q => namesCluster q c)

-- SCOPEO.

/-- The head of a core's request queue: it opens its scope when enough clusters are free, their bytes zero and without errors
(R413), or traps SCOPE where its slot has come to hold one. A restore that waits at the head takes its clusters itself (R120). -/
def State.grantScope (s : State) (core : Nat) : State :=
  let c := s.core core
  match c.scopeQ with
  | [] => s
  | (.back x g k, _) :: rest =>
    if (s.ctx x).savedSlots.any (fun v => v.grp == g && v.from_ == k) then s else s.setCore core { c with scopeQ := rest }
  | (.seq r, n) :: rest =>
    let need := (n + 7) / 8
    let t := s.slot r.slot
    let out := (s.setCore core { c with scopeQ := rest }).asSeq r
    if t.scope.isSome then out.trap scopeT
    else if s.freeClusters core < need then s
    else
      let t' := { t with
        scope := some { n := n, cl := List.replicate need .on, mem := [] }
        vuse := BitVec.ofNat 8 (2 ^ need - 1), vrest := false }
      ((out.setSlot r.slot t').scrubWhere (ofTile r.slot fun _ => true)).go
def execScopeo (g : Guard) (n : BitVec 7) (s : State) : Host.Outcome State Fault Refusal :=
  s.guarded g fun s =>
    if s.sl.scope.isSome then s.trap scopeT
    else
      let core := coreOf s.cur.slot
      let c := s.core core
      let s := (s.setCore core { c with scopeQ := c.scopeQ ++ [(.seq s.cur, n.toNat)] }).block (.scopeo g n)
      if c.scopeQ.isEmpty then s.grantScope core else s
/-- The head of the queue is served, unless a cause is due at its sequencer, which ends its wait first (R305). -/
def execScopeoGrant (core : Nat) (s : State) : Host.Outcome State Fault Refusal :=
  match (s.core core).scopeQ with
  | (.seq r, _) :: _ => .next (if (s.seq r).trapDue then s else s.grantScope core)
  | (.back _ _ _, _) :: _ => .next (s.grantScope core)
  | [] => .next s

-- SCOPEC.

/-- SCOPEC from its start: no effect without a scope. -/
def State.scopecDo (s : State) (g : Guard) : State :=
  if s.sl.scope.isNone then s.go
  else if (s.takenOf s.cur.slot).any namesTile then s.block (.scopec g)
  else (s.setSl s.sl.closeScope).go
def execScopec (g : Guard) (s : State) : Host.Outcome State Fault Refusal := s.guarded g fun s => s.scopecDo g

-- TEND (R195).

/-- TEND from its start: it performs SCOPEC first. A cause still held for the sequencer has no boundary left, and ends the
task unhandled (R216). -/
def State.tendDo (s : State) (g : Guard) : State :=
  let k := s.cur.slot
  if s.sl.scope.isSome && (s.takenOf k).any namesTile then s.block (.tend g)
  else
    let s := (s.setSl { s.sl.closeScope with moved := s.now }).closeLock k
    let pc := s.q.pc
    let s := s.setQ { { s.q with wait := none }.advance 8 with stopped := true, tendPc := pc }
    match firstHeld s.q.held with
    | some h => s.endUnhandled s.cur h.code true pc h.eval
    | none => if s.other.stopped then s.endTask k else s
def execTend (g : Guard) (s : State) : Host.Outcome State Fault Refusal := s.guarded g fun s => s.tendDo g

-- VMODE.

/-- One cluster under VMODE (R122). -/
def Cluster.vmode (c : Cluster) (use gated : Bool) : Cluster :=
  if use then
    match c with
    | .gated => .waking true false
    | .drowsy => .waking false false
    | .waking cold _ => .waking cold false
    | .on => .on
  else match c with
    | .gated => .gated
    | .on => if gated then .gated else .drowsy
    | .waking cold _ => if gated then .gated else .waking cold true
    | .drowsy => if gated then .gated else .drowsy
/-- VMODE's effect on the slot's clusters `lo` to `hi` - 1: the contents of a gated one are lost. -/
def Slot.vmode (t : Slot) (use : BitVec 8) (gated : Bool) (lo hi : Nat) : Slot :=
  match t.scope with
  | none => t
  | some sc =>
    let here (k : Nat) : Bool := decide (lo ≤ k ∧ k < hi)
    let cl := (List.range sc.cl.length).map (fun (k : Nat) =>
      let c := (sc.cl[k]?).getD .on
      if here k then c.vmode (use.getLsbD k) gated else c)
    let mem := sc.mem.filter (fun e => !(decide (e.1 / 8192 < sc.cl.length) && here (e.1 / 8192) && gated && !use.getLsbD (e.1 / 8192)))
    { t with scope := some { sc with cl := cl, mem := mem } }
/-- Their clusters, with the errors of those that are zeroed gone (R413). -/
def State.vmodeSpan (s : State) (use : BitVec 8) (gated : Bool) (lo hi : Nat) : State :=
  let cl := match s.sl.scope with | some sc => sc.cl | none => []
  (s.setSl (s.sl.vmode use gated lo hi)).scrubWhere (ofTile s.cur.slot fun w =>
    decide (lo ≤ w / 1024 ∧ w / 1024 < hi) && use.getLsbD (w / 1024) && cl[w / 1024]? == some .gated)
/-- The first cluster, from `lo` on, that is to be gated while a record of the slot names it: VMODE stalls there (R122). -/
def State.vmodeStall (s : State) (use : BitVec 8) (gated : Bool) (lo : Nat) : Option Nat :=
  match s.sl.scope with
  | none => none
  | some sc => (List.range sc.cl.length).find? (fun (k : Nat) => decide (lo ≤ k) &&
      gated && !use.getLsbD k && sc.cl[k]? != some .gated && s.clusterNamed s.cur.slot k)
/-- USE and REST once every cluster has been seen to; without a scope VMODE has no effect. -/
def Slot.vmodeEnd (t : Slot) (use : BitVec 8) (gated : Bool) : Slot :=
  match t.scope with
  | none => t
  | some sc => { t with vuse := use &&& BitVec.ofNat 8 (2 ^ sc.cl.length - 1), vrest := gated }
/-- VMODE on all of the slot's clusters from `lo` on. -/
def State.vmodeAll (s : State) (use : BitVec 8) (gated : Bool) (lo : Nat) : State :=
  let s := s.vmodeSpan use gated lo (match s.sl.scope with | some sc => sc.cl.length | none => 0)
  s.setSl (s.sl.vmodeEnd use gated)
/-- VMODE on the clusters from `lo` on, in rising order: it stands at the one it stalls at, as instruction `i` with `fin`, or
ends with `f`. -/
def State.vmodeRun (s : State) (i : Instr) (fin : Word) (use : BitVec 8) (gated : Bool) (lo : Nat) (f : State → State) : State :=
  match s.vmodeStall use gated lo with
  | some k =>
    let s := (s.vmodeSpan use gated lo k).block i k fin
    s.setQ { s.q with wait := s.q.wait.map (fun w => { w with tok := k }) }
  | none => f (s.vmodeAll use gated lo)
def State.vmodeDo (s : State) (g : Guard) (use : BitVec 8) (gated : Bool) (lo : Nat := 0) : State :=
  s.vmodeRun (.vmode g use gated) 0 use gated lo fun s => s.go
def execVmode (g : Guard) (use : BitVec 8) (gated : Bool) (s : State) : Host.Outcome State Fault Refusal :=
  s.guarded g fun s => s.vmodeDo g use gated
/-- A write of the VMODE CSR that changes USE or REST acts as a VMODE (R123); `old` is the value that it found. -/
def State.vmodeCsrDo (s : State) (g : Guard) (op : CsrOp) (d a : SReg) (old : Word) (lo : Nat := 0) : State :=
  let v := csrNew op old (s.q.s a)
  let use := v.extractLsb' 0 8; let rest := v.getLsbD 24
  if use == old.extractLsb' 0 8 && rest == old.getLsbD 24 then s.ret d old
  else s.vmodeRun (.vmodeCsrWrite g op d a) old use rest lo fun s => s.ret d old
def execVmodeCsrWrite (g : Guard) (op : CsrOp) (d a : SReg) (s : State) : Host.Outcome State Fault Refusal :=
  s.guarded g fun s => s.vmodeCsrDo g op d a s.sl.vmodeCsr

/-- The records that a SCOPEC, a TEND or a VMODE awaits have retired (R118, R122). -/
def execScopecDrain (q : SeqRef) (s : State) : Host.Outcome State Fault Refusal :=
  match (s.seq q).wait with
  | some { ins := .scopec g, .. } => .next ((s.asSeq q).scopecDo g)
  | some { ins := .tend g, .. } => .next ((s.asSeq q).tendDo g)
  | some { ins := .vmode g use gated, tok := k, .. } => .next ((s.asSeq q).vmodeDo g use gated k)
  | some { ins := .vmodeCsrWrite g op d a, tok := k, fin := old, .. } => .next ((s.asSeq q).vmodeCsrDo g op d a old k)
  | _ => .next s

/-- A wake runs to its end (R121, R122). -/
def execClusterWake (slot k : Nat) (s : State) : Host.Outcome State Fault Refusal :=
  let t := s.slot slot
  match t.scope with
  | none => .next s
  | some sc =>
    match sc.cl[k]? with
    | some (.waking c d) => .next (s.setSlot slot { t with scope := some { sc with cl := sc.cl.set k (Cluster.waking c d).settled } })
    | _ => .next s

end Sys2Proof.Machine
end

