-- ==== Sys2Proof/Machine/Tasks.lean ====
section
/-! DEFINITION. Task spawning (R197, R198), and edges (R196, R199, R200). -/

namespace Sys2Proof.Machine

-- Task records (R197).

def recN (b : List Byte) (off n : Nat) : Nat := leIn b off n
def recW (b : List Byte) (off : Nat) : Word := BitVec.ofNat 64 (leIn b off 8)
/-- The valid edges of a task record: the inputs, then the outputs. -/
def recEdges (b : List Byte) : List Nat × List Nat :=
  let e := leIn b 40 8
  let one (k : Nat) : List Nat := if e / 2 ^ (16 * k + 12) % 2 = 1 then [e / 2 ^ (16 * k) % 4096] else []
  (one 0 ++ one 1, one 2 ++ one 3)
def recLevel (b : List Byte) : Nat := leIn b 48 8 % 8
def recHcnt (b : List Byte) : Nat := leIn b 48 8 / 256 % 64
/-- The byte offset of the first field that breaks R197, for a launch with these levels and edges. -/
def recBad (b : List Byte) (nlev nedge : Nat) : Option Nat :=
  let e := leIn b 40 8; let c := leIn b 48 8
  let (i, o) := recEdges b
  if leIn b 0 8 % 8 != 0 then some 0
  else if leIn b 8 8 % 8 != 0 then some 8
  else if leIn b 32 8 % 32 != 0 then some 32
  else if (BitVec.ofNat 64 e &&& 0xE000E000E000E000) != 0 || (i ++ o).any (fun k => decide (nedge ≤ k)) then some 40
  else if (BitVec.ofNat 64 c &&& 0xFFFFFFFFFFFFC0F8) != 0 || decide (nlev ≤ recLevel b) || decide (32 < recHcnt b) then some 48
  else if leIn b 56 8 != 0 then some 56
  else none

-- The launch of a context.

def State.setLaunch (s : State) (ctx : Nat) (l : Launch) : State := s.setCtx ctx { s.ctx ctx with launch := some l }
def Launch.nlev (l : Launch) : Nat := hdrN l.hdr 2 1 % 16
def Launch.nedge (l : Launch) : Nat := hdrN l.hdr 76 2
def Launch.ntq (l : Launch) : Nat := hdrN l.hdr 74 2
def Launch.tqRecords (l : Launch) : Nat := 2 ^ hdrN l.hdr 73 1

/-- TSPAWN with its record read and found good: it waits for a place in the queue, keeping the record (R198). -/
def State.tspawnPut (s : State) (g : Guard) (a : SReg) (qn : BitVec 8) (b : List Byte) : State :=
  let n := qn.toNat
  match s.launchOf s.cx, s.grp s.sl.grpOf with
  | some l, some grp =>
    let tq := tblGetD l.tqs n {}
    if l.tqRecords ≤ tq.items.length then
      let s := s.block (.tspawn g a qn)
      s.setQ { s.q with wait := s.q.wait.map (fun w => { w with read := b }) }
    else
      let at_ := hdrW l.hdr 56 + BitVec.ofNat 64 ((n * l.tqRecords + tq.tail % l.tqRecords) * 64)
      s.accept (s.writeG 2 s.cx at_ b (some s.cur.slot)) fun s =>
        let lv := recLevel b
        let sp : Spawn := { bytes := b, level := lv, idx := grp.idx.drop (lv - grp.level)
                            s8 := (List.range 8).map (fun i => s.q.s (BitVec.ofNat 6 (8 + i))) }
        let tq' : TaskQ := { tail := tq.tail + 1, items := tq.items ++ [sp] }
        match s.launchOf s.cx with
        | some l => (s.setLaunch s.cx { l with tqs := tblSet l.tqs n tq' }).go
        | none => s.go
  | _, _ => s.trap (prot (BitVec.ofNat 64 n))
/-- TSPAWN from its start (R198). A task without a launch has no task queue. -/
def State.tspawnDo (s : State) (g : Guard) (a : SReg) (qn : BitVec 8) : State :=
  let n := qn.toNat
  match s.launchOf s.cx, s.grp s.sl.grpOf with
  | some l, some _ =>
    if l.ntq ≤ n then s.trap (prot (BitVec.ofNat 64 n))
    else
      let addr := s.q.s a
      s.atAddr addr 64 fun s =>
        s.accept (s.readG 2 s.cx addr 64 (some s.cur.slot)) fun (b, s) =>
          match recBad b l.nlev l.nedge with
          | some off => s.trap (prot (BitVec.ofNat 64 off))
          | none => s.tspawnPut g a qn b
  | _, _ => s.trap (prot (BitVec.ofNat 64 n))
def execTspawn (g : Guard) (a : SReg) (q : BitVec 8) (s : State) : Host.Outcome State Fault Refusal :=
  s.guarded g fun s => s.tspawnDo g a q
def execTspawnRoom (q : SeqRef) (s : State) : Host.Outcome State Fault Refusal :=
  match (s.seq q).wait with
  | some { ins := .tspawn g a k, read := b, .. } => .next ((s.asSeq q).tspawnPut g a k b)
  | _ => .next s

-- Edges.

/-- An edge that the task may name: none beyond NEDGE, or for a DS ring of another die (R200). -/
def State.edge (s : State) (e : Nat) : Option Edge :=
  match s.launchOf s.cx with
  | none => none
  | some l =>
    match tblGet l.edges e with
    | some v => if e < l.nedge && (!v.ds || v.vdie == (s.dsOf s.cur.slot).1) then some v else none
    | none => none
def State.setEdge (s : State) (e : Nat) (v : Edge) : State :=
  match s.launchOf s.cx with | some l => s.setLaunch s.cx { l with edges := tblSet l.edges e v } | none => s
/-- The address of an item of a ring. -/
def Edge.itemAt (v : Edge) (ix : Nat) : Word := v.ring + BitVec.ofNat 64 (8 * (ix % v.cap))
/-- The task holds an unused reservation of the edge: of an item, or of a free place (R199). -/
def State.reserved (s : State) (e : Nat) (out : Bool) : Bool :=
  match s.sl.task with | some t => t.resv.contains (e, out) | none => false
def State.useResv (s : State) (e : Nat) (out : Bool) : State :=
  match s.sl.task with | some t => s.setSl { s.sl with task := some { t with resv := t.resv.erase (e, out) } } | none => s

/-- EPUSH from its start. -/
def State.epushDo (s : State) (g : Guard) (a : SReg) (en : BitVec 12) : State :=
  let e := en.toNat
  match s.edge e with
  | none => s.trap (prot (BitVec.ofNat 64 e))
  | some v =>
    let here := s.reserved e true
    if !here && v.free ≤ v.resF then s.block (.epush g a en)
    else
      let x := (s.q.s a).toNat
      let w := if v.ds then s.storeDs s.cur.slot (v.itemAt v.tail) 8 x else s.storeG s.cx (v.itemAt v.tail) 8 x
      s.accept w fun s =>
        let v' := { v with free := v.free - 1, tail := v.tail + 1, items := v.items + 1, resF := if here then v.resF - 1 else v.resF }
        ((if here then s.useResv e true else s).setEdge e v').go
def execEpush (g : Guard) (a : SReg) (e : BitVec 12) (s : State) : Host.Outcome State Fault Refusal :=
  s.guarded g fun s => s.epushDo g a e
def execEpushRoom (q : SeqRef) (s : State) : Host.Outcome State Fault Refusal :=
  match (s.seq q).wait with
  | some { ins := .epush g a e, .. } => .next ((s.asSeq q).epushDo g a e)
  | _ => .next s

/-- Take the item at the head, or do something else where none may be taken. -/
def State.edgePop (s : State) (e : Nat) (empty : State → State) (f : State → Word → State) : State :=
  match s.edge e with
  | none => s.trap (prot (BitVec.ofNat 64 e))
  | some v =>
    let here := s.reserved e false
    if !here && v.items ≤ v.resI then empty s
    else
      let r : Acc (Nat × State) :=
        if v.ds then (s.loadDs s.cur.slot (v.itemAt v.head) 8).bind fun x => .ok (x, s) else s.loadG s.cx (v.itemAt v.head) 8
      s.accept r fun (x, s) =>
        let v' := { v with items := v.items - 1, head := v.head + 1, free := v.free + 1, resI := if here then v.resI - 1 else v.resI }
        f ((if here then s.useResv e false else s).setEdge e v') (BitVec.ofNat 64 x)
def State.epopDo (s : State) (g : Guard) (d : SReg) (e : BitVec 12) : State :=
  s.edgePop e.toNat (fun s => s.block (.epop g d e)) fun s v => s.ret d v
def execEpop (g : Guard) (d : SReg) (e : BitVec 12) (s : State) : Host.Outcome State Fault Refusal :=
  s.guarded g fun s => s.epopDo g d e
def execEpopItem (q : SeqRef) (s : State) : Host.Outcome State Fault Refusal :=
  match (s.seq q).wait with
  | some { ins := .epop g d e, .. } => .next ((s.asSeq q).epopDo g d e)
  | _ => .next s
def execEtry (g : Guard) (d : SReg) (p : PReg) (e : BitVec 12) (s : State) : Host.Outcome State Fault Refusal :=
  s.guarded g fun s =>
    s.edgePop e.toNat (fun s => s.retP p false) fun s v => (s.setQ (s.q.setP p true)).ret d v

end Sys2Proof.Machine
end

