-- ==== Sys2Proof/Machine/Restore.lean ====
section
/-! DEFINITION. What a core and a die can take (R98, R101, R109, R110, R145), and the context restore (R14, R100, R109, R120,
R147, R177, R286, R298, R312). -/

namespace Sys2Proof.Machine

-- Fields of a launch record (R189 to R191).

def lvN (h : BitVec 2048) (lev off n : Nat) : Nat := hdrN h (80 + 16 * lev + off) n
def lvExtent (h : BitVec 2048) (lev : Nat) : Nat := lvN h lev 0 4
def lvDomain (h : BitVec 2048) (lev : Nat) : Nat := lvN h lev 4 1 % 8
def lvScope (h : BitVec 2048) (lev : Nat) : Nat := lvN h lev 4 1 / 16 % 8
def hNlev (h : BitVec 2048) : Nat := hdrN h 2 1 % 16
def hReissue (h : BitVec 2048) : Bool := hdrN h 3 1 % 2 == 1
def hCosched (h : BitVec 2048) : Bool := hdrN h 3 1 / 2 % 2 == 1
def hApc (h : BitVec 2048) : Word := hdrW h 16
def hXpc (h : BitVec 2048) : Word := hdrW h 8
def levels (h : BitVec 2048) : List Nat := List.range (hNlev h)
/-- The outermost level of a domain. -/
def outermost (h : BitVec 2048) (ok : Nat → Bool) : Option Nat := ((levels h).filter (fun l => ok (lvDomain h l))).getLast?
/-- The level of the core group: the innermost CORE level, or the task (R190). -/
def coreLevel (h : BitVec 2048) : Nat := ((levels h).find? (fun l => lvDomain h l == 1)).getD 0
def hMask (h : BitVec 2048) : BitVec 12 := BitVec.ofNat 12 (lvN h (coreLevel h) 6 2)
def hMx (h : BitVec 2048) : Bool := lvN h (coreLevel h) 5 1 % 2 == 1
/-- Nodes of a level per parent on this package: a GANG level has the one node BASEIDX. -/
def lvNodes (h : BitVec 2048) (lev : Nat) : Nat := if lvDomain h lev = 4 then 1 else lvExtent h lev
def nodesBetween (h : BitVec 2048) (lo hi : Nat) : Nat :=
  ((levels h).filter (fun l => decide (lo ≤ l ∧ l < hi))).foldl (fun n l => n * lvNodes h l) 1
/-- Core groups of the launch, and tasks of each. -/
def nGroups (h : BitVec 2048) : Nat := nodesBetween h (coreLevel h) (hNlev h)
def nTasksOf (h : BitVec 2048) : Nat := nodesBetween h 0 (coreLevel h)
-- The level whose nodes share a die, or a core (R190).

def dieLevel (h : BitVec 2048) : Option Nat := outermost h (fun d => d == 2)
def outerCore (h : BitVec 2048) : Option Nat := (outermost h (fun d => d == 1)).filter (fun l => l != coreLevel h)
/-- The node of level `lev` that a core group belongs to. -/
def ancestor (h : BitVec 2048) (lev lin : Nat) : Nat := lin / nodesBetween h (coreLevel h) lev
-- Room.


/-- Banks and MX for a group (R101, R145). -/
def State.canTake (s : State) (c : Nat) (mask : BitVec 12) (mx : Bool) : Bool :=
  s.coreUp c && decide (popcount12 mask ≤ s.freeBanks c) && (!mx || s.mxFree c)
def Launch.dsUnits (l : Launch) : Nat := hdrN l.hdr 4 4
/-- The virtual dies of a context's launch that hold DS on a die: some group of the launch there is unfinished, placed or taken
off by grid starvation (R109, R206). -/
def State.dsVdies (s : State) (ctx : Nat) (c : Ctx) (d : Nat) : List Nat :=
  match c.launch with
  | none => []
  | some l => ((l.dies.zipIdx).filter (fun (e : Nat × Nat) => e.1 == d &&
      (s.grps.any (fun g => g.2.ctx == ctx && g.2.vdie == e.2) || (c.resident && c.savedGrps.any (fun g => g.grp.vdie == e.2))))).map
        (fun e => e.2)
def State.holdsDs (s : State) (ctx : Nat) (c : Ctx) (d : Nat) : Bool := !(s.dsVdies ctx c d).isEmpty
/-- Free DS of a die in units of 64 KiB. -/
def State.dsFree (s : State) (d : Nat) : Nat :=
  1024 - (s.ctxs.map (fun e =>
    (s.dsVdies e.1 e.2 d).length * (match e.2.launch with | some l => l.dsUnits | none => 0))).sum
/-- The launch has an allocation of DS on the die for virtual die `v`, or room for one, and none there for another virtual die:
it has one allocation on each die (R109, R110). -/
def State.dsRoom (s : State) (ctx : Nat) (l : Launch) (v d : Nat) : Bool :=
  match s.dsVdies ctx (s.ctx ctx) d with
  | [] => decide (l.dsUnits ≤ s.dsFree d)
  | vs => vs == [v]
/-- Virtual die `v` of the launch lies on die `d`. -/
def putDie (l : List Nat) (v d : Nat) : List Nat :=
  if v < l.length then l.set v d else l ++ List.replicate (v - l.length) d ++ [d]

-- Restore.

/-- A record that a restore pins again, or, where its pages fail the check, the trap that it then meets (R177). None while the pin
table lacks room, or a stack is not ready. -/
def State.repin (s : State) (e : Eng) (k : Nat) (q : QRec) : Option (State × Option (QRec × Word)) :=
  match s.recordPages q with
  | .trap t => some (s, some (q, t.eval))
  | .stall => none
  | .ok ps =>
    if s.pinRoom ps then
      let t := s.slot k
      some ((s.setSlot k (t.setQueue e (t.queue e ++ [{ q with pins := ps }]))).pin ps, none)
    else none
/-- The records whose pages failed fault with cause PAGE, once everything is back: a task that this ends unhandled is stopped with all
its records, and so are the others of its launch (R177, R304). One of a task that such a fault has ended is discarded with it. -/
def State.repinFaults (s : State) (bad : List (QRec × Word)) : State :=
  bad.foldl (fun (s : State) (b : QRec × Word) =>
    match (s.slot b.1.who.slot).task with
    | some t => if t.grp == b.1.grp then s.recFaulted b.1 0x04 b.2 else s
    | none => s) s
/-- An engine of another core or die has not served the slot yet (R13). -/
def Slot.unserved (t : Slot) (was k : Nat) : Slot :=
  let t := if coreOf was == coreOf k then t else { t with servMx := 0, servVx := 0, servCx := 0 }
  if dieOf (coreOf was) == dieOf (coreOf k) then t else { t with servAe := 0 }
/-- The clusters that a saved task needs. -/
def SavedSlot.need (v : SavedSlot) : Nat := match v.slot.scope with | some sc => sc.cl.length | none => 0
/-- The saved tasks of a group. -/
def Ctx.savedIn (c : Ctx) (key : Nat) : List SavedSlot := c.savedSlots.filter (fun t => t.grp == key)
/-- A restore may take clusters now: no request in the core's queue came before its own (R117, R120). -/
def State.scopeTurn (s : State) (ctx core : Nat) (a : Asker) : Bool :=
  let own (e : Asker × Nat) : Bool := match e.1 with | .back x _ _ => x == ctx | .seq _ => false
  let q := (s.core core).scopeQ
  q.all own || (q.takeWhile own).any (fun e => e.1 == a)
/-- A request leaves every core's queue. -/
def State.unask (s : State) (a : Asker) : State :=
  { s with cores := s.cores.map (fun (e : Nat × Core) =>
      if e.2.scopeQ.any (fun x => x.1 == a) then (e.1, { e.2 with scopeQ := e.2.scopeQ.filter (fun x => x.1 != a) }) else e) }
/-- The tasks of a saved group that need clusters stand in the request queue of the core they are to come back on (R120). -/
def State.askBack (s : State) (ctx : Nat) (v : SavedGrp) (core : Nat) : State :=
  (((s.ctx ctx).savedIn v.key).filter (fun t => t.need != 0)).foldl (fun (s : State) t =>
    let a : Asker := .back ctx v.key t.from_
    if (s.core core).scopeQ.any (fun e => e.1 == a) then s
    else
      let s := s.unask a
      let c := s.core core
      s.setCore core { c with scopeQ := c.scopeQ ++ [(a, t.need)] }) s
/-- Put a saved task into a free slot of its group's core, with its queues and its records; those that fail their check are told
apart. A scope takes its clusters in its turn at the core's request queue (R117, R120). -/
def State.restoreSlot (s : State) (v : SavedSlot) (k : Nat) (ending : Bool) : Option (State × List (QRec × Word)) :=
  let move (q : QRec) : QRec := { q with who := { slot := k, x := q.who.x } }
  let t := { v.slot.unserved v.from_ k with
    qmx := [], qvx := [], qcx := [], qae := [], gen := (s.slot k).gen, stopReq := ending }
  let a : Asker := .back v.slot.ctxOf v.grp v.from_
  if 0 < v.need && (decide (s.freeClusters (coreOf k) < v.need) || !s.scopeTurn v.slot.ctxOf (coreOf k) a) then none
  else
    let s := (((if 0 < v.need then s.unask a else s).setSlot k t).setSeq (seqA k) v.a).setSeq (seqX k) v.x
    let s := s.scrubWhere (ofTile k fun _ => true)
    let recs := (v.slot.qmx.map (fun q => (Eng.mx, q))) ++ (v.slot.qvx.map (fun q => (Eng.vx, q)))
      ++ (v.slot.qcx.map (fun q => (Eng.cx, q))) ++ (v.slot.qae.map (fun q => (Eng.ae, q)))
    recs.foldlM (fun (s, bad) (e, q) => (s.repin e k (move q)).map (fun (t, b) => (t, bad ++ b.toList))) (s, [])
/-- Placed groups of an outer CORE node share its core (R190): the core is that of those that are placed, or any where none is. -/
def State.coreMates (s : State) (ctx : Nat) (l : Launch) (g : Grp) (core : Nat) : Bool :=
  match outerCore l.hdr with
  | none => true
  | some lev => s.grps.all (fun e => e.2.ctx != ctx || ancestor l.hdr lev e.2.lin != ancestor l.hdr lev g.lin || e.2.core == core)
/-- A core can take a saved group, tile clusters apart: banks, MX, slots, its die's DS, and its outer CORE node. -/
def State.backFits (s : State) (ctx : Nat) (v : SavedGrp) (core : Nat) : Bool :=
  let g := v.grp
  let c := s.ctx ctx
  match c.launch with
  | none => false
  | some l =>
    let dsOk := if s.grps.any (fun e => e.2.ctx == ctx && e.2.vdie == g.vdie) then l.dies[g.vdie]? == some (dieOf core)
      else s.dsRoom ctx l g.vdie (dieOf core)
    s.canTake core g.mask g.mxUse && decide ((c.savedIn v.key).length ≤ (s.freeSlots core).length) && dsOk && s.coreMates ctx l g core
/-- Bring back a saved group on a core: banks and formats, MX state, and its tasks in the core's free slots. All groups of one
virtual die come back on one die, with its DS (R109). What is written back is free of errors (R413). -/
def State.restoreGrp (s : State) (ctx : Nat) (v : SavedGrp) (core : Nat) : Option (State × List (QRec × Word)) :=
  let g := v.grp
  let c := s.ctx ctx
  let mine := c.savedIn v.key
  let free := s.freeSlots core
  match c.launch with
  | none => none
  | some l =>
    let d := dieOf core
    if !s.backFits ctx v core then none
    else
      let placed := s.grps.any (fun e => e.2.ctx == ctx && e.2.vdie == g.vdie)
      let homes := match outerCore l.hdr with
        | some lev => tblSet l.coreHomes (ancestor l.hdr lev g.lin) core | none => l.coreHomes
      let c' := { c with
        savedGrps := c.savedGrps.filter (fun x => x.key != v.key), savedSlots := c.savedSlots.filter (fun t => t.grp != v.key)
        launch := some { l with dies := putDie l.dies g.vdie d, coreHomes := homes } }
      let s := (s.setCtx ctx c').setGrp v.key { g with core := core, placed := s.serial, since := s.now }
      let s := { s with serial := s.serial + 1 }
      let back := !placed && !(c.resident && l.dies[g.vdie]? == some d)
      let s := s.scrubWhere (fun u => ofBank v.key u || (back && ofDs ctx g.vdie u))
      let s := s.setCore core { s.core core with power := .on, waking := false }
      let m := s.core core
      let s := if g.mxUse then
          s.setCore core { m with mxGrp := some v.key, plane0 := v.plane0, plane1 := v.plane1, active := v.active, acc := v.acc }
        else s
      (mine.zip free).foldlM (fun (s, bad) (e : SavedSlot × Nat) =>
        (s.restoreSlot e.1 e.2 l.ending.isSome).map (fun (t, b) => (t, bad ++ b))) (s, [])

/-- The number of resident contexts besides the custodian, those that are still being saved included (R284). -/
def State.residents (s : State) : Nat := (s.ctxs.filter (fun e => e.1 != 0 && e.2.resident)).length
/-- An admitted context's saved groups come back on cores that can take them, its stash is applied in order, and it is
resident (R286). -/
def State.restoreAll (s : State) (ctx : Nat) (cores : List Nat) : Option State := do
  let c := s.ctx ctx
  if !c.admitted || c.resident || cores.length != c.savedGrps.length || s.shr.resmax ≤ s.residents then none
  else
    let (s, bad) ← (c.savedGrps.zip cores).foldlM (fun (s, bad) (e : SavedGrp × Nat) =>
      (s.restoreGrp ctx e.1 e.2).map (fun (t, b) => (t, bad ++ b))) (s, ([] : List (QRec × Word)))
    let s := s.repinFaults bad
    let s := s.stashAll ctx (stashOrder (s.ctx ctx).stash)
    if !(s.ctx ctx).stash.isEmpty then none
    else
      let c := s.ctx ctx
      return s.setCtx ctx { c with resident := true, admitted := false }
/-- The restore, after what CX and VX have to do for the stash (R326), or its place in the request queues of cores that lack tile
clusters for it alone (R120). -/
def execContextRestore (ctx : Nat) (cores : List Nat) (s : State) : Host.Outcome State Fault Refusal :=
  let c := s.ctx ctx
  if !c.admitted || c.resident || cores.length != c.savedGrps.length then .next s
  else
    let (s, go) := s.stashServe ctx (stashOrder c.stash)
    .next (if !go then s else match s.restoreAll ctx cores with
    | some t => t
    | none => (c.savedGrps.zip cores).foldl (fun (s : State) (e : SavedGrp × Nat) =>
        if s.backFits ctx e.1 e.2 && (s.restoreGrp ctx e.1 e.2).isNone then s.askBack ctx e.1 e.2 else s) s)

end Sys2Proof.Machine
end

