-- ==== Sys2Proof/Machine/Launch.lean ====
section
/-! DEFINITION. Launches: acceptance (R189 to R192, R196, R209), placement (R99, R101, R109, R110, R145, R146, R190, R203, R204),
task start (R75, R194, R199), the end (R193), a lost die (R205), grid starvation (R206), and core power (R203). -/

namespace Sys2Proof.Machine

/-- The indices of node `x` at levels `lo` to `hi − 1`, the innermost first (R190). -/
def nodeIdx (h : BitVec 2048) (hi : Nat) : Nat → Nat → Nat → List Nat
  | 0, _, _ => []
  | n + 1, lo, x =>
    if hi ≤ lo then [] else
    (if lvDomain h lo = 4 then lvN h lo 8 4 else x % lvNodes h lo) :: nodeIdx h hi n (lo + 1) (x / lvNodes h lo)
/-- The BFMT that bank `n` receives (R191). -/
def bankFmt (h : BitVec 2048) (n : Nat) : Word :=
  let e := hdrN h (208 + 4 * n) 4
  BitVec.ofNat 64 (e % 2 ^ 7 + e / 2 ^ 16 % 2 ^ 12 * 2 ^ 24)

-- The checks (R192).

/-- A level entry breaks R190. -/
def levelBad (h : BitVec 2048) (lev : Nat) : Bool :=
  let n := hNlev h
  if n ≤ lev then lvN h lev 0 16 != 0
  else
    let d := lvDomain h lev
    let need := match d with | 2 => 1 | 3 => 2 | 4 => 3 | _ => 0
    lvExtent h lev == 0 || decide (4 < d) || lvN h lev 4 1 / 8 % 2 != 0 || decide (4 < lvScope h lev)
      || decide (lvScope h lev < need) || lvN h lev 4 1 / 128 != 0 || decide (1 < lvN h lev 5 1) || lvN h lev 6 2 / 4096 != 0
      || lvN h lev 12 4 != 0
      || (if d = 4 then decide (lev + 1 ≠ n) || decide (lvExtent h lev ≤ lvN h lev 8 4) else lvN h lev 8 4 != 0)
      || (if lev = 0 then d != 0 else d == 0 || decide (d < lvDomain h (lev - 1)))
      || (lev != coreLevel h && (lvN h lev 5 1 != 0 || lvN h lev 6 2 != 0))
/-- A bank table entry breaks R191. -/
def bankBad (h : BitVec 2048) (n : Nat) : Bool :=
  let e := hdrN h (208 + 4 * n) 4
  decide (0xA < e % 16) || decide (5 < e / 16 % 8) || e / 2 ^ 7 % 2 ^ 9 != 0 || e / 2 ^ 28 != 0
    || (!(hMask h).getLsbD n && e != 0)
/-- A field of the record breaks R189 to R192; VSHAPE has reserved bits by R125. -/
def headerBad (h : BitVec 2048) : Bool :=
  (hdrW h 40 &&& ~~~vshapeMask) != 0 || hdrN h 0 2 != 1 || hNlev h == 0 || decide (8 < hNlev h) || hdrN h 2 1 / 16 != 0 || decide (3 < hdrN h 3 1)
    || hdrN h 8 8 % 8 != 0 || hdrN h 16 8 % 8 != 0 || hdrN h 32 8 % 32 != 0 || hdrN h 48 8 % 8 != 0 || hdrN h 56 8 % 64 != 0
    || hdrN h 64 8 % 32 != 0 || decide (32 < hdrN h 72 1)
    || (hdrN h 74 2 != 0 && (decide (hdrN h 73 1 < 4) || decide (12 < hdrN h 73 1)))
    || decide (256 < hdrN h 74 2) || decide (4096 < hdrN h 76 2) || hdrN h 78 2 != 0
    || (List.range 8).any (levelBad h) || (List.range 12).any (bankBad h)
    || decide (2 ^ 32 - 1 < nodesBetween h 0 (hNlev h))

/-- The edge that a descriptor of 32 bytes describes (R196). -/
def edgeOf (b : List Byte) (units : Nat) : Option Edge :=
  let f := byteAt b 8
  let ds := f % 2 == 1
  let ring := leIn b 0 8
  let cap := leIn b 10 2 + 1
  if ring % 8 != 0 || 2 < f / 2 % 8 || (!ds && f / 16 != 0) || byteAt b 9 != 0 || (b.drop 12).any (fun x => x != 0)
    || (ds && decide (units * 65536 < ring + 8 * cap)) then none
  else some { ring := BitVec.ofNat 64 ring, ds := ds, scope := f / 2 % 8, vdie := f / 16, cap := cap, free := cap }
/-- The edge table, read by the master: none while a stack is not ready, and then none where an edge is invalid. -/
def State.readEdges (s : State) (ctx : Nat) (h : BitVec 2048) : Option (Option (Tbl Edge) × State) :=
  (List.range (hdrN h 76 2)).foldl (fun r e =>
    match r with
    | some (some t, s) =>
      (match s.readG 33 ctx (hdrW h 64 + BitVec.ofNat 64 (32 * e)) 32 with
       | .stall => none
       | .trap t => some (none, if t.code = 0x20 then s.emit 4 ctx (leBytesN 8 t.eval.toNat) else s)
       | .ok (b, s) => (match edgeOf b (hdrN h 4 4) with
         | some v => some (some (t ++ [(e, v)]), s) | none => some (none, s)))
    | r => r) (some (some [], s))

-- Placement.

/-- How many core groups of a launch one core can hold, if its banks and MX bound that. -/
def perCore (h : BitVec 2048) : Option Nat :=
  let p := popcount12 (hMask h)
  if hMx h then some 1 else if p = 0 then none else some (12 / p)
/-- Groups of one outer CORE node fit a core, those of one DIE node a die, and all of them the dies present, which are those of
CAP0, a fenced one included (R192, R391; DESIGN CHOICE, log 32). -/
def fitsAll (h : BitVec 2048) (dies : Nat) : Bool :=
  match perCore h with
  | none => true
  | some n =>
    let (unit, perDie) := match outerCore h with
      | some l => let m := nodesBetween h (coreLevel h) l; (m, if n < m then 0 else 32 * (n / m))
      | none => (1, 32 * n)
    let groups := nGroups h / unit
    match dieLevel h with
    | some l =>
      let g := nodesBetween h (coreLevel h) l / unit
      decide (g ≤ perDie) && decide (groups / Nat.max 1 g ≤ dies * (perDie / Nat.max 1 g))
    | none => decide (groups ≤ dies * perDie)

/-- The linear index of the next held group: lost groups and those not yet placed in ascending order, then the groups that grid
starvation has taken off (R204, R206). -/
def Launch.nextHeld (l : Launch) : Option BackGrp :=
  let fresh : List Nat := if l.nextGrp < nGroups l.hdr then [l.nextGrp] else []
  let lost := (l.back.filter (fun b => b.saved.isNone)).map BackGrp.lin
  match (fresh ++ lost).foldl (fun (m : Option Nat) x => match m with | none => some x | some y => some (Nat.min x y)) none with
  | some x => some { lin := x }
  | none => l.back.head?
def Launch.take (l : Launch) (b : BackGrp) : Launch :=
  if b.saved.isNone && b.lin == l.nextGrp then { l with nextGrp := l.nextGrp + 1 } else { l with back := l.back.erase b }

/-- The core agrees with what R109, R110 and R190 fix for the group: its die and, for nested CORE levels, its core. -/
def State.homeOk (s : State) (ctx : Nat) (c : Ctx) (l : Launch) (lin core : Nat) : Bool :=
  let d := dieOf core
  let dieOk := match dieLevel l.hdr with
    | some lev => (match tblGet l.homes (ancestor l.hdr lev lin) with | some v => l.dies[v]? == some d | none => true)
    | none => true
  let coreOk := match outerCore l.hdr with
    | some lev => (match tblGet l.coreHomes (ancestor l.hdr lev lin) with | some k => k == core | none => true)
    | none => true
  dieOk && coreOk && (s.holdsDs ctx c d || decide (l.dsUnits ≤ s.dsFree d))
/-- Group `lin` can be placed on the core. -/
def State.canPlace (s : State) (ctx lin core : Nat) : Bool :=
  let c := s.ctx ctx
  match c.launch with
  | none => false
  | some l => s.canTake core (hMask l.hdr) (hMx l.hdr) && s.homeOk ctx c l lin core
/-- The virtual number of a die for a launch that places a group there: the one whose DS lies there, else the one it had before,
else the next one (R14, R109). -/
def placeDies (l : Launch) (held : List Nat) (d : Nat) : Launch × Nat :=
  match held with
  | v :: _ => (l, v)
  | [] =>
    match (l.dies.zipIdx).find? (fun (e : Nat × Nat) => e.1 == d) with
    | some (_, v) => (l, v)
    | none => ({ l with dies := l.dies ++ [d] }, l.dies.length)
/-- The core group is placed: its banks are zeroed and have their formats, so is the MX that it claims, and so is the DS of the
die where the launch has none there yet (R99, R109, R146). -/
def State.place (s : State) (ctx lin core : Nat) : State :=
  let c := s.ctx ctx
  match c.launch with
  | none => s
  | some l =>
    let h := l.hdr
    let held := s.dsVdies ctx c (dieOf core)
    let (l, v) := placeDies l held (dieOf core)
    let l := if held.isEmpty then { l with ds := tblErase l.ds v } else l
    let s := if held.isEmpty then s.scrubWhere (ofDs ctx v) else s
    let l := match dieLevel h with | some lev => { l with homes := tblSet l.homes (ancestor h lev lin) v } | none => l
    let l := match outerCore h with | some lev => { l with coreHomes := tblSet l.coreHomes (ancestor h lev lin) core } | none => l
    let lev := coreLevel h
    let g : Grp := { ctx := ctx, level := lev, lin := lin, idx := nodeIdx h (hNlev h) 8 lev lin, core := core, vdie := v,
                     mask := hMask h, mxUse := hMx h,
                     bfmt := (List.range 12).filterMap (fun n => if (hMask h).getLsbD n && bankFmt h n != 0 then some (n, bankFmt h n) else none),
                     nTasks := nTasksOf h, placed := s.serial, since := s.now }
    let gid := s.serial
    let s := ({ s with serial := s.serial + 1 }.setLaunch ctx l).setGrp gid g
    let s := s.powerUp core
    if g.mxUse then
      s.setCore core { s.core core with mxGrp := some gid, plane0 := {}, plane1 := {}, active := false, acc := [] }
    else s

-- Where a group goes (R203).

def State.allCores (s : State) : List Nat := List.range (32 * s.nDies)
def Ctx.savedGrp (c : Ctx) (key : Nat) : Option SavedGrp := c.savedGrps.find? (fun g => g.key == key)
/-- The core that a held group goes to: one that can take it, or, for a group that was taken off, restore it. -/
def State.coreFor (s : State) (ctx : Nat) (b : BackGrp) : Option Nat :=
  let c := s.ctx ctx
  match c.launch with
  | none => none
  | some l =>
    let can (core : Nat) : Bool :=
      match b.saved with
      | none => s.canPlace ctx b.lin core
      | some key => (match c.savedGrp key with | some g => (s.restoreGrp ctx g core).isSome | none => false)
    s.cheapest l.durs (s.allCores.filter can)
/-- Where no core can restore a group that was taken off, for want of tile clusters alone: the core on which it waits for them in the
request queue (R120, R203). -/
def State.coreToWait (s : State) (ctx : Nat) (b : BackGrp) : Option (SavedGrp × Nat) :=
  let c := s.ctx ctx
  match c.launch, b.saved.bind c.savedGrp with
  | some l, some g =>
    if (s.coreFor ctx b).isSome then none
    else (s.cheapest l.durs (s.allCores.filter (s.backFits ctx g))).map (fun k => (g, k))
  | _, _ => none

-- A COSCHED launch (R204).

/-- How many more groups of the launch a core can take. -/
def State.coreRoom (s : State) (h : BitVec 2048) (core : Nat) : Nat :=
  if !s.canTake core (hMask h) (hMx h) then 0
  else match perCore h with
    | none => nGroups h
    | some _ => if hMx h then 1 else s.freeBanks core / popcount12 (hMask h)
/-- The core takes group `lin` of those that are still to be placed, and with it all that must follow it: the held groups of its outer
CORE node on the core, those of its DIE node on the die. So a choice that can be made never makes placing the rest impossible, as all groups are alike. -/
def State.takesWhole (s : State) (ctx : Nat) (l : Launch) (todo : List Nat) (lin core : Nat) : Bool :=
  let h := l.hdr
  let mates := match outerCore h with
    | some lev => (todo.filter (fun x => ancestor h lev x == ancestor h lev lin)).length | none => 1
  let m := match outerCore h with | some lev => nodesBetween h (coreLevel h) lev | none => 1
  let newNode := match outerCore h with | some lev => (tblGet l.coreHomes (ancestor h lev lin)).isNone | none => true
  let coreOk := !newNode || decide (mates ≤ s.coreRoom h core)
  let dieOk := match dieLevel h with
    | some lev => (tblGet l.homes (ancestor h lev lin)).isSome ||
        decide (nodesBetween h (coreLevel h) lev / m ≤ ((List.range 32).map (fun k => s.coreRoom h (32 * dieOf core + k) / m)).sum)
    | none => true
  s.canPlace ctx lin core && coreOk && dieOk
/-- All held groups of a COSCHED launch at once; none where they cannot be placed together. -/
def State.placeAll (s : State) (ctx : Nat) : List Nat → Option State
  | [] => some s
  | lin :: rest =>
    match s.launchOf ctx with
    | none => none
    | some l =>
      match s.cheapest l.durs (s.allCores.filter (fun c => s.takesWhole ctx l (lin :: rest) lin c)) with
      | none => none
      | some c => State.placeAll (s.place ctx lin c) ctx rest
/-- Every held group of the launch: those lost with a die or core, then those never placed. -/
def Launch.heldLins (l : Launch) : List Nat :=
  l.back.map BackGrp.lin ++ (List.range (nGroups l.hdr)).drop l.nextGrp
def State.placeCosched (s : State) (ctx : Nat) (l : Launch) : Option State :=
  (s.setLaunch ctx { l with nextGrp := nGroups l.hdr, back := [] }).placeAll ctx l.heldLins

-- The order of placing (R204).

/-- What a context's launch has to place, and can: its next held group, or all of a COSCHED launch. -/
def State.hasPlace (s : State) (ctx : Nat) (l : Launch) : Bool :=
  match l.nextHeld with
  | none => false
  | some b => if hCosched l.hdr then (s.placeCosched ctx l).isSome else (s.coreFor ctx b).isSome
/-- Another context's held group that can be placed comes first: of higher effective priority, or of an older launch. -/
def State.outranked (s : State) (ctx : Nat) (l : Launch) : Bool :=
  s.ctxs.any (fun e => e.1 != ctx && e.2.stays &&
    (match e.2.launch with
     | some m => m.ending.isNone && (decide (s.eff ctx < s.eff e.1) || (s.eff ctx == s.eff e.1 && decide (m.serial < l.serial)))
         && s.hasPlace e.1 m
     | none => false))

/-- A distributor places the next held group of a context on the core that R203 names; a COSCHED launch is placed whole (R203,
R204). -/
def execGroupPlace (ctx core : Nat) (s : State) : Host.Outcome State Fault Refusal :=
  let c := s.ctx ctx
  match c.launch with
  | none => .next s
  | some l =>
    if !c.stays || l.ending.isSome || s.outranked ctx l then .next s
    else if hCosched l.hdr then .next ((s.placeCosched ctx l).getD s)
    else match l.nextHeld with
      | none => .next s
      | some b =>
        if s.coreFor ctx b != some core then
          .next (match s.coreToWait ctx b with
            | some (g, k) => if k = core then s.askBack ctx g core else s
            | none => s)
        else
          let t := s.setLaunch ctx (l.take b)
          match b.saved with
          | none => .next (t.place ctx b.lin core)
          | some key =>
            match c.savedGrp key with
            | none => .next t
            | some g => .next (match t.restoreGrp ctx g core with
              | some (u, bad) => (({ u with serial := u.serial + 1 } : State)).repinFaults bad
              | none => s)

-- Task start (R75, R194).

/-- The array of handles, at PKG scope. -/
def handlesOf (b : List Byte) (n : Nat) : Tbl (BitVec 256) :=
  (List.range n).filterMap (fun i => let v := BitVec.ofNat 256 (leIn b (32 * i) 32); if v = 0 then none else some (i, v))
/-- A sequencer at its entry. -/
def startSeq (pc : Word) (regs : List (Nat × Word)) (hs : Tbl (BitVec 256)) (stopped : Bool) : Seq :=
  { pc := pc, stopped := stopped, handles := hs, regs := regs.foldl (fun t r => tblPut t r.1 0 r.2) [] }
/-- A task starts in a free slot: an A stream whose entry is 0 has already ended, and a core that had become IDLE is ON (R203). A
fault on the handle array ends the task at its first instruction; a machine check sends its event record (R310). None while a
stack that holds the array is not ready. -/
def State.startTask (s : State) (k : Nat) (t : Task) (apc xpc : Word) (regs : List (Nat × Word)) (hptr : Word) (hcnt : Nat) :
    Option State :=
  let vs := match s.launchOf t.ctx with | some l => hdrW l.hdr 40 &&& vshapeMask | none => 0
  let begin_ (s : State) (hs : Tbl (BitVec 256)) : State :=
    let slot : Slot := { task := some { t with uid := s.serial, start := s.now }, gen := (s.slot k).gen, vshape := vs }
    let s := { s with serial := s.serial + 1 }.setSlot k slot
    let v := s.core (coreOf k)
    let s := if v.power == .on then s else s.setCore (coreOf k) { v with power := .on }
    (s.setSeq (seqA k) (startSeq apc regs hs (apc == 0))).setSeq (seqX k) (startSeq xpc regs hs false)
  match (s.setSlot k { s.slot k with task := some t }).readG (32 * hcnt + 1) t.ctx hptr (32 * hcnt) (some k) with
  | .stall => none
  | .ok (b, s) => some (begin_ s (handlesOf b hcnt))
  | .trap tr =>
    let r := if apc = 0 then seqX k else seqA k
    let s := begin_ s []
    let s := if tr.code = 0x20 then s.emit 4 t.ctx (leBytesN 8 tr.eval.toNat) else s
    some (s.takeTrap r tr.code false (if apc = 0 then xpc else apc) tr.eval)

/-- The slot can start a task of the group. -/
def State.slotFor (s : State) (g : Grp) (k : Nat) : Bool :=
  coreOf k == g.core && (s.slot k).task.isNone && !(s.core g.core).waking && s.coreUp g.core
/-- The next task of a group's own tree. -/
def State.issueTree (s : State) (ctx gid k : Nat) : Option State :=
  match s.grp gid, s.launchOf ctx with
  | some g, some l =>
    if g.ctx != ctx || g.nTasks ≤ g.nextTask || !s.slotFor g k then none
    else
      let h := l.hdr
      let idx := nodeIdx h g.level 8 0 g.nextTask ++ g.idx
      let regs := (1, hdrW h 24) :: (idx.zipIdx).map (fun (e : Nat × Nat) => (8 + e.2, BitVec.ofNat 64 e.1))
      let s := s.setGrp gid { g with nextTask := g.nextTask + 1, live := g.live + 1 }
      s.startTask k { ctx := ctx, grp := gid, idx := idx } (hApc h) (hXpc h) regs (hdrW h 32) (hdrN h 72 1)
  | _, _ => none
/-- The edges of a waiting record are ready (R199). -/
def Launch.edgesReady (l : Launch) (b : List Byte) : Bool :=
  let (i, o) := recEdges b
  i.all (fun e => match tblGet l.edges e with | some v => decide (v.resI < v.items) | none => false)
    && o.all (fun e => match tblGet l.edges e with | some v => decide (v.resF < v.free) | none => false)
/-- The group is one of the record's ancestor group (R197). -/
def joins (sp : Spawn) (g : Grp) : Bool := sp.idx.isSuffixOf g.idx
def State.groupsOf (s : State) (ctx : Nat) : List (Nat × Grp) := s.grps.filter (fun e => e.2.ctx == ctx)
/-- The head of a queue is eligible: its edges are ready, and a slot is free for it. -/
def State.headEligible (s : State) (ctx : Nat) (l : Launch) (q : TaskQ) : Bool :=
  match q.items with
  | [] => false
  | sp :: _ => l.edgesReady sp.bytes &&
      (s.groupsOf ctx).any (fun e => joins sp e.2 && (slotsOf e.2.core).any (fun k => s.slotFor e.2 k))
/-- Reserve each edge of the task once (R199). -/
def reserveEdges (l : Launch) (b : List Byte) : Launch × List (Nat × Bool) :=
  let (i, o) := recEdges b
  let i := dedup i; let o := dedup o
  let up (f : Edge → Edge) (t : Tbl Edge) (e : Nat) : Tbl Edge := tblModify t e f
  let t := i.foldl (up (fun v => { v with resI := v.resI + 1 })) l.edges
  let t := o.foldl (up (fun v => { v with resF := v.resF + 1 })) t
  ({ l with edges := t }, i.map (fun e => (e, false)) ++ o.map (fun e => (e, true)))
/-- The head of a task queue, the lowest-numbered eligible one, into a free slot. -/
def State.issueHead (s : State) (ctx q k : Nat) : Option State :=
  match s.launchOf ctx with
  | none => none
  | some l =>
    let tq := tblGetD l.tqs q {}
    if l.tqs.any (fun e => decide (e.1 < q) && s.headEligible ctx l e.2) then none
    else match tq.items with
    | [] => none
    | sp :: rest =>
      match (s.groupsOf ctx).find? (fun e => joins sp e.2 && s.slotFor e.2 k) with
      | none => none
      | some (gid, g) =>
        if !l.edgesReady sp.bytes then none
        else
          let b := sp.bytes
          let (l, resv) := reserveEdges { l with tqs := tblSet l.tqs q { tq with items := rest } } b
          let s := (s.setLaunch ctx l).setGrp gid { g with live := g.live + 1 }
          let regs := [(1, recW b 16), (2, recW b 24)] ++ (if sp.stage.isSome then [(3, sp.s3)] else []) ++ (sp.s8.zipIdx).map (fun (e : Word × Nat) => (8 + e.2, e.1))
          let t : Task := { ctx := ctx, grp := gid, idx := sp.idx, spawned := true, level := sp.level, resv := resv, stage := sp.stage }
          s.startTask k t (recW b 0) (recW b 8) regs (recW b 32) (recHcnt b)
def execTaskIssue (ctx : Nat) (src : IssueSrc) (slot : Nat) (s : State) : Host.Outcome State Fault Refusal :=
  let c := s.ctx ctx
  let ending := match c.launch with | some l => l.ending.isSome | none => true
  if !c.stays || ending then .next s
  else match src with
    | .tree gid => .next ((s.issueTree ctx gid slot).getD s)
    | .queue q => .next ((s.issueHead ctx q slot).getD s)

-- The end (R193).

/-- The launch has ended with this CODE: its status word, or the cause of the write's failure, and its event record. None
while a stack is not ready. -/
def State.finishLaunch (s : State) (ctx : Nat) (h : BitVec 2048) (code reissued : Nat) (info : EndInfo) : Option State :=
  let word := BitVec.ofNat 64 (reissued * 2 ^ 32 + code)
  let tail (s : State) (cause : Nat) : State :=
    let more := if code = 6 then leBytesN 2 info.core ++ leBytesN 2 info.slot ++ leBytesN 4 info.cause.toNat
        ++ leBytesN 8 info.epc.toNat ++ leBytesN 8 info.eval.toNat else []
    let s := s.emit 1 ctx (leBytesN 8 word.toNat ++ leBytesN 8 (hdrN h 48 8) ++ leBytesN 8 cause ++ more)
    s.setCtx ctx { s.ctx ctx with launch := none, savedGrps := [], savedSlots := [] }
  match s.writeG 9 ctx (hdrW h 48) (bytesOfLE 8 word.toNat) with
  | .stall => none
  | .ok s => some (tail s 0)
  | .trap t => some (tail (if t.code = 0x20 then s.emit 4 ctx (leBytesN 8 t.eval.toNat) else s) t.code)
/-- A remote store of the context's tasks still awaits its acknowledgement. -/
def State.storesOpen (s : State) (ctx : Nat) : Bool :=
  let store : Owner → Bool | .store .. => true | _ => false
  let out (o : OutMsg) : Bool := o.ctx == ctx && store o.own
  s.fab.conns.any (fun e => (e.2.out ++ (e.2.held.map Hold.msgs).flatten).any out)
    || s.fab.ports.any (fun e => e.2.queues.any (fun q => q.2.any out))
    || s.eth.pkts.any (fun o => o.ctx == ctx && store o.own)
/-- A launch ends DONE when every group has ended and every task queue is empty; one that is ending ends with its code when
none of its tasks runs. The write of its status covers every effect of its tasks: it waits for their remote stores, as their
records have waited for their messages. -/
def execLaunchEnd (ctx : Nat) (s : State) : Host.Outcome State Fault Refusal :=
  match s.launchOf ctx with
  | none => .next s
  | some _ =>
    let t := (s.groupsOf ctx).foldl (fun s e => s.settleGrp e.1) s
    let over_ (t : Option State) : State := match t with | some t => t.settleCtx ctx | none => s
    match t.launchOf ctx with
    | none => .next s
    | some l =>
      if !(t.groupsOf ctx).isEmpty || t.storesOpen ctx then .next s
      else match l.ending with
        | some (code, info) => .next (over_ (t.finishLaunch ctx l.hdr code l.reissued info))
        | none =>
          if !t.graft.binds.any (fun (e : Nat × Bind) => e.2.ctx == ctx && e.2.launch == l.serial) && l.nextHeld.isNone && (t.ctx ctx).savedGrps.isEmpty && l.tqs.all (fun e => e.2.items.isEmpty) then
            .next (over_ (t.finishLaunch ctx l.hdr 1 l.reissued {}))
          else .next s

/-- A die is ready (R394). -/
def State.someDie (s : State) : Bool := (List.range s.nDies).any (fun d => (s.die d).ready && !(s.die d).fenced)
/-- The master takes the head of a resident context's launch queue, when no launch of the context runs and a die is ready (R396): it
ends the launch at once, or accepts it and resets the semaphores (R192, R209). -/
def execLaunchAccept (ctx : Nat) (s : State) : Host.Outcome State Fault Refusal :=
  let c := s.ctx ctx
  match c.launchQ with
  | [] => .next s
  | h :: rest =>
    if !c.stays || c.launch.isSome || !s.someDie then .next s
    else
      let t := s.setCtx ctx { c with launchQ := rest }
      let refuse (t : State) (code : Nat) : State := (t.finishLaunch ctx h code 0 {}).getD s
      if headerBad h then .next (refuse t 3)
      else match t.readEdges ctx h with
      | none => .next s
      | some (none, t) => .next (refuse t 3)
      | some (some edges, t) =>
        if 1024 < hdrN h 4 4 then .next (refuse t 2)
        else if hCosched h && !fitsAll h t.nDies then .next (refuse t 4)
        else
          let l : Launch := { hdr := h, serial := t.serial, heldAt := t.now, edges := edges }
          let c := t.ctx ctx
          .next { t.setCtx ctx { c with launch := some l, sems := [], ctrs := [], fxc := [] } with serial := t.serial + 1 }

-- A lost die (R205).

/-- The task of a stage node for an item is lost with its core or die: the engine starts the item again (DESIGN CHOICE, log 28). -/
def StageNode.again (v : StageNode) (j : Nat) : StageNode :=
  if j < v.next then { v with next := j, ahead := (List.range (v.next - j - 1)).map (· + (j + 1)) ++ v.ahead }
  else { v with ahead := v.ahead.erase j }
def State.stageAgain (s : State) (t : Task) : State :=
  match t.stage with
  | some (nd, j) => if t.cut then s else { s with graft := { s.graft with stages := tblModify s.graft.stages nd (fun v => v.again j) } }
  | none => s
/-- What runs in a slot of a lost die is gone, its pins released. -/
def State.loseSlot (s : State) (k : Nat) : State :=
  let pins := ((s.recordsOf k).map QRec.pins).flatten ++ (s.seq (seqA k)).heldPins ++ (s.seq (seqX k)).heldPins
  let s := s.unpin pins
  let core := coreOf k
  let c := s.core core
  let s := s.setCore core { c with ch := c.ch.filter (fun e => e.2.q.who.slot != k), scopeQ := c.scopeQ.filter (fun e => e.1 != .seq (seqA k) && e.1 != .seq (seqX k)) }
  let s := match (s.slot k).task with
    | some t => (match s.launchOf t.ctx with | some l => s.setLaunch t.ctx (lapse l t.resv) | none => s).stageAgain t
    | none => s
  ((s.setSlot k { gen := (s.slot k).gen + 1 }).setSeq (seqA k) {}).setSeq (seqX k) {}
/-- The level whose groups the range table lists: the outermost whose domain is DIE or narrower. -/
def tableLevel (h : BitVec 2048) : Nat := (outermost h (fun d => decide (d ≤ 2))).getD 0
/-- The time since when some group is held, once more of them are (R206). -/
def Launch.heldFrom (l : Launch) (now : Word) : Word := if l.nextHeld.isSome then l.heldAt else now
/-- The unfinished groups of a launch on a core are placed again, or the launch ends DIELOST: the core is handled as a die is,
with its core groups as the lost groups. An outer CORE node of which groups are still to come leaves the core (R205). -/
def State.loseCoreGroups (s : State) (ctx core : Nat) : State :=
  let here := (s.groupsOf ctx).filter (fun e => e.2.core == core)
  match s.launchOf ctx with
  | none => s
  | some l =>
    let l := { l with coreHomes := l.coreHomes.filter (fun e => e.2 != core) }
    if here.isEmpty then s.setLaunch ctx l
    else
      let gone := here.map (fun e => e.1)
      let s := { s with grps := s.grps.filter (fun e => !gone.contains e.1) }
      if !hReissue l.hdr then (s.setLaunch ctx l).endLaunchWith ctx 5 {}
      else s.setLaunch ctx { l with
        back := here.map (fun e => { lin := e.2.lin }) ++ l.back, reissued := l.reissued + here.length, heldAt := l.heldFrom s.now }
/-- The unfinished groups of a launch on the die are placed again, or the launch ends DIELOST. -/
def State.loseGroups (s : State) (ctx d : Nat) : State :=
  let here := (s.groupsOf ctx).filter (fun e => dieOf e.2.core == d)
  match s.launchOf ctx with
  | none => s
  | some l =>
    let h := l.hdr
    let lev := tableLevel h
    let onDie := l.homes.filter (fun e => (s.ctx ctx).resident && l.dies[e.2]? == some d)
    -- groups that grid starvation has taken off, whose DS lies there, are unfinished groups of the die too
    let off := (s.ctx ctx).savedGrps.filter (fun g => (s.ctx ctx).resident && l.dies[g.grp.vdie]? == some d)
    let live := dedup ((here.map (fun e => e.2.lin) ++ off.map (fun g => g.grp.lin)).map (ancestor h lev))
    let open_ := (onDie.map (fun e => e.1)).filter (fun a => dieLevel h == some lev &&
      decide (l.nextGrp < (a + 1) * nodesBetween h (coreLevel h) lev) && decide (a * nodesBetween h (coreLevel h) lev < l.nextGrp))
    let lost := dedup (live ++ open_)
    if lost.isEmpty then s
    else
      let gone := here.map (fun e => e.1)
      let s := { s with grps := s.grps.filter (fun e => !gone.contains e.1) }
      if !hReissue h then s.endLaunchWith ctx 5 {}
      else
        let n := nodesBetween h (coreLevel h) lev
        let lins := ((lost.map (fun a => (List.range n).map (fun i => a * n + i))).flatten).filter (fun x => decide (x < l.nextGrp))
        let had := lins.filter (fun x => l.back.any (fun b => b.lin == x) || here.any (fun e => e.2.lin == x))
        let keep := l.back.filter (fun b => !lins.contains b.lin)
        let vs := l.dies.zipIdx.filter (fun (e : Nat × Nat) => (s.ctx ctx).resident && e.1 == d)
        let l' := { l with
          back := lins.map (fun x => { lin := x }) ++ keep, reissued := l.reissued + lost.length, heldAt := l.heldFrom s.now
          ended := l.ended - (lins.length - had.length)
          homes := l.homes.filter (fun e => !onDie.any (fun o => o.1 == e.1))
          coreHomes := l.coreHomes.filter (fun e => dieOf e.2 != d)
          ds := l.ds.filter (fun e => !vs.any (fun v => v.2 == e.1)) }
        let c := s.ctx ctx
        let gKeys := (c.savedGrps.filter (fun g => lins.contains g.grp.lin)).map (fun g => g.key)
        s.setCtx ctx { c with
          launch := some l'
          savedGrps := c.savedGrps.filter (fun g => !gKeys.contains g.key)
          savedSlots := c.savedSlots.filter (fun t => !gKeys.contains t.grp) }
/-- The lowest-numbered ready, unfenced die. -/
def State.electMaster (s : State) : State :=
  match (List.range s.nDies).find? (fun d => (s.die d).ready && !(s.die d).fenced) with
  | some d => { s with master := d } | none => s
/-- Contexts that leave and have no group left are resident no longer (R286). -/
def State.settleAll (s : State) : State := (s.ctxs.map (fun e => e.1)).foldl (fun s c => s.settleCtx c) s
/-- A fenced die's work is lost, and the surviving distributors elect a master. -/
def State.loseDie (s : State) (d : Nat) : State :=
  let s := s.electMaster
  let s := (s.ctxs.map (fun e => e.1)).foldl (fun s c => s.loseGroups c d) s
  let s := (List.range 128).foldl (fun s i => if (s.slot (128 * d + i)).task.isSome then s.loseSlot (128 * d + i) else s) s
  ({ s with cores := s.cores.filter (fun e => dieOf e.1 != d) }).settleAll
/-- A core is fenced: it takes no work any more, and what it runs is lost (R14, R205). -/
def State.fenceCore (s : State) (c : Nat) : State :=
  if 32 * s.nDies ≤ c || (s.core c).fenced then s
  else
    let s := (s.ctxs.map (fun e => e.1)).foldl (fun s x => s.loseCoreGroups x c) s
    let s := (slotsOf c).foldl (fun s k => if (s.slot k).task.isSome then s.loseSlot k else s) s
    (s.setCore c { power := (s.core c).power, fenced := true }).settleAll
def execDieFence (die : Nat) (s : State) : Host.Outcome State Fault Refusal :=
  .next (if (s.die die).fenced then s.loseDie die else s)

-- Grid starvation (R206).

/-- An instruction that leaves its group blocked. -/
def blocksGrid : Instr → Bool
  | .epush .. | .epop .. | .tspawn .. | .semwait .. | .scopeo .. | .waitt .. | .waittLock .. | .poll ..
  | .enq .. | .enqr .. | .enqm .. => true
  | _ => false
/-- Something has stood as it is for 20 µs. -/
def State.stood (s : State) (since : Word) : Bool := decide (since.toNat + 20000 ≤ s.now.toNat)
/-- A sequencer has been blocked for 20 µs, or has stopped. -/
def State.seqBlocked (s : State) (r : SeqRef) : Bool :=
  let q := s.seq r
  q.stopped || (match q.wait with | some w => blocksGrid w.ins && s.stood w.since | none => false)
/-- None of the slot's queued records can issue, and none has retired nor has a sequencer ended within 20 µs. -/
def State.recordsBlocked (s : State) (k : Nat) : Bool :=
  s.quiet k && s.stood (s.slot k).moved && [Eng.mx, .vx, .cx, .ae].all (fun e => match (s.slot k).queue e with
    | [] => true
    | q :: _ => !rNw q.r && !(s.sem q.ctx (rWsem q.r)).poison && !s.waitPasses q)
def State.slotsIn (s : State) (gid : Nat) : List Nat :=
  (s.slots.filter (fun e => match e.2.task with | some t => t.grp == gid | none => false)).map (fun e => e.1)
def State.groupBlocked (s : State) (gid : Nat) (g : Grp) : Bool :=
  s.stood g.since && (s.slotsIn gid).all (fun k => s.seqBlocked (seqA k) && s.seqBlocked (seqX k) && s.recordsBlocked k)
/-- The group placed last, the higher index on a tie. -/
def youngest (gs : List (Nat × Grp)) : Option (Nat × Grp) :=
  gs.foldl (fun best e => match best with
    | none => some e
    | some b => if b.2.placed < e.2.placed || (b.2.placed == e.2.placed && b.2.lin < e.2.lin) then some e else best) none
def execGridStarvation (ctx : Nat) (s : State) : Host.Outcome State Fault Refusal :=
  let c := s.ctx ctx
  let gs := s.groupsOf ctx
  match c.launch, youngest gs with
  | some l, some (gid, g) =>
    let ks := s.slotsIn gid
    if !c.stays || hCosched l.hdr || l.ending.isSome || l.nextHeld.isNone || !s.stood l.heldAt
      || !gs.all (fun e => s.groupBlocked e.1 e.2)
      || ks.any (fun k => (s.slot k).lockend != 0) then .next s
    else
      let s := if ks.isEmpty then s.saveGrp gid else ks.foldl (fun s k => s.saveSlot k) s
      let c := s.ctx ctx
      let n := if c.gridstarve = 0xFFFFFFFF then c.gridstarve else c.gridstarve + 1
      let l' := c.launch.map (fun l => { l with back := l.back ++ [{ lin := g.lin, saved := some gid }] })
      .next (s.setCtx ctx { c with gridstarve := n, launch := l' })
  | _, _ => .next s

-- Core power (R203).

/-- A core that holds a group's banks, MX or tile registers is never gated. -/
def State.coreHeld (s : State) (c : Nat) : Bool :=
  s.grps.any (fun e => e.2.core == c && (e.2.mask != 0 || e.2.mxUse)) || (s.core c).red.any (fun j => j.home.isNone) || (s.core c).mxGrp.isSome || (slotsOf c).any (fun k => (s.slot k).scope.isSome || (s.slot k).task.isSome)
def execCoreGate (core : Nat) (s : State) : Host.Outcome State Fault Refusal :=
  let v := s.core core
  .next (if v.power == .idle && !s.coreHeld core && v.since.toNat + 100000 ≤ s.now.toNat then
    s.setCore core { v with power := .gated, since := s.now } else s)
/-- The wake of a core ends. -/
def execCoreWake (core : Nat) (s : State) : Host.Outcome State Fault Refusal :=
  let v := s.core core
  .next (if v.waking then s.setCore core { v with waking := false } else s)

end Sys2Proof.Machine
end

