-- ==== Sys2Proof/Machine/Bind.lean ====
section
/-! DEFINITION. Pipelines and the graft engine: descriptors (R350, R351), identities (R352, R353), PBIND and its search (R354,
R355), PUNBIND (R359) and PQUERY (R361). -/

namespace Sys2Proof.Machine

-- The descriptor.

def gN (b : List Byte) (off n : Nat) : Nat := leIn b off n
def gW (b : List Byte) (off : Nat) : Word := BitVec.ofNat 64 (leIn b off 8)
def dNStage (b : List Byte) : Nat := gN b 0 1 % 16 + 1
def dJoinLate (b : List Byte) : Bool := gN b 1 1 % 2 == 1
def dOutEdge (b : List Byte) : Nat := gN b 2 2 % 4096
def dTq (b : List Byte) : Nat := gN b 4 1
def dLevel (b : List Byte) : Nat := gN b 5 1 % 8
def dStart (b : List Byte) : Nat := gN b 8 8
def dCount (b : List Byte) : Nat := gN b 16 8
def dSrc (b : List Byte) : BitVec 256 := BitVec.ofNat 256 (gN b 32 32)
/-- Field `off` of stage entry `k`. -/
def eN (b : List Byte) (k off n : Nat) : Nat := gN b (64 + 64 * k + off) n
def eW (b : List Byte) (k off : Nat) : Word := BitVec.ofNat 64 (eN b k off 8)
def eOsz (b : List Byte) (k : Nat) : Nat := eN b k 40 4
def eNslot (b : List Byte) (k : Nat) : Nat := eN b k 44 2
def eHcnt (b : List Byte) (k : Nat) : Nat := eN b k 46 1
/-- The address of item `j` in the output ring of stage `k`. -/
def slotAddr (b : List Byte) (k j : Nat) : Word := eW b k 32 + BitVec.ofNat 64 (j % eNslot b k * eOsz b k)
/-- The address of item `j` of the source. -/
def srcAddr (b : List Byte) (j : Nat) : Word := hBase (dSrc b) + BitVec.ofNat 64 (j * eOsz b 0)

def headOk (b : List Byte) (nlev nedge ntq : Nat) : Bool :=
  decide (gN b 0 1 < 16) && decide (gN b 1 1 < 2) && decide (gN b 2 2 < 4096) && decide (dOutEdge b < nedge) &&
  decide (dTq b < ntq) && decide (gN b 5 1 < 8) && decide (dLevel b < nlev) && gN b 6 2 == 0 &&
  decide (1 ≤ dCount b ∧ dCount b < 2 ^ 48) && handleOk (dSrc b) && hSpace (dSrc b) == 0 && hDense (dSrc b) &&
  decide (hSpan (dSrc b) ≤ 2 ^ 30)
def codeLenOk (n : Nat) : Bool := n % 8 == 0 && decide (8 ≤ n ∧ n ≤ 65536)
def entryOk (b : List Byte) (k : Nat) : Bool :=
  eN b k 0 8 % 8 == 0 && eN b k 8 8 % 8 == 0 && eN b k 16 8 % 32 == 0 && eN b k 32 8 % 64 == 0 &&
  eOsz b k % 64 == 0 && decide (64 ≤ eOsz b k ∧ eOsz b k ≤ 65536) && decide (1 ≤ eNslot b k ∧ eNslot b k ≤ 256) &&
  decide (eHcnt b k ≤ 32) && eN b k 47 1 == 0 && codeLenOk (eN b k 48 4) &&
  (if eN b k 8 8 = 0 then eN b k 52 4 == 0 else codeLenOk (eN b k 52 4)) && decide (eN b k 56 2 ≤ 256) && eN b k 58 6 == 0
/-- START + COUNT does not exceed the items of the source. -/
def rangeOk (b : List Byte) : Bool := decide (dStart b + dCount b ≤ hSpan (dSrc b) / eOsz b 0)

-- Regions and identities.

/-- Bytes of G read for the engine, as `kind`, without a charge. -/
def State.peekG : Nat → State → Access → Nat → Word → Nat → Acc (List Byte × State)
  | 0, s, _, _, _, _ => .ok ([], s)
  | fuel + 1, s, kind, ctx, va, n =>
    if n = 0 then .ok ([], s) else
    let m := Nat.min n (64 - va.toNat % 64)
    (s.translate ctx va kind).bind fun l =>
    (s.hbmGuard l.pa m false).bind fun _ =>
      let bs := s.readHbm l.pa m (s.keyVal l.key)
      (State.peekG fuel s kind ctx (va + BitVec.ofNat 64 m) (n - m)).bind fun (r, s) => .ok (bs ++ r, s)
/-- The physical pages of 64 KiB that a span reaches, in ascending virtual order (R353). -/
def State.physPages (s : State) (ctx : Nat) (va : Word) (n : Nat) : List Nat :=
  if n = 0 then [] else
  (List.range ((va.toNat + n - 1) / 65536 - va.toNat / 65536 + 1)).map (fun i =>
    match s.translate ctx (BitVec.ofNat 64 ((va.toNat / 65536 + i) * 65536)) .any with
    | .ok l => l.pa / 65536
    | _ => 0)
def State.canon (s : State) (ctx : Nat) (h : BitVec 256) : List Byte :=
  let pages := if hSpace h = 0 then s.physPages ctx (hBase h) (hSpan h) else []
  (bytesOfLE 32 h.toNat).drop 8 ++ bytesOfLE 8 ((hBase h).toNat % 65536) ++ pages.flatMap (bytesOfLE 8)
/-- H of R353. -/
def hash64 (x : List Byte) : Word := (sha3 x).truncate 64
/-- The share class of a context (R352). -/
def State.shareClass (s : State) (ctx : Nat) : Nat :=
  let d := (s.ctx ctx).keydom.toNat
  match tblGetD s.graft.classes d 0 with | 0 => d | c => 0x8000 + c
/-- What PBIND reads of a stage: its handles, its code, its parameters. -/
structure StageRead where
  hs   : List (BitVec 256)
  code : List Byte
  par  : List Byte
def State.stageRead (s : State) (ctx : Nat) (b : List Byte) (k : Nat) : Acc (StageRead × State) :=
  let n := eHcnt b k; let x := eN b k 48 4; let a := eN b k 52 4; let p := eN b k 56 2
  (s.peekG (n + 2) .read ctx (eW b k 16) (32 * n)).bind fun (h, s) =>
  (s.peekG (x / 64 + 2) .fetch ctx (eW b k 0) x).bind fun (xc, s) =>
  (s.peekG (a / 64 + 2) .fetch ctx (eW b k 8) a).bind fun (ac, s) =>
  (s.peekG 6 .read ctx (eW b k 24) p).bind fun (pr, s) =>
    .ok ({ hs := (List.range n).map (fun i => BitVec.ofNat 256 (leIn h (32 * i) 32)), code := xc ++ ac, par := pr }, s)
/-- The stages in order. -/
def State.stageReads (s : State) (ctx : Nat) (b : List Byte) : List Nat → Acc (List StageRead × State)
  | [] => .ok ([], s)
  | k :: r => (s.stageRead ctx b k).bind fun (v, s) => (State.stageReads s ctx b r).bind fun (vs, s) => .ok (v :: vs, s)
/-- Every page of every region of the bind: a page that fails, or the pages, each once (R354). -/
def State.bindPages (s : State) (ctx : Nat) (b : List Byte) (rs : List StageRead) : Acc (List Nat) :=
  let one (kind : Access) (va : Word) (n : Nat) : Acc (List Nat) := s.spanPages (spanFuel n) ctx kind va n
  let stage (e : StageRead × Nat) : List (Acc (List Nat)) :=
    let k := e.2
    one .read (eW b k 16) (32 * eHcnt b k) ::
      ((e.1.hs.filter (fun h => hSpace h == 0)).map (fun h => one .read (hBase h) (hSpan h)) ++
       [one .read (eW b k 24) (eN b k 56 2), one .fetch (eW b k 0) (eN b k 48 4), one .fetch (eW b k 8) (eN b k 52 4),
        one .rw (eW b k 32) (eOsz b k * eNslot b k)])
  (Acc.concat (one .read (hBase (dSrc b)) (hSpan (dSrc b)) :: rs.zipIdx.flatMap stage)).bind fun l => .ok (dedup l)
/-- Isrc and I[0], I[1], … (R353). -/
def State.identities (s : State) (ctx : Nat) (b : List Byte) (rs : List StageRead) : Word × List Word :=
  let sc := bytesOfLE 2 (s.shareClass ctx)
  let isrc := hash64 ([1] ++ s.canon ctx (dSrc b) ++ bytesOfLE 8 (gN b 24 8) ++ sc)
  let step (acc : Word × List Word) (e : StageRead × Nat) : Word × List Word :=
    let i := hash64 ([2] ++ bytesOfLE 32 (sha3 e.1.code).toNat ++ e.1.par ++ e.1.hs.flatMap (s.canon ctx)
      ++ bytesOfLE 4 (eOsz b e.2) ++ sc ++ bytesOfLE 8 acc.1.toNat)
    (i, acc.2 ++ [i])
  (isrc, (rs.zipIdx.foldl step (isrc, [])).2)

-- Nodes and instances.

def State.setBind (s : State) (k : Nat) (v : Bind) : State := { s with graft := { s.graft with binds := tblSet s.graft.binds k v } }
def State.setNode (s : State) (k : Nat) (v : StageNode) : State := { s with graft := { s.graft with stages := tblSet s.graft.stages k v } }
def State.atNode (s : State) (k : Nat) (f : StageNode → StageNode) : State :=
  { s with graft := { s.graft with stages := tblModify s.graft.stages k f } }
def State.bindAt (s : State) (k : Nat) : Option Bind := tblGet s.graft.binds k
def State.nodeAt (s : State) (k : Nat) : Option StageNode := tblGet s.graft.stages k
/-- The launch of a binding has ended, or is ending: never DONE, since the binding holds it (R359). -/
def State.launchGone (s : State) (b : Bind) : Bool :=
  match s.launchOf b.ctx with | some l => l.serial != b.launch || l.ending.isSome | none => true
/-- A binding is being released: by PUNBIND, or because its launch has ended otherwise (R359). -/
def State.bindGone (s : State) (b : Bind) : Bool := b.detaching || s.launchGone b
/-- The first nodes of instances, which have owners. -/
def State.roots (s : State) : List (Nat × StageNode) :=
  s.graft.stages.filter (fun (e : Nat × StageNode) => e.2.k == 0 && !e.2.owners.isEmpty)
def State.childOf (s : State) (parent : Nat) (id : Word) : Option Nat :=
  (s.graft.stages.find? (fun (e : Nat × StageNode) => e.2.parent == some parent && !e.2.owners.isEmpty && e.2.ident == id)).map
    (fun (e : Nat × StageNode) => e.1)
/-- The leading nodes of an instance that a chain of identities shares, from this node on. -/
def State.sharedPath (s : State) (at_ : Nat) : List Word → List Nat
  | [] => []
  | i :: r => match s.childOf at_ i with | some n => n :: State.sharedPath s n r | none => []
def State.pathOf (s : State) (isrc : Word) (ids : List Word) (root : Nat × StageNode) : List Nat :=
  let same := match root.2.owners with
    | o :: _ => (match s.bindAt o with | some b => b.isrc == isrc | none => false)
    | [] => false
  match ids with
  | i :: r => if same && root.2.ident == i then root.1 :: s.sharedPath root.1 r else []
  | [] => []
/-- An instance that a PBIND may join: its shared nodes, n(I), its number. -/
structure Cand where
  path : List Nat
  n    : Nat
  inst : Nat
/-- `x` is the better choice (R355). -/
def Cand.better (start : Nat) (late : Bool) (x y : Cand) : Bool :=
  let lx := x.path.length; let ly := y.path.length
  let ox := decide (x.n ≤ start); let oy := decide (y.n ≤ start)
  if lx != ly then decide (ly < lx)
  else if late && ox != oy then ox
  else if x.n != y.n then decide (x.n < y.n)
  else decide (x.inst < y.inst)
def State.searchInst (s : State) (isrc : Word) (ids : List Word) (start : Nat) (late : Bool) : Option Cand :=
  let cs := (s.roots.map (fun (e : Nat × StageNode) => ({ path := s.pathOf isrc ids e, n := e.2.next, inst := e.2.inst } : Cand))).filter
    (fun c => !c.path.isEmpty && (late || decide (c.n ≤ start)))
  cs.foldl (fun (best : Option Cand) c => match best with
    | none => some c
    | some b => if c.better start late b then some c else some b) none
/-- The consumers of a branch point: nodes that follow it, and owners that end there (R356). -/
def State.consumers (s : State) (nd : Nat) : Nat :=
  (s.graft.stages.filter (fun (e : Nat × StageNode) => e.2.parent == some nd)).length +
  (s.graft.binds.filter (fun (e : Nat × Bind) => e.2.nodes.getLast? == some nd && !e.2.left)).length
def State.branchEntry (s : State) (nd : Nat) : Bool := s.coll.groups.any (fun (e : Nat × Group) => e.2.branch == some nd)
/-- Add nodes for stages `k`, `k` + 1, … of a binding below `parent`. -/
def State.addNodes (s : State) (inst host first : Nat) (owners : List Nat) : Nat → Option Nat → List Word → State × List Nat
  | _, _, [] => (s, [])
  | k, parent, i :: r =>
    match tblFree s.graft.stages 1024 with
    | none => (s, [])
    | some n =>
      let s := s.setNode n { ident := i, inst := inst, k := k, parent := parent, owners := owners, host := host, first := first, next := first, fin := first }
      let (s, ns) := State.addNodes s inst host first owners (k + 1) (some n) r
      (s, n :: ns)

-- PBIND.

def bindErr (code : Nat) : Word := BitVec.ofNat 64 (2 ^ 63 + code)
/-- Search and join, once everything is checked: the state and the result (R354 to R356). -/
def State.bindJoin (s : State) (b : List Byte) (pins : List Nat) (isrc : Word) (ids : List Word) : State × Word :=
  let start := dStart b
  match tblFree s.graft.binds 64 with
  | none => (s, bindErr 2)
  | some id =>
    let c := s.searchInst isrc ids start (dJoinLate b)
    let path := match c with | some c => c.path | none => []
    let rest := ids.drop path.length
    if 1024 < s.graft.stages.length + rest.length then (s, bindErr 3)
    else
      let point := path.getLast?
      let branch := match point with | some nd => decide (1 ≤ s.consumers nd) && !s.branchEntry nd | none => false
      match branch, tblFree s.coll.groups 1024 with
      | true, none => (s, bindErr 4)
      | _, gid =>
        let s := match branch, gid, point with
          | true, some g, some nd =>
            { s with coll := { s.coll with groups := tblSet s.coll.groups g { owner := 65536, enc := false, members := [], branch := some nd } } }
          | _, _, _ => s
        let inst := match c with | some c => c.inst | none => s.serial
        let n := match c with | some c => c.n | none => start
        let j0 := Nat.max start n
        let (s, own) := s.addNodes inst id j0 (if c.isNone then [id] else []) path.length point rest
        let launch := match s.launchOf s.cx with | some l => l.serial | none => 0
        let idx := match s.grp s.sl.grpOf with | some g => g.idx.drop (dLevel b - g.level) | none => []
        let v : Bind := { ctx := s.cx, launch := launch, born := s.serial, inst := inst, bytes := b, idx := idx, isrc := isrc, ids := ids,
                          nodes := path ++ own, shared := path.length, j0 := j0, last := start + dCount b - 1, pins := pins,
                          attached := c.isNone }
        (({ s.pin pins with serial := s.serial + 1 }).setBind id v, BitVec.ofNat 64 id)
def State.pbindDo (s : State) (d : SReg) (addr : Word) : State :=
  match s.launchOf s.cx with
  | none => s.ret d (bindErr 1)
  | some l =>
    s.accept (s.readG 2 s.cx addr 64 (some s.cur.slot)) fun (h, s) =>
    s.accept (s.readG 17 s.cx (addr + 64) (64 * dNStage h) (some s.cur.slot)) fun (e, s) =>
      let b := h ++ e
      let ks := List.range (dNStage b)
      if !headOk b l.nlev l.nedge l.ntq || !ks.all (entryOk b) || !rangeOk b then s.ret d (bindErr 1)
      else match s.stageReads s.cx b ks with
      | .stall => s
      | .trap t => if t.code = 0x20 then s.trap t else s.ret d (bindErr 6)
      | .ok (rs, s) =>
        if !rs.all (fun r => r.hs.all (fun h => handleOk h && decide (hSpan h ≤ 2 ^ 30))) then s.ret d (bindErr 1)
        else match s.bindPages s.cx b rs with
        | .trap t => if t.code = 0x20 then s.trap t else s.ret d (bindErr 6)
        | .stall => s
        | .ok pins =>
          if !s.pinRoom pins then s.ret d (bindErr 5)
          else
            let (isrc, ids) := s.identities s.cx b rs
            let (s, v) := s.bindJoin b pins isrc ids
            s.ret d v
def execPbind (g : Guard) (d a : SReg) (s : State) : Host.Outcome State Fault Refusal :=
  s.guarded g fun s => s.atAddr (s.q.s a) 64 fun s => s.pbindDo d (s.q.s a)

-- PUNBIND.

/-- The binding leaves the owners of its nodes; it stays the host of those it hosts until they pass on (R359, R360). -/
def State.leaveNodes (s : State) (k : Nat) (b : Bind) : State :=
  let s := b.nodes.foldl (fun (s : State) n => s.atNode n (fun v => { v with owners := v.owners.filter (· != k) })) s
  s.setBind k { b with left := true }
/-- The binding that this context owns under a number. -/
def State.ownBind (s : State) (w : Word) : Option Bind :=
  match s.bindAt w.toNat with | some b => if b.ctx == s.cx then some b else none | none => none
def execPunbind (g : Guard) (d a : SReg) (s : State) : Host.Outcome State Fault Refusal :=
  s.guarded g fun s =>
    let k := (s.q.s a).toNat
    match s.ownBind (s.q.s a) with
    | none => s.ret d 1
    | some b =>
      if s.bindGone b then s.ret d 1
      else (({ s with serial := s.serial + 1 }).leaveNodes k { b with detaching := true, born := s.serial }).ret d 0

-- PQUERY.

def State.bindState (s : State) (b : Bind) : Nat :=
  if s.bindGone b then 3 else if b.faulted then 4
  else if !b.attached then 0 else if b.last < b.j0 + b.pushed then 2 else 1
def State.bindQuery (s : State) (b : Bind) (q : Nat) : Word :=
  let root := match b.nodes with | n :: _ => s.nodeAt n | [] => none
  let nst := dNStage b.bytes
  if q = 0 then
    let owners := match root with | some v => v.owners.length | none => 0
    BitVec.ofNat 64 (s.bindState b + b.shared * 2 ^ 8 + nst * 2 ^ 16 + owners * 2 ^ 24)
  else if q = 1 then BitVec.ofNat 64 b.j0
  else if q = 2 then BitVec.ofNat 64 b.pushed
  else if q = 3 then BitVec.ofNat 64 (match root with | some v => v.next | none => 0)
  else if q = 0x1FF then b.isrc
  else if 0x100 ≤ q ∧ q < 0x100 + nst then b.ids.getD (q - 0x100) 0
  else 0xFFFFFFFFFFFFFFFF
def execPquery (g : Guard) (d a b : SReg) (s : State) : Host.Outcome State Fault Refusal :=
  s.guarded g fun s =>
    match s.ownBind (s.q.s a) with
    | none => s.ret d 0xFFFFFFFFFFFFFFFF
    | some v => s.ret d (s.bindQuery v (s.q.s b).toNat)

end Sys2Proof.Machine
end

