-- ==== Sys2Proof/Machine/Graft.lean ====
section
/-! DEFINITION. Items in flight: stage tasks, branch copies and pushes (R357), attachment (R356), detachment and hand-over (R359,
R360). -/

namespace Sys2Proof.Machine

-- What has been done.

/-- A stage task of the node waits in a queue, runs or is saved. -/
def State.nodeLive (s : State) (nd : Nat) : Bool :=
  let is (t : Option Task) : Bool := match t with | some t => (match t.stage with | some (n, _) => n == nd | none => false) | none => false
  s.slots.any (fun (e : Nat × Slot) => is e.2.task) ||
  s.ctxs.any (fun (e : Nat × Ctx) =>
    e.2.savedSlots.any (fun v => is v.slot.task) ||
    (match e.2.launch with
     | some l => l.tqs.any (fun (q : Nat × TaskQ) =>
         q.2.items.any (fun sp => match sp.stage with | some (n, _) => n == nd | none => false))
     | none => false))
def StageNode.started (v : StageNode) (j : Nat) : Bool := decide (j < v.next) || v.ahead.contains j
/-- The task of the node for this item has ended, by itself: one that was stopped or lost leaves its item undone (R357, R360). -/
def StageNode.did (v : StageNode) (j : Nat) : Bool := decide (j < v.fin) || v.finAhead.contains j
def StageNode.begin (v : StageNode) (j : Nat) : StageNode :=
  let (n, l) := runOn (v.ahead.length + 1) v.next (j :: v.ahead)
  { v with next := n, ahead := l }
/-- The next item to be copied into a binding's ring of stage `k`. -/
def Bind.copyNext (b : Bind) (k : Nat) : Nat := tblGetD b.copied k b.j0
/-- The binding takes copies into its ring of stage `k`: another hosts that node, and what reads the ring is its own. -/
def State.copiesAt (s : State) (id : Nat) (b : Bind) (k : Nat) : Bool :=
  match b.nodes[k]? with
  | none => false
  | some n => match s.nodeAt n with
    | none => false
    | some v => b.attached && !s.bindGone b && v.host != id &&
      (match b.nodes[k + 1]? with
       | none => true
       | some m => match s.nodeAt m with | some w => w.host == id | none => false)
/-- Item `j` still stands in OUTEDGE, of which the oldest items leave first (R196, R357). -/
def State.unpopped (s : State) (b : Bind) (j : Nat) : Bool :=
  match s.launchOf b.ctx with
  | none => false
  | some l => match tblGet l.edges (dOutEdge b.bytes) with
    | none => false
    | some e => decide (j < b.j0 + b.pushed ∧ b.j0 + b.pushed ≤ j + e.items)
/-- The last item that a node's owners want. -/
def State.lastOf (s : State) (v : StageNode) : Nat :=
  v.owners.foldl (fun m o => match s.bindAt o with | some b => Nat.max m b.last | none => m) 0
/-- Every reader of item `j` in the ring of stage `k` of this binding has finished; a stage reads no item that its owners do not
want (R357). -/
def State.readersDone (s : State) (id : Nat) (b : Bind) (k j : Nat) : Bool :=
  let node := b.nodes.getD k 1024
  s.graft.stages.all (fun (e : Nat × StageNode) =>
    !(e.2.parent == some node && e.2.host == id && !e.2.owners.isEmpty) || decide (j < e.2.first ∨ s.lastOf e.2 < j)
      || e.2.did j) &&
  s.graft.binds.all (fun (e : Nat × Bind) =>
    !(e.1 != id && e.2.nodes[k]? == some node && (match s.nodeAt node with | some v => v.host == id | none => false) && s.copiesAt e.1 e.2 k)
    || decide (j < e.2.copyNext k ∨ e.2.last < j)) &&
  (s.bindGone b || k + 1 != b.nodes.length || decide (j < b.j0) || decide (b.last < j) ||
    (decide (j < b.j0 + b.pushed) && !s.unpopped b j))
/-- The slot of item `j` in a ring is free. -/
def State.slotFree (s : State) (id : Nat) (b : Bind) (k j : Nat) : Bool :=
  let n := eNslot b.bytes k
  decide (j < n) || s.readersDone id b k (j - n)

-- Quiescing.

/-- A change that waits for an instance to quiesce: a binding to be attached, or one that still hosts a node (R356, R360). -/
def State.change (s : State) (id : Nat) (b : Bind) : Bool :=
  !b.attached && !s.bindGone b ||
  s.bindGone b && s.graft.stages.any (fun (e : Nat × StageNode) => e.2.host == id && e.2.owners.any (· != id))
def State.changing (s : State) (inst : Nat) : Bool := s.graft.binds.any (fun (e : Nat × Bind) => e.2.inst == inst && s.change e.1 e.2)
/-- It is the earliest change of its instance. -/
def State.firstChange (s : State) (b : Bind) : Bool :=
  !s.graft.binds.any (fun (e : Nat × Bind) => e.2.inst == b.inst && s.change e.1 e.2 && decide (e.2.born < b.born))
/-- Every item that the instance has started has passed this branch point. -/
def State.passedAt (s : State) (n nd : Nat) (v : StageNode) : Bool :=
  (decide (n ≤ v.next) || decide (s.lastOf v < v.next)) && !s.nodeLive nd &&
  s.graft.binds.all (fun (e : Nat × Bind) =>
    !(e.2.nodes[v.k]? == some nd && s.copiesAt e.1 e.2 v.k) || decide (n ≤ e.2.copyNext v.k ∨ e.2.last < e.2.copyNext v.k))
/-- Items leave the trunk at this node: it has several consumers, or one that takes copies of it (R356). -/
def State.branchAt (s : State) (nd : Nat) (v : StageNode) : Bool :=
  decide (2 ≤ s.consumers nd) || s.graft.binds.any (fun (e : Nat × Bind) => e.2.nodes[v.k]? == some nd && s.copiesAt e.1 e.2 v.k)
/-- The instance has quiesced, as far as its branches and this node go: what is started has passed them, and where no owner is left
its tasks have ended (R356). -/
def State.quiesced (s : State) (inst : Nat) (also : Option Nat) : Bool :=
  match s.graft.stages.find? (fun (e : Nat × StageNode) => e.2.k == 0 && e.2.inst == inst) with
  | none => true
  | some root =>
    !s.nodeLive root.1 &&
    s.graft.stages.all (fun (e : Nat × StageNode) => e.2.inst != inst ||
      (if e.2.owners.isEmpty then !s.nodeLive e.1
       else !(s.branchAt e.1 e.2 || also == some e.1) || s.passedAt root.2.next e.1 e.2))
/-- A binding that is to be attached shares a node without owners that this one hosts: the node is kept for it (R356). -/
def State.keptFor (s : State) (host : Nat) : Bool :=
  s.graft.binds.any (fun (e : Nat × Bind) => !e.2.attached && !s.bindGone e.2 && e.1 != host &&
    (e.2.nodes.take e.2.shared).any (fun n => match s.nodeAt n with | some v => v.host == host && v.owners.isEmpty | none => false))
/-- No branch copy of the instance is still to be made of an item that is done (R360). -/
def State.copied (s : State) (inst : Nat) : Bool :=
  s.graft.binds.all (fun (e : Nat × Bind) => e.2.inst != inst || e.2.faulted || (e.2.nodes.zipIdx).all (fun (n : Nat × Nat) =>
    !s.copiesAt e.1 e.2 n.2 || decide (e.2.last < e.2.copyNext n.2) ||
      (match s.nodeAt n.1 with | some v => !v.did (e.2.copyNext n.2) | none => true)))

-- Stage tasks.

/-- The item is at hand: its source item, its host's own ring, or a copy in it (R357). -/
def State.inputAt (s : State) (v : StageNode) (b : Bind) (j : Nat) : Bool :=
  match v.parent with
  | none => true
  | some p => match s.nodeAt p with
    | none => false
    | some w => if w.host = v.host then w.did j else decide (j < b.copyNext (v.k - 1) ∧ b.j0 ≤ j)
/-- The task record of a stage task (R357, R197). -/
def stageRecord (b : List Byte) (k j : Nat) (input : Word) : List Byte :=
  bytesOfLE 8 (eN b k 8 8) ++ bytesOfLE 8 (eN b k 0 8) ++ bytesOfLE 8 j ++ bytesOfLE 8 input.toNat ++ bytesOfLE 8 (eN b k 16 8)
    ++ bytesOfLE 8 0 ++ bytesOfLE 8 (dLevel b + 256 * eHcnt b k) ++ bytesOfLE 8 0
/-- The engine spawns the task of a node for an item, into queue TQ of the host's launch. -/
def State.stageSpawn (s : State) (nd : Nat) (v : StageNode) (b : Bind) (j : Nat) : State :=
  match s.launchOf b.ctx with
  | none => s
  | some l =>
    let n := dTq b.bytes
    let tq := tblGetD l.tqs n {}
    if l.tqRecords ≤ tq.items.length then s
    else
      let input := if v.k = 0 then srcAddr b.bytes j else slotAddr b.bytes (v.k - 1) j
      let r := stageRecord b.bytes v.k j input
      let at_ := hdrW l.hdr 56 + BitVec.ofNat 64 ((n * l.tqRecords + tq.tail % l.tqRecords) * 64)
      match s.writeG 2 b.ctx at_ r with
      | .stall => s
      | .trap _ => s.setBind v.host { b with faulted := true }
      | .ok t =>
        let sp : Spawn := { bytes := r, level := dLevel b.bytes, idx := b.idx, s8 := List.replicate 8 0, stage := some (nd, j)
                            s3 := slotAddr b.bytes v.k j }
        match t.launchOf b.ctx with
        | none => t
        | some l =>
          (t.setLaunch b.ctx { l with tqs := tblSet l.tqs n { tail := tq.tail + 1, items := tq.items ++ [sp] } }).atNode nd
            (fun v => v.begin j)
def execStageTaskStart (node item : Nat) (s : State) : Host.Outcome State Fault Refusal :=
  match s.nodeAt node with
  | none => .next s
  | some v => match s.bindAt v.host with
    | none => .next s
    | some b =>
      let dead := match s.launchOf b.ctx with | some l => l.serial != b.launch || l.ending.isSome | none => true
      if v.owners.isEmpty || dead || b.detaching && !(v.owners.any (· != v.host)) || b.faulted || v.started item || item < v.first
          || s.lastOf v < item then .next s
      else if v.k = 0 && (item != v.next || s.changing v.inst) then .next s
      else if !s.inputAt v b item || !s.slotFree v.host b v.k item then .next s
      else .next (s.stageSpawn node v b item)

-- Branch copies and pushes.

/-- A branch copy between rings that both bindings have pinned, charged to the consumer as the HBM bytes that it reads and writes
(R174, R357, R358). -/
def State.copyInto (s : State) (id : Nat) (b : Bind) (k j : Nat) (host : Bind) : State :=
  let n := eOsz b.bytes k
  let copy : Eng' State := do
    let x ← s.pinnedRead (n / 64 + 2) host.ctx (slotAddr host.bytes k j) n
    s.pinnedWrite (n / 64 + 2) b.ctx (slotAddr b.bytes k j) x
  if !s.mayHbm b.ctx then s
  else match copy with
  | .error .stall => s
  | .error (.fault ..) => s.setBind id { b with faulted := true }
  | .ok t => (t.charge b.ctx 4 0 (2 * n)).setBind id { b with copied := tblSet b.copied k (j + 1) }
/-- The last stage of the binding has produced the item, in a ring of its own (R357). -/
def State.produced (s : State) (id : Nat) (b : Bind) (j : Nat) : Bool :=
  let k := b.nodes.length - 1
  match b.nodes.getLast? with
  | none => false
  | some n => match s.nodeAt n with
    | none => false
    | some v => if v.host = id then v.did j else decide (j < b.copyNext k)
/-- The engine pushes the item onto OUTEDGE as EPUSH does (R199, R357). -/
def State.pushItem (s : State) (id : Nat) (b : Bind) (j : Nat) : State :=
  let e := dOutEdge b.bytes
  match s.launchOf b.ctx with
  | none => s
  | some l => match tblGet l.edges e with
    | none => s
    | some v =>
      if v.free ≤ v.resF then s
      else
        let a := v.itemAt v.tail
        let w : Acc State :=
          if v.ds then s.putDs b.ctx v.vdie a.toNat 8 j else s.writeG 2 b.ctx a (bytesOfLE 8 j)
        match w with
        | .stall => s
        | .trap _ => s.setBind id { b with faulted := true }
        | .ok t =>
          let v' := { v with free := v.free - 1, tail := v.tail + 1, items := v.items + 1 }
          let t := match t.launchOf b.ctx with | some l => t.setLaunch b.ctx { l with edges := tblSet l.edges e v' } | none => t
          t.setBind id { b with pushed := b.pushed + 1 }
/-- An item goes on to a binding: it is copied into the binding's own ring where it leaves a stage that another hosts, else,
once it is produced, pushed onto OUTEDGE (R357, log 28). -/
def execBranchCopy (bind item : Nat) (s : State) : Host.Outcome State Fault Refusal :=
  match s.bindAt bind with
  | none => .next s
  | some b =>
    if !b.attached || s.bindGone b || b.faulted || b.last < item then .next s
    else
      let due (k : Nat) : Bool := s.copiesAt bind b k && b.copyNext k == item && s.slotFree bind b k item &&
        (match s.nodeAt (b.nodes.getD k 1024) with | some v => v.did item | none => false)
      match (List.range b.nodes.length).find? due with
      | some k =>
        match s.nodeAt (b.nodes.getD k 1024) with
        | none => .next s
        | some v => match s.bindAt v.host with
          | none => .next s
          | some h => .next (s.copyInto bind b k item h)
      | none => if item = b.j0 + b.pushed && s.produced bind b item then .next (s.pushItem bind b item) else .next s

-- Attachment.

def execAttach (bind : Nat) (s : State) : Host.Outcome State Fault Refusal :=
  match s.bindAt bind with
  | none => .next s
  | some b =>
    let point := if b.shared = 0 then none else b.nodes[b.shared - 1]?
    if b.attached || s.bindGone b || !s.firstChange b || !s.quiesced b.inst point then .next s
    else
      let s := (b.nodes.zipIdx).foldl (fun (s : State) (e : Nat × Nat) =>
        s.atNode e.1 (fun v => { v with owners := if e.2 < b.shared then v.owners ++ [bind] else [bind] })) s
      .next (s.setBind bind { b with attached := true })

-- Detachment.

/-- A node passes to the remaining owner with the lowest number (R360). -/
def State.handNode (s : State) (id : Nat) (e : Nat × StageNode) : State :=
  let os := e.2.owners.filter (· != id)
  match os with
  | [] => s
  | o :: r => s.atNode e.1 (fun v => { v with owners := os, host := r.foldl Nat.min o })
/-- The lowest item that a remaining owner, of those that take copies, has not yet received at its branch. -/
def State.leastWanted (s : State) (id : Nat) (b : Bind) : Option Nat :=
  let ws := (s.graft.binds.filter (fun (e : Nat × Bind) => e.1 != id && e.2.inst == b.inst && e.2.attached && !s.bindGone e.2)).filterMap
    (fun (e : Nat × Bind) => ((List.range e.2.nodes.length).find? (s.copiesAt e.1 e.2)).map e.2.copyNext)
  match ws with | [] => none | w :: r => some (r.foldl Nat.min w)
/-- A node and the nodes before it, up to stage 0. -/
def State.trunk (s : State) : Nat → Nat → List Nat
  | 0, _ => []
  | fuel + 1, n => n :: (match s.nodeAt n with
    | some v => (match v.parent with | some p => State.trunk s fuel p | none => [])
    | none => [])
/-- The trunk of some nodes starts again at an item: stage 0, whoever hosts it, and every stage from it to them (R360). -/
def State.restartAt (s : State) (n : Nat) (nodes : List Nat) : State :=
  (nodes.flatMap (s.trunk 16)).foldl (fun (s : State) nd => s.atNode nd (fun v => { v with next := n, ahead := [], fin := n, finAhead := [] })) s
/-- What is copied starts no earlier than the item from which the new host's tasks run. -/
def State.raiseCopies (s : State) (inst n : Nat) : State :=
  let up (b : Bind) : Bind :=
    if b.inst != inst || !b.attached then b
    else { b with copied := (List.range b.nodes.length).foldl (fun t k => tblSet t k (Nat.max (tblGetD t k b.j0) n)) b.copied }
  { s with graft := { s.graft with binds := s.graft.binds.map (fun (e : Nat × Bind) => (e.1, up e.2)) } }
/-- The nodes that a binding being released hosts for others pass on: from the next item, or, where its launch has ended, from a
restart of the instance (R360). -/
def State.handOver (s : State) (id : Nat) (b : Bind) : State :=
  let mine := s.graft.stages.filter (fun (e : Nat × StageNode) => e.2.host == id && e.2.owners.any (· != id))
  let restart := if s.launchGone b then s.leastWanted id b else none
  let s := match restart, s.roots.find? (fun (e : Nat × StageNode) => e.2.inst == b.inst) with
    | some n, _ => s.restartAt n (mine.map (fun e => e.1))
    | none, some root => s.raiseCopies b.inst root.2.next
    | none, none => s
  mine.foldl (fun (s : State) e => s.handNode id e) s
/-- What is left of a released binding goes: its pins, its id, nodes without owners, group entries no longer needed. -/
def State.freeBind (s : State) (id : Nat) (b : Bind) : State :=
  let s := s.unpin b.pins
  let s := { s with graft := { s.graft with
    binds := tblErase s.graft.binds id
    stages := s.graft.stages.filter (fun (e : Nat × StageNode) => !(e.2.host == id && e.2.owners.isEmpty)) } }
  { s with coll := { s.coll with groups := s.coll.groups.filter (fun (e : Nat × Group) => match e.2.branch with
      | some nd => decide (2 ≤ s.consumers nd)
      | none => true) } }
def execDetachComplete (bind : Nat) (s : State) : Host.Outcome State Fault Refusal :=
  match s.bindAt bind with
  | none => .next s
  | some b =>
    if !s.bindGone b then .next s
    else
      let s := if b.left then s else s.leaveNodes bind b
      let b := (s.bindAt bind).getD b
      let hosted := s.graft.stages.filter (fun (e : Nat × StageNode) => e.2.host == bind)
      let others := hosted.any (fun (e : Nat × StageNode) => !e.2.owners.isEmpty)
      let trunk := (hosted.map (fun e => e.1)).flatMap (s.trunk 16)
      let ready := if s.launchGone b then !trunk.any s.nodeLive && s.copied b.inst else s.firstChange b && s.quiesced b.inst none
      if others && !ready then .next s
      else
        let s := if others then s.handOver bind b else s
        .next (if s.keptFor bind || hosted.any (fun (e : Nat × StageNode) => s.nodeLive e.1) then s else s.freeBind bind b)

end Sys2Proof.Machine
end

