-- ==== Sys2Proof/Machine/Fabric.lean ====
section
/-! DEFINITION. Messages on the line (R242, R244, R255) and the reliable connections (R258 to R260), transit (R269, R278),
responses, resends after STASHFULL (R297), and connections declared down (R236, R260, R270). -/

namespace Sys2Proof.Machine

-- Flits (R242, R244).

/-- One byte of the CRC: the reflected form of the ECMA-182 polynomial. -/
def crcByte (c : BitVec 64) (b : Byte) : BitVec 64 :=
  (List.range 8).foldl (fun (c : BitVec 64) _ => if c.getLsbD 0 then (c >>> 1) ^^^ 0xC96C5795D7870F42 else c >>> 1)
    (c ^^^ b.zeroExtend 64)
def crc64 (bs : List Byte) : BitVec 64 := ~~~(bs.foldl crcByte (BitVec.allOnes 64))
def flitHeader (f : Flit) : Word :=
  f.typ ++ f.vc ++ (if f.ackv then (1 : BitVec 1) else 0) ++ f.aux ++ f.ack ++ f.seq
def flitCrc (f : Flit) : BitVec 64 := crc64 (bytesOfLE 8 (flitHeader f).toNat ++ f.payload)
def flitOk (f : Flit) : Bool := flitCrc f == f.crc
/-- A flit with its CRC still to come: type, VC, AUX and payload, padded to 64 bytes. -/
def mkFlit (typ : BitVec 4) (vc : BitVec 3) (aux : BitVec 16) (pl : List Byte) : Flit :=
  { typ := typ, vc := vc, ackv := false, aux := aux, ack := 0, seq := 0
    payload := (pl ++ List.replicate 64 0).take 64, crc := 0 }

-- Messages as flits (R255).

def msgVc (m : Msg) : BitVec 3 := if isResp m.op then 1 else 0
def headPayload (m : Msg) : List Byte :=
  bytesOfLE 2 m.src ++ bytesOfLE 2 m.dst ++ bytesOfLE 4 m.msn ++ bytesOfLE 1 m.op
    ++ bytesOfLE 1 (bitIf m.flag 0 + bitIf (msgInlined m) 1) ++ bytesOfLE 2 (m.len - 1) ++ bytesOfLE 2 m.tctx
    ++ bytesOfLE 2 m.gang ++ bytesOfLE 8 m.addr.toNat ++ bytesOfLE 8 m.flagAddr.toNat
    ++ (if msgInlined m then m.data else m.args)
def chunks64 : Nat → List Byte → List (List Byte)
  | 0, _ => []
  | k + 1, bs => if bs.isEmpty then [] else bs.take 64 :: chunks64 k (bs.drop 64)
def flitsOf (m : Msg) : List Flit :=
  mkFlit 2 (msgVc m) 0 (headPayload m)
    :: (if carries m.op && !msgInlined m then (chunks64 (m.len + 1) m.data).map (mkFlit 3 (msgVc m) 0) else [])
/-- The message of a HEAD, its data still to come unless they are inline. -/
def headMsg (p : List Byte) : Msg :=
  let op := leIn p 8 1
  let len := leIn p 10 2 + 1
  let m : Msg := { src := leIn p 0 2 % 4096, dst := leIn p 2 2 % 4096, msn := leIn p 4 4, op := op, flag := leIn p 9 1 % 2 == 1
                   tctx := leIn p 12 2, gang := leIn p 14 2, addr := BitVec.ofNat 64 (leIn p 16 8)
                   flagAddr := BitVec.ofNat 64 (leIn p 24 8), len := len, args := (p.drop 32).take 32, data := [] }
  if msgInlined m then { m with args := [], data := (p.drop 32).take len } else m
/-- The first whole message of a VC's buffer and the flits it takes. -/
def assemble : List Flit → Option (Msg × Nat)
  | [] => none
  | h :: r =>
    if h.typ != 2 then none
    else
      let m := headMsg h.payload
      let n := msgFlits m - 1
      if r.length < n then none
      else some ((if n = 0 then m else { m with data := ((r.take n).map (·.payload)).flatten.take m.len }), n + 1)
/-- Take a message that stands first in one of a port's VC buffers; its flits' credits become pending, but for those that an
earlier slot brought, whose credits have lapsed (R243). -/
def State.takeMsg (s : State) (port : Nat) (m : Msg) : Option State :=
  let p := s.port port
  let first (b : List Flit) : Option Nat := match assemble b with | some (x, n) => if x = m then some n else none | none => none
  match first p.rxVc0, first p.rxVc1 with
  | some n, _ => some (s.setPort port { p with rxVc0 := p.rxVc0.drop n, pend0 := p.pend0 + (n - p.old0), old0 := p.old0 - n })
  | none, some n => some (s.setPort port { p with rxVc1 := p.rxVc1.drop n, pend1 := p.pend1 + (n - p.old1), old1 := p.old1 - n })
  | none, none => none

-- Connections: the sender's side.

/-- a is at or before b in MSN order. -/
def msnLe (a b : Nat) : Bool := decide ((b + 2 ^ 32 - a) % 2 ^ 32 < 2 ^ 31)
def State.progress (s : State) (q : Nat) : State := s.setConn q { s.conn q with downAt := s.downTime }
def State.dropOut (s : State) (q msn : Nat) : State :=
  let c := s.conn q
  s.setConn q { c with out := c.out.filter (fun o => o.m.msn != msn) }

/-- Put messages at the head of their destination's queue, to be sent again without charge (R297); without a home port the
connection has been declared down before (R270); `probe` marks the resend of
the oldest held one, which alone may leave while others are held. -/
def State.sendAgain (s : State) (q : Nat) (ms : List OutMsg) (probe : Bool) : State :=
  match s.homePort q with
  | none => s
  | some p =>
    if ms.isEmpty then s else
    let v := s.port p
    let ms := ms.map (fun o => { o with retry := probe, charged := true, sent := false })
    s.setPort p { v with queues := tblSet v.queues q (ms ++ tblGetD v.queues q []) }
/-- SFRETRY counts a resend (R297). -/
def State.sfCount (s : State) (q n : Nat) : State :=
  match s.homePort q with
  | none => s
  | some p =>
    let v := s.port p
    s.setPort p { v with sfretry := BitVec.ofNat 32 (Nat.min 0xFFFFFFFF (v.sfretry.toNat + n)) }

/-- A connection is declared down, or its destination is unreachable: its messages are dropped and their senders told
(R236, R260, R262, R270). -/
def State.declareDown (s : State) (q : Nat) : State :=
  let c := s.conn q
  if c.down && !s.busyConn q then s else
  let queued := (s.fab.ports.map (fun e => tblGetD e.2.queues q [])).flatten
  let lostMsgs := c.out ++ (c.held.map Hold.msgs).flatten ++ queued
  let clean (p : Port) : Port := { p with queues := tblErase p.queues q }
  let s := { s with fab := { s.fab with ports := s.fab.ports.map (fun (e : Nat × Port) => (e.1, clean e.2)) } }
  let s := (s.setConn q { c with out := [], held := [], resp := [] }).markDown q
  (lostMsgs.foldl (fun s o => s.settleBad o.own o.m.addr (some (false, q))) s).collsSettle (fun _ => true)

/-- A response leaves through the home port of its destination; without one it is dropped and the connection declared down
(R270). On a connection that is down nothing is sent until the custodian restores it (R260). -/
def State.respond (s : State) (q : Nat) (m : Msg) : State :=
  match s.homePort q with
  | none => s.declareDown q
  | some _ => let c := s.conn q; if c.down then s else s.setConn q { c with resp := c.resp ++ [m] }

-- Connections: the receiver's side.

def State.response (s : State) (m : Msg) (op msn : Nat) (args data : List Byte) : Msg :=
  { src := s.pkgId, dst := m.src, msn := msn, op := op, flag := false, tctx := m.tctx, gang := 0, addr := 0, flagAddr := 0
    len := Nat.max 1 data.length, args := args, data := data }
/-- The first MSN that is not complete here. -/
def Conn.ackNext (c : Conn) : Nat := match c.waiting with | [] => c.expect | w :: _ => w.msn
/-- A cumulative ACK of everything that is complete (R256, R258). -/
def State.sendAck (s : State) (m : Msg) : State :=
  let n := ((s.conn m.src).ackNext + 2 ^ 32 - 1) % 2 ^ 32
  s.respond m.src (s.response m 6 0 (bytesOfLE 32 n) [])
def State.remember (s : State) (m : Msg) (r : Msg) : State :=
  let c := s.conn m.src
  s.setConn m.src { c with answers := ((m.msn, r) :: c.answers).take 256 }
/-- The target's answer goes back: RDATA with an ACK of all that is complete, that ACK alone, or a NACK alone, since what was
refused is not complete (R259). A held POLL waits. -/
def State.answerMsg (s : State) (m : Msg) (a : Ans) : State :=
  match a with
  | .hold => let c := s.conn m.src; s.setConn m.src { c with waiting := c.waiting ++ [m] }
  | .ack => s.sendAck m
  | .data bs => let r := s.response m 3 m.msn [] bs; ((s.respond m.src r).remember m r).sendAck m
  | .nack e =>
    let r := s.response m 7 0 (bytesOfLE 4 m.msn ++ bytesOfLE 28 e) []
    (s.respond m.src r).remember m r
/-- Pass the expected message to its target, then those that arrived early and follow it; a fragment that CX and VX reduce has its
own step (R326). -/
def State.passOn : Nat → State → Msg → Option State
  | 0, s, _ => some s
  | k + 1, s, m =>
    match s.target m.src m false false with
    | none => none
    | some (t, a) =>
      let c := t.conn m.src
      let next := (c.expect + 1) % 2 ^ 32
      let follow := c.early.find? (fun e => e.msn == next && (t.vond8 || e.op != 9))
      let t := t.setConn m.src { c with expect := next, early := c.early.filter (fun e => e.msn != m.msn && follow != some e) }
      let t := t.answerMsg m a
      match follow with
      | none => some t
      | some e => match State.passOn k t e with
        | some u => some u
        | none => let c := t.conn m.src; some (t.setConn m.src { c with early := e :: c.early })
/-- A duplicate is answered again and not applied again (R258). -/
def State.duplicate (s : State) (m : Msg) : State :=
  match (s.conn m.src).answers.find? (fun a => a.1 == m.msn) with
  | some (_, r) => let t := s.respond m.src r; if r.op = 7 then t else t.sendAck m
  | none => if (s.conn m.src).waiting.any (fun w => w.msn == m.msn) then s else s.sendAck m

/-- A HEAD for another package: held as transit, or discarded (R269, R278). -/
def State.transit (s : State) (port : Nat) (m : Msg) : State :=
  let p := s.port port
  let relays := match s.homePort m.dst with | some h => (s.port h).relayOn | none => false
  let bump (lo : Nat) : State :=
    if (p.sloterr.toNat / 2 ^ lo) % 65536 = 65535 then s else s.setPort port { p with sloterr := p.sloterr + BitVec.ofNat 64 (2 ^ lo) }
  if !relays then bump 0
  else if 256 ≤ s.fab.transit.length then bump 16
  else { s with fab := { s.fab with transit := s.fab.transit ++ [m] } }

/-- A message that arrived early and is the next one now, or one that stands first in a VC buffer of the port: the state without
it there. -/
def State.nextMsg (s : State) (port : Nat) (m : Msg) : Option State :=
  let c := s.conn m.src
  if m.msn == c.expect && c.early.contains m then some (s.setConn m.src { c with early := c.early.filter (fun e => e != m) })
  else s.takeMsg port m
/-- A request that has arrived at a port (R256, R258, R259). -/
def State.requestRow (s : State) (port : Nat) (m : Msg) (is : Nat → Bool) : Host.Outcome State Fault Refusal :=
  if !is m.op then .next s else
  match s.nextMsg port m with
  | none => .next s
  | some t =>
    if m.dst != s.pkgId then .next (t.transit port m)
    else
      let c := t.conn m.src
      let ahead := (m.msn + 2 ^ 32 - c.expect) % 2 ^ 32
      if ahead = 0 then
        let (u, go) := s.redFor (.fab m.src m.msn) m.src m false false none
        if !go then .next u
        else match (u.nextMsg port m).bind (fun t => State.passOn (c.early.length + 1) t m) with
          | some u => .next u | none => .next s
      else if ahead < 256 then
        .next (if c.early.any (fun e => e.msn == m.msn) then t else t.setConn m.src { c with early := c.early ++ [m] })
      else .next (t.duplicate m)

/-- A write, or an operation that no code names (R256). -/
def execWrite (port : Nat) (m : Msg) (s : State) : Host.Outcome State Fault Refusal :=
  s.requestRow port m (fun op => op == 1 || op == 0 || 10 ≤ op)
def execRead (port : Nat) (m : Msg) (s : State) : Host.Outcome State Fault Refusal := s.requestRow port m (· == 2)
def execAmoMessage (port : Nat) (m : Msg) (s : State) : Host.Outcome State Fault Refusal := s.requestRow port m (· == 4)
def execFrag (port : Nat) (m : Msg) (s : State) : Host.Outcome State Fault Refusal := s.requestRow port m (· == 8)
def execRfrag (port : Nat) (m : Msg) (s : State) : Host.Outcome State Fault Refusal := s.requestRow port m (· == 9)
/-- A POLL: one that arrives, or one that is held and is tried again (R238, R256). -/
def execPollMessage (port : Nat) (m : Msg) (s : State) : Host.Outcome State Fault Refusal :=
  let c := s.conn m.src
  if c.waiting.contains m then
    match s.target m.src m false false true with
    | some (_, .hold) | none => .next s
    | some (t, a) =>
      let c := t.conn m.src
      .next ((t.setConn m.src { c with waiting := c.waiting.filter (fun w => w != m) }).answerMsg m a)
  else s.requestRow port m (· == 5)

-- Responses.

def State.responseRow (s : State) (port : Nat) (m : Msg) (op : Nat) (f : State → Option State) : Host.Outcome State Fault Refusal :=
  if m.op != op then .next s else
  match s.takeMsg port m with
  | none => .next s
  | some t => if m.dst != s.pkgId then .next (t.transit port m) else match f t with | some u => .next u | none => .next s

def isReadOp (op : Nat) : Bool := op == 2 || op == 4 || op == 5
/-- The other held messages leave at once when the resend of the oldest is answered (R297); those for which the queue has no room
(R271) stay held, the oldest of them to be sent again as soon as there is. -/
def State.release (s : State) (q : Nat) (o : OutMsg) : State :=
  if !o.retry then s else
  let c := s.conn q
  match c.held.find? (fun h => h.tctx == o.m.tctx && h.probing) with
  | none => s
  | some h =>
    match s.homePort q with
    | none => s.declareDown q
    | some p =>
      if (s.port p).room q < h.msgs.length then
        s.setConn q { c with held := c.held.map (fun x => if x.tctx = h.tctx then { h with due := s.now, probing := false } else x) }
      else
        let s := s.setConn q { c with held := c.held.filter (fun x => x.tctx != h.tctx) }
        (s.sfCount q h.msgs.length).sendAgain q h.msgs false
/-- RDATA answers a READ, AMO or POLL. -/
def execRdata (port : Nat) (m : Msg) (s : State) : Host.Outcome State Fault Refusal :=
  s.responseRow port m 3 fun t =>
    match (t.conn m.src).out.find? (fun o => o.m.msn == m.msn && isReadOp o.m.op) with
    | none => some t
    | some o => ((((t.dropOut m.src m.msn).progress m.src).release m.src o).settleOk o.own o.m.addr m.data)
/-- An ACK completes every write up to it; a READ, AMO or POLL still waits for its RDATA. -/
def execAck (port : Nat) (m : Msg) (s : State) : Host.Outcome State Fault Refusal :=
  s.responseRow port m 6 fun t =>
    let n := leIn m.args 0 4
    let done := (t.conn m.src).out.filter (fun o => msnLe o.m.msn n && !isReadOp o.m.op)
    let t := if done.isEmpty then t else t.progress m.src
    done.foldlM (fun t o => (((t.dropOut m.src o.m.msn).release m.src o).settleOk o.own o.m.addr [])) t
/-- A message drew STASHFULL: it is held, and with it all later ones for that context (R297). -/
def State.holdMsg (s : State) (q : Nat) (o : OutMsg) : State :=
  let c := s.conn q
  let due (n : Nat) : Word := s.now + BitVec.ofNat 64 n
  match c.held.find? (fun h => h.tctx == o.m.tctx) with
  | none => s.setConn q { c with held := c.held ++ [{ tctx := o.m.tctx, msgs := [o], due := due 2000 }] }
  | some h =>
    let h' := if h.probing && o.retry then
        let d := Nat.min 64000 (2 * h.delay)
        { h with msgs := o :: h.msgs, delay := d, due := due d, probing := false }
      else { h with msgs := h.msgs ++ [o] }
    s.setConn q { c with held := c.held.map (fun x => if x.tctx = h.tctx then h' else x) }
/-- A NACK: retried after STASHFULL, else final (R187, R259, R297). -/
def execNack (port : Nat) (m : Msg) (s : State) : Host.Outcome State Fault Refusal :=
  s.responseRow port m 7 fun t =>
    let msn := leIn m.args 0 4
    match (t.conn m.src).out.find? (fun o => o.m.msn == msn) with
    | none => some t
    | some o =>
      let t := (t.dropOut m.src msn).progress m.src
      if leIn m.args 4 1 = nStashFull then some (t.holdMsg m.src o)
      else some ((t.release m.src o).settleBad o.own o.m.addr none)

/-- The oldest held message is sent again when its delay is over (R297). -/
def execStashfullResend (peer ctx : Nat) (s : State) : Host.Outcome State Fault Refusal :=
  let c := s.conn peer
  match c.held.find? (fun h => h.tctx == ctx) with
  | none => .next s
  | some h =>
    match h.msgs with
    | [] => .next s
    | o :: r =>
      if h.probing || s.now.ult h.due then .next s
      else match s.homePort peer with
      | none => .next (s.declareDown peer)
      | some p =>
        if (s.port p).room peer = 0 then .next s else
        let s := s.setConn peer { c with held := c.held.map (fun x => if x.tctx = ctx then { h with msgs := r, probing := true } else x) }
        .next ((s.sfCount peer 1).sendAgain peer [o] true)

/-- Some flit of a request still stands in a port's replay buffer or send list. -/
def State.onLine (s : State) (peer msn : Nat) : Bool :=
  s.fab.ports.any (fun e => (e.2.txBuf ++ e.2.txQueue).any (fun f => f.what == .req peer msn))
/-- A message whose flits were all accepted and that has no answer in time is sent again (R260). -/
def execResendTimeout (peer msn : Nat) (s : State) : Host.Outcome State Fault Refusal :=
  let c := s.conn peer
  let late (o : OutMsg) : Bool := o.m.msn == msn && o.sent && !s.now.ult o.due && !s.onLine peer msn
  .next (s.setConn peer { c with out := c.out.map (fun o => if late o then { o with sent := false } else o) })
/-- A connection is declared down: messages outstanding without acknowledgement progress for FABDOWN, or the custodian's report
that the peer is fenced, which reaches the package as this step with 4,096 added to the peer's id (R260, log 23). What is
outstanding on a connection that is down already is dropped too. -/
def execConnectionDown (peer : Nat) (s : State) : Host.Outcome State Fault Refusal :=
  let q := peer % 4096
  let late := s.busyConn q && !s.now.ult (s.conn q).downAt
  .next (if 4096 ≤ peer || (s.conn q).down || late then s.declareDown q else s)

end Sys2Proof.Machine
end

