-- ==== Sys2Proof/Machine/Link.lean ====
section
/-! DEFINITION. Rotor slots (R264 to R268, R273 to R277), beats and the order of sending (R245, R274 to R277), flit arrival (R243
to R247), control flits, restriping and light (R247, R249 to R254). -/

namespace Sys2Proof.Machine

/-- Update one port and give the step. -/
def State.atPort (s : State) (p : Nat) (f : Port → Port) : Host.Outcome State Fault Refusal := .next (s.setPort p (f (s.port p)))
/-- 16 bits of EVENT from bit `lo` (R253). -/
def Port.evMask (p : Port) (lo : Nat) : BitVec 16 := p.event.extractLsb' lo 16
def Port.evSet (p : Port) (bits : Nat) : Port := { p with event := p.event ||| BitVec.ofNat 64 bits }
def Port.evClear (p : Port) (bits : Nat) : Port := { p with event := p.event &&& ~~~(BitVec.ofNat 64 bits) }
def Port.txMask (p : Port) : BitVec 16 := p.evMask 32
def Port.rxMask (p : Port) : BitVec 16 := p.evMask 16
def Port.lane (p : Port) (w : Nat) : Lane := tblGetD p.lanes w {}
def Port.setLane (p : Port) (w : Nat) (l : Lane) : Port := { p with lanes := tblPut p.lanes w {} l }
def laneList (m : BitVec 16) : List Nat := (List.range 16).filter m.getLsbD
/-- The port direction is down for the rest of the slot (R252). -/
def Port.goDown (p : Port) : Port := { p with txDown := true, paused := false, replayAt := none }.evSet 8
/-- The end of the guard, from which on beats follow each other every 40/7 ns (R245, R268); the beats that the data part holds
(R273), and the one in which a time lies. -/
def Port.guardEnd (p : Port) : Word := p.slotBeg + BitVec.ofNat 64 p.guardNs
def Port.slotBeats (p : Port) : Nat := 7 * (p.slotNs - p.guardNs - 100) / 40
def Port.beatIx (p : Port) (t : Word) : Nat := 7 * (t - p.guardEnd).toNat / 40

-- Slots.

/-- The first round boundary at or after a time (R267). -/
def Port.boundary (p : Port) (t : Word) : Word :=
  let r := p.nslot * p.slotNs
  if t.ule p.epoch || r = 0 then p.epoch else p.epoch + BitVec.ofNat 64 (((t - p.epoch).toNat + r - 1) / r * r)

/-- Messages to a package that stand at another port go to its home port's queue, the older ones first, as far as that port has
room for them (R270, R271; DESIGN CHOICE, log 33). -/
def State.gather (s : State) (port : Nat) (q : Nat) : State :=
  let p := s.port port
  let away := (s.fab.ports.filter (fun (e : Nat × Port) => e.1 != port)).flatMap (fun (e : Nat × Port) => tblGetD e.2.queues q [])
  let come := away.take (p.room q)
  if s.homePort q != some port || come.isEmpty then s
  else
    let left (l : List OutMsg) : List OutMsg := l.filter (fun o => !come.any (fun c => c.born == o.born))
    let strip (v : Port) : Port :=
      let rest := left (tblGetD v.queues q [])
      { v with queues := if rest.isEmpty then tblErase v.queues q else tblSet v.queues q rest }
    let s := { s with fab := { s.fab with ports := s.fab.ports.map (fun (e : Nat × Port) => if e.1 = port then e else (e.1, strip e.2)) } }
    s.setPort port { p with queues := tblSet p.queues q (come ++ tblGetD p.queues q []) }
/-- The destinations of messages that stand at other ports than this one. -/
def State.elsewhere (s : State) (port : Nat) : List Nat :=
  (s.fab.ports.filter (fun (e : Nat × Port) => e.1 != port)).flatMap (fun (e : Nat × Port) => e.2.queues.map (·.1))
/-- A slot begins with its guard (R264, R267): its index, its peer, what it fixes for its length (R273, R277). -/
def execSlotStart (port : Nat) (s : State) : Host.Outcome State Fault Refusal :=
  let p := s.port port
  let now := s.clk.time
  let k := if p.slotNs = 0 then 0 else (now - p.epoch).toNat / p.slotNs
  let beg := p.epoch + BitVec.ofNat 64 (k * p.slotNs)
  if !p.en || p.inSlot || now.ult p.epoch || beg.ult p.onAt || p.slotNs = 0 then .next s
  else
    let ix := k % p.nslot
    let rounds := if ix == 0 || p.rounds == 0 then (if p.rounds == 0xFFFFFFFF then p.rounds else p.rounds + 1) else p.rounds
    let meetAt := p.rmeet.toNat / 2 ^ 21 * 2 ^ 21 + 8192 * ix
    let p' := { p with
      inSlot := true, data := false, rxOpen := false, slotIx := ix, slotBeg := beg, peer := p.peerAt ix, rounds := rounds
      allow := s.ctxs.filterMap (fun e => if e.2.gauge.fb = 0 then none else some (e.1, e.2.gauge.fb))
      meet := if p.relayOn then s.mem.hbm.readLE meetAt 8192 else 0
      fwd := 0, passed := [] }
    .next (let s := s.setPort port p'; (s.elsewhere port).foldl (fun (s : State) q => s.gather port q) s)

/-- A dark lane that has light carries flits again (R251). -/
def Lane.atGuard (l : Lane) : Lane := { l with dark := l.dark && !l.above }
/-- The lanes whose flits the receiver refuses. -/
def Port.darkMask (p : Port) : BitVec 16 :=
  (List.range 16).foldl (fun (m : BitVec 16) w => m ||| (if (p.lane w).dark then (1 : BitVec 16) <<< w else 0)) 0
/-- Reports of light do not belong to one slot's link layer: they wait for the next beat (R251). -/
def lightOnly (l : List Flit) : List Flit := l.filter (fun f => f.aux == 3)
/-- The receiver's side of the link layer starts afresh, once in a slot: at the end of the guard, or with the first flit of the
100 ns before it (R248, R268). Of the new peer's stripe it knows nothing yet. -/
def Port.freshRx (p : Port) : Port :=
  if p.rxOpen then p else
  { p with
    rxOpen := true, rxSeq := 0, pend0 := 0, pend1 := 0, old0 := p.rxVc0.length, old1 := p.rxVc1.length
    nakAt := none, nakWait := none, darkWait := false, rxActive := 0xFFFF, lastLane := none
    lanes := p.lanes.map (fun e => (e.1, { e.2 with outUse := none })), ctrlIn := [] }
/-- The link layer as it starts afresh at the end of a guard (R243, R248, R251). -/
def Port.fresh (p : Port) : Port :=
  { p.freshRx with
    data := true, txSeq := 0, txBuf := [], txQueue := [], active := ~~~p.txMask, stripe := 0, paused := false
    replayAt := none, credit0 := 2048, credit1 := 512, replays := 0, txDown := false, beats := 0
    lanes := p.freshRx.lanes.map (fun e => (e.1, e.2.atGuard)) }
/-- The guard ends (R248, R252). -/
def execGuardEnd (port : Nat) (s : State) : Host.Outcome State Fault Refusal :=
  let p := s.port port
  if !p.inSlot || p.data || p.peer.isNone || !p.ready || s.clk.time.ult p.guardEnd then .next s
  else
    let p := p.fresh
    .next (s.setPort port (if p.active == 0 then p.goDown else p))

/-- The whole messages that stand in a buffer; a message cut off by the slot's end is handed back by its sender (R248). -/
def wholeOnly : Nat → List Flit → List Flit
  | 0, _ => []
  | k + 1, b => match assemble b with | some (_, n) => b.take n ++ wholeOnly k (b.drop n) | none => []
/-- A message some of whose flits are not acknowledged goes back to its connection (R248). -/
def State.handBack (s : State) (c : Carried) : State :=
  match c with
  | .req q msn =>
    let v := s.conn q
    s.setConn q { v with out := v.out.map (fun o => if o.m.msn = msn then { o with sent := false } else o) }
  | .resp m =>
    let v := s.conn m.dst
    if v.down || v.resp.contains m then s else s.setConn m.dst { v with resp := m :: v.resp }
  | .transit => s
/-- The event records 0x21 and 0x22 (R254). -/
def State.lightEvent (s : State) (port typ mask seq : Nat) (time : Word) : State :=
  let peer := ((s.port port).peer).getD 0
  s.emit typ 0xFFFF (leBytesN 8 port ++ leBytesN 8 peer ++ leBytesN 8 mask ++ leBytesN 8 seq ++ leBytesN 8 time.toNat)
def Port.oldest (p : Port) : Nat := match p.txBuf with | f :: _ => f.f.seq.toNat | [] => p.txSeq
/-- The records of the LOLs that were acted on, once the SEQ of the new stripe is known, or no new stripe follows. -/
def State.lolEvents (s : State) (port : Nat) : State :=
  let p := s.port port
  if p.lols.isEmpty then s else
  p.lols.foldl (fun (s : State) m => s.lightEvent port 0x21 m.toNat p.oldest p.stopAt) (s.setPort port { p with lols := [] })
/-- A slot ends (R248, R267). -/
def execSlotEnd (port : Nat) (s : State) : Host.Outcome State Fault Refusal :=
  let p := s.port port
  if !p.inSlot || s.clk.time.ult (p.slotBeg + BitVec.ofNat 64 p.slotNs) then .next s
  else
    let s := s.lolEvents port
    let p := s.port port
    let lost := (p.txBuf ++ p.txQueue).map SentFlit.what
    let p := { p with
      inSlot := false, data := false, peer := none, txBuf := [], txQueue := [], replayAt := none, paused := false
      nakWait := none, darkWait := false
      rxVc0 := wholeOnly p.rxVc0.length p.rxVc0, rxVc1 := wholeOnly p.rxVc1.length p.rxVc1, ctrlOut := lightOnly p.ctrlOut }
    let p := if p.offReq then { p with slotcfg := p.slotcfg &&& 0x7FFFFFFFFFFFFFFF, offReq := false } else p
    .next (lost.foldr (fun c s => s.handBack c) (s.setPort port p))

-- What may leave in this slot (R274 to R277).

/-- Flits still to be replayed. -/
def Port.toReplay (p : Port) : List SentFlit :=
  match p.replayAt with
  | none => []
  | some n => let l := p.txBuf.dropWhile (fun f => f.f.seq.toNat != n); if l.isEmpty then p.txBuf else l
/-- Where in a beat, among the active lanes, the next flit to be sent lies (R245). -/
def Port.lanePos (p : Port) : Nat :=
  let w := (laneList p.active).length
  let first := match p.toReplay with | f :: _ => f.f.seq.toNat | [] => p.txSeq
  if w = 0 then 0 else (first + 2 ^ 20 - p.stripe) % 2 ^ 20 % w
/-- Flits for which the slot still has room: the beats left, less the lanes of the first that lie before the stripe's place
(R268, R275). -/
def State.flitRoom (s : State) (p : Port) : Nat :=
  (p.slotBeats - p.beatIx s.clk.time) * (laneList p.active).length - (p.txQueue.length + p.toReplay.length + p.lanePos)
def Port.enqueue (p : Port) (m : Msg) (c : Carried) : Port :=
  { p with txQueue := p.txQueue ++ (flitsOf m).map (fun f => { f := f, what := c }) }

/-- The connection lets a new message leave: fewer than 256 outstanding, not held after STASHFULL (R258, R297). -/
def State.canLeave (s : State) (o : OutMsg) : Bool :=
  let c := s.conn o.m.dst
  !c.down && decide (c.out.length < 256) && (o.retry || !c.held.any (fun h => h.tctx == o.m.tctx))
/-- A queue scanned from its head (R274, R275): what goes, and who is passed over. -/
def State.scan (s : State) (p : Port) (q room : Nat) : List OutMsg → List Nat → List (Nat × Nat) → Option OutMsg × List (Nat × Nat)
  | [], _, passed => (none, passed)
  | o :: r, blocked, passed =>
    if passed.contains (q, o.ctx) || blocked.contains o.ctx then State.scan s p q room r blocked passed
    else if !s.canLeave o then State.scan s p q room r (o.ctx :: blocked) passed
    else if msgFlits o.m ≤ room && (o.charged || o.cost ≤ tblGetD p.allow o.ctx 0) then (some o, passed)
    else State.scan s p q room r blocked ((q, o.ctx) :: passed)

/-- A charge of fabric bytes: on the reservation, or on leftover use (R273, R276). It counts in the period that holds the slot's
start; once that period has closed, its usage record is written, and the charge appears in none (log 31). -/
def State.fabCharge1 (s : State) (ctx port n : Nat) (left : Bool) : State :=
  let begun := s.shr.edge.toNat - s.shr.period
  if (s.port port).slotBeg.toNat < begun then s else
  let c := s.ctx ctx
  let a := c.acct 5 port
  let a' := if left then { a with loused := a.loused + n } else { a with chg := a.chg + n }
  s.setCtx ctx { c with accts := tblPut c.accts (acctKey 5 port) {} a' }
/-- The charge of a message, split as its task's charges are (R358). -/
def State.fabCharge (s : State) (o : OutMsg) (port : Nat) (left : Bool) : State :=
  (s.paying o.own o.node o.ctx o.cost).foldl (fun (s : State) (e : Nat × Nat) => s.fabCharge1 e.1 port e.2 left) s
/-- A message leaves its queue for the line: it takes its MSN and is charged (R258, R272). -/
def State.leave (s : State) (port : Nat) (o : OutMsg) (left : Bool) : State :=
  let q := o.m.dst
  let c := s.conn q
  let m := { o.m with msn := c.nextMsn }
  let o' := { o with m := m, sent := true, charged := true, due := s.now + s.preg.fabresend.zeroExtend 64 }
  let s := s.setConn q { c with nextMsn := (c.nextMsn + 1) % 2 ^ 32, out := c.out ++ [o'] }
  let s := if o.charged then s else s.fabCharge o port left
  let p := s.port port
  let rest := (tblGetD p.queues q []).filter (fun x => x.born != o.born)
  let p := { p with queues := if rest.isEmpty then tblErase p.queues q else tblSet p.queues q rest }
  let p := if o.charged || left then p else { p with allow := tblPut p.allow o.ctx 0 (tblGetD p.allow o.ctx 0 - o.cost) }
  s.setPort port (p.enqueue m (.req q m.msn))

/-- Step 1 of R274: what is to be sent again to the peer itself. -/
def State.againFor (s : State) (port r room : Nat) : Option State :=
  let c := s.conn r
  match (if c.down then none else c.out.find? (fun o => !o.sent)) with
  | none => none
  | some o =>
    if room < msgFlits o.m then none else
    let again (x : OutMsg) : OutMsg := if x.m.msn = o.m.msn then { x with sent := true, due := s.now + s.preg.fabresend.zeroExtend 64 } else x
    let s := s.setConn r { c with out := c.out.map again }
    some (s.setPort port ((s.port port).enqueue o.m (.req r o.m.msn)))
/-- Step 2: responses to the peer; one that does not fit is skipped (R275). None go to one whose connection is down (R260). -/
def State.respFor (s : State) (port r room : Nat) : Option State :=
  let c := s.conn r
  match (if c.down then none else c.resp.find? (fun m => decide (msgFlits m ≤ room))) with
  | none => none
  | some m =>
    let s := s.setConn r { c with resp := c.resp.erase m }
    some (s.setPort port ((s.port port).enqueue m (.resp m)))
def transitBytes (m : Msg) : Nat := if carries m.op then roundUp64 m.len else 64
/-- Step 3: transit held for the peer, up to RELAYB bytes in the slot; one that does not fit is skipped (R275, R278). -/
def State.transitFor (s : State) (port r room : Nat) (v0 v1 : Bool) : Option State :=
  let p := s.port port
  match s.fab.transit.find? (fun m => m.dst == r && (if isResp m.op then v1 else v0) && decide (msgFlits m ≤ room)) with
  | none => none
  | some m =>
    if !p.relayOn || (p.relaycfg.extractLsb' 0 32).toNat < p.fwd + transitBytes m then none else
    let s := { s with fab := { s.fab with transit := s.fab.transit.erase m } }
    some (s.setPort port ({ p with fwd := p.fwd + transitBytes m }.enqueue m .transit))
/-- A message to q may go by the slot's peer (R277): R < D, both counted in slots from this one. -/
def Port.relays (p : Port) (q : Nat) : Bool :=
  let n := p.nslot
  let e := p.meet / 2 ^ (16 * q) % 65536
  let d := ((List.range n).map (· + 1)).find? (fun j => p.peerAt ((p.slotIx + j) % n) == some q)
  let r := (e % 256 + n - p.slotIx % n) % n
  let r := if r = 0 then n else r
  decide (32768 ≤ e) && (match d with | none => true | some d => decide (r < d))
/-- The queues whose messages may go in this slot: the peer's, then the relayed ones in ascending destination (R274); messages leave
through the home port of their destination only (R270). -/
def State.slotQueues (s : State) (port r : Nat) : List (Nat × List OutMsg) :=
  let p := s.port port
  let home (q : Nat) : Bool := s.homePort q == some port
  (if home r then [(r, tblGetD p.queues r [])] else [])
    ++ (if p.relayOn then p.queues.filter (fun e => e.1 != r && home e.1 && p.relays e.1) else [])
/-- Steps 4 and 5: the allowances. -/
def State.queuedFor (s : State) (port room : Nat) : List (Nat × List OutMsg) → State × Bool
  | [] => (s, false)
  | (q, l) :: rest =>
    let p := s.port port
    let (o, passed) := s.scan p q room l [] p.passed
    let s := s.setPort port { p with passed := passed }
    match o with
    | some o => (s.leave port o false, true)
    | none => State.queuedFor s port room rest
/-- The first message of each context in a queue. -/
def firstOfEach : List OutMsg → List Nat → List OutMsg
  | [], _ => []
  | o :: r, seen => if seen.contains o.ctx then firstOfEach r seen else o :: firstOfEach r (o.ctx :: seen)
/-- Step 6: leftover, by effective priority and then by age (R276). -/
def State.leftoverFor (s : State) (port r room : Nat) : Option State :=
  let p := s.port port
  if !p.loen then none else
  let cs := ((s.slotQueues port r).map (fun e => firstOfEach e.2 [])).flatten.filter (fun o =>
    (s.ctx o.ctx).gauge.lo && s.canLeave o && decide (msgFlits o.m ≤ room))
  let best := cs.foldl (fun (b : Option OutMsg) o => match b with
    | none => some o
    | some x =>
      let ex := s.eff x.ctx; let eo := s.eff o.ctx
      if ex < eo || (ex == eo && o.born < x.born) then some o else b) none
  best.map (fun o => s.leave port o true)

/-- The next message to start, in the order of R274; what belongs to a connection leaves through its home port (R270). `v0` and
`v1`: that VC has credit left for a new message. -/
def State.startNext (s : State) (port : Nat) (v0 v1 : Bool) : State × Bool :=
  let p := s.port port
  match p.peer with
  | none => (s, false)
  | some r =>
    let room := s.flitRoom p
    let home := s.homePort r == some port
    match (if home && v0 then s.againFor port r room else none) with
    | some t => (t, true)
    | none =>
      match (if home && v1 then s.respFor port r room else none) with
      | some t => (t, true)
      | none =>
        match s.transitFor port r room v0 v1 with
        | some t => (t, true)
        | none =>
          if !v0 then (s, false) else
          let (t, b) := s.queuedFor port room (s.slotQueues port r)
          if b then (t, true)
          else match t.leftoverFor port r room with
            | some u => (u, true)
            | none => (t, false)
/-- Flits of a VC that are ready to be sent. -/
def Port.readyFlits (p : Port) (vc : BitVec 3) : Nat := (p.txQueue.filter (fun f => f.f.vc == vc)).length
/-- Messages are started until a beat's worth of flits that have credit is ready; only a VC whose credit is spoken for is passed
over, so that it never holds up the other (R242, R243, R274). -/
def State.fill (port : Nat) : Nat → State → State
  | 0, s => s
  | k + 1, s =>
    let p := s.port port
    let r0 := p.readyFlits 0; let r1 := p.readyFlits 1
    let v0 := decide (r0 < p.credit0); let v1 := decide (r1 < p.credit1)
    if 16 ≤ Nat.min r0 p.credit0 + Nat.min r1 p.credit1 || (!v0 && !v1) then s
    else let (t, b) := s.startNext port v0 v1; if b then State.fill port k t else t

-- A beat.

/-- Every flit carries the reverse ACK, the SEQ before the one expected (R242, R245): before any flit has been accepted that is
0xFFFFF, which covers nothing (DEDUCED, log 31). -/
def Port.seal (p : Port) (f : Flit) (seq : Nat) : Flit :=
  let f := { f with ackv := true, ack := BitVec.ofNat 20 (p.rxSeq + 2 ^ 20 - 1), seq := BitVec.ofNat 20 seq }
  { f with crc := flitCrc f }
/-- New flits in order, each taking a credit of its VC; a VC without credit waits (R243). -/
def takeNew : Nat → List SentFlit → Nat → Nat → List SentFlit × List SentFlit × Nat × Nat
  | _, [], c0, c1 => ([], [], c0, c1)
  | n, f :: r, c0, c1 =>
    let vc1 := f.f.vc == 1
    if n = 0 || (if vc1 then c1 else c0) = 0 then
      let (a, b, c0, c1) := takeNew n r c0 c1
      (a, f :: b, c0, c1)
    else
      let (a, b, c0, c1) := takeNew (n - 1) r (if vc1 then c0 else c0 - 1) (if vc1 then c1 - 1 else c1)
      (f :: a, b, c0, c1)
def ctrlFlit (code : Nat) (pl : List Byte) : Flit := mkFlit 1 0 (BitVec.ofNat 16 code) pl
def idleFlit (out : Bool) : Flit := mkFlit 0 0 (if out then 1 else 0) []
/-- Pending credits go back: 64 of a VC, or any every 32 beats (R243). -/
def Port.returnCredits (p : Port) : Port :=
  let any := p.pend0 != 0 || p.pend1 != 0
  if 64 ≤ p.pend0 || 64 ≤ p.pend1 || (any && p.beats % 32 == 31) then
    { p with ctrlOut := p.ctrlOut ++ [ctrlFlit 4 (bytesOfLE 2 p.pend0 ++ bytesOfLE 2 p.pend1)], pend0 := 0, pend1 := 0 }
  else p
/-- What the lanes of a beat carry: sequenced flits from position `pos` of the active lanes, control flits where a lane would
else be idle. -/
def layLanes (p : Port) (act : List Nat) (pos : Nat) (fs : List SentFlit) (ctrl : List Flit) : List (Nat × Flit) × List Flit :=
  (List.range 16).foldl (fun (acc : List (Nat × Flit) × List Flit) w =>
    match act.idxOf? w with
    | none => (acc.1 ++ [(w, p.seal (idleFlit true) 0)], acc.2)
    | some i =>
      match (if pos ≤ i then fs[i - pos]? else none) with
      | some f => (acc.1 ++ [(w, p.seal f.f f.f.seq.toNat)], acc.2)
      | none => match acc.2 with
        | c :: r => (acc.1 ++ [(w, p.seal c 0)], r)
        | [] => (acc.1 ++ [(w, p.seal (idleFlit false) 0)], [])) ([], ctrl)

/-- The newly dark wavelengths go into one LOL (R249). -/
def Port.reportDark (p : Port) : Port :=
  if p.lolMask = 0 then p
  else { p with ctrlOut := p.ctrlOut ++ [ctrlFlit 2 (bytesOfLE 2 p.lolMask.toNat)], lolMask := 0 }
/-- What a direction that is down still sends: IDLE flits on the wavelengths out of its active set (R251). -/
def Port.idleOut (p : Port) : List (Nat × Flit) := (laneList (~~~p.active)).map (fun w => (w, p.seal (idleFlit true) 0))
/-- One beat (R245, R268): replays first, then new flits as credits and the replay buffer allow (R243, R247). -/
def execBeat (port : Nat) (s : State) : Host.Outcome State Fault Refusal :=
  let p := s.port port
  if !p.data || !p.ready || p.paused || decide (p.slotBeats ≤ p.beatIx s.clk.time) then .next s
  else if p.txDown then
    .next { s.setPort port { p with beats := p.beats + 1, beatAt := s.clk.time } with
      out := s.out ++ p.idleOut.map (fun e => .flit port e.1 e.2) }
  else
    let s := if p.replayAt.isSome then s else State.fill port 40 s
    let p := (s.port port).reportDark.returnCredits
    let act := laneList p.active
    let w := act.length
    let now := s.now
    let re := p.toReplay
    let pos := p.lanePos
    -- each control flit takes an idle lane, or that of the highest-numbered sequenced flit
    let n := Nat.min (w - pos) (w - p.ctrlOut.length)
    let old := re.take n
    let more := if old.length < re.length then 0 else Nat.min (n - old.length) (4096 - p.txBuf.length)
    let (new, rest, c0, c1) := takeNew more p.txQueue p.credit0 p.credit1
    let new := (new.zipIdx).map (fun (f, i) =>
      { f with f := { f.f with seq := BitVec.ofNat 20 (p.txSeq + i) }, since := now })
    let sent := old ++ new
    let touched := old.map (fun f => f.f.seq)
    let buf := p.txBuf.map (fun f => if touched.contains f.f.seq then { f with since := now } else f)
    let (out, ctrl) := layLanes p act pos sent p.ctrlOut
    let p' := { p with
      txBuf := buf ++ new, txQueue := rest, credit0 := c0, credit1 := c1, txSeq := (p.txSeq + new.length) % 2 ^ 20
      replayAt := (match re.drop n with | f :: _ => some f.f.seq.toNat | [] => none)
      replay := BitVec.ofNat 32 (Nat.min 0xFFFFFFFF (p.replay.toNat + old.length))
      ctrlOut := ctrl, beats := p.beats + 1, beatAt := s.clk.time }
    let s := s.setPort port p'
    .next { s with out := s.out ++ out.map (fun e => .flit port e.1 e.2) }

-- Replays (R247, R252).

/-- Replay every unacknowledged flit from the oldest; after 16 replays without a new acknowledgement the link is down. -/
def Port.doReplay (p : Port) : Port :=
  match p.txBuf with
  | [] => p
  | f :: _ => if 16 ≤ p.replays then p.goDown else { p with replays := p.replays + 1, replayAt := some f.f.seq.toNat }
/-- An ACK takes the flits that it covers out of the replay buffer. -/
def Port.acked (p : Port) (f : Flit) : Port :=
  if !f.ackv then p else
  let buf := p.txBuf.dropWhile (fun x => decide ((f.ack - x.f.seq).toNat < 2 ^ 19))
  if buf.length = p.txBuf.length then p
  else
    let p := { p with txBuf := buf, replays := 0 }
    if buf.isEmpty then { p with replayAt := none } else p

/-- Take a control flit of one kind that has arrived. -/
def State.ctrlRow (s : State) (port code : Nat) (f : Flit) (g : Port → State → State) : Host.Outcome State Fault Refusal :=
  let p := s.port port
  if f.aux.toNat != code then .next s
  else match p.ctrlIn with
    | x :: r => if x = f then let p := { p with ctrlIn := r }; .next (g p (s.setPort port p)) else .next s
    | [] => .next s
def execNak (port : Nat) (f : Flit) (s : State) : Host.Outcome State Fault Refusal :=
  s.ctrlRow port 1 f fun p s => s.setPort port p.doReplay
def execReplayTimeout (port : Nat) (s : State) : Host.Outcome State Fault Refusal :=
  let p := s.port port
  match p.txBuf with
  | [] => .next s
  | f :: _ =>
    if !p.data || p.txDown || p.paused || s.now.ult (f.since + 2000) then .next s
    else .next (s.setPort port p.doReplay)
def execCredit (port : Nat) (f : Flit) (s : State) : Host.Outcome State Fault Refusal :=
  s.ctrlRow port 4 f fun p s =>
    s.setPort port { p with credit0 := p.credit0 + leIn f.payload 0 2, credit1 := p.credit1 + leIn f.payload 2 2 }

-- Loss of light at the transmitter (R250, R254).

/-- The end of the beat in progress, in whole ns, or now (R250, R254). -/
def Port.beatEnd (p : Port) (now : Word) : Word :=
  let j := p.beatIx p.beatAt
  if p.beats != 0 && decide (7 * (now - p.guardEnd).toNat < 40 * (j + 1)) then p.guardEnd + BitVec.ofNat 64 (40 * (j + 1) / 7) else now
/-- A LOL that names active wavelengths: the beat in progress is finished, then nothing is sent (R250). -/
def execLol (port : Nat) (f : Flit) (s : State) : Host.Outcome State Fault Refusal :=
  s.ctrlRow port 2 f fun p s =>
    let hit := BitVec.ofNat 16 (leIn f.payload 0 2) &&& p.active
    if hit = 0 then s
    else
      let p := { p with
        active := p.active &&& ~~~hit, paused := true, replayAt := none, lols := p.lols ++ [hit]
        stopAt := if p.paused then p.stopAt else p.beatEnd s.clk.time }.evSet (hit.toNat * 2 ^ 32 + 1)
      if p.active = 0 then (s.setPort port p.goDown).lolEvents port else s.setPort port p
/-- The pause ends on the remaining wavelengths, with a new stripe from the oldest unacknowledged flit (R250). -/
def execRestripeResume (port : Nat) (s : State) : Host.Outcome State Fault Refusal :=
  if !(s.port port).paused || (s.port port).txDown then .next s
  else
    let s := s.lolEvents port
    let p := s.port port
    .next (s.setPort port { p with paused := false, stripe := p.oldest }.doReplay)
/-- A LIGHT clears TXDOWN bits; the wavelengths are used again from the next slot (R251). -/
def execLight (port : Nat) (f : Flit) (s : State) : Host.Outcome State Fault Refusal :=
  s.ctrlRow port 3 f fun p s =>
    let hit := BitVec.ofNat 16 (leIn f.payload 0 2) &&& p.txMask
    if hit = 0 then s
    else (s.setPort port ((p.evClear (hit.toNat * 2 ^ 32)).evSet 4)).lightEvent port 0x22 hit.toNat 0 s.clk.time

-- The receiver (R244, R246, R249, R251).

def nakFlit (seq : Nat) : Flit := ctrlFlit 1 (bytesOfLE 4 seq)
/-- The lane on which the expected flit was due, from a later one that came on a lane of the stripe. -/
def Port.dueLane (p : Port) (lane : Nat) (seq : Nat) : Option Nat :=
  let act := laneList p.rxActive
  match act.idxOf? lane with
  | none => none
  | some i =>
    let gap := (seq + 2 ^ 20 - p.rxSeq) % 2 ^ 20 % act.length
    act[(i + act.length - gap) % act.length]?
/-- A NAK for the expected SEQ, unless one was sent within 2 µs (R246). -/
def Port.sendNak (p : Port) (now : Word) : Port :=
  let recent := match p.nakAt with | some t => now.ult (t + 2000) | none => false
  if recent then p else { p with ctrlOut := p.ctrlOut ++ [nakFlit p.rxSeq], nakAt := some now, nakWait := none }
/-- The expected flit is missing: a NAK, unless the lane it was due on has lost its light (R246). -/
def Port.missing (p : Port) (now : Word) (lane seq : Nat) : Port :=
  match p.dueLane lane seq with
  | some d =>
    if (p.lane d).dark then { p with darkWait := true }
    else if !(p.lane d).above then { p with nakWait := some d }
    else p.sendNak now
  | none => p.sendNak now
/-- The lanes strictly between two, in rising order and from 15 on to 0. -/
def lanesBetween (a b : Nat) : BitVec 16 :=
  (List.range 16).foldl (fun (m : BitVec 16) w =>
    if (if a < b then a < w && w < b else a < w || w < b) then m ||| (1 : BitVec 16) <<< w else m) 0
/-- What a flit accepted right after another shows of the stripe: the lanes passed over between them are out of it (R245, log 31). -/
def Port.learn (p : Port) (lane : Nat) : Port :=
  let seen := match p.lastLane with | some a => p.rxActive &&& ~~~(lanesBetween a lane) | none => p.rxActive
  { p with rxActive := seen ||| (1 : BitVec 16) <<< lane, lastLane := some lane }
/-- A HEAD or DATA flit: accepted in order, else discarded (R246). -/
def Port.sequenced (p : Port) (now : Word) (lane : Nat) (f : Flit) : Port :=
  let n := f.seq.toNat
  if n = p.rxSeq then
    let dark := p.darkMask
    let p := if p.darkWait then { p with rxActive := p.rxActive &&& ~~~dark, lastLane := none } else p
    let p := { p.learn lane with rxSeq := (n + 1) % 2 ^ 20, nakAt := none, nakWait := none, darkWait := false }
    if f.vc = 1 then { p with rxVc1 := p.rxVc1 ++ [f] } else { p with rxVc0 := p.rxVc0 ++ [f] }
  else if (n + 2 ^ 20 - p.rxSeq) % 2 ^ 20 < 2 ^ 19 then p.missing now lane n
  else p
/-- An IDLE flit tells whether its wavelength is in the peer's active set, also on a dark lane (R251). -/
def Port.idle (p : Port) (now : Word) (lane : Nat) (f : Flit) : Port :=
  let l := p.lane lane
  let out := if f.aux = 1 then (if l.outUse.isSome then l.outUse else some now) else none
  let p := if f.aux = 1 then { p with rxActive := p.rxActive &&& ~~~((1 : BitVec 16) <<< lane) } else p
  p.setLane lane { l with outUse := out }
/-- A flit arrives on a lane, from 100 ns before the guard's end to the slot's end (R268); control flits wait for their own
steps. -/
def execFlitArrival (port lane : Nat) (f : Flit) (s : State) : Host.Outcome State Fault Refusal :=
  let p := s.port port
  let now := s.now
  let open_ := p.ready && p.inSlot && p.peer.isSome && !s.clk.time.ult (p.guardEnd - 100)
    && s.clk.time.ult (p.slotBeg + BitVec.ofNat 64 p.slotNs)
  if !open_ || 16 ≤ lane || !flitOk f || f.payload.length != 64 then .next s
  else if (p.lane lane).dark then
    .next (if f.typ = 0 then s.setPort port (p.freshRx.idle now lane f) else s)
  else
    let p := p.freshRx.acked f
    let l := p.lane lane
    match f.typ.toNat with
    | 0 => .next (s.setPort port (p.idle now lane f))
    | 1 =>
      let known := 1 ≤ f.aux.toNat && f.aux.toNat ≤ 4
      .next (s.setPort port (if known then { p with ctrlIn := p.ctrlIn ++ [f] } else p))
    | 2 | 3 =>
      if 1 < f.vc.toNat then .next (s.setPort port (s.port port).freshRx)
      else .next (s.setPort port ((p.setLane lane { l with outUse := none }).sequenced now lane f))
    | _ => .next s


/-- Power below the threshold for 64 ns: the wavelength is declared dark (R249). -/
def execWavelengthDark (port w : Nat) (s : State) : Host.Outcome State Fault Refusal :=
  let p := s.port port
  let l := p.lane w
  if !p.ready || 16 ≤ w || l.above || (l.dark && p.rxMask.getLsbD w) || s.now.ult (l.since + 64) then .next s
  else
    let p := p.evSet (2 ^ (16 + w) + 2)
    let p := if p.nakWait = some w then { p with nakWait := none, darkWait := true } else p
    let p := { p with lolMask := p.lolMask ||| (1 : BitVec 16) <<< w }
    .next (s.setPort port (p.setLane w { l with dark := true, lolAt := s.now }))
/-- A LOL is sent again after 1 µs while the wavelength stays dark and the transmitter keeps using it, as far as its flits have
shown (R249). -/
def execLolResend (port w : Nat) (s : State) : Host.Outcome State Fault Refusal :=
  let p := s.port port
  let l := p.lane w
  if !p.ready || 16 ≤ w || !p.rxMask.getLsbD w || l.above || l.outUse.isSome || !p.rxActive.getLsbD w
    || s.now.ult (l.lolAt + 1000) then .next s
  else .next (s.setPort port ({ p with lolMask := p.lolMask ||| (1 : BitVec 16) <<< w }.setLane w { l with lolAt := s.now }))
/-- Power above the threshold for 1 µs: a dark wavelength is lit again, or one out of use is reported (R251). -/
def execLightReturn (port w : Nat) (s : State) : Host.Outcome State Fault Refusal :=
  let p := s.port port
  let l := p.lane w
  let now := s.now
  let lit := p.ready && w < 16 && l.above && !now.ult (l.since + 1000)
  let flit := ctrlFlit 3 (bytesOfLE 2 (2 ^ w))
  if !lit then .next s
  else if p.rxMask.getLsbD w then
    .next (s.setPort port { (p.evClear (2 ^ (16 + w))).evSet 4 with ctrlOut := p.ctrlOut ++ [flit] })
  else match l.outUse with
    | some t =>
      if now.ult (t + 1000) then .next s
      else .next (s.setPort port ({ p with ctrlOut := p.ctrlOut ++ [flit] }.setLane w { l with outUse := some now }))
    | none => .next s
/-- A lane's power crosses the threshold; a NAK that waited for it is sent when the light is back within 64 ns (R246). -/
def execReceivedPowerChange (port w : Nat) (above : Bool) (s : State) : Host.Outcome State Fault Refusal :=
  let p := s.port port
  let l := p.lane w
  let now := s.now
  if !p.ready || 16 ≤ w || l.above == above then .next s
  else
    let back := above && p.nakWait == some w && now.ult (l.since + 64)
    let p := if back then { p.sendNak now with nakWait := none } else p
    .next (s.setPort port (p.setLane w { l with above := above, since := now, outUse := none }))

end Sys2Proof.Machine
end

