-- ==== Sys2Proof/Machine/Period.lean ====
section
/-! DEFINITION. Usage logs (R386 to R388), residency (R284 to R286) and the period edge (R289 to R291). -/

namespace Sys2Proof.Machine

-- Usage logs.

def State.identityKey (s : State) : List Byte := bytesOfLE 1312 (Config.mldsaPublic s.sec.puf)
/-- H₀ of a context created at a time (R387). -/
def State.logStart (s : State) (ctx : Nat) (t : Word) : BitVec 256 :=
  sha3 (s.identityKey ++ bytesOfLE 2 ctx ++ bytesOfLE 8 t.toNat)
/-- What a context was charged for a resource, over all its places: in reservation, and as leftover. -/
def Ctx.usage (c : Ctx) (res : Nat) : Nat × Nat :=
  let l := c.accts.filter (fun e => e.1 / 65536 == res)
  ((l.map (fun e => e.2.chg)).sum, (l.map (fun e => e.2.loused)).sum)
/-- A usage record of 160 bytes (R386). -/
def State.usageRecord (s : State) (ctx : Nat) (final : Bool) : List Byte :=
  let c := s.ctx ctx
  bytesOfLE 2 1 ++ bytesOfLE 2 ctx ++ bytesOfLE 2 c.keydom.toNat ++ bytesOfLE 1 (bitIf c.resident 0 + bitIf final 1) ++ bytesOfLE 1 0
    ++ bytesOfLE 8 (c.logIndex + 1) ++ bytesOfLE 8 (s.shr.edge.toNat - s.shr.period) ++ bytesOfLE 4 (s.shr.period / 1000)
    ++ bytesOfLE 4 0
    ++ ((List.range 7).map (fun r => let (a, b) := c.usage r; bytesOfLE 8 a ++ bytesOfLE 8 b)).flatten ++ bytesOfLE 16 0
/-- A checkpoint of the chain as it stands (R388). -/
def State.checkpoint (s : State) (ctx : Nat) : State :=
  let c := s.ctx ctx
  let m := bytesOfLE 1 0x4C ++ bytesOfLE 2 ctx ++ bytesOfLE 8 c.logIndex ++ bytesOfLE 32 c.logHead.toNat
    ++ bytesOfLE 8 s.clk.time.toNat
  let k : Checkpoint := { index := c.logIndex, head := c.logHead, time := s.clk.time, sig := Config.mldsaSign s.sec.puf (sha3 m) }
  s.setCtx ctx { c with checks := (k :: c.checks).take 2 }
/-- A record is appended: the last 2,048 are kept, and each 1,024th makes a checkpoint (R386 to R388). -/
def State.appendLog (s : State) (ctx : Nat) (final : Bool) : State :=
  let c := s.ctx ctx
  let b := s.usageRecord ctx final
  let i := c.logIndex + 1
  let h := sha3 (bytesOfLE 32 c.logHead.toNat ++ b)
  let ring := c.logRing ++ [{ index := i, bytes := b }]
  let s := s.setCtx ctx { c with logIndex := i, logHead := h, logRing := ring.drop (ring.length - 2048) }
  if i % 1024 = 0 then s.checkpoint ctx else s

-- Residency.

/-- The context has work: a launch queued or running, or a stash entry (R284). -/
def Ctx.work (c : Ctx) : Bool := !c.launchQ.isEmpty || c.launch.isSome || !c.stash.isEmpty
/-- It is not resident, or its save has begun, and has work (R285, R286). -/
def Ctx.waiting (c : Ctx) : Bool := !c.present && !c.admitted && c.work
/-- The context is to leave: its tasks are to be pre-empted; groups without a task are saved at once (R286). -/
def State.evict (s : State) (ctx : Nat) : State :=
  let s := s.setCtx ctx { s.ctx ctx with leaving := true }
  let s := { s with slots := s.slots.map (fun (e : Nat × Slot) => match e.2.task with
    | some t => if t.ctx == ctx then (e.1, { e.2 with preReq := true }) else e
    | none => e) }
  ((s.groupsOf ctx).foldl (fun (s : State) (e : Nat × Grp) => s.saveGrp e.1) s).settleCtx ctx
/-- The context has been chosen; one with nothing to bring back is resident as soon as there is room. -/
def State.takeSeat (s : State) (ctx : Nat) : State :=
  let c := s.ctx ctx
  if !c.resident && c.savedGrps.isEmpty && c.stash.isEmpty && s.residents < s.shr.resmax then
    s.setCtx ctx { c with resident := true, wins := 0 }
  else s.setCtx ctx { c with admitted := true, wins := 0 }
/-- Contexts that count as resident when the next is considered: those leaving have given way. -/
def State.seats (s : State) : Nat := (s.ctxs.filter (fun e => e.1 != 0 && ((e.2.resident && !e.2.leaving) || e.2.admitted))).length
/-- Contexts that may be chosen to leave; `not` were chosen before at this edge. -/
def State.candidates (s : State) (not : List Nat) : List (Nat × Ctx) :=
  s.ctxs.filter (fun e => e.1 != 0 && e.2.resident && !e.2.leaving && !e.2.gauge.pin && !not.contains e.1)
/-- The first to leave: one without work, then the lowest effective priority, ties to the higher number (R284, R285). -/
def State.victim (s : State) (not : List Nat) : Option Nat :=
  let l := s.candidates not
  let idle := l.filter (fun e => !e.2.work)
  (if idle.isEmpty then l else idle).foldl (fun (best : Option Nat) e => match best with
    | none => some e.1
    | some b =>
      let pb := s.eff b; let pe := s.eff e.1
      if pe < pb || (pe == pb && b < e.1) then some e.1 else best) none
/-- A lowered RESMAX sends the surplus away (R284). -/
def State.surplus : Nat → State → State
  | 0, s => s
  | k + 1, s =>
    if s.seats ≤ s.shr.resmax then s
    else match s.victim [] with | none => s | some v => State.surplus k (s.evict v)
/-- Insert by descending effective priority, ties to the lower number. -/
def State.insertWaiting (s : State) (x : Nat) : List Nat → List Nat
  | [] => [x]
  | y :: r => if s.eff y < s.eff x || (s.eff y == s.eff x && x < y) then x :: y :: r else y :: s.insertWaiting x r
/-- The waiting contexts in turn, as the priorities stand at the edge; `seen` holds the victims that the earlier ones were
compared with, whether they left or not (R285). -/
def State.residency : List Nat → List Nat → State → State
  | [], _, s => s
  | w :: r, seen, s =>
    if s.seats < s.shr.resmax then State.residency r seen (s.takeSeat w)
    else match s.victim seen with
      | none => s
      | some v =>
        if !(s.ctx v).work then State.residency r (v :: seen) ((s.evict v).takeSeat w)
        else
          let c := s.ctx w
          if s.eff v < s.eff w then
            (if 2 ≤ c.wins + 1 then State.residency r (v :: seen) ((s.evict v).takeSeat w)
             else State.residency r (v :: seen) (s.setCtx w { c with wins := c.wins + 1 }))
          else State.residency r (v :: seen) (s.setCtx w { c with wins := 0 })
def State.decideResidency (s : State) : State :=
  let s := { s with ctxs := s.ctxs.map (fun e => if e.2.waiting then e else (e.1, { e.2 with wins := 0 })) }
  let s := State.surplus s.ctxs.length s
  let ws := (s.ctxs.filter (fun e => e.1 != 0 && e.2.waiting)).map (fun e => e.1)
  State.residency (ws.foldl (fun l x => s.insertWaiting x l) []) [] s

-- The edge.

/-- The reservation of a resource in a gauge (R287, R288); fabric bytes are granted by the slot. -/
def Gauge.res (g : Gauge) : Nat → Nat
  | 0 => g.mx | 1 => g.vx | 2 => g.ae | 3 => g.cx | 4 => g.hbm | 6 => g.eth | _ => 0
/-- The places to which a resource applies. -/
def State.places (s : State) : Nat → List Nat
  | 0 | 1 | 3 => List.range (32 * s.nDies)
  | 2 => List.range s.nDies
  | 4 | 6 => [0]
  | _ => []
/-- A new period begins for a context: AVAIL := RES + min(AVAIL, 0), LOUSED := 0 (R291). -/
def State.refill (s : State) (c : Ctx) : Ctx :=
  let g := c.nextGauge.getD c.gauge
  let one (t : Tbl Acct) (res inst : Nat) : Tbl Acct :=
    let a := c.acct res inst
    tblPut t (acctKey res inst) {} ({ avail := ((g.res res : Nat) : Int) + (if a.avail < 0 then a.avail else (0 : Int)) } : Acct)
  let keep := (c.accts.map (fun (e : Nat × Acct) => (e.1, ({ avail := (if e.2.avail < 0 then e.2.avail else (0 : Int)) } : Acct)))).filter (fun (e : Nat × Acct) => e.2 != {})
  let t := [0, 1, 2, 3, 4, 6].foldl (fun t r =>
    if g.res r = 0 then t else (s.places r).foldl (fun t i => one t r i) t) keep
  { c with gauge := g, nextGauge := none, accts := t }
/-- One period edge, as one instant (R291): the spin counters stand as of the edge (R294). -/
def State.edgeStep (s : State) : State :=
  let s := s.spinAll
  let s := (s.ctxs.map (fun (e : Nat × Ctx) => e.1)).foldl (fun (s : State) c => s.appendLog c false) s
  let s := s.decideResidency
  let s := { s with shr := { s.shr with selv := s.shr.selv.map (fun (e : Nat × Selv) => (e.1, { acc := e.2.acc / 2, granted := 0 })) } }
  let s := { s with ctxs := s.ctxs.map (fun (e : Nat × Ctx) => (e.1, s.refill e.2)) }
  let per := s.shr.nextPeriod.getD s.shr.period
  { s with shr := { s.shr with period := per, nextPeriod := none, edge := s.shr.edge + BitVec.ofNat 64 per } }
/-- The servo gains or loses 1 ns in 2,001 ns of TIME, below 500 ppm either way, until its offset is gone (R376, log 25). -/
def Clock.slewed (c : Clock) (d : Nat) : Clock :=
  let n := d + c.part
  let k := Nat.min (n / 2001) c.slew.natAbs
  let j : Int := if c.slew < 0 then -(k : Int) else k
  if c.slew = 0 then c
  else { c with slew := c.slew - j, part := if k = c.slew.natAbs then 0 else n % 2001, jump := c.jump + BitVec.ofInt 64 j }
/-- Locked windows whose LOCKEND the counter has reached close (R95). -/
def State.shutLocks (s : State) : State :=
  { s with slots := s.slots.map (fun (e : Nat × Slot) =>
      if e.2.lockend != 0 && e.2.lockend.ule s.clk.time then (e.1, { e.2 with lockend := 0 }) else e) }
/-- The counter stands at `t`, and what only follows time has followed: windows have closed, spinning is counted (R294). -/
def State.reach (s : State) (t : Word) : State :=
  ({ s with clk := { s.clk.slewed (t - s.clk.time).toNat with time := t } }).shutLocks.spinAll
/-- The period edges up to a time, each at its own time (R289): what happens at an edge or after it belongs to the new period. -/
def State.edgesTo : Nat → Word → State → State
  | 0, _, s => s
  | n + 1, t, s =>
    if s.shr.edge.ule t then
      let at_ := if s.clk.time.ult s.shr.edge then s.shr.edge else s.clk.time
      State.edgesTo n t (s.reach at_).edgeStep
    else s
/-- TIME reaches `t`, if it has not yet. A period is at least 10 µs (R284, R289), which bounds the number of edges. -/
def State.at (s : State) (t : Word) : State :=
  let t := if s.clk.time.ult t then t else s.clk.time
  (State.edgesTo ((t.toNat - s.shr.edge.toNat) / 10000 + 1) t s).reach t
def execPeriodEdge (s : State) : Host.Outcome State Fault Refusal :=
  .next (if s.shr.edge.ule s.clk.time then s.edgeStep else s)

end Sys2Proof.Machine
end

