-- ==== Sys2Proof/Machine/Host.lean ====
section
/-! DEFINITION. The command endpoint: sessions and frames (R370, R371), the register space (R265 to R267, R270, R279, R310, R372,
R373), address spaces, nodes, windows, the event queue (R375), page commands (R175, R176) and launches (R374). -/

namespace Sys2Proof.Machine

-- Frames.

/-- The endpoint serves sessions (R370, R393, R394). -/
def State.endpoint (s : State) : Bool := s.preg.endptReady && s.eth.ports.any (fun (e : Nat × EthPort) => e.2.ready)
/-- What a command comes to: its status, and with OK its effect and data; or an effect, the answer being sent later. -/
inductive CmdRes where
  | ok (s : State) (data : List Byte)
  | fail (status : Nat)
  | later (s : State)
/-- A command on an open session is answered once, and waits for the one before it; a session that the custodian key has not admitted
may send only some of them. A frame of no session, or one that fails authentication under its session's key, is dropped (R370, R371).
`own` is the incomplete command of the session that this frame is of. -/
def State.commandOf (s : State) (own : Option Pending) (h : Cmd) (any : Bool) (f : CmdRes) : Host.Outcome State Fault Refusal :=
  match s.session h.sess with
  | none => .next s
  | some v =>
    if !s.endpoint || (v.pending.isSome && v.pending != own) || !s.authentic h then .next s
    else if !any && !v.admitted then .next (s.answer h 1)
    else match f with
    | .ok t data => .next (t.answer h 0 data)
    | .fail n => .next (s.answer h n)
    | .later t => .next t
def State.command (s : State) (h : Cmd) (any : Bool) (f : CmdRes) : Host.Outcome State Fault Refusal := s.commandOf none h any f
def State.setSession (s : State) (n : Nat) (v : Session) : State := { s with eth := { s.eth with sessions := tblSet s.eth.sessions n v } }
def State.custodian (s : State) (h : Cmd) (f : CmdRes) : Host.Outcome State Fault Refusal := s.command h false f
def done (s : State) : CmdRes := .ok s []
def whenOk (c : Bool) (status : Nat) (r : CmdRes) : CmdRes := if c then r else .fail status
/-- A context exists (R281). -/
def State.hasCtx (s : State) (c : Nat) : Bool := (tblGet s.ctxs c).isSome

-- Optical port registers.

def Port.withSlotcfg (p : Port) (now : Word) (own : Nat) (v : Word) : Port :=
  let p := if v.getLsbD 62 then { p with slotcfg := p.slotcfg &&& 0xBFFFFFFFFFFFFFFF } else p
  let en := v.getLsbD 63
  -- EN = 0 takes effect at the end of the slot that runs; until then EN stands, and the other fields with it (R267)
  if p.en then
    (if en then { p with offReq := false }
     else if p.inSlot then { p with offReq := true }
     else { p with slotcfg := p.slotcfg &&& 0x7FFFFFFFFFFFFFFF })
  else
    let new := (p.slotcfg &&& 0x4000000000000000) ||| (v &&& 0xBFFFFFFFFFFFFFFF)
    let q := { p with slotcfg := new }
    if !en then q
    else
      let bad := q.slotNs < 1000 || decide (100000 < q.slotNs) || q.guardNs < 100 || decide (q.slotNs < q.guardNs + 1000)
        || (List.range q.nslot).any (fun k => q.peerAt k == some own) || (q.relayOn && q.rmeet == 0)
      if bad then { p with slotcfg := p.slotcfg ||| 0x4000000000000000 }
      else { q with onAt := q.boundary now, rounds := 0 }
/-- A write of SLOTCFG (R265, R267). -/
def State.writeSlotcfg (s : State) (p : Nat) (v : Word) : State := s.setPort p ((s.port p).withSlotcfg s.clk.time s.pkgId v)
def execSlotcfgWrite (h : Cmd) (port : Nat) (v : Word) (s : State) : Host.Outcome State Fault Refusal :=
  s.custodian h (whenOk (decide (port < s.nPorts)) 2 (done (s.writeSlotcfg port v)))
/-- SLOTSTAT (R279). -/
def Port.slotstat (p : Port) (now : Word) : Word :=
  let dark := !p.en || !p.inSlot || p.peer.isNone
  BitVec.ofNat 64 (p.rounds.toNat * 2 ^ 32 + p.slotIx % 256 * 2 ^ 24 + (p.peer.getD 0) % 4096 * 2 ^ 12
    + bitIf (p.inSlot && now.ult (p.slotBeg + BitVec.ofNat 64 p.guardNs)) 11 + bitIf dark 10)
def Port.read (p : Port) (now : Word) (off : Nat) : Option Word :=
  if 0x800 ≤ off then (if off % 8 = 0 && off < 0x1000 then some (tblGetD p.slottab ((off - 0x800) / 8) 0) else none)
  else match off with
  | 0x00 => some p.slotcfg | 0x08 => some p.epoch | 0x10 => some p.relaycfg | 0x18 => some p.rmeet
  | 0x20 => some (BitVec.ofNat 64 (fcap p.slotNs p.guardNs % 2 ^ 32)) | 0x28 => some (p.slotstat now) | 0x30 => some p.sloterr
  | 0x38 => some p.event | 0x40 => some (p.replay.zeroExtend 64) | 0x48 => some (p.sfretry.zeroExtend 64)
  | _ => none
/-- A write of the other registers; RO fields keep their value, and some registers stand while EN is 1 (R8, R253, R266, R267,
R277, R279, R297). -/
def Port.write (p : Port) (off : Nat) (v : Word) : Option Port :=
  if 0x800 ≤ off then
    (if off % 8 = 0 && off < 0x1000 then
      some (if p.en then p else { p with slottab := tblPut p.slottab ((off - 0x800) / 8) 0 (v &&& 0x8FFF) })
     else none)
  else match off with
  | 0x08 => some (if p.en then p else { p with epoch := v })
  | 0x10 => some (if p.en then p else { p with relaycfg := v &&& 0xFFFFFFFF })
  | 0x18 => some { p with rmeet := v &&& ~~~0x1FFFFF }
  | 0x20 | 0x28 => some p
  | 0x30 => some { p with sloterr := p.sloterr &&& ~~~v }
  | 0x38 => some { p with event := p.event &&& ~~~(v &&& 0xF) }
  | 0x40 => some { p with replay := p.replay &&& ~~~(v.truncate 32) }
  | 0x48 => some { p with sfretry := p.sfretry &&& ~~~(v.truncate 32) }
  | _ => none

-- Package registers.

def State.timestat (s : State) : Word :=
  BitVec.ofNat 64 (s.clk.offset.toNat * 2 ^ 32 + bitIf s.clk.hold 2 + bitIf s.clk.stepped 1 + bitIf s.clk.lock 0)
def State.optrdy (s : State) (lo : Nat) : Word :=
  BitVec.ofNat 64 (((List.range 64).map (fun k => bitIf (decide (lo + k < s.nPorts) && s.portReady (lo + k)) k)).sum)
def thermCode : Therm → Nat
  | .normal => 0 | .warn => 1 | .throttle => 2 | .trip => 3
def State.readPkg (s : State) (off : Nat) : Option Word :=
  if off % 8 != 0 then none
  else if 0x1000 ≤ off then (if off < 0x1000 + 8 * 4096 then some (tblGetD s.fab.routes ((off - 0x1000) / 8) 0) else none)
  else if 0x100 ≤ off then
    (let d := (off - 0x100) / 8
     if d < s.nDies then some (BitVec.ofNat 64 (thermCode (s.die d).therm * 2 ^ 32 + (s.die d).temp.toNat)) else none)
  else match off with
  | 0x00 => some s.preg.cecnt | 0x08 => some (s.preg.evdrop.zeroExtend 64) | 0x10 => some s.timestat
  | 0x18 => some (s.optrdy 0) | 0x20 => some (s.optrdy 64)
  | 0x28 => some (BitVec.ofNat 64 (bitIf s.clk.ptpEn 8 + s.clk.ptpPort.toNat))
  | 0x30 => some (s.preg.ethfail.zeroExtend 64) | 0x38 => some (s.preg.fabresend.zeroExtend 64)
  | 0x40 => some (s.preg.fabdown.zeroExtend 64)
  | _ => none
/-- A new route entry; writing it restores a connection that was declared down (R260, R270, log 23). -/
def State.writeRoute (s : State) (q : Nat) (v : Word) : State :=
  let s := { s with fab := { s.fab with routes := tblPut s.fab.routes q 0 (v &&& 0x80FF) } }
  let c := s.conn q
  if c.down then s.setConn q { c with down := false } else s
/-- The counter runs free: no lock, no holdover, nothing to slew (R376). -/
def Clock.free (c : Clock) : Clock := { c with lock := false, hold := false, slew := 0, part := 0 }
def State.writePkg (s : State) (off : Nat) (v : Word) : Option State :=
  if off % 8 != 0 then none
  else if 0x1000 ≤ off then (if off < 0x1000 + 8 * 4096 then some (s.writeRoute ((off - 0x1000) / 8) v) else none)
  else if 0x100 ≤ off then (if (off - 0x100) / 8 < s.nDies then some s else none)
  else
    let ns := v.toNat % 2 ^ 32
    let lim (a b : Nat) (t : State) : Option State := if a ≤ ns ∧ ns ≤ b then some t else none
    match off with
    | 0x00 | 0x08 | 0x18 | 0x20 => some s
    | 0x10 => some (if v.getLsbD 1 then { s with clk := { s.clk with stepped := false } } else s)
    | 0x28 =>
      if s.nEth ≤ v.toNat % 8 then none
      else
        let en := v.getLsbD 8
        some { s with clk := { (if en then s.clk else s.clk.free) with
          ptpEn := en, ptpPort := v.extractLsb' 0 3, lastSync := if en && !s.clk.ptpEn then s.now else s.clk.lastSync } }
    | 0x30 => lim 100000 100000000 { s with preg := { s.preg with ethfail := BitVec.ofNat 32 ns } }
    | 0x38 => lim 20000 10000000 { s with preg := { s.preg with fabresend := BitVec.ofNat 32 ns } }
    | 0x40 => lim 100000 100000000 { s with preg := { s.preg with fabdown := BitVec.ofNat 32 ns } }
    | _ => none

-- REGRD and REGWR (R372).

def State.regRead (s : State) (a : BitVec 32) : Option Word :=
  let inst := (a.extractLsb' 16 8).toNat
  let off := (a.extractLsb' 0 16).toNat
  match (a.extractLsb' 24 8).toNat with
  | 0 => if inst = 0 then s.readPkg off else none
  | 1 => if inst < s.nPorts then (s.port inst).read s.clk.time off else none
  | 2 => if inst < s.nEth && off == 0x48 then some ((tblGetD s.eth.ports inst {}).sfretry.zeroExtend 64) else none
  | _ => none
def State.regWrite (s : State) (a : BitVec 32) (v : Word) : Option State :=
  let inst := (a.extractLsb' 16 8).toNat
  let off := (a.extractLsb' 0 16).toNat
  match (a.extractLsb' 24 8).toNat with
  | 0 => if inst = 0 then s.writePkg off v else none
  | 1 =>
    if s.nPorts ≤ inst then none
    else if off = 0 then some (s.writeSlotcfg inst v)
    else ((s.port inst).write off v).map (fun p => s.setPort inst p)
  | 2 =>
    if inst < s.nEth && off == 0x48 then
      let p := tblGetD s.eth.ports inst {}
      some { s with eth := { s.eth with ports := tblSet s.eth.ports inst { p with sfretry := p.sfretry &&& ~~~(v.truncate 32) } } }
    else none
  | _ => none
def execRegrd (h : Cmd) (addr : BitVec 32) (s : State) : Host.Outcome State Fault Refusal :=
  s.custodian h (match s.regRead addr with | some v => .ok s (bytesOfLE 8 v.toNat) | none => .fail 2)
def execRegwr (h : Cmd) (addr : BitVec 32) (v : Word) (s : State) : Host.Outcome State Fault Refusal :=
  s.custodian h (match s.regWrite addr v with | some t => done t | none => .fail 2)

-- Address spaces, nodes, windows.

def execAsidset (h : Cmd) (asid : Nat) (root : Word) (s : State) : Host.Outcome State Fault Refusal :=
  s.custodian h (whenOk (decide (asid < 8192) && root.toNat % 4096 == 0) 2
    (done { s with mem := { s.mem with roots := tblSet s.mem.roots asid root } }))
/-- A node entry; a written entry counts as failed no longer, while the timer of packets on their way runs on (R364, R365, log 23). -/
def execNodeset (h : Cmd) (node : Nat) (ip : BitVec 128) (ports : BitVec 8) (enc self : Bool) (s : State) :
    Host.Outcome State Fault Refusal :=
  let clash := self && s.eth.nodes.any (fun (e : Nat × Node) => e.1 != node && e.2.self)
  let old := s.node node
  let v : Node := { ip := ip, ports := ports, enc := enc, self := self, key := old.bind (fun v => v.key)
                    failAt := (old.map (fun v => v.failAt)).getD 0 }
  s.custodian h (whenOk (decide (node < 4096) && !clash) 2
    (done { s with eth := { s.eth with nodes := tblSet s.eth.nodes node v } }))
/-- A host window is registered, or, with length 0, revoked: from then on it takes nothing, and once what it took before is complete its
number is free and the command answered (R181, R371, R378). -/
def execHwin (h : Cmd) (win : Nat) (addr : Word) (len : Nat) (rd wr : Bool) (s : State) : Host.Outcome State Fault Refusal :=
  let v := (s.session h.sess).getD {}
  let put (w : HostWin) : Tbl HostWin := tblSet v.windows win w
  let drained := !s.eth.pkts.any (fun o => o.p.host && o.p.node == h.sess && o.p.win == win && !o.late)
  let mine : Pending := .hwin h.tag win
  s.commandOf (if len = 0 then some mine else none) h true (whenOk (decide (win < 256)) 2 (match tblGet v.windows win with
    | some w =>
      if len != 0 then done (s.setSession h.sess { v with windows := put { addr := addr, len := len, rd := rd, wr := wr } })
      else if drained then done (s.setSession h.sess { v with windows := tblErase v.windows win, pending := none })
      else .later (s.setSession h.sess { v with windows := put { w with revoking := true }, pending := some mine })
    | none => done (if len = 0 then s else s.setSession h.sess { v with windows := put { addr := addr, len := len, rd := rd, wr := wr } })))
def execTctxset (h : Cmd) (ctx peer target : Nat) (s : State) : Host.Outcome State Fault Refusal :=
  s.custodian h (whenOk (decide (ctx < 8192 ∧ peer < 4096 ∧ target < 8192)) 2 (whenOk (s.hasCtx ctx) 1
    (done { s with shr := { s.shr with tctx := tblSet s.shr.tctx (ctx * 4096 + peer) target } })))

-- The event queue (R375).

/-- Held launch-end records go out while the ring has room. -/
def State.flushEnds : Nat → State → State
  | 0, s => s
  | fuel + 1, s =>
    match s.eth.waitEnds, s.eth.ring with
    | e :: rest, some r =>
      if s.eth.eseq - r.seen < r.nev then
        State.flushEnds fuel { s with out := s.out ++ [s.ringPut r s.eth.eseq e], eth := { s.eth with eseq := s.eth.eseq + 1, waitEnds := rest } }
      else s
    | _, _ => s
def execEvqset (h : Cmd) (ring prod cons : Word) (nev : Nat) (s : State) : Host.Outcome State Fault Refusal :=
  let ok := (List.range 11).any (fun k => nev == 64 * 2 ^ k)
  let r : Ring := { sess := h.sess, base := ring, prod := prod, cons := cons, nev := nev, seen := s.eth.eseq }
  s.custodian h (whenOk ok 2 (done (State.flushEnds 4096 { s with eth := { s.eth with ring := some r } })))
/-- The device has read the host's consumer word. -/
def execEventRingRoom (cons : Nat) (s : State) : Host.Outcome State Fault Refusal :=
  match s.eth.ring with
  | none => .next s
  | some r =>
    if cons < r.seen || s.eth.eseq < cons then .next s
    else .next (State.flushEnds 4096 { s with eth := { s.eth with ring := some { r with seen := cons } } })

-- Page commands (R175, R176).

/-- The address of the leaf that maps a page. -/
def State.leafAt (s : State) (asid va : Nat) : Option Nat :=
  let rd (t i : Nat) : Nat := s.mem.hbm.readLE (t + 8 * i) 8
  match tblGet s.mem.roots asid with
  | none => none
  | some root =>
    match entTable (rd root.toNat (va / 2 ^ 39 % 512)) 4096 with
    | none => none
    | some t2 => match entTable (rd t2 (va / 2 ^ 30 % 512)) 4096 with
      | none => none
      | some t1 =>
        let i1 := va / 2 ^ 21 % 512
        if entLeaf (rd t1 i1) then some (t1 + 8 * i1)
        else (entTable (rd t1 i1) 256).map (fun t0 => t0 + 8 * (va / 2 ^ 16 % 32))
/-- V of a leaf is cleared, as the device's own write of its tables. -/
def State.clearLeaf (s : State) (a : Nat) : State :=
  { s with mem := { s.mem with hbm := s.mem.hbm.writeLE a 1 (s.mem.hbm.readLE a 1 / 2 * 2) } }
/-- The completion of one page: its first address and 0 DONE, 1 DEFERRED, 2 NOMAP, 3 BADASID. -/
def pageDone (va status : Nat) : List Byte := bytesOfLE 8 va ++ bytesOfLE 1 status
/-- One page of a page command, with what its answer says of it; the next page follows it, after one of 64 KiB where no leaf says its
size. No leaf maps an address above bit 47 (R170), and none that can be read one whose walk meets an error. None: the walk reaches a
stack that is not ready (R396). -/
def State.pageOne (s : State) (h : Cmd) (asid va : Nat) (evict : Bool) : Option (State × Nat × List Byte) :=
  let after := va / 65536 * 65536 + 65536
  if (tblGet s.mem.roots asid).isNone then some (s, after, pageDone va 3)
  else match (if va < 2 ^ 48 then s.walkGuard asid va else .trap (prot 0)) with
  | .stall => none
  | .trap _ => some (s, after, pageDone va 2)
  | .ok _ => match s.walk asid va, s.leafAt asid va with
    | some l, some a =>
      let next := l.page + l.size
      if tblGetD s.mem.pins (pageId asid l.page) 0 = 0 then some (s.clearLeaf a, next, pageDone l.page 0)
      else
        let c : PageCmd := { sess := h.sess, tag := h.tag, asid := asid, va := BitVec.ofNat 64 l.page, leaf := a, evict := evict }
        some ({ s with mem := { s.mem with dying := s.mem.dying ++ [c] } }, next, pageDone l.page 1)
    | _, _ => some (s, after, pageDone va 2)
def State.pageRun (h : Cmd) (asid : Nat) (evict : Bool) : Nat → State → Nat → Option (State × List Byte)
  | 0, s, _ => some (s, [])
  | n + 1, s, va => match s.pageOne h asid va evict with
    | none => none
    | some (t, va, b) => (State.pageRun h asid evict n t va).map (fun (u, bs) => (u, b ++ bs))
/-- Pages of this command are still dying. -/
def State.pagesOf (s : State) (sess : Nat) (tag : BitVec 32) : Bool := s.mem.dying.any (fun c => c.sess == sess && c.tag == tag)
/-- A page command is answered once, with what became of each page, when the last of them is unmapped (R175, R371). -/
def State.pageCmd (s : State) (h : Cmd) (asid : Nat) (va : Word) (count : Nat) (evict : Bool) : Host.Outcome State Fault Refusal :=
  s.custodian h (if count = 0 then .fail 2 else match State.pageRun h asid evict count s va.toNat with
    | none => .later s
    | some (t, data) =>
      if t.pagesOf h.sess h.tag then
        .later (match t.session h.sess with | some v => t.setSession h.sess { v with pending := some (.page h.tag data) } | none => t)
      else .ok t data)
def execPageUnmap (h : Cmd) (asid : Nat) (va : Word) (count : Nat) (s : State) : Host.Outcome State Fault Refusal :=
  s.pageCmd h asid va count false
def execPageEvict (h : Cmd) (asid : Nat) (va : Word) (count : Nat) (s : State) : Host.Outcome State Fault Refusal :=
  s.pageCmd h asid va count true
/-- A page command whose last page has been unmapped is answered. -/
def State.pageAnswer (s : State) (c : PageCmd) : State :=
  match s.session c.sess with
  | none => s
  | some v => match v.pending with
    | some (.page tag data) =>
      if tag = c.tag ∧ s.pagesOf c.sess c.tag = false then (s.setSession c.sess { v with pending := none }).answerTo c.sess tag 0 data else s
    | _ => s
/-- The pin count of a dying page has reached 0. -/
def execDeferred (asid : Nat) (va : Word) (s : State) : Host.Outcome State Fault Refusal :=
  let mine (c : PageCmd) : Bool := c.asid == asid && c.va == va
  let cs := s.mem.dying.filter mine
  if cs.isEmpty || tblGetD s.mem.pins (pageId asid va.toNat) 0 != 0 then .next s
  else
    let s := { s with mem := { s.mem with dying := s.mem.dying.filter (fun c => !mine c) } }
    .next (cs.foldl (fun (s : State) c => (s.clearLeaf c.leaf).pageAnswer c) s)

-- Launches (R374).

def execLaunch (h : Cmd) (ctx : Nat) (rec : BitVec 2048) (s : State) : Host.Outcome State Fault Refusal :=
  let c := s.ctx ctx
  s.command h true (whenOk (s.hasCtx ctx) 1 (whenOk (decide (c.launchQ.length < 64)) 4
    (done (s.setCtx ctx { c with launchQ := c.launchQ ++ [rec] }))))

end Sys2Proof.Machine
end

