-- ==== Sys2Proof/Machine/Custodian.lean ====
section
/-! DEFINITION. Contexts and their shares (R281 to R283, R287, R288, R293, R295, R309), and groups (R327, R352). -/

namespace Sys2Proof.Machine

-- Contexts.

/-- Selvedge entries of gangs that no context carries disappear (R293). -/
def State.pruneSelv (s : State) : State :=
  { s with shr := { s.shr with selv := s.shr.selv.filter (fun (e : Nat × Selv) => s.carries e.1) } }
def State.ctxset (s : State) (ctx asid keydom gang spinlim : Nat) (stash : Word) : CmdRes :=
  let old := tblGet s.ctxs ctx
  let c := old.getD {}
  let moved := c.asid != BitVec.ofNat 13 asid || c.keydom != BitVec.ofNat 10 keydom || c.stashBase != stash
  let held := s.ctxs.any (fun (e : Nat × Ctx) => e.1 != ctx && e.2.asid == BitVec.ofNat 13 asid)
  let c' := { c with asid := BitVec.ofNat 13 asid, keydom := BitVec.ofNat 10 keydom, gang := BitVec.ofNat 16 gang
                     spinlim := BitVec.ofNat 32 spinlim, stashBase := stash }
  let c' := if old.isSome then c' else { c' with created := s.clk.time, logHead := s.logStart ctx s.clk.time }
  whenOk (decide (ctx < 8192 ∧ asid < 8192 ∧ keydom < 1024 ∧ gang < 65536 ∧ spinlim < 2 ^ 32) && stash.toNat % 65536 == 0) 2
    (whenOk (!held && !(old.isSome && moved && (c.launch.isSome || !c.stash.isEmpty))) 4 (done (s.setCtx ctx c').pruneSelv))
def execCtxset (h : Cmd) (ctx asid keydom gang spinlim : Nat) (stash : Word) (s : State) : Host.Outcome State Fault Refusal :=
  s.custodian h (s.spinAll.ctxset ctx asid keydom gang spinlim stash)
/-- A deleted context: its final usage record and checkpoint, an event record for each dropped launch, its windows' pins, its
address space and all that it held (R283, R386). -/
def State.deleteCtx (s : State) (ctx : Nat) : State :=
  let s := (s.appendLog ctx true).checkpoint ctx
  let c := s.ctx ctx
  let s := c.launchQ.foldl (fun (s : State) h => s.emit 1 ctx (leBytesN 8 7 ++ leBytesN 8 (hdrN h 48 8) ++ leBytesN 8 0)) s
  let s := c.windows.foldl (fun (s : State) (e : Nat × Win) => s.unpin e.2.pins) s
  let s := { s with ctxs := tblErase s.ctxs ctx }
  let s := { s with shr := { s.shr with tctx := s.shr.tctx.filter (fun (e : Nat × Nat) => e.1 / 4096 != ctx) } }
  let s := { s with mem := { s.mem with roots := tblErase s.mem.roots c.asid.toNat } }
  let s := { s with sec := { s.sec with oldLogs := tblSet s.sec.oldLogs ctx { ring := c.logRing, checks := c.checks } } }
  let s := s.setArmed (s.coll.armed.filter (fun (e : Nat × Armed) => e.2.ctx != ctx))
  let s := s.cores.foldl (fun (s : State) (e : Nat × Core) =>
    let of (j : RedJob) : Bool := j.ctx == ctx
    if e.2.red.any of then (s.setCore e.1 { s.core e.1 with red := (s.core e.1).red.filter (fun j => !of j) }).settleCore e.1 else s) s
  (s.setColls (s.coll.colls.filter (fun (e : Nat × Coll) => e.2.ctx != ctx))).pruneSelv
def execCtxdel (h : Cmd) (ctx : Nat) (s : State) : Host.Outcome State Fault Refusal :=
  s.custodian h (whenOk (ctx != 0 && s.hasCtx ctx) 1 (whenOk (s.ctx ctx).launch.isNone 4 (done (s.deleteCtx ctx))))

-- Gauges.

def gaugeN (g : BitVec 512) (off n : Nat) : Nat := g.toNat / 256 ^ off % 256 ^ n
def gaugeOf (g : BitVec 512) : Gauge :=
  { mx := gaugeN g 0 4, vx := gaugeN g 4 4, ae := gaugeN g 8 4, fb := gaugeN g 12 4, cx := gaugeN g 16 8, hbm := gaugeN g 24 8,
    eth := gaugeN g 32 8, pri := gaugeN g 40 1 % 64, lo := gaugeN g 41 1 % 2 == 1, pin := gaugeN g 41 1 / 2 % 2 == 1 }
/-- Reserved bits of R288 are 0. -/
def gaugeClear (g : BitVec 512) : Bool := decide (gaugeN g 40 1 < 64 ∧ gaugeN g 41 1 < 4) && gaugeN g 42 22 == 0
/-- Capacities of a period of so many ns (R287): MX, VX, AE, CX, HBM, Ethernet; fabric beside them. -/
def State.capacity (s : State) (per : Nat) : List Nat :=
  [5 * per / 2, 5 * per / 2, 5 * per / 2, 160 * per, (if s.vond8 then 36000 else 18000) * per, (if s.vond8 then 1600 else 800) * per]
def Gauge.parts (g : Gauge) : List Nat := [g.mx, g.vx, g.ae, g.cx, g.hbm, g.eth]
/-- The least FCAP of any port (R273). -/
def State.leastFcap (s : State) : Nat :=
  (List.range s.nPorts).foldl (fun m p => Nat.min m (fcap (s.port p).slotNs (s.port p).guardNs)) (fcap (s.port 0).slotNs (s.port 0).guardNs)
/-- The gauges that hold from the next edge on, of all contexts but one. -/
def State.otherGauges (s : State) (ctx : Nat) : List (Nat × Gauge) :=
  (s.ctxs.filter (fun (e : Nat × Ctx) => e.1 != ctx)).map (fun (e : Nat × Ctx) => (e.1, e.2.nextGauge.getD e.2.gauge))
def fitsIn (gs : List Gauge) (cap : List Nat) (fcap : Nat) : Bool :=
  let sum := gs.foldl (fun (a : List Nat) g => (a.zip g.parts).map (fun (x : Nat × Nat) => x.1 + x.2)) [0, 0, 0, 0, 0, 0]
  (sum.zip cap).all (fun (x : Nat × Nat) => decide (x.1 ≤ x.2)) && decide ((gs.map Gauge.fb).sum ≤ fcap)
def State.pinned (gs : List (Nat × Gauge)) : Nat := (gs.filter (fun (e : Nat × Gauge) => e.1 != 0 && e.2.pin)).length
/-- GAUGESET: from the next edge; the fabric reservation from the next slot (R280, R283, R288, R299). -/
def State.gaugeset (s : State) (ctx : Nat) (g : BitVec 512) : CmdRes :=
  let new := gaugeOf g
  let gs := (ctx, new) :: s.otherGauges ctx
  let per := s.shr.nextPeriod.getD s.shr.period
  whenOk (s.hasCtx ctx) 1 (whenOk (gaugeClear g) 2
    (whenOk (fitsIn (gs.map (fun (e : Nat × Gauge) => e.2)) (s.capacity per) s.leastFcap && decide (State.pinned gs ≤ s.shr.resmax)) 3
      (done (s.setCtx ctx { s.ctx ctx with gauge := { (s.ctx ctx).gauge with fb := new.fb }, nextGauge := some new }))))
def execGaugeset (h : Cmd) (ctx : Nat) (gauge : BitVec 512) (s : State) : Host.Outcome State Fault Refusal :=
  s.custodian h (s.gaugeset ctx gauge)
/-- RESCFG: RESMAX and PERIOD in µs (R283, R284, R288, R289). -/
def State.rescfg (s : State) (resmax period : Nat) : CmdRes :=
  let gs := s.otherGauges 8192
  let per := 1000 * period
  let fits := decide (s.shr.nextPeriod.getD s.shr.period ≤ per) || fitsIn (gs.map (fun (e : Nat × Gauge) => e.2)) (s.capacity per) s.leastFcap
  whenOk (decide (1 ≤ resmax ∧ resmax ≤ 255 ∧ 10 ≤ period ∧ period ≤ 10000)) 2
    (whenOk (fits && decide (State.pinned gs ≤ resmax)) 3
      (done { s with shr := { s.shr with resmax := resmax, nextPeriod := some per } }))
def execRescfg (h : Cmd) (resmax period : Nat) (s : State) : Host.Outcome State Fault Refusal := s.custodian h (s.rescfg resmax period)
def execSelvset (h : Cmd) (gang cap : Nat) (s : State) : Host.Outcome State Fault Refusal :=
  s.custodian h (whenOk (decide (1 ≤ gang ∧ gang < 65536 ∧ cap ≤ 255)) 2
    (done { s with shr := { s.shr with caps := tblPut s.shr.caps gang 32 cap } }))
/-- SELV (R295). -/
def State.selvWord (s : State) (gang : Nat) : Nat :=
  let e := tblGetD s.shr.selv gang {}
  e.acc + e.granted * 2 ^ 8 + tblGetD s.shr.caps gang 32 * 2 ^ 16
def execSelvread (h : Cmd) (gang : Nat) (s : State) : Host.Outcome State Fault Refusal :=
  s.custodian h (whenOk (decide (1 ≤ gang ∧ gang < 65536)) 2 (.ok s (bytesOfLE 8 (s.selvWord gang))))
/-- PRIO (R295). -/
def State.prioWord (s : State) (ctx : Nat) : Nat :=
  let c := s.ctx ctx
  let acc := if c.gang = 0 then 0 else (tblGetD s.shr.selv c.gang.toNat {}).acc
  c.gauge.pri % 64 + acc * 2 ^ 12 + c.pen * 2 ^ 20 + s.eff ctx * 2 ^ 24 + bitIf c.work 30 + bitIf c.resident 31 + c.wins % 4 * 2 ^ 32
/-- PRIO, and for each resource AVAIL and LOUSED, summed over its places (R283, R290). -/
def State.ctxData (s : State) (ctx : Nat) : List Byte :=
  let c := s.ctx ctx
  let one (r : Nat) : List Byte :=
    let l := c.accts.filter (fun (e : Nat × Acct) => e.1 / 65536 == r)
    let av := l.foldl (fun (a : Int) (e : Nat × Acct) => a + e.2.avail) 0
    let lo := l.foldl (fun (a : Nat) (e : Nat × Acct) => a + e.2.loused) 0
    bytesOfLE 8 (BitVec.ofInt 64 av).toNat ++ bytesOfLE 8 lo
  bytesOfLE 8 (s.prioWord ctx) ++ ((List.range 7).map one).flatten
def execCtxread (h : Cmd) (ctx : Nat) (s : State) : Host.Outcome State Fault Refusal :=
  s.custodian h (whenOk (s.hasCtx ctx) 1 (.ok s.spinAll (s.spinAll.ctxData ctx)))
def execLockset (h : Cmd) (ctx maxns : Nat) (s : State) : Host.Outcome State Fault Refusal :=
  s.custodian h (whenOk (s.hasCtx ctx) 1 (whenOk (decide (maxns < 2 ^ 32)) 2
    (done (s.setCtx ctx { s.ctx ctx with lockmax := BitVec.ofNat 32 maxns }))))

-- Groups.

/-- A queued or running CX.MCST record uses the entry. -/
def QRec.multicasts (q : QRec) (gid : Nat) : Bool :=
  rEng q.r == 2 && rOp q.r == 9 && (match q.opD with | .imm v => v.toNat % 2 ^ 16 == gid | _ => false)
/-- A collective, a CX.MCST record or the graft engine uses a group table entry (R327, R356). -/
def State.groupUsed (s : State) (gid : Nat) : Bool :=
  s.coll.colls.any (fun (e : Nat × Coll) => e.2.gid == gid) ||
  (match tblGet s.coll.groups gid with | some g => g.branch.isSome | none => false) ||
  s.slots.any (fun (e : Nat × Slot) => e.2.qcx.any (fun q => q.multicasts gid)) ||
  s.cores.any (fun (e : Nat × Core) => e.2.ch.any (fun (c : Nat × Run) => c.2.q.multicasts gid)) ||
  s.ctxs.any (fun (e : Nat × Ctx) => e.2.savedSlots.any (fun v => v.slot.qcx.any (fun q => q.multicasts gid)))
def State.setGroups (s : State) (g : Tbl Group) : State := { s with coll := { s.coll with groups := g } }
/-- A member's entry: KIND 0 or 1, an address of offset 0, zero beside them (R327). -/
def memberOk (m : Member) : Bool := decide (m.kind ≤ 1) && m.rest == 0 && rOff m.addr == 0
def execGrpset (h : Cmd) (gid ctx : Nat) (enc : Bool) (members : List Member) (s : State) : Host.Outcome State Fault Refusal :=
  let g : Group := { owner := ctx, enc := enc, members := members }
  let range := decide (gid < 1024 ∧ 1 ≤ members.length ∧ members.length ≤ 256) && members.all memberOk
  s.custodian h (whenOk range 2 (whenOk (s.hasCtx ctx) 1
    (whenOk (!s.groupUsed gid) 4 (done (s.setGroups (tblSet s.coll.groups gid g))))))
def execGrpdel (h : Cmd) (gid : Nat) (s : State) : Host.Outcome State Fault Refusal :=
  s.custodian h (whenOk (tblGet s.coll.groups gid).isSome 2 (whenOk (!s.groupUsed gid) 4
    (done (s.setGroups (tblErase s.coll.groups gid)))))
/-- A share class, or with 0 none (R352). -/
def execSharecls (h : Cmd) (keydom cls : Nat) (s : State) : Host.Outcome State Fault Refusal :=
  s.custodian h (whenOk (decide (keydom < 1024 ∧ cls ≤ 255)) 2
    (done { s with graft := { s.graft with classes := tblPut s.graft.classes keydom 0 cls } }))

end Sys2Proof.Machine
end

