-- ==== Sys2Proof/Machine/Security.lean ====
section
/-! DEFINITION. Identity and sessions (R370, R385), keys (R380 to R384), usage logs (R387, R388) and attestation (R390). -/

namespace Sys2Proof.Machine

-- Keys.

def bytes32 (v : BitVec 256) : List Byte := bytesOfLE 32 v.toNat
/-- The key that a wrapped key comes to, or none: the tag must fit, the two halves must differ (R382). -/
def State.unwrapKey (s : State) (index keydom ct : Nat) (wrapped : BitVec 512) (tag : BitVec 128) : Option (BitVec 512) :=
  let ss := bytes32 (Config.mlkemDecap s.sec.puf ct)
  let ix := bytesOfLE 2 index ++ bytesOfLE 2 keydom
  let key := wrapped ^^^ shake512 (ss ++ ix)
  if tag != (sha3 (ss ++ ix ++ bytesOfLE 64 wrapped.toNat)).truncate 128 then none
  else if key.extractLsb' 0 256 == key.extractLsb' 256 256 then none else some key
def execKeyload (h : Cmd) (index keydom : Nat) (ct : Nat) (wrapped : BitVec 512) (tag : BitVec 128) (s : State) :
    Host.Outcome State Fault Refusal :=
  s.custodian h (whenOk (decide (index < 2048 ∧ keydom < 1024)) 2
    (match s.unwrapKey index keydom ct wrapped tag with
     | none => .fail 2
     | some key => whenOk (tblGet s.mem.keys index).isNone 4
        (done { s with mem := { s.mem with keys := tblSet s.mem.keys index { keydom := BitVec.ofNat 10 keydom, val := key } } })))
/-- A key to be deleted: gone at once where no pinned page names it, else dying (R383). -/
def execKeydel (h : Cmd) (index : Nat) (s : State) : Host.Outcome State Fault Refusal :=
  s.custodian h (match tblGet s.mem.keys index with
    | none => .fail 2
    | some k =>
      if k.dying then .fail 4
      else if s.mem.pins.any (fun (e : Nat × Nat) => s.pinKey e.1 == some index) then
        .ok { s with mem := { s.mem with keys := tblSet s.mem.keys index { k with dying := true } } } (bytesOfLE 8 1)
      else .ok { s with mem := { s.mem with keys := tblErase s.mem.keys index } } (bytesOfLE 8 0))
/-- The key of an ENC node: the first 32 bytes of what is unwrapped (R384, log 9). -/
def execNkeyload (h : Cmd) (node keydom : Nat) (ct : Nat) (wrapped : BitVec 512) (tag : BitVec 128) (s : State) :
    Host.Outcome State Fault Refusal :=
  s.custodian h (whenOk (decide (node < 4096) && keydom == 0) 2
    (match s.node node, s.unwrapKey node keydom ct wrapped tag with
     | some v, some key =>
       done { s with eth := { s.eth with nodes := tblSet s.eth.nodes node { v with key := some (key.truncate 256) } } }
     | _, _ => .fail 2))

-- Identity and sessions.

/-- Both public keys, served to any session and before any is open, and while the security engine is not ready (R385, R389). A frame
of an open session that fails authentication is dropped, and waits for the command before it (R370, R371). -/
def execIdread (h : Cmd) (s : State) : Host.Outcome State Fault Refusal :=
  if (match s.session h.sess with | some v => v.pending.isSome || !s.authentic h | none => false) then .next s
  else if s.eth.ports.any (fun (e : Nat × EthPort) => e.2.ready) then
    .next (s.answer h 0 (s.identityKey ++ bytesOfLE 1184 (Config.mlkemPublic s.sec.puf)))
  else .next s
/-- A session opens: its key, and whether the custodian key admitted it, by its signature over the ciphertext (R370, R385). The timer of
packets on their way to an earlier session of the number runs on (R365). -/
def execSessionOpen (sess : Nat) (ct : Nat) (sig : Nat) (s : State) : Host.Outcome State Fault Refusal :=
  if !s.endpoint || 16 ≤ sess then .next s
  else
    let key := sha3 (bytes32 (Config.mlkemDecap s.sec.puf ct) ++ bytesOfLE 1 sess)
    let failAt := ((s.session sess).map (fun v => v.failAt)).getD 0
    .next (s.setSession sess { admitted := Config.mldsaVerify s.sec.custKey (bytesOfLE 1088 ct) sig, key := key, failAt := failAt })

-- Usage logs.

/-- The log of a context, or what remains of it after its deletion. -/
def State.logOf (s : State) (ctx : Nat) : Option OldLog :=
  match tblGet s.ctxs ctx with
  | some c => some { ring := c.logRing, checks := c.checks }
  | none => tblGet s.sec.oldLogs ctx
def checkBytes (ctx : Nat) (c : Checkpoint) : List Byte :=
  bytesOfLE 2 ctx ++ bytesOfLE 8 c.index ++ bytes32 c.head ++ bytesOfLE 8 c.time.toNat ++ bytesOfLE 2420 c.sig
def execLogread (h : Cmd) (ctx index : Nat) (s : State) : Host.Outcome State Fault Refusal :=
  s.command h true (match s.logOf ctx with
    | none => .fail 1
    | some l =>
      let rs := (l.ring.filter (fun r => decide (index ≤ r.index))).take 64
      .ok s (rs.flatMap (fun r => r.bytes) ++ l.checks.flatMap (checkBytes ctx)))
def execLogsign (h : Cmd) (ctx : Nat) (s : State) : Host.Outcome State Fault Refusal :=
  s.custodian h (whenOk (s.hasCtx ctx) 1 (done (s.checkpoint ctx)))

-- Attestation.

/-- An entry of the key-domain table (R380). -/
def State.keyEntry (s : State) (k : Nat) : Nat :=
  match tblGet s.mem.keys k with
  | none => 0
  | some v => v.keydom.toNat + bitIf v.dying 30 + 2 ^ 31
def State.quoteFields (s : State) (nonce : BitVec 256) : List Byte :=
  let table := (List.range 2048).flatMap (fun k => bytesOfLE 4 (s.keyEntry k))
  bytes32 s.sec.fwDigest ++ bytes32 s.sec.cfgDigest ++ bytes32 (sha3 table) ++ bytes32 nonce ++ bytesOfLE 8 s.clk.time.toNat
def execQuote (h : Cmd) (nonce : BitVec 256) (s : State) : Host.Outcome State Fault Refusal :=
  let f := s.quoteFields nonce
  s.command h true (.ok s (f ++ bytesOfLE 2420 (Config.mldsaSign s.sec.puf (sha3 f))))

end Sys2Proof.Machine
end

