-- ==== Sys2Proof/Machine/Bringup.lean ====
section
/-! DEFINITION. Bring-up and readiness (R389, R393 to R396), time (R376 to R378), thermal states (R399) and uncorrectable errors
(R310). -/

namespace Sys2Proof.Machine

-- Readiness (R394, R395).

def s8ready (unit inst state : Nat) : List Byte := bytesOfLE 1 unit ++ bytesOfLE 2 inst ++ bytesOfLE 1 state
/-- The event record of a change of a READY bit. -/
def State.readyEvent (s : State) (unit inst : Nat) (on : Bool) : State := s.emit 8 0xFFFF (s8ready unit inst (if on then 1 else 0))
/-- The boot ROM verifies the firmware image by the key whose digest it holds, and the firmware verifies the configuration blob in the
same way; `sigs` are the two signatures over the digests. The identity derives at each bring-up, and with both verified the security
engine is ready (R385, R389). It happens once, before anything is ready; the chain of context 0, which is there before it, starts from
the identity (R387). -/
def execBringUp (fw cfg : List Byte) (kerez : Nat) (sigs : Nat × Nat) (custKey puf : Nat) (s : State) : Host.Outcome State Fault Refusal :=
  if s.sec.begun then .next s
  else
    let fwDigest := sha3 fw
    let cfgDigest := sha3 cfg
    let ok := sha3 (bytesOfLE 1312 kerez) == Config.kerezDigest && Config.mldsaVerify kerez (bytes32 fwDigest) sigs.1
      && Config.mldsaVerify kerez (bytes32 cfgDigest) sigs.2
    let s := { s with sec := { s.sec with begun := true, puf := puf, custKey := custKey, fwDigest := fwDigest, cfgDigest := cfgDigest } }
    let c := s.ctx 0
    let link (h : BitVec 256) (r : LogRec) : BitVec 256 := sha3 (bytes32 h ++ r.bytes)
    let s := s.setCtx 0 { c with logHead := c.logRing.foldl link (s.logStart 0 c.created) }
    .next (if ok then ({ s with preg := { s.preg with secReady := true } }).readyEvent 0 0 true else s)
/-- The cores of a die that has become ready are idle from this instant (R203). -/
def State.idleCores (s : State) (d : Nat) : State :=
  (List.range 32).foldl (fun (s : State) k =>
    s.setCore (32 * d + k) { s.core (32 * d + k) with power := .idle, since := s.now, waking := false }) s
def State.dieUp (s : State) (d : Nat) : State :=
  let v := s.die d
  if s.nDies ≤ d || v.ready || v.fenced then s
  else
    let s := (s.setDie d { v with ready := true }).idleCores d
    let s := if (s.die s.master).ready then s else s.electMaster
    s.readyEvent 2 d true
/-- A stack is ready: its lines have been zeroed, and hold no error (R394, R413). -/
def State.stackUp (s : State) (k : Nat) : State :=
  if s.nStacks ≤ k || (tblGet s.mem.stk k).isSome then s
  else
    let s := s.scrubWhere (fun u => match u with | .hbmLine l => stackOf (64 * l) == k | _ => false)
    ({ s with mem := { s.mem with stk := tblSet s.mem.stk k true } }).readyEvent 3 k true
def State.portUp (s : State) (p : Nat) : State :=
  let v := s.port p
  if s.nPorts ≤ p || v.ready then s else (s.setPort p { v with ready := true }).readyEvent 4 p true
def State.ethUp (s : State) (p : Nat) : State :=
  let v := tblGetD s.eth.ports p {}
  if s.nEth ≤ p || v.ready || v.fenced then s
  else ({ s with eth := { s.eth with ports := tblSet s.eth.ports p { v with ready := true } } }).readyEvent 5 p true
/-- A function meets its condition: of the security engine that is BRING_UP's, of the endpoint a ready security engine and a
ready Ethernet port (R394). -/
def execFunctionReady (u : Unit') (s : State) : Host.Outcome State Fault Refusal :=
  .next (match u with
    | .sec => s
    | .endpt =>
      if s.preg.endptReady || !s.preg.secReady || !s.eth.ports.any (fun (e : Nat × EthPort) => e.2.ready) then s
      else ({ s with preg := { s.preg with endptReady := true } }).readyEvent 1 0 true
    | .die d => s.dieUp d
    | .hbm k => s.stackUp k
    | .core _ => s
    | .opt p => s.portUp p
    | .eth p => s.ethUp p)
/-- A die is fenced, and what it runs is lost (R205, R394). -/
def State.fenceDie (s : State) (d : Nat) : State :=
  let v := s.die d
  if s.nDies ≤ d || v.fenced then s
  else
    let s := s.setDie d { v with ready := false, fenced := true }
    let s := if v.ready then s.readyEvent 2 d false else s
    s.loseDie d
/-- Dies, stacks and Ethernet ports can be fenced (R394), and a core of a die (R14, R205); the others never are. -/
def execFunctionFenced (u : Unit') (s : State) : Host.Outcome State Fault Refusal :=
  .next (match u with
    | .die d => s.fenceDie d
    | .core c => s.fenceCore c
    | .hbm k =>
      if s.nStacks ≤ k || tblGet s.mem.stk k == some false then s
      else
        let was := tblGet s.mem.stk k == some true
        let s := { s with mem := { s.mem with stk := tblSet s.mem.stk k false } }
        if was then s.readyEvent 3 k false else s
    | .eth p =>
      let v := tblGetD s.eth.ports p {}
      if s.nEth ≤ p || v.fenced then s
      else
        let s := { s with eth := { s.eth with ports := tblSet s.eth.ports p { v with ready := false, fenced := true } } }
        if v.ready then s.readyEvent 5 p false else s
    | .sec | .endpt | .opt _ => s)

-- Time (R376 to R378).

def offset64 (v : BitVec 32) : Nat := (v.signExtend 64).toNat
/-- The period edges that the counter has passed, in order (R378). -/
def State.edgesPassed : Nat → State → State
  | 0, s => s
  | n + 1, s => if s.shr.edge.ule s.clk.time then State.edgesPassed n s.edgeStep else s
/-- The counter is stepped forward: no time has passed by that. -/
def State.stepTime (s : State) (t : Word) : State :=
  let n := (t.toNat - s.shr.edge.toNat) / 10000 + 2
  (State.edgesPassed n { s with clk := { s.clk with time := t, stepped := true, jump := s.clk.jump + (t - s.clk.time) } }).shutLocks
/-- A sync message: the time of the master, and the offset of the counter from it as measured. At the first lock a later master
time steps the counter forward; otherwise the servo slews the offset away. The package is locked while its offset is at most 50 ns,
so that two locked ones differ by at most 100 ns; a sync message ends a holdover (R376, R377, log 25). -/
def execPtpSync (master : Nat) (offset : BitVec 32) (s : State) : Host.Outcome State Fault Refusal :=
  if !s.clk.ptpEn || !s.ethReady s.clk.ptpPort.toNat then .next s
  else
    let s := { s with clk := { s.clk with offset := offset, hold := false, lastSync := s.now } }
    let later := decide (s.clk.time.toNat < master ∧ master < 2 ^ 64)
    if !s.clk.tuned && later then
      let s := s.stepTime (BitVec.ofNat 64 master)
      .next { s with clk := { s.clk with lock := true, tuned := true, slew := 0, part := 0 } }
    else
      let near := decide (-50 ≤ offset.toInt ∧ offset.toInt ≤ 50)
      .next { s with clk := { s.clk with lock := near, tuned := s.clk.tuned || near, slew := -offset.toInt } }
/-- 2 s without sync messages on a package that takes its time from a master, locked or not: it runs free (R377). -/
def execHoldover (s : State) : Host.Outcome State Fault Refusal :=
  if s.clk.ptpEn && !s.clk.hold && decide (2000000000 ≤ (s.now - s.clk.lastSync).toNat) then
    .next (({ s with clk := { s.clk with lock := false, hold := true, slew := 0, part := 0 } }).emit 6 0xFFFF
      (leBytesN 8 (offset64 s.clk.offset)))
  else .next s

-- Thermal states (R399).

def Therm.change (t : Therm) (temp : Nat) : Therm :=
  match t with
  | .trip => .trip
  | .normal => if 115 ≤ temp then .trip else if 105 ≤ temp then .throttle else if 95 ≤ temp then .warn else .normal
  | .warn => if 115 ≤ temp then .trip else if 105 ≤ temp then .throttle else if temp < 90 then .normal else .warn
  | .throttle => if 115 ≤ temp then .trip else if temp < 100 then .warn else .throttle
def execThermalStateChange (die temp : Nat) (s : State) : Host.Outcome State Fault Refusal :=
  if s.nDies ≤ die || 256 ≤ temp then .next s
  else
    -- cycles spun so far are of the old clock (R400)
    let s := s.spinAll
    let v := s.die die
    let t := v.therm.change temp
    let s := s.setDie die { v with therm := t, temp := BitVec.ofNat 8 temp }
    if t = v.therm then .next s
    else
      let s := s.emit 9 0xFFFF (bytesOfLE 1 die ++ bytesOfLE 1 (thermCode v.therm) ++ bytesOfLE 1 (thermCode t) ++ bytesOfLE 1 temp)
      .next (if t = .trip then s.fenceDie die else s)

-- Uncorrectable errors (R310).

/-- A fatal machine check of a sequencer's task: its event record, and the task ends unhandled even with a handler. -/
def State.fatal (s : State) (r : SeqRef) (src : Nat) : State :=
  let ev := mchkEval src true 0
  (s.emit 4 (s.slot r.slot).ctxOf (leBytesN 8 ev.toNat)).takeTrap r 0x20 true (s.seq r).pc ev true
def State.unownedError (s : State) (src addr : Nat) : State := s.emit 5 0xFFFF (leBytesN 8 (mchkEval src false addr).toNat)
/-- An error is found. In storage that is read or written later it waits there for its reader; in a sequencer's state, a
queue or a queued record it ends the task, also one that has executed both TENDs and waits for its records, and one in a sequencer's
state fences the die besides (R394); in storage of no context it is scrubbed; one that ECC corrects is counted in CECNT, which holds
at its maximum. -/
def execUncorrectableError (loc : UeLoc) (s : State) : Host.Outcome State Fault Refusal :=
  let runs (k : Nat) : Bool := (s.slot k).task.isSome
  let plant : State := if s.bad loc then s else { s with mem := { s.mem with ue := s.mem.ue ++ [loc] } }
  .next (match loc with
    | .seqState q => if runs q.slot then (s.fatal q 5).fenceDie (dieOf (coreOf q.slot)) else s.unownedError 5 0
    | .queueState k => if runs k then s.fatal (seqX k) 5 else s.unownedError 5 0
    | .record e k =>
      (match (s.slot k).queue e with
       | q :: _ => if runs k then s.fatal q.who 6 else s.unownedError 6 0
       | [] => s.unownedError 6 0)
    | .corrected =>
      let n := s.preg.cecnt
      { s with preg := { s.preg with cecnt := if n = BitVec.allOnes 64 then n else n + 1 } }
    | .unowned src addr => s.unownedError src.toNat addr.toNat
    | .bankWord g _ w => if (s.grp g).isSome then plant else s.unownedError 1 (8 * w)
    | .dsWord c _ w => if (s.launchOf c).isSome then plant else s.unownedError 2 (8 * w)
    | .tileWord k w => if (s.slot k).scope.isSome then plant else s.unownedError 4 (8 * w)
    | .stashEntry c e => if (tblGet (s.ctx c).stash e).isSome then plant else s.unownedError 7 0
    | .hbmLine _ => plant)

end Sys2Proof.Machine
end

