-- ==== Sys2Proof/Machine/Trigger.lean ====
section
/-! DEFINITION. Trigger counters and triggered operations at a sequencer (R318 to R320), their firing and completion (R321 to
R323, R325, R326). -/

namespace Sys2Proof.Machine

-- Counters.

def State.onCtr (s : State) (k : Word) (f : State → Nat → State) : State :=
  if 4096 ≤ k.toNat then s.trap (prot k) else f s k.toNat
def execCtrset (g : Guard) (a b : SReg) (s : State) : Host.Outcome State Fault Refusal :=
  s.guarded g fun s => s.onCtr (s.q.s a) fun s k =>
    (s.ctrUpdate s.cx k (fun _ => { count := (s.q.s b).truncate 48, poison := false })).go
def execCtradd (g : Guard) (a b : SReg) (s : State) : Host.Outcome State Fault Refusal :=
  s.guarded g fun s => s.onCtr (s.q.s a) fun s k =>
    (s.ctrUpdate s.cx k (fun v => { v with count := v.count + (s.q.s b).truncate 48 })).go
def execCtrrd (g : Guard) (d a : SReg) (s : State) : Host.Outcome State Fault Refusal :=
  s.guarded g fun s => s.onCtr (s.q.s a) fun s k =>
    let c := s.ctr s.cx k
    s.ret d (c.count.zeroExtend 64 ||| (if c.poison then 0x8000000000000000 else 0))

-- Arming.

def dtypeOk (f : Nat) : Bool := decide (2 ≤ f ∧ f ≤ 6)
def ctrOk (k : Nat) : Bool := decide (k < 4096) || k == 0xFFFF
/-- The 64 bytes of a descriptor obey R319, and name counters. -/
def trigOk (b : List Byte) : Bool :=
  let op := leIn b 0 1
  decide (1 ≤ op ∧ op ≤ 5) && decide (leIn b 1 1 ≤ 2) && dtypeOk (leIn b 2 1) && leIn b 3 1 == 0 &&
  decide (leIn b 4 4 ≤ 65536) && leIn b 4 4 % fmtSize (leIn b 2 1) == 0 && ctrOk (leIn b 24 2) && ctrOk (leIn b 26 2) &&
  (op == 3 || op == 4 || leIn b 36 8 == 0) && leIn b 44 20 == 0
def trigOf (b : List Byte) (ctx ctr : Nat) (thr : BitVec 48) (task : Nat) : Armed :=
  { ctx := ctx, ctr := ctr, thr := thr, op := leIn b 0 1, redop := leIn b 1 1, dtype := leIn b 2 1, len := leIn b 4 4,
    src := BitVec.ofNat 64 (leIn b 8 8), dst := BitVec.ofNat 64 (leIn b 16 8), lctr := leIn b 24 2, rctr := leIn b 26 2,
    linc := leIn b 28 4, rinc := leIn b 32 4, disp := BitVec.ofNat 64 (leIn b 36 8),
    task := task }
/-- Free entries of the armed table (R320). -/
def State.armRoom (s : State) : Nat := 16384 - (s.coll.armed.filter (fun (e : Nat × Armed) => !e.2.fired)).length
/-- Arm an operation; its counter may pass already (R321). -/
def State.arm (s : State) (a : Armed) : State :=
  let due := if ctrPasses (s.ctr a.ctx a.ctr).count a.thr then some s.serial else none
  { s.setArmed (tblSet s.coll.armed s.serial { a with due := due }) with serial := s.serial + 1 }
/-- A TRIG that has captured its descriptor arms it, or waits for room with the descriptor in hand. -/
def State.trigPlace (s : State) (i : Instr) (bits : BitVec 512) (b c : SReg) : State :=
  if s.armRoom = 0 then s.enqHold i 0 { r := bits, who := s.cur, serial := 0, ctx := s.cx, grp := s.sl.grpOf }
  else (s.arm (trigOf (bytesOfLE 64 bits.toNat) s.cx (s.q.s b).toNat ((s.q.s c).truncate 48) s.uid)).go
def execTrig (g : Guard) (a b c : SReg) (s : State) : Host.Outcome State Fault Refusal :=
  s.guarded g fun s => s.onCtr (s.q.s b) fun s _ =>
    let addr := s.q.s a
    s.atAddr addr 64 fun s => s.accept (s.readG 2 s.cx addr 64 (some s.cur.slot)) fun (bs, s) =>
      if !trigOk bs then s.trap (prot addr) else s.trigPlace (.trig g a b c) (BitVec.ofNat 512 (leOfBytes bs)) b c
def execTrigRoom (q : SeqRef) (s : State) : Host.Outcome State Fault Refusal :=
  match s.waiting q with
  | some { ins := .trig g a b c, held := some r, .. } =>
    if s.armRoom = 0 then .next s else .next ((s.asSeq q).trigPlace (.trig g a b c) r.r b c)
  | _ => .next s

-- Firing.

/-- It may fire: its collective runs, under halving-doubling after the operations before it. -/
def State.opMay (s : State) (id : Nat) (a : Armed) : Bool :=
  match a.coll with
  | none => true
  | some k => match tblGet s.coll.colls k with
    | none => true
    | some c => c.running &&
      (c.halves == 0 || !s.coll.armed.any (fun (e : Nat × Armed) => e.2.coll == some k && !e.2.fired && decide (e.1 < id)))
/-- It fires now: its context is resident, its counter has passed, and it is the first of those due by one update (R321). -/
def State.canFire (s : State) (id : Nat) (a : Armed) : Bool :=
  (s.ctx a.ctx).present && a.due.isSome && s.opMay id a &&
  !s.coll.armed.any (fun (e : Nat × Armed) =>
    e.2.ctx == a.ctx && e.2.due == a.due && !e.2.fired && decide (e.1 < id) && s.opMay e.1 e.2)
def State.opFault (s : State) (id cause peer : Nat) : State :=
  s.atArmed id (fun a => { a with spent := true, cause := cause, peer := peer })
/-- COPY and LRED: every byte or element read, then written (R321, R325). Code 6 is the switches' work on a collective (R369): SEND
is read, DISP bytes of it, and the bytes of the result are free values. -/
def State.opWhole (s : State) (a : Armed) : Acc State :=
  let n := a.len / 64 + 2
  if a.op = 6 then
    (s.readG (a.disp.toNat / 64 + 2) a.ctx a.src a.disp.toNat).bind fun (_, s) =>
      ({ s with freeCtr := s.freeCtr + a.len }).writeG n a.ctx a.dst
        ((List.range a.len).map (fun i => (Config.freeWord (s.freeCtr + i)).truncate 8))
  else
  (s.readG n a.ctx a.src a.len).bind fun (x, s) =>
    if a.op = 1 then s.writeG n a.ctx a.dst x
    else (s.readG n a.ctx (a.dst + a.disp) a.len).bind fun (b, s) =>
      let (y, es) := redAll a.dtype a.redop b x
      (s.writeG n a.ctx a.dst y).bind fun t => .ok (es.foldl (fun (t : State) i => t.fxElem a.ctx (some i)) t)
/-- What COPY or LRED would write as byte `i`; none where what it comes from cannot be read. -/
def State.opByte (s : State) (a : Armed) (i : Nat) : Option Byte :=
  let at_ (p : Word) (k n : Nat) : Option (List Byte) :=
    match s.readG 2 a.ctx (p + BitVec.ofNat 64 k) n with | .ok (x, _) => some x | _ => none
  if a.op = 6 then some ((Config.freeWord (s.freeCtr + a.len + i)).truncate 8)
  else if a.op = 1 then (at_ a.src i 1).bind List.head?
  else
    let z := fmtSize a.dtype; let k := i / z * z
    match at_ a.src k z, at_ (a.dst + a.disp) k z with
    | some x, some b => (redAll a.dtype a.redop b x).1[i % z]?
    | _, _ => none
/-- An operation that faults writes each of its bytes or not, each independently (R322): a free choice, where the byte can be
written. -/
def State.opPartial (s : State) (a : Armed) : State :=
  let t := (List.range a.len).foldl (fun (t : State) i =>
    if Config.freeBool (s.freeCtr + i) then
      match s.opByte a i with
      | some v => (match t.writeG 2 a.ctx (a.dst + BitVec.ofNat 64 i) [v] with | .ok u => u | _ => t)
      | none => t
    else t) s
  { t with freeCtr := s.freeCtr + 2 ^ 48 }
/-- The work of COPY and LRED; without reducers LRED has its turn at CX and VX first (R321, R322, R325, R326). -/
def State.opLocal (s : State) (id : Nat) (a : Armed) : State :=
  match s.opWhole a with
  | .stall => s
  | .trap _ => (s.opPartial a).opFault id 2 0
  | .ok _ =>
    let (s, go) := if a.op != 4 then (s, true) else s.redGate (.op id) a.ctx a.len (some a.task) a.dst
    if !go then s
    else match s.opWhole a with
      | .ok t => t.atArmed id (fun x => { x with spent := true, off := x.len })
      | _ => s

/-- One message of a PUT or RPUT. Every message names the target counter, the last one alone with the increment, and over Ethernet
that one leaves after the others are acknowledged (log 30). None: it waits. -/
def State.opSend (s : State) (id : Nat) (a : Armed) : Option State :=
  let n := Nat.min (s.cutLen a.ctx (if a.net then 2 else 1)) (a.len - a.off)
  let fin := decide (a.len ≤ a.off + n)
  if (a.net && fin && a.pend != 0) || !s.mayHbm a.ctx then none
  else match s.readG (n / 64 + 2) a.ctx (a.src + BitVec.ofNat 64 a.off) n with
  | .stall => none
  | .trap _ => some (s.opFault id 2 0)
  | .ok (bs, t) =>
    let args := bytesOfLE 2 a.rctr ++ bytesOfLE 1 a.redop ++ bytesOfLE 1 a.dtype
      ++ bytesOfLE 4 (if fin then a.rinc else 0) ++ bytesOfLE 8 a.disp.toNat
    let addr := a.dst + BitVec.ofNat 64 a.off
    let m := t.request a.ctx (if a.op = 2 then 8 else 9) addr n args bs
    let sent (t : State) (k : Nat) : State :=
      t.atArmed id (fun x => { x with off := x.off + n, spent := fin, pend := x.pend + k })
    let here (src : Nat) (m : Msg) (net : Bool) : Option State :=
      let (u, go) := s.redFor (.op id) src m net true (if m.tctx = a.ctx then some a.task else none)
      if !go then some u
      else match u.readG (n / 64 + 2) a.ctx (a.src + BitVec.ofNat 64 a.off) n with
        | .ok (_, t) =>
          match t.target src m net true with
          | none | some (_, .hold) => none
          | some (t, .nack e) => if e = nStashFull then none else some (t.opFault id 2 (rPeer addr))
          | some (t, _) => some (sent t 0)
        | _ => none
    if a.net then
      match t.ethTo false addr with
      | .none => some (s.opFault id 2 (rPeer addr))
      | .failed => some (s.opFault id 1 (rPeer addr))
      | .self => here (0x8000 + rPeer addr) { m with tctx := a.ctx } true
      | .to .. =>
        let p := { t.packet a.ctx false addr n bs with frag := a.op == 2, rfrag := a.op == 3, args := args }
        some (sent (t.ethSend p a.ctx (.trig id) false) 1)
    else if rPeer addr = s.pkgId then here s.pkgId m false
    else match t.fabSend m a.ctx (.trig id) with
      | .ok u => some (sent u 1)
      | .full p => some (s.qstall p)
      | .down _ => some ((s.markDown (rPeer addr)).opFault id 1 (rPeer addr))
/-- Messages as far as they go now. -/
def State.opSends (id : Nat) : Nat → State → State
  | 0, s => s
  | fuel + 1, s =>
    match tblGet s.coll.armed id with
    | none => s
    | some a =>
      if a.spent then s
      else if a.cause != 0 then s.opFault id a.cause a.peer
      else match s.opSend id a with
        | none => s
        | some t => match tblGet t.coll.armed id with
          | some b => if b.off == a.off && !b.spent then t else State.opSends id fuel t
          | none => t
/-- What a fired operation does, as far as it can now (R290, R321). -/
def State.opRun (s : State) (id : Nat) (a : Armed) : State :=
  if a.spent then s
  else match a.op with
  | 1 | 4 | 6 => if s.mayHbm a.ctx then s.opLocal id a else s
  | 2 | 3 => State.opSends id (a.len / 64 + 2) s
  | _ => s.atArmed id (fun x => { x with spent := true })
def execTriggeredOpFire (id : Nat) (s : State) : Host.Outcome State Fault Refusal :=
  match tblGet s.coll.armed id with
  | none => .next s
  | some a =>
    if a.fired then .next (s.opRun id a)
    else if !s.canFire id a then .next s
    else
      let a := { a with fired := true }
      let s := s.setArmed (tblSet s.coll.armed id a)
      .next (if (s.ctr a.ctx a.ctr).poison then s.opFault id 2 0 else s.opRun id a)

-- Completion.

/-- LCTR rises, or is poisoned (R321, R322); a collective of which it is part may end (R331). A number that names a collective
lets one that waits for the stack of its status word end. -/
def execTriggeredOpComplete (id : Nat) (s : State) : Host.Outcome State Fault Refusal :=
  match tblGet s.coll.armed id with
  | none => .next (s.collSettle id)
  | some a =>
    if !a.fired || !a.spent || a.pend != 0 then .next s
    else
      let s := s.setArmed (tblErase s.coll.armed id)
      let s := match a.coll with
        | some k => s.setColls (tblModify s.coll.colls k (fun c => if c.bad = 0 && a.cause != 0 then { c with bad := a.peer } else c))
        | none => s
      let s := if a.cause = 0 then s.ctrRaise a.ctx a.lctr a.linc else s.ctrPoison a.ctx a.lctr
      .next s

end Sys2Proof.Machine
end

