-- ==== Sys2Proof/Machine/Collective.lean ====
section
/-! DEFINITION. COLL: its parameter block and result codes (R328, R329, R332) and the triggered operations into which each
algorithm expands (R330). -/

namespace Sys2Proof.Machine

/-- A parameter block (R328). -/
structure CollBlk where
  op : Nat
  redop : Nat
  dtype : Nat
  alg : Nat
  gid : Nat
  root : Nat
  count : Nat
  send : BitVec 256
  recv : BitVec 256
  base : Nat
  innet : Bool
  seq : Nat
  status : Word

def blkOf (b : List Byte) : CollBlk :=
  { op := leIn b 0 1, redop := leIn b 1 1, dtype := leIn b 2 1, alg := leIn b 3 1, gid := leIn b 4 2, root := leIn b 6 2,
    count := leIn b 8 8, send := BitVec.ofNat 256 (leIn b 16 32), recv := BitVec.ofNat 256 (leIn b 48 32),
    base := leIn b 80 2, innet := leIn b 82 1 % 2 == 1, seq := leIn b 84 4, status := BitVec.ofNat 64 (leIn b 88 8) }
/-- The limits of R328 that need no group. -/
def blkOk (b : List Byte) : Bool :=
  let k := blkOf b
  decide (1 ≤ k.op ∧ k.op ≤ 5) && decide (k.redop ≤ 2) && dtypeOk k.dtype && decide (k.alg ≤ 3) && k.count != 0 &&
  decide (k.base + 19 ≤ 4095) && decide (leIn b 82 1 ≤ 1) && leIn b 83 1 == 0 && k.status.toNat % 8 == 0 && leIn b 96 32 == 0
/-- Those that do: COUNT a multiple of NMEM, ROOT a rank. -/
def CollBlk.fits (k : CollBlk) (p : Nat) : Bool :=
  k.count % p == 0 && (!(k.op == 4 || k.op == 5) || decide (k.root < p))
/-- This package's rank (R329). -/
def State.rankIn (s : State) (g : Group) : Option Nat :=
  let isMe (m : Member) : Bool :=
    if m.net then (match s.node (rPeer m.addr) with | some v => v.self | none => false) else rPeer m.addr == s.pkgId
  (g.members.zipIdx.find? (fun (e : Member × Nat) => isMe e.1)).map (fun (e : Member × Nat) => e.2)
/-- A buffer: a dense handle of G in this format that holds the vector, within the window of this member (R328). -/
def bufOk (h : BitVec 256) (dtype count : Nat) (w : Win) : Bool :=
  handleOk h && hSpace h == 0 && hFmt h == dtype && hDense h && decide (count ≤ hCount h) &&
  decide (w.base.toNat ≤ (hBase h).toNat ∧ (hBase h).toNat + hSpan h ≤ w.base.toNat + w.span)

-- Algorithms (R330).

/-- ADD of these values depends on no order. -/
def CollBlk.orderFree (k : CollBlk) : Bool := k.redop != 0 || k.dtype == 2 || k.dtype == 3
def CollBlk.reduces (k : CollBlk) : Bool := k.op == 1 || k.op == 2 || k.op == 5
def CollBlk.directOk (k : CollBlk) : Bool := !k.reduces || k.orderFree
def log2Of (p : Nat) : Nat := (List.range 9).foldl (fun a j => if 2 ^ j ≤ p then j else a) 0
def CollBlk.halvesOk (k : CollBlk) (p : Nat) : Bool := k.op == 1 && 2 ^ log2Of p == p
/-- The algorithm that runs: 1 ring, 2 halving-doubling, 3 rotor-direct. -/
def CollBlk.algUsed (k : CollBlk) (p : Nat) : Nat :=
  match k.alg with
  | 0 => if k.directOk then 3 else if k.halvesOk p && decide (k.count * fmtSize k.dtype / p ≤ 2 ^ 20) then 2 else 1
  | 2 => if k.halvesOk p then 2 else 1
  | 3 => if k.directOk then 3 else 1
  | _ => 1

/-- What the expansion works with: block, members, rank, window base. -/
structure CollCtx where
  k    : CollBlk
  ms   : List Member
  r    : Nat
  win  : Word
  one  : Armed

def CollCtx.p (c : CollCtx) : Nat := c.ms.length
def CollCtx.send (c : CollCtx) : Word := hBase c.k.send
def CollCtx.recv (c : CollCtx) : Word := hBase c.k.recv
/-- The bytes of one chunk. -/
def CollCtx.chunk (c : CollCtx) : Nat := c.k.count / c.p * fmtSize c.k.dtype
/-- Armed on a counter of the collective at a value. -/
def CollCtx.on (c : CollCtx) (ctr thr : Nat) (a : Armed) : Armed := { a with ctr := c.k.base + ctr, thr := BitVec.ofNat 48 thr }
/-- `n` chunks from chunk `i` on go from a buffer to RECV of a member, where they count on counter `ctr`. -/
def CollCtx.toward (c : CollCtx) (op : Nat) (src : Word) (m i n ctr : Nat) (disp : Word) : Armed :=
  let t := (c.ms[m]?).getD { addr := 0, kind := 0 }
  { c.one with
    op := op, src := src + BitVec.ofNat 64 (c.chunk * i), len := c.chunk * n, net := t.net
    dst := t.addr + (c.recv - c.win) + BitVec.ofNat 64 (c.chunk * i), rctr := c.k.base + ctr, rinc := 1, disp := disp }
/-- This member's own values, from SEND to RECV; the copy counts on a counter of the collective. -/
def CollCtx.own (c : CollCtx) (i n : Nat) (ctr : Nat := 1) : Armed :=
  c.on 2 c.k.seq { c.one with lctr := c.k.base + ctr, op := 1, src := c.send + BitVec.ofNat 64 (c.chunk * i), dst := c.recv + BitVec.ofNat 64 (c.chunk * i),
                              len := c.chunk * n }
/-- Word to a member, without data, that what it is to send may be reduced here now: it counts on CTRBASE + 3 (DESIGN CHOICE, log 30). -/
def CollCtx.ready (c : CollCtx) (m w : Nat) : Armed := { c.toward 2 c.recv m 0 0 3 0 with linc := 0, rinc := w }
/-- Reduce-scatter on the ring; `a` arrivals per collective. -/
def CollCtx.ringReduce (c : CollCtx) (a : Nat) : List Armed :=
  (List.range (c.p - 1)).map (fun s => c.on 0 (c.k.seq * a + s)
    (c.toward 3 (if s = 0 then c.send else c.recv) ((c.r + 1) % c.p) ((c.r + c.p - s) % c.p) 1 0 (c.send - c.recv)))
/-- Allgather on the ring after `off` arrivals; a step runs where `go` says so. -/
def CollCtx.ringGather (c : CollCtx) (a off : Nat) (src0 : Word) (go : Nat → Bool) : List Armed :=
  ((List.range (c.p - 1)).filter go).map (fun s => c.on 0 (c.k.seq * a + off + s)
    (c.toward 2 (if s = 0 then src0 else c.recv) ((c.r + 1) % c.p) ((c.r + 1 + c.p - s) % c.p) 1 0 0))
/-- The operations, the arrivals awaited by counter, the steps of halving, and whether the first one is the copy that what
arrives is reduced onto. -/
def CollCtx.ring (c : CollCtx) : List Armed × List (Nat × Nat) :=
  let p := c.p; let n := p - 1; let seq := c.k.seq
  match c.k.op with
  | 1 => (c.ringReduce (2 * n) ++ c.ringGather (2 * n) n c.recv (fun _ => true), [(0, (seq + 1) * (2 * n))])
  | 2 => (c.ringReduce n, [(0, (seq + 1) * n)])
  | 3 => (c.own ((c.r + 1) % p) 1 :: c.ringGather n 0 c.send (fun _ => true), [(0, (seq + 1) * n)])
  | 4 =>
    let d := (c.r + p - c.k.root) % p
    if d = 0 then (c.own 0 p :: (List.range p).map (fun j => c.on 2 seq (c.toward 2 c.send ((c.r + 1) % p) j 1 0 0)), [])
    else (if d = n then [] else (List.range p).map (fun j => c.on 0 (seq * p + j + 1) (c.toward 2 c.recv ((c.r + 1) % p) j 1 0 0)),
          [(0, (seq + 1) * p)])
  | _ =>
    let e := (c.k.root + p - c.r) % p
    let a := n + if e = 0 then n else n - e
    (c.ringReduce a ++ c.ringGather a n c.recv (fun s => decide (s < (e + s) % p)), [(0, (seq + 1) * a)])
/-- Recursive halving, then doubling. Before step k ≥ 1 a member tells its partner of that step that it has what it received in the step
before; the word of step k weighs more than those of all later steps, so that the count tells who has given it. -/
def CollCtx.halving (c : CollCtx) : List Armed × List (Nat × Nat) :=
  let l := log2Of c.p; let seq := c.k.seq
  let told (k : Nat) : Nat := seq * (2 ^ (l - 1) - 1) + (2 ^ (l - 1) - 2 ^ (l - 1 - k))
  let down := (List.range l).flatMap (fun k =>
    let b := l - 1 - k; let q := c.r ^^^ 2 ^ b
    let a := c.toward 3 (if k = 0 then c.send else c.recv) q (q / 2 ^ b * 2 ^ b) (2 ^ b) (4 + k) (if k = 0 then c.send - c.recv else 0)
    if k = 0 then [c.on 4 seq a] else [c.on (4 + k - 1) (seq + 1) (c.ready q (2 ^ (l - 1 - k))), c.on 3 (told k) a])
  let up := (List.range l).map (fun j =>
    c.on (4 + l + j - 1) (seq + 1) (c.toward 2 c.recv (c.r ^^^ 2 ^ j) (c.r / 2 ^ j * 2 ^ j) (2 ^ j) (4 + l + j) 0))
  (down ++ up, (List.range (2 * l)).map (fun k => (4 + k, seq + 1)))
/-- Every chunk straight to its final holder, which for chunk i is rank i − 1, as on the ring. A holder copies its own values first
and tells the others so, and they send what is reduced onto that once all have told. -/
def CollCtx.direct (c : CollCtx) : List Armed × List (Nat × Nat) :=
  let p := c.p; let n := p - 1; let seq := c.k.seq; let mine := (c.r + 1) % p
  let others := (List.range p).filter (fun t => t != c.r)
  let ready := others.map (fun t => c.on 5 (seq + 1) (c.ready t 1))
  let scatter := c.own mine 1 5 :: ready ++ others.map (fun t => c.on 3 ((seq + 1) * n) (c.toward 3 c.send t ((t + 1) % p) 1 0 0))
  match c.k.op with
  | 1 => (scatter ++ others.map (fun t => c.on 0 (seq * n + n) (c.toward 2 c.recv t mine 1 4 0)),
          [(0, (seq + 1) * n), (4, (seq + 1) * n)])
  | 2 => (scatter, [(0, (seq + 1) * n)])
  | 3 => (c.own mine 1 :: others.map (fun t => c.on 2 seq (c.toward 2 c.send t mine 1 4 0)), [(4, (seq + 1) * n)])
  | 4 =>
    if c.r = c.k.root then (c.own 0 p :: others.map (fun t => c.on 2 seq (c.toward 2 c.send t 0 p 0 0)), [])
    else ([], [(0, seq + 1)])
  | _ =>
    if c.r = c.k.root then (c.own 0 p 5 :: ready, [(0, (seq + 1) * n)])
    else ([c.on 3 (seq + 1) (c.toward 3 c.send c.k.root 0 p 0 0)], [])
/-- All of it; a group of one only copies. -/
def CollCtx.expand (c : CollCtx) : List Armed × List (Nat × Nat) :=
  if c.p = 1 then ([c.own 0 1], [])
  else match c.k.algUsed c.p with
    | 2 => c.halving | 3 => c.direct | _ => c.ring

-- The switches (R332, R369).

/-- A collective with INNET among members of KIND N, whose reductions the switches might do. -/
def CollBlk.asksSwitch (k : CollBlk) (g : Group) : Bool :=
  k.innet && k.reduces && g.members.length != 1 && g.members.all (fun m => m.net)
/-- It is offered to them: the group is not encrypted, and the format is one that they add in. -/
def CollBlk.offered (k : CollBlk) (g : Group) : Bool := k.asksSwitch g && !g.enc && (k.dtype == 6 || k.dtype == 2)
/-- What a collective comes to that the switches do: SEND is read, and the result, whose order of sums is theirs, comes into this
member's part of RECV (R369; log 30). -/
def CollCtx.delegated (c : CollCtx) : List Armed × List (Nat × Nat) :=
  let (i, n) := match c.k.op with | 1 => (0, c.p) | 2 => ((c.r + 1) % c.p, 1) | _ => (0, if c.r = c.k.root then c.p else 0)
  ([c.on 2 c.k.seq { c.one with op := 6, src := c.send, disp := BitVec.ofNat 64 (c.chunk * c.p)
                                dst := c.recv + BitVec.ofNat 64 (c.chunk * i), len := c.chunk * n }], [])

/-- What COLL puts into s[d], or what it starts (R329). -/
def State.collPlan (s : State) (b : List Byte) : Except Nat (Coll × List Armed) :=
  let k := blkOf b
  if !blkOk b then .error 1
  else match tblGet s.coll.groups k.gid with
  | none => .error 2
  | some g =>
    if g.owner != s.cx then .error 2
    else if !k.fits g.members.length then .error 1
    else match s.rankIn g with
    | none => .error 3
    | some r =>
      let me := (g.members[r]?).getD { addr := 0, kind := 0 }
      match tblGet (s.ctx s.cx).windows (rWin me.addr) with
      | none => .error 4
      | some w =>
        if !bufOk k.send k.dtype k.count w || !bufOk k.recv k.dtype k.count w || hRo k.recv then .error 4
        else
          let one : Armed := { ctx := s.cx, ctr := 0, thr := 0, op := 0, redop := k.redop, dtype := k.dtype, lctr := k.base + 1,
                               linc := 1, task := s.uid }
          let c : CollCtx := { k := k, ms := g.members, r := r, win := w.base, one := one }
          let offered := k.offered g
          let taken := offered && Config.freeBool s.freeCtr
          let (ops, want) := if taken then c.delegated else c.expand
          let used := if taken then 0 else k.algUsed c.p
          if s.armRoom < 2048 then .error 5
          else
            let v : Coll := { ctx := s.cx, base := k.base, seq := k.seq, gid := k.gid, alg := used
                              sub := !taken && k.alg == 3 && used != 3, incdown := k.asksSwitch g && (g.enc || (offered && !taken))
                              nored := !taken && !s.vond8 && k.reduces && c.p != 1, status := k.status
                              peers := ((g.members.eraseIdx r).map (fun (m : Member) => (m.net, rPeer m.addr)))
                              want := want.map (fun (e : Nat × Nat) => (k.base + e.1, BitVec.ofNat 48 e.2))
                              halves := if used = 2 then log2Of c.p else 0
                              task := s.uid
                              running := !s.coll.colls.any (fun (e : Nat × Coll) => e.2.ctx == s.cx && e.2.base == k.base) }
            .ok (v, ops)
/-- Arm a collective's operations. Whether the switches took it was one free choice. -/
def State.collStart (s : State) (c : Coll) (ops : List Armed) : State :=
  let id := s.serial
  let s := { s with freeCtr := s.freeCtr + 1 }
  let s := { s.setColls (tblSet s.coll.colls id c) with serial := id + 1 }
  (ops.foldl (fun (s : State) a => s.arm { a with coll := some id }) s).collSettle id

def execColl (g : Guard) (d a : SReg) (s : State) : Host.Outcome State Fault Refusal :=
  s.guarded g fun s =>
    let addr := s.q.s a
    s.atAddr addr 64 fun s => s.accept (s.readG 3 s.cx addr 128 (some s.cur.slot)) fun (b, s) =>
      match s.collPlan b with
      | .error e => s.ret d (BitVec.ofNat 64 e)
      | .ok (c, ops) => s.accept (s.writeG 2 s.cx c.status (bytesOfLE 8 0) (some s.cur.slot)) fun s => (s.collStart c ops).ret d 0

end Sys2Proof.Machine
end

