-- ==== Sys2Proof/Machine/Debug.lean ====
section
/-! DEFINITION. The debugger's commands (R313 to R316), and what they read and write (R124, R315; the meaning of an index is log
20's). -/

namespace Sys2Proof.Machine

/-- A debugger command on a context without EN answers BADCTX (R313). -/
def State.debugger (s : State) (h : Cmd) (ctx : Nat) (r : CmdRes) : Host.Outcome State Fault Refusal :=
  s.custodian h (whenOk (s.hasCtx ctx && (s.ctx ctx).dbgEn) 1 r)
def execDbgctl (h : Cmd) (ctx : Nat) (en bken halten : Bool) (s : State) : Host.Outcome State Fault Refusal :=
  s.custodian h (whenOk (s.hasCtx ctx) 1 (done (s.setCtx ctx { s.ctx ctx with dbgEn := en, bken := bken, halten := halten })))

-- Slots that a command names.

/-- The slot runs a task of the context. -/
def State.runsIn (s : State) (ctx k : Nat) : Bool :=
  match (s.slot k).task with | some t => t.ctx == ctx && !t.ended | none => false
def State.namedSlots (s : State) (ctx : Nat) : DbgSel → List Nat
  | .one k => if s.runsIn ctx k then [k] else []
  | .all => (s.slots.map (fun (e : Nat × Slot) => e.1)).filter (s.runsIn ctx)
def selNames (d : DbgSel) (k : Nat) : Bool := match d with | .one j => j == k | .all => true
/-- The command names something: a running slot, a saved one, or all. -/
def State.namesAny (s : State) (ctx : Nat) (d : DbgSel) : Bool :=
  match d with
  | .all => true
  | .one k => s.runsIn ctx k || (s.ctx ctx).savedSlots.any (fun v => v.from_ == k)
/-- A change to the saved slots that the command names. -/
def State.atSaved (s : State) (ctx : Nat) (d : DbgSel) (f : Slot → Slot) : State :=
  let c := s.ctx ctx
  s.setCtx ctx { c with savedSlots := c.savedSlots.map (fun v => if selNames d v.from_ then { v with slot := f v.slot } else v) }
/-- The event record of a saved slot that halts: the core and slot it was saved from, and both pcs (R313). -/
def State.haltEvent (s : State) (ctx : Nat) (v : SavedSlot) : State :=
  s.emit 0x30 ctx (leBytesN 8 (coreOf v.from_) ++ leBytesN 8 (v.from_ % 4) ++ leBytesN 8 v.a.pc.toNat ++ leBytesN 8 v.x.pc.toNat)
def execDbghalt (h : Cmd) (ctx : Nat) (sel : DbgSel) (s : State) : Host.Outcome State Fault Refusal :=
  let t := (s.namedSlots ctx sel).foldl (fun (s : State) k => s.askHalt k) s
  let saved := (t.ctx ctx).savedSlots.filter (fun v => selNames sel v.from_ && !v.slot.halted)
  let t := saved.foldl (fun (s : State) v => s.haltEvent ctx v) t
  s.debugger h ctx (whenOk (s.namesAny ctx sel) 2 (done (t.atSaved ctx sel (fun v => { v with halted := true, haltReq := false }))))
def execDbgresume (h : Cmd) (ctx : Nat) (sel : DbgSel) (s : State) : Host.Outcome State Fault Refusal :=
  let up (v : Slot) : Slot := { v with halted := false, haltReq := false, stepOne := none, stepping := false }
  let t := (s.namedSlots ctx sel).foldl (fun (s : State) k => s.setSlot k (up (s.slot k))) s
  s.debugger h ctx (whenOk (s.namesAny ctx sel) 2 (done (t.atSaved ctx sel up)))
/-- One instruction of a halted sequencer that has not ended. Where the slot is swapped out, the command reaches its saved state, and
the instruction is executed once the slot is back (R313). -/
def execDbgstep (h : Cmd) (ctx slot : Nat) (x : Bool) (s : State) : Host.Outcome State Fault Refusal :=
  let v := s.slot slot
  let saved (u : SavedSlot) : Bool := u.from_ == slot && u.slot.halted && !(if x then u.x else u.a).stopped
  s.debugger h ctx (
    if s.runsIn ctx slot then whenOk (v.halted && !(s.seq { slot := slot, x := x }).stopped) 2
      (done (s.setSlot slot { v with stepOne := some x }))
    else whenOk ((s.ctx ctx).savedSlots.any saved) 2
      (done (s.atSaved ctx (.one slot) (fun u => { u with stepOne := some x }))))

-- State that the debugger reaches.

/-- The number under which a saved slot is laid out while the debugger works on it: no slot of the package has it. -/
def lentSlot : Nat := 1024
/-- A saved slot, with its sequencers and its group, laid out as if it were running. -/
def State.lend (s : State) (v : SavedSlot) : State :=
  let s := ((s.setSlot lentSlot v.slot).setSeq (seqA lentSlot) v.a).setSeq (seqX lentSlot) v.x
  match (s.ctx v.slot.ctxOf).savedGrps.find? (fun g => g.key == v.grp) with
  | some g => s.setGrp v.grp g.grp
  | none => s
/-- What was laid out goes back to where it is saved. -/
def State.takeBack (s : State) (ctx : Nat) (v : SavedSlot) : State :=
  let w : SavedSlot := { v with slot := s.slot lentSlot, a := s.seq (seqA lentSlot), x := s.seq (seqX lentSlot) }
  let c := s.ctx ctx
  let grps := c.savedGrps.map (fun g => if g.key == v.grp then { g with grp := (s.grp v.grp).getD g.grp } else g)
  let was := c.savedGrps.any (fun g => g.key == v.grp)
  let s := s.setCtx ctx { c with savedSlots := c.savedSlots.map (fun u => if u.from_ == v.from_ then w else u), savedGrps := grps }
  { s with slots := tblErase s.slots lentSlot, seqs := tblErase (tblErase s.seqs (keyOf (seqA lentSlot))) (keyOf (seqX lentSlot))
           grps := if was then tblErase s.grps v.grp else s.grps }

/-- Where an access of the debugger leads: memory of a bank or of the tile registers, or a value of so many bytes. -/
def boolWord (b : Bool) : Word := if b then 1 else 0
def semWord (m : Sem) : Nat := m.count.toNat + bitIf m.poison 16 + m.cause.toNat * 2 ^ 24
/-- Entries of the architectural queues, as words, and of the record queues. -/
def Slot.queueWords (t : Slot) : Nat → List Word
  | 0 => t.aq0 | 1 => t.aq1 | 2 => t.aq2.map boolWord | 3 => t.aq3 | _ => []
def queueEng (n : Nat) : Option Eng := match n with | 4 => some .mx | 5 => some .vx | 6 => some .cx | 7 => some .ae | _ => none
/-- DSTAT bits WOKE and GATED, and the data; none where the class and index are not valid (R315). -/
structure DbgData where
  s    : State
  woke : Bool := false
  gated : Bool := false
  data : List Byte := []
/-- Tile registers, from a byte on: each byte as the cluster that it lies in stands. A DROWSY cluster wakes; a byte of a GATED one,
or of one that wakes from GATED, is zero, and one that is written there is lost (R124; log 20). -/
def State.dbgTile (s : State) (k index len : Nat) (write : Option (List Byte) := none) : Option DbgData :=
  match (s.slot k).scope with
  | none => none
  | some sc =>
    if 1024 * sc.n < index + len then none
    else
      let at_ (i : Nat) : Cluster := (sc.cl[i / 8192]?).getD .on
      let lost (i : Nat) : Bool := match at_ i with | .gated => true | .waking true _ => true | _ => false
      let is := (List.range len).map (fun i => index + i)
      let cl := is.foldl (fun (l : List Cluster) i => if at_ i == .drowsy then l.set (i / 8192) .on else l) sc.cl
      let mem := match write with
        | none => sc.mem
        | some d => (d.zipIdx index).foldl (fun (m : Memory) (e : Byte × Nat) => if lost e.2 then m else m.write e.2 e.1) sc.mem
      let t := s.setSlot k { s.slot k with scope := some { sc with cl := cl, mem := mem } }
      let t := if write.isSome then t.scrubWhere (ofTile k fun w => covers 8 w index len) else t
      some { s := t, woke := is.any (fun i => at_ i == .drowsy), gated := is.any (fun i => at_ i == .gated)
             data := if write.isSome then [] else is.map (fun i => if lost i then 0 else sc.mem.read i) }
/-- The eight mask registers as one array of 128 bytes each. -/
def Slot.maskBytes (t : Slot) : List Byte := ((List.range 8).map (fun i => bytesOfLE 128 (tblGetD t.masks i 0).toNat)).flatten
def State.dbgRead (s : State) (k : Nat) (x : Bool) (cls : DbgClass) (index len : Nat) : Option DbgData :=
  let r : SeqRef := { slot := k, x := x }
  let q := s.seq r; let t := s.slot k
  let val (ok : Bool) (n v : Nat) : Option DbgData := if ok then some { s := s, data := (bytesOfLE n v).take len } else none
  match cls with
  | .scalar => val (decide (index < 64)) 8 (q.s (BitVec.ofNat 6 index)).toNat
  | .predicate => val (decide (index < 8)) 1 (if q.p (BitVec.ofNat 3 index) then 1 else 0)
  | .handle => val (decide (index < 32)) 32 (q.h (BitVec.ofNat 5 index)).toNat
  | .csr => val (decide (index < 4096) && csrKnown (BitVec.ofNat 12 index) && (s.asSeq r).csrReach index) 8 ((s.asSeq r).csr index).toNat
  | .tile => s.dbgTile k index len
  | .mask => if index + len ≤ 1024 then some { s := s, data := (t.maskBytes.drop index).take len } else none
  | .bank =>
    if s.hasBank k (index / 2 ^ 18) && decide (index % 2 ^ 18 + len ≤ 2 ^ 18) then
      some { s := s, data := (s.bankMem t.grpOf (index / 2 ^ 18)).readBytes (index % 2 ^ 18) len }
    else none
  | .semaphore => val (decide (index < 256)) 8 (semWord (s.sem t.ctxOf index))
  | .queue =>
    match queueEng (index / 256) with
    | some e => (match (t.queue e)[index % 256]? with | some v => val true 64 v.r.toNat | none => none)
    | none => match (t.queueWords (index / 256))[index % 256]? with | some v => val true 8 v.toNat | none => none
def setNth {α : Type} (l : List α) (n : Nat) (v : α) : Option (List α) := if n < l.length then some (l.set n v) else none
/-- A write of a CSR as a CSRW of the sequencer makes it; one of VMODE acts as a VMODE (R123), and changes nothing where that would
wait for a record. -/
def State.dbgCsr (u : State) (index : Nat) (w : Word) : Option State :=
  if index = 0x101 then
    let use := w.extractLsb' 0 8; let rest := w.getLsbD 24
    if use == u.sl.vmodeCsr.extractLsb' 0 8 && rest == u.sl.vmodeCsr.getLsbD 24 then some u
    else if (u.vmodeStall use rest 0).isSome then none
    else some (u.vmodeAll use rest 0)
  else some (u.csrSet index w w)
def State.dbgWrite (s : State) (k : Nat) (x : Bool) (cls : DbgClass) (index : Nat) (data : List Byte) : Option DbgData :=
  let r : SeqRef := { slot := k, x := x }
  let q := s.seq r; let t := s.slot k
  let v := leOfBytes data
  let w := BitVec.ofNat 64 v
  let n := data.length
  let into (u : Option State) : Option DbgData := u.map (fun u => { s := u })
  let onlyIf (c : Bool) (u : State) : Option DbgData := into (if c then some u else none)
  match cls with
  | .scalar => onlyIf (decide (index < 64)) (s.setSeq r (q.setS (BitVec.ofNat 6 index) w))
  | .predicate => onlyIf (decide (index < 8)) (s.setSeq r (q.setP (BitVec.ofNat 3 index) (v % 2 == 1)))
  | .handle => onlyIf (decide (index < 32)) (s.setSeq r (q.setH (BitVec.ofNat 5 index) (BitVec.ofNat 256 v)))
  | .csr =>
    let u := s.asSeq r
    if decide (index < 4096) && csrKnown (BitVec.ofNat 12 index) && u.csrReach index then
      into ((u.dbgCsr index w).map (fun v => v.asSeq s.cur))
    else none
  | .tile => s.dbgTile k index n (some data)
  | .mask =>
    let all := t.maskBytes
    let new := all.take index ++ data ++ all.drop (index + n)
    let masks := (List.range 8).foldl (fun (m : Tbl (BitVec 1024)) i =>
      tblPut m i 0 (BitVec.ofNat 1024 (leOfBytes ((new.drop (128 * i)).take 128)))) t.masks
    onlyIf (decide (index + n ≤ 1024)) (s.setSlot k { t with masks := masks })
  | .bank =>
    let b := index / 2 ^ 18; let o := index % 2 ^ 18
    onlyIf (s.hasBank k b && decide (o + n ≤ 2 ^ 18))
      ((s.setBankMem t.grpOf b ((s.bankMem t.grpOf b).writeBytes o data)).scrub
        (((words8 o n).filter (fun w => covers 8 w o n)).map (fun w => .bankWord t.grpOf b w)))
  | .semaphore =>
    onlyIf (decide (index < 256)) (s.setSem t.ctxOf index
      { count := BitVec.ofNat 16 v, poison := v / 2 ^ 16 % 2 == 1, cause := BitVec.ofNat 8 (v / 2 ^ 24) })
  | .queue =>
    let j := index % 256
    match index / 256 with
    | 0 => into ((setNth t.aq0 j w).map (fun l => s.setSlot k { t with aq0 := l }))
    | 1 => into ((setNth t.aq1 j w).map (fun l => s.setSlot k { t with aq1 := l }))
    | 2 => into ((setNth t.aq2 j (v % 2 == 1)).map (fun l => s.setSlot k { t with aq2 := l }))
    | 3 => into ((setNth t.aq3 j w).map (fun l => s.setSlot k { t with aq3 := l }))
    | m => match queueEng m with
      | none => none
      | some e => match (t.queue e)[j]? with
        | none => none
        | some old => some { s := s.setSlot k (t.setQueue e ((t.queue e).set j { old with r := BitVec.ofNat 512 v })) }
/-- Work on a slot of the context, where it runs or where it is saved. -/
def State.onSlot (s : State) (ctx k : Nat) (f : State → Nat → State × List Byte) : CmdRes :=
  if s.runsIn ctx k then let (t, d) := f s k; .ok t d
  else match (s.ctx ctx).savedSlots.find? (fun v => v.from_ == k) with
    | none => .fail 2
    | some v => let (t, d) := f (s.lend v) lentSlot; .ok (t.takeBack ctx v) d
def dstat (ok woke gated quiet : Bool) : List Byte := bytesOfLE 8 (bitIf ok 0 + bitIf gated 1 + bitIf quiet 2 + bitIf woke 3)
def execDbgread (h : Cmd) (ctx slot : Nat) (x : Bool) (cls : DbgClass) (index len : Nat) (s : State) : Host.Outcome State Fault Refusal :=
  s.debugger h ctx (whenOk (decide (len ≤ 64)) 2 (s.onSlot ctx slot fun s k =>
    match s.dbgRead k x cls index len with
    | none => (s, dstat false false false (s.quiet k))
    | some d => (d.s, dstat true d.woke d.gated (s.quiet k) ++ d.data)))
def execDbgwrite (h : Cmd) (ctx slot : Nat) (x : Bool) (cls : DbgClass) (index : Nat) (data : List Byte) (s : State) :
    Host.Outcome State Fault Refusal :=
  s.debugger h ctx (whenOk (decide (data.length ≤ 64)) 2 (s.onSlot ctx slot fun s k =>
    match s.dbgWrite k x cls index data with
    | none => (s, dstat false false false (s.quiet k))
    | some d => (d.s, dstat true d.woke d.gated (s.quiet k))))

end Sys2Proof.Machine
end

