-- ==== Sys2Proof/Machine/Eth.lean ====
section
/-! DEFINITION. The Ethernet transport (R363 to R368, R384): packets that arrive, answers, sending under RATE, resends and
targets that fail. A host session is destination 4,096 + its number. -/

namespace Sys2Proof.Machine

def ethDest (p : Pkt) : Nat := if p.host then 4096 + p.node else p.node
def pktAddr (p : Pkt) : Word := BitVec.ofNat 64 (p.node * 2 ^ 52 + p.win * 2 ^ 44 + p.off)
def State.ethPort (s : State) (n : Nat) : EthPort := tblGetD s.eth.ports n {}
def State.setEthPort (s : State) (n : Nat) (p : EthPort) : State := { s with eth := { s.eth with ports := tblSet s.eth.ports n p } }

-- Packets from other nodes.

/-- The message that a packet carries (R323, R365): a fragment has its 16 bytes of ARGS ahead of its data; a write that raises
a flag names the flag word there (log 23). -/
def pktMsg (read : Bool) (p : Pkt) : Msg :=
  let addr := pktAddr p
  let flag := !p.frag && !p.rfrag && !p.args.isEmpty
  { src := 0, dst := 0, msn := 0, op := if read then 2 else if p.rfrag then 9 else if p.frag then 8 else 1, flag := flag
    tctx := p.tctx, gang := p.gang, addr := addr, flagAddr := if flag then BitVec.ofNat 64 (leIn p.args 0 8) else 0
    len := p.len, args := p.args, data := p.data }
/-- The delivery context of a port with a destination. -/
def pdcKey (port dest : Nat) : Nat := if dest < 4096 then port * 4096 + dest else 2 ^ 20 + port * 16 + (dest - 4096)
def State.pdc (s : State) (k : Nat) : Pdc := tblGetD s.eth.pdcs k {}
/-- Traffic in a delivery context, which is made when it is needed (R363). -/
def State.pdcUse (s : State) (k : Nat) (d : Pdc) : State :=
  { s with eth := { s.eth with pdcs := tblSet s.eth.pdcs k { d with lastUse := s.now } } }
/-- A packet to or from a peer leaves or comes by a port. -/
def State.pdcTouch (s : State) (port dest : Nat) : State := let k := pdcKey port dest; s.pdcUse k (s.pdc k)
/-- The bytes of a write packet that packets created later have written in this delivery context: a packet's token tells when it
was created (R365). -/
def Pdc.later (d : Pdc) (p : Pkt) : List Nat :=
  let at_ := p.win * 2 ^ 44 + p.off
  if p.rfrag || d.wrote.isEmpty then [] else
  (List.range p.data.length).filter (fun i => d.wrote.any (fun (e : Nat × Nat × Nat × Nat) =>
    decide (p.tok < e.1) && e.2.1 == p.tctx && decide (e.2.2.1 ≤ at_ + i ∧ at_ + i < e.2.2.1 + e.2.2.2)))
/-- The context once this packet has been applied. -/
def Pdc.took (d : Pdc) (p : Pkt) (read : Bool) : Pdc :=
  { d with seen := (p.tok, 0) :: d.seen
           wrote := if read || p.rfrag then d.wrote else (p.tok, p.tctx, p.win * 2 ^ 44 + p.off, p.data.length) :: d.wrote }
/-- Traffic to a node or session is sealed; with a node that has ENC set, under its key, without which nothing is served or sent
(R370, R384). -/
def State.sealed (s : State) (p : Pkt) : Bool := p.host || (match s.node p.node with | some v => v.enc | none => false)
def State.keyless (s : State) (p : Pkt) : Bool :=
  !p.host && (match s.node p.node with | some v => v.enc && v.key.isNone | none => false)
/-- A packet of a sealed pair that cannot be authenticated. -/
def State.forged (s : State) (p : Pkt) : Bool := s.sealed p && (!p.authOk || s.keyless p)
def State.pktAnswer (s : State) (port : Nat) (p : Pkt) (code : Nat) (data : List Byte) : State :=
  { s with out := s.out ++ [.pktAck port p code data] }
/-- The transport's refusal of an operation that the device does not implement (R363). -/
def nUnsupported : Nat := 9

/-- The rate entry of a destination, made at the initial rate where there is none; the least recently used one, by the last packet
that left for it, makes room (R366). -/
def EthPort.rate (v : EthPort) (dest : Nat) (now : Word) : EthPort × Rate :=
  match tblGet v.rates dest with
  | some r => (v, r)
  | none =>
    let v := if v.rates.length < 4096 then v else
      match v.rates.foldl (fun (b : Option (Nat × Rate)) e => match b with
          | none => some e
          | some x => if e.2.used.ult x.2.used then some e else b) none with
      | some e => { v with rates := tblErase v.rates e.1 }
      | none => v
    (v, { since := now })
/-- So many bytes may leave a port for a destination now, as its RATE spaces them: the state with the next time set (R366). -/
def State.rateTake (s : State) (port dest bytes : Nat) : Option State :=
  let now := s.now
  let (v, r) := (s.ethPort port).rate dest now
  if !v.ready || now.ult r.next then none
  else
    let r := { r with next := now + BitVec.ofNat 64 ((8 * Nat.max 64 bytes + r.rate - 1) / r.rate), used := now }
    some (s.setEthPort port { v with rates := tblSet v.rates dest r })
/-- The first of the data that wait to leave a port for a node leave, if they may. -/
def State.respLeave (s : State) (port dest : Nat) : State :=
  let mine (r : Resp) : Bool := r.port == port && ethDest r.p == dest
  match s.eth.resps.find? mine with
  | none => s
  | some r =>
    if s.keyless r.p then s
    else match s.rateTake port dest r.data.length with
    | none => s
    | some t =>
      let left : List Resp := t.eth.resps.eraseP mine
      let t : State := { t with eth := { t.eth with resps := left } }
      t.pktAnswer port r.p 0 r.data
/-- The data of a read: it waits its turn at its port, and leaves as the node's RATE allows (R366). -/
def State.pktRespond (s : State) (port : Nat) (p : Pkt) (data : List Byte) : State :=
  let r : Resp := { port := port, p := p, data := data }
  let s := { s with eth := { s.eth with resps := s.eth.resps ++ [r] } }
  s.respLeave port (ethDest p)

/-- A packet that arrives is dropped where it fails authentication, refused where it asks for what is not implemented, and
else taken once by its target. -/
def State.packetRow (s : State) (port : Nat) (p : Pkt) (read : Bool) : Host.Outcome State Fault Refusal :=
  let k := pdcKey port p.node
  let d := s.pdc k
  if !(s.ethPort port).ready || p.host || s.forged p then .next s
  else if p.code != 0 then .next ((s.pdcUse k d).pktAnswer port p nUnsupported [])
  else if d.seen.contains (p.tok, 0) then .next ((s.pdcUse k d).pktAnswer port p 0 [])
  else
    let src := 0x8000 + p.node
    let m := pktMsg read p
    let skip := if read then [] else d.later p
    let (s, go) := s.redFor (.eth p.node p.tok) src m true false none
    if !go then .next s
    else match (if skip.isEmpty then s.target src m true false else s.takeWrite { reqOf src m with skip := skip } true false) with
    | none => .next s
    | some (t, a) =>
      let t := t.pdcUse k (if a == .ack then d.took p read else d)
      .next (match a with
        | .ack => t.pktAnswer port p 0 []
        | .data bs => t.pktRespond port p bs
        | .nack e => t.pktAnswer port p e []
        | .hold => t)
def execEthWritePacket (port : Nat) (p : Pkt) (s : State) : Host.Outcome State Fault Refusal := s.packetRow port p false
def execEthReadPacket (port : Nat) (p : Pkt) (s : State) : Host.Outcome State Fault Refusal := s.packetRow port p true
/-- A delivery context without traffic for 100 µs is discarded (R363). -/
def execPdcExpiry (port node : Nat) (s : State) : Host.Outcome State Fault Refusal :=
  let k := pdcKey port node
  match tblGet s.eth.pdcs k with
  | some d => .next (if s.now.ult (d.lastUse + 100000) then s else { s with eth := { s.eth with pdcs := tblErase s.eth.pdcs k } })
  | none => .next s

-- Answers to this package's packets.

/-- An answer shows in the rate state of its port and node (R366). -/
def State.rateSeen (s : State) (port dest : Nat) (echo : Bool) : State :=
  let v := s.ethPort port
  match tblGet v.rates dest with
  | some r => s.setEthPort port { v with rates := tblSet v.rates dest { r with acked := true, echo := r.echo || echo } }
  | none => s
/-- The packet of this package that an answer is to; an answer of a host or an ENC node that fails authentication is dropped (R370,
R384). -/
def State.findPkt (s : State) (p : Pkt) : Option OutPkt :=
  if s.forged p then none
  else s.eth.pkts.find? (fun o => o.p.tok == p.tok && o.p.node == p.node && o.p.host == p.host && o.sent)
def State.dropPkt (s : State) (o : OutPkt) : State := s.setPkts (s.eth.pkts.filter (fun x => x.p.tok != o.p.tok))
/-- Packets to one target context (R297). -/
def sameTarget (a b : OutPkt) : Bool := a.p.node == b.p.node && a.p.host == b.p.host && a.p.tctx == b.p.tctx
def EthPort.sfAdd (v : EthPort) (n : Nat) : EthPort := { v with sfretry := BitVec.ofNat 32 (Nat.min 0xFFFFFFFF (v.sfretry.toNat + n)) }
/-- The resend of the oldest held packet has its answer: the others go at once (R297). -/
def State.pktRelease (s : State) (o : OutPkt) : State :=
  if !o.retry then s else
  s.setPkts (s.eth.pkts.map (fun x => if sameTarget x o && x.hold.isSome then { x with hold := none, delay := 2000, again := true } else x))
/-- An answer has come by a port: traffic of its delivery context, progress of the target, and a sign to its rate entry (R363, R365,
R366). -/
def State.pktHeard (s : State) (port : Nat) (o : OutPkt) (echo : Bool) : State :=
  ((s.pdcTouch port (ethDest o.p)).ethProgress o.p.node o.p.host).rateSeen port (ethDest o.p) echo
/-- A packet is answered: it leaves the list. -/
def State.pktDone (s : State) (port : Nat) (o : OutPkt) (echo : Bool) : State :=
  ((s.dropPkt o).pktRelease o).pktHeard port o echo

/-- A write is delivered (R233, R365). -/
def execEthAck (port : Nat) (p : Pkt) (echo : Bool) (s : State) : Host.Outcome State Fault Refusal :=
  match (s.findPkt p).filter (fun o => !o.read) with
  | none => .next s
  | some o => match (s.pktDone port o echo).settleOk o.own (pktAddr o.p) [] with
    | some t => .next t
    | none => .next s
/-- The data of a read. -/
def execEthReadResponse (port : Nat) (p : Pkt) (s : State) : Host.Outcome State Fault Refusal :=
  match (s.findPkt p).filter (fun o => o.read) with
  | none => .next s
  | some o => match (s.pktDone port o p.echo).settleOk o.own (pktAddr o.p) p.data with
    | some t => .next t
    | none => .next s
/-- A refusal: retried after STASHFULL, else final (R187, R297, R365, R368). -/
def execEthNack (port : Nat) (p : Pkt) (s : State) : Host.Outcome State Fault Refusal :=
  match s.findPkt p with
  | none => .next s
  | some o =>
    if p.code = nStashFull then
      let s := s.pktHeard port o p.echo
      let d := if o.retry then Nat.min 64000 (2 * o.delay) else 2000
      let o' := { o with sent := false, retry := false, delay := d, hold := some (s.now + BitVec.ofNat 64 d) }
      .next (s.setPkts (s.eth.pkts.map (fun x => if x.p.tok = o.p.tok then o' else x)))
    else .next ((s.pktDone port o p.echo).settleBad o.own (pktAddr o.p) none)

-- Sending.

/-- A queued packet is not held back: its target context is not held, or it is the oldest held one and its delay is over (R297). -/
def State.pktFree (s : State) (o : OutPkt) : Bool :=
  let same := s.eth.pkts.filter (sameTarget o)
  match o.hold with
  | none => o.retry || !same.any (fun x => x.hold.isSome || x.retry)
  | some due =>
    let oldest := match same.find? (fun x => x.hold.isSome) with | some x => x.p.tok == o.p.tok | none => false
    oldest && !same.any (fun x => x.retry) && !s.now.ult due
/-- A packet that is held to its context's Ethernet bytes: one of a record or operation, not yet charged. -/
def OutPkt.draws (o : OutPkt) : Bool := !o.charged && (match o.own with | .store .. | .load .. => false | _ => true)
/-- Leftover Ethernet bytes remain: no packet in reservation waits to leave (R290). -/
def State.ethLeftover (s : State) : Bool := !s.eth.pkts.any (fun o => !o.sent && o.draws && s.avail o.ctx 6 0 && s.pktFree o)
/-- A queued packet may leave now; one of a record or operation also waits for its context's Ethernet bytes (R290). -/
def State.mayLeave (s : State) (o : OutPkt) : Bool :=
  s.pktFree o && (!o.draws || s.avail o.ctx 6 0 || ((s.ctx o.ctx).gauge.lo && s.ethLeftover))
/-- A packet leaves its port once the destination's RATE allows it, data of a read before requests (R364, R366, R367); one for a revoked
window is refused here (R378). -/
def execEthPacketSend (port node : Nat) (s : State) : Host.Outcome State Fault Refusal :=
  let reach := 4096 ≤ node || (match s.node node with | some n => n.ports.getLsbD port | none => false)
  match s.eth.pkts.find? (fun o => ethDest o.p == node && o.late) with
  | some o => .next ((s.dropPkt o).settleBad o.own (pktAddr o.p) none)
  | none =>
  if s.eth.resps.any (fun r => r.port == port && ethDest r.p == node) then .next (s.respLeave port node)
  else match s.eth.pkts.find? (fun o => ethDest o.p == node && !o.sent && s.mayLeave o) with
  | none => .next s
  | some o =>
    if !reach || s.keyless o.p then .next s
    else match s.rateTake port node (if o.read then 0 else o.p.len) with
    | none => .next s
    | some t =>
      let v := t.ethPort port
      let s := if o.hold.isSome || o.again then t.setEthPort port (v.sfAdd 1) else t
      let s := s.pdcTouch port node
      let s := if o.charged then s else (s.paying o.own o.node o.ctx o.cost).foldl (fun (s : State) (e : Nat × Nat) => s.charge e.1 6 0 e.2) s
      let o' := { o with sent := true, charged := true, retry := o.retry || o.hold.isSome, hold := none, again := false }
      let s := s.setPkts (s.eth.pkts.map (fun x => if x.p.tok = o.p.tok then o' else x))
      .next { s with out := s.out ++ [.packet port o.read o.p] }
/-- A packet that was dropped without an answer is sent again, without charge (R367, R384). -/
def execEthPacketResend (port node tok : Nat) (s : State) : Host.Outcome State Fault Refusal :=
  if !(s.ethPort port).ready then .next s
  else .next (s.setPkts (s.eth.pkts.map (fun o =>
    if o.p.tok = tok && ethDest o.p == node && o.sent then { o with sent := false } else o)))
/-- A window of 10 µs ends (R366). -/
def execEthRateWindow (port node : Nat) (s : State) : Host.Outcome State Fault Refusal :=
  let v := s.ethPort port
  match tblGet v.rates node with
  | none => .next s
  | some r =>
    if s.now.ult (r.since + 10000) then .next s
    else
      let rate := if r.echo then Nat.max (r.rate - r.rate / 4) 1 else if r.acked then Nat.min (r.rate + 16) 1600 else r.rate
      let r := { r with rate := rate, echo := false, acked := false, since := r.since + 10000 }
      .next (s.setEthPort port { v with rates := tblSet v.rates node r })

/-- A target without acknowledgement progress for ETHFAIL is declared failed: its packets are dropped, their senders told, and
one event record sent (R236, R365). -/
def execEthTargetFailed (node : Nat) (host : Bool) (s : State) : Host.Outcome State Fault Refusal :=
  let out := s.ethOut node host
  let at_ : Option (Word × Bool) := if host then (s.session node).map (fun v => (v.failAt, v.failed))
    else (s.node node).map (fun v => (v.failAt, v.failed))
  match at_ with
  | none => .next s
  | some (t, failed) =>
    if out.isEmpty || failed || s.now.ult t then .next s
    else
      let s := if host then
          (match s.session node with
           | some v => { s with eth := { s.eth with sessions := tblSet s.eth.sessions node { v with failed := true } } }
           | none => s)
        else
          (match s.node node with
           | some v => { s with eth := { s.eth with nodes := tblSet s.eth.nodes node { v with failed := true } } }
           | none => s)
      let s := s.setPkts (s.eth.pkts.filter (fun o => !(o.p.node == node && o.p.host == host)))
      let s := s.emit 3 0xFFFF (leBytesN 8 1 ++ leBytesN 8 node)
      .next ((out.foldl (fun s o => s.settleBad o.own (pktAddr o.p) (some (true, if host then 65536 + node else node))) s).collsSettle (fun _ => true))

end Sys2Proof.Machine
end

