-- ==== Sys2Proof/Machine/Scalar.lean ====
section
/-! DEFINITION. The groups INT, IMM and CMP (R80 to R84). -/

namespace Sys2Proof.Machine

/-- A result of two scalars. -/
def binOp (g : Guard) (d a b : SReg) (f : Word → Word → Word) (s : State) : Host.Outcome State Fault Refusal :=
  s.guarded g fun s => s.ret d (f (s.q.s a) (s.q.s b))
/-- A result of one scalar. -/
def unOp (g : Guard) (d a : SReg) (f : Word → Word) (s : State) : Host.Outcome State Fault Refusal :=
  s.guarded g fun s => s.ret d (f (s.q.s a))
/-- A predicate of two predicates. -/
def predOp (g : Guard) (d a b : PReg) (f : Bool → Bool → Bool) (s : State) : Host.Outcome State Fault Refusal :=
  s.guarded g fun s => s.retP d (f (s.q.p a) (s.q.p b))

def execAdd (g : Guard) (d a b : SReg) (s : State) : Host.Outcome State Fault Refusal := binOp g d a b (· + ·) s
def execSub (g : Guard) (d a b : SReg) (s : State) : Host.Outcome State Fault Refusal := binOp g d a b (· - ·) s
def execMul (g : Guard) (d a b : SReg) (s : State) : Host.Outcome State Fault Refusal := binOp g d a b (· * ·) s
def execMulh (g : Guard) (d a b : SReg) (s : State) : Host.Outcome State Fault Refusal := binOp g d a b mulHigh s
def execMulhu (g : Guard) (d a b : SReg) (s : State) : Host.Outcome State Fault Refusal := binOp g d a b mulHighU s
def execMadd (g : Guard) (d a b c : SReg) (s : State) : Host.Outcome State Fault Refusal :=
  s.guarded g fun s => s.ret d (s.q.s a * s.q.s b + s.q.s c)
def execDiv (g : Guard) (d a b : SReg) (s : State) : Host.Outcome State Fault Refusal := binOp g d a b divS s
def execDivu (g : Guard) (d a b : SReg) (s : State) : Host.Outcome State Fault Refusal := binOp g d a b divU s
def execRem (g : Guard) (d a b : SReg) (s : State) : Host.Outcome State Fault Refusal := binOp g d a b remS s
def execRemu (g : Guard) (d a b : SReg) (s : State) : Host.Outcome State Fault Refusal := binOp g d a b remU s
def execAnd (g : Guard) (d a b : SReg) (s : State) : Host.Outcome State Fault Refusal := binOp g d a b (· &&& ·) s
def execOr (g : Guard) (d a b : SReg) (s : State) : Host.Outcome State Fault Refusal := binOp g d a b (· ||| ·) s
def execXor (g : Guard) (d a b : SReg) (s : State) : Host.Outcome State Fault Refusal := binOp g d a b (· ^^^ ·) s
def execAndn (g : Guard) (d a b : SReg) (s : State) : Host.Outcome State Fault Refusal :=
  binOp g d a b (fun x y => x &&& ~~~y) s
def execSll (g : Guard) (d a b : SReg) (s : State) : Host.Outcome State Fault Refusal :=
  binOp g d a b (fun x y => x <<< shamt y) s
def execSrl (g : Guard) (d a b : SReg) (s : State) : Host.Outcome State Fault Refusal :=
  binOp g d a b (fun x y => x >>> shamt y) s
def execSra (g : Guard) (d a b : SReg) (s : State) : Host.Outcome State Fault Refusal :=
  binOp g d a b (fun x y => x.sshiftRight (shamt y)) s
def execRotr (g : Guard) (d a b : SReg) (s : State) : Host.Outcome State Fault Refusal :=
  binOp g d a b (fun x y => x.rotateRight (shamt y)) s
def execMin (g : Guard) (d a b : SReg) (s : State) : Host.Outcome State Fault Refusal := binOp g d a b minS s
def execMax (g : Guard) (d a b : SReg) (s : State) : Host.Outcome State Fault Refusal := binOp g d a b maxS s
def execMinu (g : Guard) (d a b : SReg) (s : State) : Host.Outcome State Fault Refusal := binOp g d a b minU s
def execMaxu (g : Guard) (d a b : SReg) (s : State) : Host.Outcome State Fault Refusal := binOp g d a b maxU s
def execClz (g : Guard) (w : Width) (d a : SReg) (s : State) : Host.Outcome State Fault Refusal :=
  unOp g d a (fun x => countLead (8 * wBytes w) x) s
def execCtz (g : Guard) (w : Width) (d a : SReg) (s : State) : Host.Outcome State Fault Refusal :=
  unOp g d a (fun x => countTrail (8 * wBytes w) x) s
def execPopc (g : Guard) (w : Width) (d a : SReg) (s : State) : Host.Outcome State Fault Refusal :=
  unOp g d a (fun x => countOnes (8 * wBytes w) x) s
def execSext (g : Guard) (w : Width) (d a : SReg) (s : State) : Host.Outcome State Fault Refusal :=
  unOp g d a (fun x => sextW w x) s
def execZext (g : Guard) (w : Width) (d a : SReg) (s : State) : Host.Outcome State Fault Refusal :=
  unOp g d a (fun x => zextW w x) s

def execAddi (g : Guard) (d a : SReg) (imm : BitVec 32) (s : State) : Host.Outcome State Fault Refusal :=
  unOp g d a (fun x => x + sext32 imm) s
def execAndi (g : Guard) (d a : SReg) (imm : BitVec 32) (s : State) : Host.Outcome State Fault Refusal :=
  unOp g d a (fun x => x &&& sext32 imm) s
def execOri (g : Guard) (d a : SReg) (imm : BitVec 32) (s : State) : Host.Outcome State Fault Refusal :=
  unOp g d a (fun x => x ||| sext32 imm) s
def execXori (g : Guard) (d a : SReg) (imm : BitVec 32) (s : State) : Host.Outcome State Fault Refusal :=
  unOp g d a (fun x => x ^^^ sext32 imm) s
def execSlli (g : Guard) (d a : SReg) (sh : BitVec 6) (s : State) : Host.Outcome State Fault Refusal :=
  unOp g d a (fun x => x <<< sh.toNat) s
def execSrli (g : Guard) (d a : SReg) (sh : BitVec 6) (s : State) : Host.Outcome State Fault Refusal :=
  unOp g d a (fun x => x >>> sh.toNat) s
def execSrai (g : Guard) (d a : SReg) (sh : BitVec 6) (s : State) : Host.Outcome State Fault Refusal :=
  unOp g d a (fun x => x.sshiftRight sh.toNat) s
def execMuli (g : Guard) (d a : SReg) (imm : BitVec 32) (s : State) : Host.Outcome State Fault Refusal :=
  unOp g d a (fun x => x * sext32 imm) s
def execLi (g : Guard) (d : SReg) (imm : BitVec 32) (s : State) : Host.Outcome State Fault Refusal :=
  s.guarded g fun s => s.ret d (sext32 imm)
/-- The low half of s[d] is kept (R83). -/
def execLih (g : Guard) (d : SReg) (imm : BitVec 32) (s : State) : Host.Outcome State Fault Refusal :=
  s.guarded g fun s => s.ret d (imm ++ (s.q.s d).extractLsb' 0 32)
def execMini (g : Guard) (d a : SReg) (imm : BitVec 32) (s : State) : Host.Outcome State Fault Refusal :=
  unOp g d a (fun x => minS x (sext32 imm)) s
def execMaxi (g : Guard) (d a : SReg) (imm : BitVec 32) (s : State) : Host.Outcome State Fault Refusal :=
  unOp g d a (fun x => maxS x (sext32 imm)) s

def execCmp (g : Guard) (cc : Cond) (d : PReg) (a b : SReg) (s : State) : Host.Outcome State Fault Refusal :=
  s.guarded g fun s => s.retP d (holds cc (s.q.s a) (s.q.s b))
def execCmpi (g : Guard) (cc : Cond) (d : PReg) (a : SReg) (imm : BitVec 32) (s : State) : Host.Outcome State Fault Refusal :=
  s.guarded g fun s => s.retP d (holds cc (s.q.s a) (sext32 imm))
def execPand (g : Guard) (d a b : PReg) (s : State) : Host.Outcome State Fault Refusal := predOp g d a b (· && ·) s
def execPor (g : Guard) (d a b : PReg) (s : State) : Host.Outcome State Fault Refusal := predOp g d a b (· || ·) s
def execPxor (g : Guard) (d a b : PReg) (s : State) : Host.Outcome State Fault Refusal := predOp g d a b (· != ·) s
def execPnot (g : Guard) (d a : PReg) (s : State) : Host.Outcome State Fault Refusal :=
  s.guarded g fun s => s.retP d (!(s.q.p a))
def execPset (g : Guard) (d : PReg) (a : SReg) (s : State) : Host.Outcome State Fault Refusal :=
  s.guarded g fun s => s.retP d (s.q.s a != 0)
def execPget (g : Guard) (d : SReg) (a : PReg) (s : State) : Host.Outcome State Fault Refusal :=
  s.guarded g fun s => s.ret d (Word.ofBool (s.q.p a))
def execSel (g : Guard) (d a b : SReg) (c : PReg) (s : State) : Host.Outcome State Fault Refusal :=
  s.guarded g fun s => s.ret d (if s.q.p c then s.q.s a else s.q.s b)

end Sys2Proof.Machine
end

