-- ==== Sys2Proof/Machine/ScalarFp.lean ====
section
/-! DEFINITION. The FP group (R85, R86). -/

namespace Sys2Proof.Machine

/-- The FP32 value in bits [31:0] of a scalar (R74). -/
def fOf (x : Word) : Num := toNum fp32 (x.toNat % 2 ^ 32)
/-- An FP32 result into s[d], zero-extended, its event counted (R85). -/
def State.retF (s : State) (d : SReg) (r : Nat × Ev) : State :=
  (s.fxElem s.cx (fxOf 6 r).2).ret d (BitVec.ofNat 64 r.1)
/-- Deliver a result of operands that may be NaN. -/
def fRes (rm : Rm) (ops : List Num) (x : Num) : Nat × Ev := deliver fp32 rm false (!ops.any Num.isNan) x

def execFadd (g : Guard) (rm : Rm) (d a b : SReg) (s : State) : Host.Outcome State Fault Refusal :=
  s.guarded g fun s => let x := fOf (s.q.s a); let y := fOf (s.q.s b)
    s.retF d (fRes rm [x, y] (numAdd rm x y))
def execFsub (g : Guard) (rm : Rm) (d a b : SReg) (s : State) : Host.Outcome State Fault Refusal :=
  s.guarded g fun s => let x := fOf (s.q.s a); let y := fOf (s.q.s b)
    s.retF d (fRes rm [x, y] (numAdd rm x y.negate))
def execFmul (g : Guard) (rm : Rm) (d a b : SReg) (s : State) : Host.Outcome State Fault Refusal :=
  s.guarded g fun s => let x := fOf (s.q.s a); let y := fOf (s.q.s b)
    s.retF d (fRes rm [x, y] (numMul x y))
def execFfma (g : Guard) (rm : Rm) (d a b c : SReg) (s : State) : Host.Outcome State Fault Refusal :=
  s.guarded g fun s => let x := fOf (s.q.s a); let y := fOf (s.q.s b); let z := fOf (s.q.s c)
    s.retF d (fRes rm [x, y, z] (numAdd rm (numMul x y) z))
/-- NaN if either operand is NaN, else the operand that `less` puts first; nothing is counted. -/
def fPick (less : Num → Num → Bool) (x y : Word) : Nat :=
  let a := fOf x; let b := fOf y
  if a.isNan || b.isNan then nanBits fp32 else if less b a then y.toNat % 2 ^ 32 else x.toNat % 2 ^ 32
def execFmin (g : Guard) (d a b : SReg) (s : State) : Host.Outcome State Fault Refusal :=
  s.guarded g fun s => s.ret d (BitVec.ofNat 64 (fPick numLess (s.q.s a) (s.q.s b)))
def execFmax (g : Guard) (d a b : SReg) (s : State) : Host.Outcome State Fault Refusal :=
  s.guarded g fun s => s.ret d (BitVec.ofNat 64 (fPick (fun x y => numLess y x) (s.q.s a) (s.q.s b)))
def execFabs (g : Guard) (d a : SReg) (s : State) : Host.Outcome State Fault Refusal :=
  s.guarded g fun s =>
    let x := s.q.s a
    s.ret d (BitVec.ofNat 64 (if (fOf x).isNan then nanBits fp32 else x.toNat % 2 ^ 31))
def execFneg (g : Guard) (d a : SReg) (s : State) : Host.Outcome State Fault Refusal :=
  s.guarded g fun s =>
    let x := s.q.s a
    s.ret d (BitVec.ofNat 64 (if (fOf x).isNan then nanBits fp32 else (x.toNat + 2 ^ 31) % 2 ^ 32))
/-- The conditions of FCMP: false if an operand is NaN; −0 equals +0 (R85). -/
def fHolds (cc : FCond) (x y : Num) : Bool :=
  match cc with
  | .eq => numEq x y | .lt => numLt x y | .le => numLt x y || numEq x y
def execFcmp (g : Guard) (cc : FCond) (d : PReg) (a b : SReg) (s : State) : Host.Outcome State Fault Refusal :=
  s.guarded g fun s => s.retP d (fHolds cc (fOf (s.q.s a)) (fOf (s.q.s b)))
/-- FP32 to a signed 64-bit integer, clamped; counts nothing (R86). -/
def execFcvtFi (g : Guard) (rm : Rm) (d a : SReg) (s : State) : Host.Outcome State Fault Refusal :=
  s.guarded g fun s => s.ret d (BitVec.ofInt 64 (numToInt rm (-(2 ^ 63)) (2 ^ 63 - 1) (fOf (s.q.s a))))
def execFcvtIf (g : Guard) (rm : Rm) (d a : SReg) (s : State) : Host.Outcome State Fault Refusal :=
  s.guarded g fun s => s.ret d (BitVec.ofNat 64 (deliver fp32 rm false false (intNum (s.q.s a).toInt)).1)

end Sys2Proof.Machine
end

