-- ==== Sys2Proof/Machine/Dispatch.lean ====
section
/-! DEFINITION. The meaning of every constructor of `Instr`: one call each. -/

namespace Sys2Proof.Machine

def exec (i : Instr) (s : State) : Host.Outcome State Fault Refusal :=
  match i with
  | .nop g => Sys2Proof.Machine.execNop g s
  | .yield g => Sys2Proof.Machine.execYield g s
  | .halt g => Sys2Proof.Machine.execHalt g s
  | .trap g code => Sys2Proof.Machine.execTrap g code s
  | .eret g => Sys2Proof.Machine.execEret g s
  | .bkpt g code => Sys2Proof.Machine.execBkpt g code s
  | .csrr g d csr => Sys2Proof.Machine.execCsrr g d csr s
  | .csrw g d a csr => Sys2Proof.Machine.execCsrw g d a csr s
  | .csrs g d a csr => Sys2Proof.Machine.execCsrs g d a csr s
  | .csrc g d a csr => Sys2Proof.Machine.execCsrc g d a csr s
  | .bfmtWrite g op d a n => Sys2Proof.Machine.execBfmtWrite g op d a n s
  | .vmodeCsrWrite g op d a => Sys2Proof.Machine.execVmodeCsrWrite g op d a s
  | .lceWrite g op d a n => Sys2Proof.Machine.execLceWrite g op d a n s
  | .add g d a b => Sys2Proof.Machine.execAdd g d a b s
  | .sub g d a b => Sys2Proof.Machine.execSub g d a b s
  | .mul g d a b => Sys2Proof.Machine.execMul g d a b s
  | .mulh g d a b => Sys2Proof.Machine.execMulh g d a b s
  | .mulhu g d a b => Sys2Proof.Machine.execMulhu g d a b s
  | .madd g d a b c => Sys2Proof.Machine.execMadd g d a b c s
  | .div g d a b => Sys2Proof.Machine.execDiv g d a b s
  | .divu g d a b => Sys2Proof.Machine.execDivu g d a b s
  | .rem g d a b => Sys2Proof.Machine.execRem g d a b s
  | .remu g d a b => Sys2Proof.Machine.execRemu g d a b s
  | .and g d a b => Sys2Proof.Machine.execAnd g d a b s
  | .or g d a b => Sys2Proof.Machine.execOr g d a b s
  | .xor g d a b => Sys2Proof.Machine.execXor g d a b s
  | .andn g d a b => Sys2Proof.Machine.execAndn g d a b s
  | .sll g d a b => Sys2Proof.Machine.execSll g d a b s
  | .srl g d a b => Sys2Proof.Machine.execSrl g d a b s
  | .sra g d a b => Sys2Proof.Machine.execSra g d a b s
  | .rotr g d a b => Sys2Proof.Machine.execRotr g d a b s
  | .min g d a b => Sys2Proof.Machine.execMin g d a b s
  | .max g d a b => Sys2Proof.Machine.execMax g d a b s
  | .minu g d a b => Sys2Proof.Machine.execMinu g d a b s
  | .maxu g d a b => Sys2Proof.Machine.execMaxu g d a b s
  | .clz g w d a => Sys2Proof.Machine.execClz g w d a s
  | .ctz g w d a => Sys2Proof.Machine.execCtz g w d a s
  | .popc g w d a => Sys2Proof.Machine.execPopc g w d a s
  | .sext g w d a => Sys2Proof.Machine.execSext g w d a s
  | .zext g w d a => Sys2Proof.Machine.execZext g w d a s
  | .addi g d a imm => Sys2Proof.Machine.execAddi g d a imm s
  | .andi g d a imm => Sys2Proof.Machine.execAndi g d a imm s
  | .ori g d a imm => Sys2Proof.Machine.execOri g d a imm s
  | .xori g d a imm => Sys2Proof.Machine.execXori g d a imm s
  | .slli g d a sh => Sys2Proof.Machine.execSlli g d a sh s
  | .srli g d a sh => Sys2Proof.Machine.execSrli g d a sh s
  | .srai g d a sh => Sys2Proof.Machine.execSrai g d a sh s
  | .muli g d a imm => Sys2Proof.Machine.execMuli g d a imm s
  | .li g d imm => Sys2Proof.Machine.execLi g d imm s
  | .lih g d imm => Sys2Proof.Machine.execLih g d imm s
  | .mini g d a imm => Sys2Proof.Machine.execMini g d a imm s
  | .maxi g d a imm => Sys2Proof.Machine.execMaxi g d a imm s
  | .cmp g cc d a b => Sys2Proof.Machine.execCmp g cc d a b s
  | .cmpi g cc d a imm => Sys2Proof.Machine.execCmpi g cc d a imm s
  | .pand g d a b => Sys2Proof.Machine.execPand g d a b s
  | .por g d a b => Sys2Proof.Machine.execPor g d a b s
  | .pxor g d a b => Sys2Proof.Machine.execPxor g d a b s
  | .pnot g d a => Sys2Proof.Machine.execPnot g d a s
  | .pset g d a => Sys2Proof.Machine.execPset g d a s
  | .pget g d a => Sys2Proof.Machine.execPget g d a s
  | .sel g d a b c => Sys2Proof.Machine.execSel g d a b c s
  | .fadd g rm d a b => Sys2Proof.Machine.execFadd g rm d a b s
  | .fsub g rm d a b => Sys2Proof.Machine.execFsub g rm d a b s
  | .fmul g rm d a b => Sys2Proof.Machine.execFmul g rm d a b s
  | .ffma g rm d a b c => Sys2Proof.Machine.execFfma g rm d a b c s
  | .fmin g d a b => Sys2Proof.Machine.execFmin g d a b s
  | .fmax g d a b => Sys2Proof.Machine.execFmax g d a b s
  | .fabs g d a => Sys2Proof.Machine.execFabs g d a s
  | .fneg g d a => Sys2Proof.Machine.execFneg g d a s
  | .fcmp g cc d a b => Sys2Proof.Machine.execFcmp g cc d a b s
  | .fcvtFi g rm d a => Sys2Proof.Machine.execFcvtFi g rm d a s
  | .fcvtIf g rm d a => Sys2Proof.Machine.execFcvtIf g rm d a s
  | .br g off => Sys2Proof.Machine.execBr g off s
  | .jal g link off => Sys2Proof.Machine.execJal g link off s
  | .jalr g link a off => Sys2Proof.Machine.execJalr g link a off s
  | .loop g n a fin => Sys2Proof.Machine.execLoop g n a fin s
  | .loopi g n cnt fin => Sys2Proof.Machine.execLoopi g n cnt fin s
  | .ldsp g m => Sys2Proof.Machine.execLdsp g m s
  | .stsp g m => Sys2Proof.Machine.execStsp g m s
  | .ldds g m => Sys2Proof.Machine.execLdds g m s
  | .stds g m => Sys2Proof.Machine.execStds g m s
  | .ldg g m => Sys2Proof.Machine.execLdg g m s
  | .stg g m => Sys2Proof.Machine.execStg g m s
  | .ldf g m => Sys2Proof.Machine.execLdf g m s
  | .stf g m => Sys2Proof.Machine.execStf g m s
  | .stfFlag g m => Sys2Proof.Machine.execStfFlag g m s
  | .ldn g m => Sys2Proof.Machine.execLdn g m s
  | .stn g m => Sys2Proof.Machine.execStn g m s
  | .ldh g m => Sys2Proof.Machine.execLdh g m s
  | .sth g m => Sys2Proof.Machine.execSth g m s
  | .amo g op f => Sys2Proof.Machine.execAmo g op f s
  | .amoCas g f cmp => Sys2Proof.Machine.execAmoCas g f cmp s
  | .amoClaim g f lim => Sys2Proof.Machine.execAmoClaim g f lim s
  | .fence g d scope => Sys2Proof.Machine.execFence g d scope s
  | .fenceComplete q => Sys2Proof.Machine.execFenceComplete q s
  | .fenceE g d => Sys2Proof.Machine.execFenceE g d s
  | .fenceEComplete q => Sys2Proof.Machine.execFenceEComplete q s
  | .seminit g a k v => Sys2Proof.Machine.execSeminit g a k v s
  | .semsig g a k v => Sys2Proof.Machine.execSemsig g a k v s
  | .semwait g a k v => Sys2Proof.Machine.execSemwait g a k v s
  | .semwaitPass q => Sys2Proof.Machine.execSemwaitPass q s
  | .semrd g d k => Sys2Proof.Machine.execSemrd g d k s
  | .semtry g d a k v => Sys2Proof.Machine.execSemtry g d a k v s
  | .aqpush g q a => Sys2Proof.Machine.execAqpush g q a s
  | .aqpushRoom q => Sys2Proof.Machine.execAqpushRoom q s
  | .aqpop g q d => Sys2Proof.Machine.execAqpop g q d s
  | .aqpopData q => Sys2Proof.Machine.execAqpopData q s
  | .aqbr g off => Sys2Proof.Machine.execAqbr g off s
  | .time g d => Sys2Proof.Machine.execTime g d s
  | .waitt g a => Sys2Proof.Machine.execWaitt g a s
  | .waittComplete q => Sys2Proof.Machine.execWaittComplete q s
  | .waittLock g a len => Sys2Proof.Machine.execWaittLock g a len s
  | .waittLockComplete q => Sys2Proof.Machine.execWaittLockComplete q s
  | .lockWindowClose slot => Sys2Proof.Machine.execLockWindowClose slot s
  | .hld g d a sp => Sys2Proof.Machine.execHld g d a sp s
  | .hst g d a sp => Sys2Proof.Machine.execHst g d a sp s
  | .hset g d a fld => Sys2Proof.Machine.execHset g d a fld s
  | .hget g d a fld => Sys2Proof.Machine.execHget g d a fld s
  | .hoff g d a => Sys2Proof.Machine.execHoff g d a s
  | .hxl g d a b => Sys2Proof.Machine.execHxl g d a b s
  | .winreg g d a b => Sys2Proof.Machine.execWinreg g d a b s
  | .winrev g d a => Sys2Proof.Machine.execWinrev g d a s
  | .winrevDrain q => Sys2Proof.Machine.execWinrevDrain q s
  | .enq g eng rec => Sys2Proof.Machine.execEnq g eng rec s
  | .enqr g eng k => Sys2Proof.Machine.execEnqr g eng k s
  | .enqm g eng a => Sys2Proof.Machine.execEnqm g eng a s
  | .enqQueuePlace q => Sys2Proof.Machine.execEnqQueuePlace q s
  | .enqPinRoom q => Sys2Proof.Machine.execEnqPinRoom q s
  | .tspawn g a q => Sys2Proof.Machine.execTspawn g a q s
  | .tspawnRoom q => Sys2Proof.Machine.execTspawnRoom q s
  | .tend g => Sys2Proof.Machine.execTend g s
  | .epush g a e => Sys2Proof.Machine.execEpush g a e s
  | .epushRoom q => Sys2Proof.Machine.execEpushRoom q s
  | .epop g d e => Sys2Proof.Machine.execEpop g d e s
  | .epopItem q => Sys2Proof.Machine.execEpopItem q s
  | .etry g d p e => Sys2Proof.Machine.execEtry g d p e s
  | .scopeo g n => Sys2Proof.Machine.execScopeo g n s
  | .scopeoGrant core => Sys2Proof.Machine.execScopeoGrant core s
  | .scopec g => Sys2Proof.Machine.execScopec g s
  | .scopecDrain q => Sys2Proof.Machine.execScopecDrain q s
  | .vmode g use gated => Sys2Proof.Machine.execVmode g use gated s
  | .poll g cc sp wide d a b => Sys2Proof.Machine.execPoll g cc sp wide d a b s
  | .pollPass q => Sys2Proof.Machine.execPollPass q s
  | .pause g a => Sys2Proof.Machine.execPause g a s
  | .pauseExpiry q => Sys2Proof.Machine.execPauseExpiry q s
  | .coll g d a => Sys2Proof.Machine.execColl g d a s
  | .trig g a b c => Sys2Proof.Machine.execTrig g a b c s
  | .trigRoom q => Sys2Proof.Machine.execTrigRoom q s
  | .ctrset g a b => Sys2Proof.Machine.execCtrset g a b s
  | .ctradd g a b => Sys2Proof.Machine.execCtradd g a b s
  | .ctrrd g d a => Sys2Proof.Machine.execCtrrd g d a s
  | .pbind g d a => Sys2Proof.Machine.execPbind g d a s
  | .punbind g d a => Sys2Proof.Machine.execPunbind g d a s
  | .pquery g d a b => Sys2Proof.Machine.execPquery g d a b s
  | .asyncTrapTaken q => Sys2Proof.Machine.execAsyncTrapTaken q s
  | .preemption slot => Sys2Proof.Machine.execPreemption slot s
  | .contextRestore ctx cores => Sys2Proof.Machine.execContextRestore ctx cores s
  | .recordStart eng slot => Sys2Proof.Machine.execRecordStart eng slot s
  | .operandFetch slot => Sys2Proof.Machine.execOperandFetch slot s
  | .recordRetire eng slot ch => Sys2Proof.Machine.execRecordRetire eng slot ch s
  | .mxLdw slot => Sys2Proof.Machine.execMxLdw slot s
  | .mxMm slot => Sys2Proof.Machine.execMxMm slot s
  | .mxAcrd slot => Sys2Proof.Machine.execMxAcrd slot s
  | .mxAcclr slot => Sys2Proof.Machine.execMxAcclr slot s
  | .mxHad slot => Sys2Proof.Machine.execMxHad slot s
  | .mxBsw slot => Sys2Proof.Machine.execMxBsw slot s
  | .vadd slot => Sys2Proof.Machine.execVadd slot s
  | .vsub slot => Sys2Proof.Machine.execVsub slot s
  | .vmul slot => Sys2Proof.Machine.execVmul slot s
  | .vfma slot => Sys2Proof.Machine.execVfma slot s
  | .vmin slot => Sys2Proof.Machine.execVmin slot s
  | .vmax slot => Sys2Proof.Machine.execVmax slot s
  | .vabs slot => Sys2Proof.Machine.execVabs slot s
  | .vneg slot => Sys2Proof.Machine.execVneg slot s
  | .vand slot => Sys2Proof.Machine.execVand slot s
  | .vor slot => Sys2Proof.Machine.execVor slot s
  | .vxor slot => Sys2Proof.Machine.execVxor slot s
  | .vnot slot => Sys2Proof.Machine.execVnot slot s
  | .vshl slot => Sys2Proof.Machine.execVshl slot s
  | .vshr slot => Sys2Proof.Machine.execVshr slot s
  | .vsra slot => Sys2Proof.Machine.execVsra slot s
  | .vclz slot => Sys2Proof.Machine.execVclz slot s
  | .vffs slot => Sys2Proof.Machine.execVffs slot s
  | .vpopc slot => Sys2Proof.Machine.execVpopc slot s
  | .vcmp slot => Sys2Proof.Machine.execVcmp slot s
  | .vsel slot => Sys2Proof.Machine.execVsel slot s
  | .vcvt slot => Sys2Proof.Machine.execVcvt slot s
  | .vql6 slot => Sys2Proof.Machine.execVql6 slot s
  | .vreds slot => Sys2Proof.Machine.execVreds slot s
  | .vredx slot => Sys2Proof.Machine.execVredx slot s
  | .vredn slot => Sys2Proof.Machine.execVredn slot s
  | .vargx slot => Sys2Proof.Machine.execVargx slot s
  | .vscan slot => Sys2Proof.Machine.execVscan slot s
  | .vperm slot => Sys2Proof.Machine.execVperm slot s
  | .vtrn slot => Sys2Proof.Machine.execVtrn slot s
  | .vbcast slot => Sys2Proof.Machine.execVbcast slot s
  | .vld slot => Sys2Proof.Machine.execVld slot s
  | .vst slot => Sys2Proof.Machine.execVst slot s
  | .vmov slot => Sys2Proof.Machine.execVmov slot s
  | .vlog2 slot => Sys2Proof.Machine.execVlog2 slot s
  | .vexp2 slot => Sys2Proof.Machine.execVexp2 slot s
  | .vladd slot => Sys2Proof.Machine.execVladd slot s
  | .vlsub slot => Sys2Proof.Machine.execVlsub slot s
  | .vlshr slot => Sys2Proof.Machine.execVlshr slot s
  | .vlpow slot => Sys2Proof.Machine.execVlpow slot s
  | .vexpe slot => Sys2Proof.Machine.execVexpe slot s
  | .vrcp slot => Sys2Proof.Machine.execVrcp slot s
  | .vrsqrt slot => Sys2Proof.Machine.execVrsqrt slot s
  | .vsigm slot => Sys2Proof.Machine.execVsigm slot s
  | .vtanh slot => Sys2Proof.Machine.execVtanh slot s
  | .vsilu slot => Sys2Proof.Machine.execVsilu slot s
  | .cxCpy core ch => Sys2Proof.Machine.execCxCpy core ch s
  | .cxFill core ch => Sys2Proof.Machine.execCxFill core ch s
  | .cxGth core ch => Sys2Proof.Machine.execCxGth core ch s
  | .cxSct core ch => Sys2Proof.Machine.execCxSct core ch s
  | .cxPutf core ch => Sys2Proof.Machine.execCxPutf core ch s
  | .cxGetf core ch => Sys2Proof.Machine.execCxGetf core ch s
  | .cxPutn core ch => Sys2Proof.Machine.execCxPutn core ch s
  | .cxGetn core ch => Sys2Proof.Machine.execCxGetn core ch s
  | .cxMcst core ch => Sys2Proof.Machine.execCxMcst core ch s
  | .aeRun slot => Sys2Proof.Machine.execAeRun slot s
  | .aeCont slot => Sys2Proof.Machine.execAeCont slot s
  | .launchAccept ctx => Sys2Proof.Machine.execLaunchAccept ctx s
  | .groupPlace ctx core => Sys2Proof.Machine.execGroupPlace ctx core s
  | .taskIssue ctx src slot => Sys2Proof.Machine.execTaskIssue ctx src slot s
  | .launchEnd ctx => Sys2Proof.Machine.execLaunchEnd ctx s
  | .gridStarvation ctx => Sys2Proof.Machine.execGridStarvation ctx s
  | .coreGate core => Sys2Proof.Machine.execCoreGate core s
  | .dieFence die => Sys2Proof.Machine.execDieFence die s
  | .periodEdge => Sys2Proof.Machine.execPeriodEdge s
  | .spinLimit slot => Sys2Proof.Machine.execSpinLimit slot s
  | .slotStart port => Sys2Proof.Machine.execSlotStart port s
  | .guardEnd port => Sys2Proof.Machine.execGuardEnd port s
  | .slotEnd port => Sys2Proof.Machine.execSlotEnd port s
  | .slotcfgWrite h port v => Sys2Proof.Machine.execSlotcfgWrite h port v s
  | .nak port f => Sys2Proof.Machine.execNak port f s
  | .lol port f => Sys2Proof.Machine.execLol port f s
  | .light port f => Sys2Proof.Machine.execLight port f s
  | .credit port f => Sys2Proof.Machine.execCredit port f s
  | .restripeResume port => Sys2Proof.Machine.execRestripeResume port s
  | .replayTimeout port => Sys2Proof.Machine.execReplayTimeout port s
  | .wavelengthDark port w => Sys2Proof.Machine.execWavelengthDark port w s
  | .lolResend port w => Sys2Proof.Machine.execLolResend port w s
  | .lightReturn port w => Sys2Proof.Machine.execLightReturn port w s
  | .write port m => Sys2Proof.Machine.execWrite port m s
  | .read port m => Sys2Proof.Machine.execRead port m s
  | .rdata port m => Sys2Proof.Machine.execRdata port m s
  | .amoMessage port m => Sys2Proof.Machine.execAmoMessage port m s
  | .pollMessage port m => Sys2Proof.Machine.execPollMessage port m s
  | .ack port m => Sys2Proof.Machine.execAck port m s
  | .nack port m => Sys2Proof.Machine.execNack port m s
  | .frag port m => Sys2Proof.Machine.execFrag port m s
  | .rfrag port m => Sys2Proof.Machine.execRfrag port m s
  | .resendTimeout peer msn => Sys2Proof.Machine.execResendTimeout peer msn s
  | .connectionDown peer => Sys2Proof.Machine.execConnectionDown peer s
  | .stashfullResend peer ctx => Sys2Proof.Machine.execStashfullResend peer ctx s
  | .ethWritePacket port p => Sys2Proof.Machine.execEthWritePacket port p s
  | .ethReadPacket port p => Sys2Proof.Machine.execEthReadPacket port p s
  | .ethReadResponse port p => Sys2Proof.Machine.execEthReadResponse port p s
  | .ethAck port p echo => Sys2Proof.Machine.execEthAck port p echo s
  | .ethNack port p => Sys2Proof.Machine.execEthNack port p s
  | .ethRateWindow port node => Sys2Proof.Machine.execEthRateWindow port node s
  | .pdcExpiry port node => Sys2Proof.Machine.execPdcExpiry port node s
  | .ethTargetFailed node host => Sys2Proof.Machine.execEthTargetFailed node host s
  | .ptpSync master offset => Sys2Proof.Machine.execPtpSync master offset s
  | .holdover => Sys2Proof.Machine.execHoldover s
  | .thermalStateChange die temp => Sys2Proof.Machine.execThermalStateChange die temp s
  | .bringUp fw cfg kerez sigs custKey puf => Sys2Proof.Machine.execBringUp fw cfg kerez sigs custKey puf s
  | .functionReady u => Sys2Proof.Machine.execFunctionReady u s
  | .functionFenced u => Sys2Proof.Machine.execFunctionFenced u s
  | .sessionOpen sess ct sig => Sys2Proof.Machine.execSessionOpen sess ct sig s
  | .regrd h addr => Sys2Proof.Machine.execRegrd h addr s
  | .regwr h addr v => Sys2Proof.Machine.execRegwr h addr v s
  | .asidset h asid root => Sys2Proof.Machine.execAsidset h asid root s
  | .nodeset h node ip ports enc self => Sys2Proof.Machine.execNodeset h node ip ports enc self s
  | .hwin h win addr len rd wr => Sys2Proof.Machine.execHwin h win addr len rd wr s
  | .evqset h ring prod cons nev => Sys2Proof.Machine.execEvqset h ring prod cons nev s
  | .pageUnmap h asid va count => Sys2Proof.Machine.execPageUnmap h asid va count s
  | .pageEvict h asid va count => Sys2Proof.Machine.execPageEvict h asid va count s
  | .deferred asid va => Sys2Proof.Machine.execDeferred asid va s
  | .launch h ctx rec => Sys2Proof.Machine.execLaunch h ctx rec s
  | .tctxset h ctx peer target => Sys2Proof.Machine.execTctxset h ctx peer target s
  | .selvread h gang => Sys2Proof.Machine.execSelvread h gang s
  | .ctxset h ctx asid keydom gang spinlim stash => Sys2Proof.Machine.execCtxset h ctx asid keydom gang spinlim stash s
  | .ctxdel h ctx => Sys2Proof.Machine.execCtxdel h ctx s
  | .gaugeset h ctx gauge => Sys2Proof.Machine.execGaugeset h ctx gauge s
  | .rescfg h resmax period => Sys2Proof.Machine.execRescfg h resmax period s
  | .selvset h gang cap => Sys2Proof.Machine.execSelvset h gang cap s
  | .ctxread h ctx => Sys2Proof.Machine.execCtxread h ctx s
  | .lockset h ctx maxns => Sys2Proof.Machine.execLockset h ctx maxns s
  | .grpset h gid ctx enc members => Sys2Proof.Machine.execGrpset h gid ctx enc members s
  | .grpdel h gid => Sys2Proof.Machine.execGrpdel h gid s
  | .sharecls h keydom cls => Sys2Proof.Machine.execSharecls h keydom cls s
  | .keyload h index keydom ct wrapped tag => Sys2Proof.Machine.execKeyload h index keydom ct wrapped tag s
  | .keydel h index => Sys2Proof.Machine.execKeydel h index s
  | .nkeyload h node keydom ct wrapped tag => Sys2Proof.Machine.execNkeyload h node keydom ct wrapped tag s
  | .idread h => Sys2Proof.Machine.execIdread h s
  | .logread h ctx index => Sys2Proof.Machine.execLogread h ctx index s
  | .logsign h ctx => Sys2Proof.Machine.execLogsign h ctx s
  | .quote h nonce => Sys2Proof.Machine.execQuote h nonce s
  | .dbgctl h ctx en bken halten => Sys2Proof.Machine.execDbgctl h ctx en bken halten s
  | .dbghalt h ctx sel => Sys2Proof.Machine.execDbghalt h ctx sel s
  | .debugHalt slot => Sys2Proof.Machine.execDebugHalt slot s
  | .dbgresume h ctx sel => Sys2Proof.Machine.execDbgresume h ctx sel s
  | .dbgstep h ctx slot x => Sys2Proof.Machine.execDbgstep h ctx slot x s
  | .dbgread h ctx slot x cls index len => Sys2Proof.Machine.execDbgread h ctx slot x cls index len s
  | .dbgwrite h ctx slot x cls index data => Sys2Proof.Machine.execDbgwrite h ctx slot x cls index data s
  | .triggeredOpFire id => Sys2Proof.Machine.execTriggeredOpFire id s
  | .triggeredOpComplete id => Sys2Proof.Machine.execTriggeredOpComplete id s
  | .attach bind => Sys2Proof.Machine.execAttach bind s
  | .stageTaskStart node item => Sys2Proof.Machine.execStageTaskStart node item s
  | .branchCopy bind item => Sys2Proof.Machine.execBranchCopy bind item s
  | .detachComplete bind => Sys2Proof.Machine.execDetachComplete bind s
  | .unassignedEncoding w => Sys2Proof.Machine.execUnassignedEncoding w s
  | .instructionFetchFault q => Sys2Proof.Machine.execInstructionFetchFault q s
  | .clusterWake slot k => Sys2Proof.Machine.execClusterWake slot k s
  | .coreWake core => Sys2Proof.Machine.execCoreWake core s
  | .beat port => Sys2Proof.Machine.execBeat port s
  | .flitArrival port lane f => Sys2Proof.Machine.execFlitArrival port lane f s
  | .receivedPowerChange port w above => Sys2Proof.Machine.execReceivedPowerChange port w above s
  | .ethPacketSend port node => Sys2Proof.Machine.execEthPacketSend port node s
  | .ethPacketResend port node tok => Sys2Proof.Machine.execEthPacketResend port node tok s
  | .uncorrectableError loc => Sys2Proof.Machine.execUncorrectableError loc s
  | .eventRingRoom cons => Sys2Proof.Machine.execEventRingRoom cons s

end Sys2Proof.Machine
end

