-- ==== Sys2Proof/Machine/Sched.lean ====
section
/-! DEFINITION. What a move of a sequencer is (R305, R311, R314), the default schedule (log 2), and the placing of one
instruction for a run (log 1). -/

namespace Sys2Proof.Machine

inductive SeqMove where
  | idle
  | preempt | asyncTrap | debugHalt
  | complete (i : Instr)
  /-- the one instruction of a DBGSTEP is complete -/
  | stepEnd
  | fetch

/-- The row that completes a blocked instruction. -/
def completion (q : SeqRef) : Instr → Option Instr
  | .semwait .. => some (.semwaitPass q)
  | .aqpush .. => some (.aqpushRoom q)
  | .aqpop .. | .aqbr .. => some (.aqpopData q)
  | .waitt .. => some (.waittComplete q)
  | .waittLock .. => some (.waittLockComplete q)
  | .fence .. => some (.fenceComplete q)
  | .fenceE .. => some (.fenceEComplete q)
  | .enq .. | .enqr .. | .enqm .. => some (.enqQueuePlace q)
  | .winreg .. => some (.enqPinRoom q)
  | .winrev .. => some (.winrevDrain q)
  | .tspawn .. => some (.tspawnRoom q)
  | .epush .. => some (.epushRoom q)
  | .epop .. => some (.epopItem q)
  | .scopeo .. => some (.scopeoGrant (coreOf q.slot))
  | .scopec .. | .tend .. | .vmode .. | .vmodeCsrWrite .. => some (.scopecDrain q)
  | .poll .. => some (.pollPass q)
  | .pause .. => some (.pauseExpiry q)
  | .trig .. => some (.trigRoom q)
  | _ => none

/-- A locked window defers pre-emption (R95). -/
def Slot.lockOpen (t : Slot) : Bool := t.lockend != 0

/-- What the next move of a sequencer is. -/
def State.seqMove (s : State) (q : SeqRef) : SeqMove :=
  let v := s.seq q; let t := s.slot q.slot
  if v.stopped then .idle
  else if (t.stopReq || t.preReq) && !t.lockOpen then .preempt
  else if !v.held.isEmpty && !v.intrap && v.atBoundary && !t.halted then .asyncTrap
  else if t.haltReq then .debugHalt
  else if t.halted && t.stepOne != some q.x then .idle
  else if t.stepping && v.wait.isNone then .stepEnd
  else match v.wait with
    | none => .fetch
    | some w =>
      if w.stalls then .fetch
      else if w.held.isSome && w.tok == 1 then .complete (.enqPinRoom q)
      else match completion q w.ins with | some i => .complete i | none => .idle

/-- After the one instruction of a DBGSTEP, or the trap that it took, the slot is halted again; a cause that is due still waits for
its resume (R313, R316). An instruction that awaits an answer is completed first, while the slot counts as halted. -/
def State.afterStep (s : State) (q : SeqRef) : State :=
  let t := s.slot q.slot
  if t.stepOne != some q.x then s
  else if (s.seq q).atBoundary then
    (s.setSlot q.slot { t with stepOne := none, stepping := false, halted := false, haltReq := true }).tryHalt q.slot true
  else s.setSlot q.slot { t with stepping := true }

def State.setAgenda (s : State) (a : List Move) : State := { s with agenda := a }

/-- The default schedule: the first sequencer that is not stopped, waiting or halted. -/
def State.runnable (s : State) : Option SeqRef :=
  (s.seqs.find? (fun e => !e.2.stopped && e.2.wait.isNone && !(s.slot (e.1 / 2)).halted)).map
    (fun e => { slot := e.1 / 2, x := e.1 % 2 == 1 })

/-- The tables, key, stack and sequencer that let the current sequencer fetch the instruction `w` at address 0. -/
def State.placeCode (s : State) (w : Nat) : State :=
  let c := s.cxv
  let put (m : Memory) (a v : Nat) : Memory := m.writeLE a 8 v
  let hbm := ((put (put (put s.mem.hbm 0x1000 0x2001) 0x2000 0x3001) 0x3000 0x20001F)).writeLE 0x200000 72 w
  let lines := lines64 0x1000 8 ++ lines64 0x2000 8 ++ lines64 0x3000 8 ++ lines64 0x200000 72
  let mem := { s.mem with
    hbm := hbm
    lineKey := s.mem.lineKey.filter (fun e => !lines.contains e.1)
    stk := tblSet s.mem.stk 0 true
    ue := s.mem.ue.filter (fun u => !(lines.map UeLoc.hbmLine).contains u)
    roots := tblSet s.mem.roots c.asid.toNat 0x1000
    dying := s.mem.dying.filter (fun d => d.asid != c.asid.toNat)
    keys := tblSet s.mem.keys 0 { keydom := c.keydom } }
  let q := { s.q with stopped := false, wait := none, held := [], loopBuf := [], pc := 0 }
  let t := { s.sl with halted := false, haltReq := false, stepOne := none, stepping := false, preReq := false, stopReq := false }
  { (({ s with mem := mem }).setQ q).setSl t with agenda := [{ at_ := s.clk.time, what := .seq s.cur }] }

end Sys2Proof.Machine
end

