-- ==== Sys2Proof/Machine/Step.lean ====
section
/-! DEFINITION. One step of the package: the next move of the agenda, or of the default schedule (log 2). -/

namespace Sys2Proof.Machine

/-- One move of a sequencer: what its boundary or its wait calls for, or else its next instruction, fetched and decoded. -/
def stepSeq (q : SeqRef) (s : State) : Host.Outcome State Fault Refusal :=
  match s.seqMove q with
  | .idle => .next s
  | .preempt => execPreemption q.slot s
  | .asyncTrap => execAsyncTrapTaken q s
  | .debugHalt => execDebugHalt q.slot s
  | .stepEnd => .next (s.afterStep q)
  | .complete i =>
    match exec i s with
    | .next t => .next (t.afterStep q)
    | r => r
  | .fetch =>
    let s := s.asSeq q
    match s.fetchInstr with
    | .stall => .next s
    | f =>
      let r := match f with
        | .ok ((w, lits), s') => (match decode w lits with
          | .error _ => execUnassignedEncoding w s'
          | .ok i => exec i s')
        | _ => execInstructionFetchFault q s
      match r with
      | .next t => .next (t.afterStep q)
      | r => r

def step (s : State) : Host.Outcome State Fault Refusal :=
  match s.agenda with
  | m :: rest =>
    let s := (s.at m.at_).setAgenda rest
    match m.what with
    | .event i => exec i s
    | .seq q => stepSeq q s
  | [] =>
    match s.runnable with
    | some q => stepSeq q s
    | none => .next (s.at (s.clk.time + 1))

/-- `s` with an instruction stored where the current sequencer fetches next, and with all that this fetch takes: its
sequencer running at address 0, a table that maps that page for execution under a loaded key, a ready stack (log 1). -/
def State.withFetchWord (s : State) (nbits w : Nat) : State := s.placeCode (w % 2 ^ nbits)

end Sys2Proof.Machine
end

