-- ==== Sys2Proof/Safety.lean ====
section
/-! DEFINITION. What counts as a safe state: the invariants that the statements are phrased with. -/

namespace Sys2Proof.Machine

/-- Every byte memory of the state is in its canonical form. -/
def State.memOk (s : State) : Bool :=
  s.mem.hbm.wf && s.grps.all (fun g => g.2.banks.all (fun b => Memory.wf b.2))

end Sys2Proof.Machine
end

