-- ==== Sys2Proof/Certificates/Slice0/Obligations.lean ====
section
/-! DEFINITION. The statements about the model, for the provers. Each formalises rules of the specification or says that it
rests on the model's own reading. -/

section

open Sys2Proof Sys2Proof.Machine

namespace Sys2Proof.Claim

/-- `exec` answers a next state that has the property. -/
def Runs (i : Instr) (s : State) (P : State → Prop) : Prop := ∃ t, exec i s = .next t ∧ P t

/-- No loop is active, or a handler runs: sequential flow simply goes on (R89). -/
abbrev Straight (q : Seq) : Prop := q.intrap = true ∨ q.deepest = none
/-- Where a sequencer stands after an instruction of `n` bytes that is no transfer (R87, R89). -/
def FlowsFrom (q q' : Seq) (n : Nat) : Prop :=
  (Straight q → q'.pc = q.pc + BitVec.ofNat 64 n ∧ q'.loops = q.loops ∧ q'.loopBuf = q.loopBuf) ∧
  q'.pc = (q.advance n).pc ∧ q'.loops = (q.advance n).loops ∧ q'.loopBuf = (q.advance n).loopBuf

/-- Every sequencer but the one that runs is as it was. -/
def Others (s t : State) : Prop := ∀ r, r ≠ s.cur → t.seq r = s.seq r
/-- Nothing outside the sequencers differs: every memory, every slot, context, queue and register of the package. -/
def Outside (s t : State) : Prop := t = { s with seqs := t.seqs }

/-- Of the sequencers, only the one that runs moves on; nothing else of any of them differs. -/
def QFlows (s t : State) (n : Nat := 8) : Prop :=
  Others s t ∧ FlowsFrom s.q t.q n ∧
  t.q = { s.q with pc := t.q.pc, loops := t.q.loops, loopBuf := t.q.loopBuf, wait := none }
/-- The result `v` into scalar `d` of the sequencer that runs: s0 discards it; every other scalar, every predicate, handle
and other register of every sequencer stays, and the sequencer flows on (R74, R76). -/
def QSets (s t : State) (d : SReg) (v : Word) : Prop :=
  Others s t ∧ FlowsFrom s.q t.q 8 ∧
  t.q = { s.q with regs := t.q.regs, pc := t.q.pc, loops := t.q.loops, loopBuf := t.q.loopBuf, wait := none } ∧
  (∀ r, r ≠ d → t.q.s r = s.q.s r) ∧ t.q.s d = if d = 0 then 0 else v
/-- The result `v` into predicate `d`: p0 discards it (R74). -/
def QSetsP (s t : State) (d : PReg) (v : Bool) : Prop :=
  Others s t ∧ FlowsFrom s.q t.q 8 ∧
  t.q = { s.q with preds := t.q.preds, pc := t.q.pc, loops := t.q.loops, loopBuf := t.q.loopBuf, wait := none } ∧
  (∀ r, r ≠ d → t.q.p r = s.q.p r) ∧ t.q.p d = if d = 0 then true else v
/-- The result into a handle register (R166). -/
def QSetsH (s t : State) (d : HReg) (v : BitVec 256) : Prop :=
  Others s t ∧ FlowsFrom s.q t.q 8 ∧
  t.q = { s.q with handles := t.q.handles, pc := t.q.pc, loops := t.q.loops, loopBuf := t.q.loopBuf, wait := none } ∧
  (∀ r, r ≠ d → t.q.h r = s.q.h r) ∧ t.q.h d = v

/-- The instruction completes, flows on and changes nothing else. -/
def Flows (i : Instr) (s : State) : Prop := Runs i s fun t => Outside s t ∧ QFlows s t
/-- The instruction completes with the result `v` in scalar `d`, and changes nothing else. -/
def Gives (i : Instr) (s : State) (d : SReg) (v : Word) : Prop := Runs i s fun t => Outside s t ∧ QSets s t d v
def GivesP (i : Instr) (s : State) (d : PReg) (v : Bool) : Prop := Runs i s fun t => Outside s t ∧ QSetsP s t d v
def GivesH (i : Instr) (s : State) (d : HReg) (v : BitVec 256) : Prop := Runs i s fun t => Outside s t ∧ QSetsH s t d v

/-- A trap is entered (R303) at the sequencer that runs: EPC, CAUSE and EVAL say where and why, INTRAP is set, the pc is the
handler's, TIMECMP is 0, and the slot's locked window is closed; no scalar, predicate, handle, loop or queue and nothing
else changes. -/
def EntersTrap (s t : State) (code : Nat) (async : Bool) (epc eval : Word) : Prop :=
  Others s t ∧ (∀ k, k ≠ s.cur.slot → t.slot k = s.slot k) ∧
  t = { s with seqs := t.seqs, slots := t.slots } ∧ t.sl = { s.sl with lockend := 0 } ∧
  t.q = { s.q with epc := epc &&& ~~~7, cause := BitVec.ofNat 9 (code + if async then 256 else 0), eval := eval,
                   intrap := true, wait := none, timecmp := 0, pc := s.q.tvec &&& ~~~7 }
/-- No asynchronous cause is due at the sequencer that runs: none is held, or a handler runs (R305). -/
abbrev Calm (s : State) : Prop := s.q.held = [] ∨ s.q.intrap = true
/-- The sequencer that runs has a handler and is not in it (R301, R303), and no machine check is held, which would end its task at once
(R305). -/
abbrev Handled (s : State) : Prop := s.q.intrap = false ∧ s.q.tvec.getLsbD 0 = true ∧ ∀ h ∈ s.q.held, h.code ≠ 0x20
/-- The instruction traps, precisely, at its own word, and has changed no state (R302, R303). -/
def Traps (i : Instr) (s : State) (code : Nat) (eval : Word) : Prop :=
  Runs i s fun t => EntersTrap s t code false s.q.pc eval

/-- The account of one context moves, or the free counter: what a charge (R290) or a free value may change beside a result. -/
def OnlyAccounts (s t : State) : Prop := ∀ c, t.ctx c = { s.ctx c with accts := (t.ctx c).accts }

/-- The instruction stands as the sequencer's wait, and nothing else has changed. -/
def Blocks (i : Instr) (s : State) : Prop :=
  Runs i s fun t => Outside s t ∧ Others s t ∧ t.q = { s.q with wait := some { ins := i, since := s.now } }

/-- An event record is sent (R375): through the ring while it has room and none waits before it; a launch end that has no
room waits; any other that has no ring is counted in EVDROP. The record carries the tag of its session's key (R385). -/
def Emits (s t : State) (typ ctx : Nat) (payload : List Byte) : Prop :=
  let e : Event := { typ := typ, ctx := ctx, time := s.clk.time, payload := payload }
  (∀ r : Ring, s.eth.ring = some r → s.eth.eseq - r.seen < r.nev → s.eth.waitEnds = [] →
    t.out = s.out ++ [.event r.sess (r.base + BitVec.ofNat 64 (64 * (s.eth.eseq % r.nev))) (e.record s.eth.eseq) r.prod s.eth.eseq
      (s.tagOf r.sess (e.record s.eth.eseq))] ∧ t.eth = { s.eth with eseq := s.eth.eseq + 1 } ∧ t.preg = s.preg) ∧
  (s.eth.ring = none → typ = 1 → s.eth.waitEnds.length < 4096 →
    t.out = s.out ∧ t.eth = { s.eth with waitEnds := s.eth.waitEnds ++ [e] } ∧ t.preg = s.preg) ∧
  (s.eth.ring = none → typ ≠ 1 → t.out = s.out ∧ t.eth = s.eth ∧ t.preg =
    { s.preg with evdrop := if s.preg.evdrop = 0xFFFFFFFF then s.preg.evdrop else s.preg.evdrop + 1 })

end Sys2Proof.Claim

open Sys2Proof.Claim

/-- The sequencer that runs is the one that the instruction's engine or queue belongs to (R12, R36, R223): A enqueues CX records,
pushes aq0 to aq2 and pops aq3; X does the others. -/
def Sys2Proof.Claim.inItsStream (i : Instr) (x : Bool) : Bool :=
  match i with
  | .enq _ e _ | .enqr _ e _ | .enqm _ e _ => x == (e != .cx)
  | .aqpush _ q _ => x == (q == 3)
  | .aqpop _ q _ => x == (q != 3)
  | .aqbr .. => x
  | _ => true

/-- R23, R52: an instruction whose guard is false has no effect, and execution goes on at the next instruction, past the
literal words of an inline ENQ; WRONGSTREAM is checked whether or not the guard is true. It holds for every word of every
group. -/
def Obligations.FalseGuardHasNoEffect : Prop :=
  ∀ (s : State) (i : Instr) (w : Word), encodeWord i = some w →
    (inItsStream i s.cur.x = true → s.q.guard (fGuard w) = false → Runs i s fun t => Outside s t ∧ QFlows s t i.size) ∧
    (inItsStream i s.cur.x = false → Handled s → Traps i s 0x01 0xFF05)

/-- The unsigned count of set bits of `x` among its low `w` bits. -/
def Sys2Proof.Claim.ones (w : Nat) (x : Word) : Nat := ((List.range w).filter fun k => x.getLsbD k).length
/-- `h` is the highest set bit of the low `w` bits of `x`. -/
abbrev Sys2Proof.Claim.Highest (w : Nat) (x : Word) (h : Nat) : Prop :=
  h < w ∧ x.getLsbD h = true ∧ ∀ k, k < w → h < k → x.getLsbD k = false
/-- `l` is the lowest set bit of the low `w` bits of `x`. -/
abbrev Sys2Proof.Claim.Lowest (w : Nat) (x : Word) (l : Nat) : Prop :=
  l < w ∧ x.getLsbD l = true ∧ ∀ k, k < l → x.getLsbD k = false
/-- The width in bits that a `.w` stands for. -/
def Sys2Proof.Claim.bitsOf : Width → Nat
  | .w8 => 8 | .w16 => 16 | .w32 => 32 | .w64 => 64

/-- R80: what each INT instruction of two or three scalars writes, for every destination and every source, the frame, and
that it completes. -/
def Obligations.IntegerResults : Prop :=
  ∀ (s : State) (g : Guard) (d a b c : SReg), s.q.guard g = true →
    let x := s.q.s a
    let y := s.q.s b
    Gives (.add g d a b) s d (x + y) ∧ Gives (.sub g d a b) s d (x - y) ∧ Gives (.mul g d a b) s d (x * y) ∧
    Gives (.mulh g d a b) s d ((x.signExtend 128 * y.signExtend 128).extractLsb' 64 64) ∧
    Gives (.mulhu g d a b) s d ((x.zeroExtend 128 * y.zeroExtend 128).extractLsb' 64 64) ∧
    Gives (.madd g d a b c) s d (x * y + s.q.s c) ∧
    Gives (.and g d a b) s d (x &&& y) ∧ Gives (.or g d a b) s d (x ||| y) ∧ Gives (.xor g d a b) s d (x ^^^ y) ∧
    Gives (.andn g d a b) s d (x &&& ~~~y) ∧
    Gives (.sll g d a b) s d (x <<< (y.toNat % 64)) ∧ Gives (.srl g d a b) s d (x >>> (y.toNat % 64)) ∧
    Gives (.sra g d a b) s d (x.sshiftRight (y.toNat % 64)) ∧
    Gives (.rotr g d a b) s d (x >>> (y.toNat % 64) ||| x <<< (64 - y.toNat % 64)) ∧
    Gives (.min g d a b) s d (if x.toInt ≤ y.toInt then x else y) ∧
    Gives (.max g d a b) s d (if x.toInt ≤ y.toInt then y else x) ∧
    Gives (.minu g d a b) s d (if x.toNat ≤ y.toNat then x else y) ∧
    Gives (.maxu g d a b) s d (if x.toNat ≤ y.toNat then y else x)

/-- R81: division truncates toward zero and the remainder is what is left of the dividend; a divisor of zero gives all ones
and the dividend; −2^63 by −1 gives −2^63 and 0. -/
def Obligations.DivisionAndRemainder : Prop :=
  ∀ (s : State) (g : Guard) (d a b : SReg), s.q.guard g = true →
    let x := s.q.s a
    let y := s.q.s b
    Gives (.div g d a b) s d (if y = 0 then BitVec.allOnes 64 else x.sdiv y) ∧
    Gives (.rem g d a b) s d (if y = 0 then x else x - x.sdiv y * y) ∧
    Gives (.divu g d a b) s d (if y = 0 then BitVec.allOnes 64 else BitVec.ofNat 64 (x.toNat / y.toNat)) ∧
    Gives (.remu g d a b) s d (if y = 0 then x else BitVec.ofNat 64 (x.toNat - x.toNat / y.toNat * y.toNat)) ∧
    (x = BitVec.intMin 64 → y = BitVec.allOnes 64 →
      Gives (.div g d a b) s d x ∧ Gives (.rem g d a b) s d 0)

/-- R82: the counts over the low w bits, and the two extensions (R80). -/
def Obligations.CountsAndExtensions : Prop :=
  ∀ (s : State) (g : Guard) (w : Width) (d a : SReg), s.q.guard g = true →
    let x := s.q.s a
    let n := bitsOf w
    Gives (.popc g w d a) s d (BitVec.ofNat 64 (ones n x)) ∧
    (∀ h, Highest n x h → Gives (.clz g w d a) s d (BitVec.ofNat 64 (n - 1 - h))) ∧
    (∀ l, Lowest n x l → Gives (.ctz g w d a) s d (BitVec.ofNat 64 l)) ∧
    ((∀ k, k < n → x.getLsbD k = false) →
      Gives (.clz g w d a) s d (BitVec.ofNat 64 n) ∧ Gives (.ctz g w d a) s d (BitVec.ofNat 64 n)) ∧
    Gives (.sext g w d a) s d (BitVec.ofInt 64 ((BitVec.ofNat n x.toNat).toInt)) ∧
    Gives (.zext g w d a) s d (BitVec.ofNat 64 (x.toNat % 2 ^ n))

/-- R83: what each IMM instruction writes. -/
def Sys2Proof.Claim.ImmediateResults : Prop :=
  ∀ (s : State) (g : Guard) (d a : SReg) (i : BitVec 32) (sh : BitVec 6), s.q.guard g = true →
    let v := s.q.s a
    let x := i.signExtend 64
    Gives (.addi g d a i) s d (v + x) ∧ Gives (.andi g d a i) s d (v &&& x) ∧ Gives (.ori g d a i) s d (v ||| x) ∧
    Gives (.xori g d a i) s d (v ^^^ x) ∧ Gives (.slli g d a sh) s d (v <<< sh.toNat) ∧
    Gives (.srli g d a sh) s d (v >>> sh.toNat) ∧ Gives (.srai g d a sh) s d (v.sshiftRight sh.toNat) ∧
    Gives (.muli g d a i) s d (v * x) ∧
    Gives (.mini g d a i) s d (if v.toInt ≤ x.toInt then v else x) ∧
    Gives (.maxi g d a i) s d (if v.toInt ≤ x.toInt then x else v) ∧
    Gives (.li g d i) s d x ∧
    Gives (.lih g d i) s d (BitVec.ofNat 64 (i.toNat * 2 ^ 32 + (s.q.s d).toNat % 2 ^ 32))

/-- R84: what each CMP instruction writes; p0 ignores it. -/
def Sys2Proof.Claim.CompareAndSelectResults : Prop :=
  ∀ (s : State) (g : Guard) (d pa pb : PReg) (sd a b : SReg) (i : BitVec 32), s.q.guard g = true →
    let x := s.q.s a
    let y := s.q.s b
    let z := i.signExtend 64
    (GivesP (.cmp g .eq d a b) s d (decide (x = y)) ∧ GivesP (.cmp g .ne d a b) s d (decide (x ≠ y)) ∧
     GivesP (.cmp g .lt d a b) s d (decide (x.toInt < y.toInt)) ∧ GivesP (.cmp g .le d a b) s d (decide (x.toInt ≤ y.toInt)) ∧
     GivesP (.cmp g .ltu d a b) s d (decide (x.toNat < y.toNat)) ∧
     GivesP (.cmp g .leu d a b) s d (decide (x.toNat ≤ y.toNat))) ∧
    (GivesP (.cmpi g .eq d a i) s d (decide (x = z)) ∧ GivesP (.cmpi g .ne d a i) s d (decide (x ≠ z)) ∧
     GivesP (.cmpi g .lt d a i) s d (decide (x.toInt < z.toInt)) ∧ GivesP (.cmpi g .le d a i) s d (decide (x.toInt ≤ z.toInt)) ∧
     GivesP (.cmpi g .ltu d a i) s d (decide (x.toNat < z.toNat)) ∧
     GivesP (.cmpi g .leu d a i) s d (decide (x.toNat ≤ z.toNat))) ∧
    GivesP (.pand g d pa pb) s d (s.q.p pa && s.q.p pb) ∧ GivesP (.por g d pa pb) s d (s.q.p pa || s.q.p pb) ∧
    GivesP (.pxor g d pa pb) s d (xor (s.q.p pa) (s.q.p pb)) ∧ GivesP (.pnot g d pa) s d (!s.q.p pa) ∧
    GivesP (.pset g d a) s d (decide (x ≠ 0)) ∧
    Gives (.pget g sd pa) s sd (if s.q.p pa then 1 else 0) ∧
    Gives (.sel g sd a b pa) s sd (if s.q.p pa then x else y)

/-- The FP32 pattern is a NaN (R55). -/
def Sys2Proof.Claim.isNan32 (x : Nat) : Bool := x / 2 ^ 23 % 256 == 255 && x % 2 ^ 23 != 0
/-- The value of an FP32 pattern that is no NaN, as its order among all of them: the two zeros are one (R55). -/
def Sys2Proof.Claim.ord32 (x : Nat) : Int := if x / 2 ^ 31 % 2 = 1 then -(x % 2 ^ 31 : Nat) else (x % 2 ^ 31 : Nat)
/-- A delivered FP32 result and its counted event: the counters of the context, an event record where a threshold is
crossed, and the register; nothing else (R70 to R72, R85). -/
def Sys2Proof.Claim.GivesF (i : Instr) (s : State) (d : SReg) (r : Nat × Ev) : Prop :=
  Runs i s fun t =>
    let u := match r.2 with | none => s | some e => s.fxCount s.cx e 1
    Outside u t ∧ QSets u t d (BitVec.ofNat 64 r.1)

/-- R85: the scalar floating-point operations, NaN, the two zeros and the order stated on the bits; sums and products by
one rounding of the exact value (R58). -/
def Sys2Proof.Claim.ScalarFloatingPoint : Prop :=
  ∀ (s : State) (g : Guard) (rm : Rm) (d a b c : SReg) (p : PReg), s.q.guard g = true →
    let x := (s.q.s a).toNat % 2 ^ 32
    let y := (s.q.s b).toNat % 2 ^ 32
    let z := (s.q.s c).toNat % 2 ^ 32
    let nan := isNan32 x || isNan32 y
    GivesF (.fadd g rm d a b) s d (deliver fp32 rm false (!nan) (numAdd rm (toNum fp32 x) (toNum fp32 y))) ∧
    GivesF (.fsub g rm d a b) s d (deliver fp32 rm false (!nan) (numAdd rm (toNum fp32 x) (toNum fp32 y).negate)) ∧
    GivesF (.fmul g rm d a b) s d (deliver fp32 rm false (!nan) (numMul (toNum fp32 x) (toNum fp32 y))) ∧
    GivesF (.ffma g rm d a b c) s d (deliver fp32 rm false (!(nan || isNan32 z))
      (numAdd rm (numMul (toNum fp32 x) (toNum fp32 y)) (toNum fp32 z))) ∧
    (nan = true →
      Gives (.fadd g rm d a b) s d 0x7FC00000 ∧ Gives (.fsub g rm d a b) s d 0x7FC00000 ∧
      Gives (.fmul g rm d a b) s d 0x7FC00000 ∧ Gives (.fmin g d a b) s d 0x7FC00000 ∧
      Gives (.fmax g d a b) s d 0x7FC00000 ∧ GivesP (.fcmp g .eq p a b) s p false ∧
      GivesP (.fcmp g .lt p a b) s p false ∧ GivesP (.fcmp g .le p a b) s p false) ∧
    (nan = false →
      Gives (.fmin g d a b) s d (BitVec.ofNat 64 (if ord32 y < ord32 x ∨ (ord32 y = ord32 x ∧ y = 2 ^ 31) then y else x)) ∧
      Gives (.fmax g d a b) s d (BitVec.ofNat 64 (if ord32 x < ord32 y ∨ (ord32 y = ord32 x ∧ x = 2 ^ 31) then y else x)) ∧
      GivesP (.fcmp g .eq p a b) s p (decide (ord32 x = ord32 y)) ∧
      GivesP (.fcmp g .lt p a b) s p (decide (ord32 x < ord32 y)) ∧
      GivesP (.fcmp g .le p a b) s p (decide (ord32 x ≤ ord32 y))) ∧
    Gives (.fabs g d a) s d (BitVec.ofNat 64 (if isNan32 x then 0x7FC00000 else x % 2 ^ 31)) ∧
    Gives (.fneg g d a) s d (BitVec.ofNat 64 (if isNan32 x then 0x7FC00000 else (x + 2 ^ 31) % 2 ^ 32))

/-- R86: conversions between FP32 and 64-bit integers; infinities are clamped, NaN gives 0;
neither counts. -/
def Sys2Proof.Claim.FloatIntegerConversions : Prop :=
  ∀ (s : State) (g : Guard) (rm : Rm) (d a : SReg), s.q.guard g = true →
    let x := (s.q.s a).toNat % 2 ^ 32
    let v := (s.q.s a).toInt
    (isNan32 x = true → Gives (.fcvtFi g rm d a) s d 0) ∧
    (x = 0x7F800000 → Gives (.fcvtFi g rm d a) s d 0x7FFFFFFFFFFFFFFF) ∧
    (x = 0xFF800000 → Gives (.fcvtFi g rm d a) s d 0x8000000000000000) ∧
    (∀ n m e, toNum fp32 x = .fin n m e →
      Gives (.fcvtFi g rm d a) s d (BitVec.ofInt 64 (max (-(2 ^ 63)) (min (2 ^ 63 - 1) (roundInt rm n m e))))) ∧
    Gives (.fcvtIf g rm d a) s d (BitVec.ofNat 64 (roundFin fp32 rm (decide (v < 0)) v.natAbs 0).1)

/-- A taken transfer to `T`: the loops that do not hold T end, their counts and bounds stay, the others stay as they are
(R90). -/
def Sys2Proof.Claim.Jumps (s t : State) (T : Word) : Prop :=
  Others s t ∧ t.q = { s.q with regs := t.q.regs, pc := T, loops := t.q.loops, loopBuf := t.q.loopBuf } ∧
  ∀ n, n < 3 → t.q.loopAt n =
    let l := s.q.loopAt n
    if l.depth ≠ 0 ∧ ¬(l.start.toNat ≤ T.toNat ∧ T.toNat < l.fin.toNat) then { l with depth := 0 } else l

/-- R87, R90: branches, with the link written after the operands are read; JALR traps ALIGN on a target that is not
aligned, and then changes no register. -/
def Obligations.ControlTransfers : Prop :=
  ∀ (s : State) (g : Guard) (link a : SReg) (off : BitVec 32), s.q.guard g = true →
    let pc := s.q.pc
    let T := pc + 8 * off.signExtend 64
    let J := s.q.s a + 8 * off.signExtend 64
    (Runs (.br g off) s fun t => Outside s t ∧ Jumps s t T ∧ ∀ r, t.q.s r = s.q.s r) ∧
    (Runs (.jal g link off) s fun t => Outside s t ∧ Jumps s t T ∧ (∀ r, r ≠ link → t.q.s r = s.q.s r) ∧
      t.q.s link = if link = 0 then 0 else pc + 8) ∧
    (J.toNat % 8 = 0 → Runs (.jalr g link a off) s fun t => Outside s t ∧ Jumps s t J ∧ (∀ r, r ≠ link → t.q.s r = s.q.s r) ∧
      t.q.s link = if link = 0 then 0 else pc + 8) ∧
    (J.toNat % 8 ≠ 0 → Handled s → Traps (.jalr g link a off) s 0x03 J)

/-- What LOOP and LOOPI have in common (R88), for the count `cnt` that the instruction `i` takes. -/
def Sys2Proof.Claim.OpensLoop (i : Instr) (s : State) (n : Nat) (cnt : Word) (fin : BitVec 16) : Prop :=
  let q := s.q
  let e := q.pc + 8 * fin.zeroExtend 64
  let dn := (q.loopAt n).depth
  -- the loops that stay open when counter `n` is taken over
  let opn := fun k : Nat => (q.loopAt k).depth != 0 && !(dn != 0 && decide (dn.toNat ≤ (q.loopAt k).depth.toNat))
  -- the captured words of the loops that stay open
  let kept := { q with loopBuf := q.loopBuf.filter (fun w => [0, 1, 2].any (fun k => opn k && inLoop (q.loopAt k) (BitVec.ofNat 64 w.1))) }
  s.splitsEnq kept 258 (q.pc + 8) e = false →
    (cnt ≠ 0 → (∀ k, k < 3 → opn k → e.toNat ≤ (q.loopAt k).fin.toNat) →
      Runs i s fun t => Outside s t ∧ Others s t ∧
        t.q = { q with pc := q.pc + 8, loops := t.q.loops, loopBuf := t.q.loopBuf } ∧
        t.q.loopAt n = { start := q.pc + 8, fin := e, depth := BitVec.ofNat 2 (1 + ((List.range 3).filter opn).length), count := cnt } ∧
        ∀ k, k < 3 → k ≠ n → t.q.loopAt k = if opn k then q.loopAt k else { q.loopAt k with depth := 0 }) ∧
    (cnt = 0 → (∀ k, k < 3 → ¬opn k) → Runs i s fun t => Outside s t ∧ Others s t ∧
        t.q = { q with pc := e, loops := t.q.loops, loopBuf := t.q.loopBuf } ∧
        ∀ k, k < 3 → t.q.loopAt k = { q.loopAt k with depth := 0 }) ∧
    (∀ k, k < 3 → cnt ≠ 0 → opn k → (∀ j, j < 3 → j ≠ k → opn j → (q.loopAt j).depth.toNat < (q.loopAt k).depth.toNat) →
      (q.loopAt k).fin.toNat < e.toNat → Handled s → Traps i s 0x01 0xFF04)

/-- R88: LOOP and LOOPI open a loop over the words up to `end`, close the loops nested in a counter they take over, skip the
body for a count of 0, and trap ILL, OPERAND where the body would reach past the enclosing one. -/
def Sys2Proof.Claim.LoopsOpen : Prop :=
  ∀ (s : State) (g : Guard) (n : BitVec 2) (a : SReg) (cnt fin : BitVec 16), s.q.guard g = true → loopOk n fin = true →
    OpensLoop (.loop g n a fin) s n.toNat (s.q.s a) fin ∧
    (cnt ≠ 0 → OpensLoop (.loopi g n cnt fin) s n.toNat (cnt.zeroExtend 64) fin)

/-- R89: where sequential flow leads. A false guard flows as NOP does. -/
def Sys2Proof.Claim.EndOfBodyProcessing : Prop :=
  ∀ (s : State) (g : Guard), s.q.intrap = false →
    let q := s.q
    let next := q.pc + 8
    let at_ := fun n : Nat => q.loopAt n
    -- no loop is active
    ((∀ n, n < 3 → (at_ n).depth = 0) → Runs (.nop g) s fun t => Outside s t ∧ QFlows s t ∧ t.q.pc = next) ∧
    -- `k` is the active loop of greatest depth
    (∀ k, k < 3 → (at_ k).depth ≠ 0 → (∀ j, j < 3 → j ≠ k → (at_ j).depth.toNat < (at_ k).depth.toNat) →
      (next ≠ (at_ k).fin → Runs (.nop g) s fun t => Outside s t ∧ QFlows s t ∧ t.q.pc = next ∧ t.q.loops = q.loops) ∧
      (next = (at_ k).fin → (at_ k).count ≠ 1 → Runs (.nop g) s fun t => Outside s t ∧ QFlows s t ∧ t.q.pc = (at_ k).start ∧
        t.q.loopAt k = { at_ k with count := (at_ k).count - 1 } ∧ ∀ j, j ≠ k → t.q.loopAt j = at_ j) ∧
      -- the last pass: the loop ends, its count reads 0, and an enclosing loop may end at the same address
      (next = (at_ k).fin → (at_ k).count = 1 →
        ((∀ j, j < 3 → j ≠ k → (at_ j).depth = 0) → Runs (.nop g) s fun t => Outside s t ∧ QFlows s t ∧ t.q.pc = next ∧
          t.q.loopAt k = { at_ k with count := 0, depth := 0 } ∧ ∀ j, j ≠ k → t.q.loopAt j = at_ j) ∧
        (∀ j, j < 3 → j ≠ k → (at_ j).depth ≠ 0 → (∀ i, i < 3 → i ≠ k → i ≠ j → (at_ i).depth.toNat < (at_ j).depth.toNat) →
          (at_ j).fin = next → (at_ j).count ≠ 1 → Runs (.nop g) s fun t => Outside s t ∧ QFlows s t ∧
            t.q.pc = (at_ j).start ∧ t.q.loopAt k = { at_ k with count := 0, depth := 0 } ∧
            t.q.loopAt j = { at_ j with count := (at_ j).count - 1 })))

/-- A task ends unhandled (R304): both sequencers of its slot stand stopped without a wait, and the launch of its context
ends FAULTED with what the event record is to carry, unless it was ending already. -/
def Sys2Proof.Claim.EndsUnhandled (s t : State) (code : Nat) (epc eval : Word) : Prop :=
  let k := s.cur.slot
  (∀ x, (t.seq { slot := k, x := x }).stopped = true ∧ (t.seq { slot := k, x := x }).wait = none) ∧
  ∀ l, (s.ctx s.cx).launch = some l → l.ending = none → ∃ l', (t.ctx s.cx).launch = some l' ∧
    l'.ending = some (6, { core := k / 4, slot := k % 4, cause := BitVec.ofNat 9 code, epc := epc, eval := eval })

/-- R92, R306, R307, R308: NOP and YIELD do nothing; TRAP raises SWTRAP after itself; BKPT raises BKPT precisely, or while
BKEN is set asks for a debug halt at its word; HALT ends the task unhandled, or while HALTEN is set asks for a debug halt
after itself; ERET leaves a handler, or traps PRIV outside one. -/
def Obligations.SystemInstructions : Prop :=
  ∀ (s : State) (g : Guard) (code : BitVec 32), s.q.guard g = true →
    Flows (.nop g) s ∧ Flows (.yield g) s ∧
    (Handled s → Runs (.trap g code) s fun t => ∃ u, QFlows s u ∧ Outside s u ∧
      EntersTrap u t 0x11 false u.q.pc (code.zeroExtend 64)) ∧
    (s.q.intrap = true ∨ s.q.tvec.getLsbD 0 = false → Runs (.trap g code) s fun t => EndsUnhandled s t 0x11 (s.q.advance 8).pc (code.zeroExtend 64)) ∧
    (s.cxv.bken = false → Handled s → Traps (.bkpt g code) s 0x10 (code.zeroExtend 64)) ∧
    (s.cxv.bken = true → (s.seq { s.cur with x := !s.cur.x }).atBoundary = false → s.q.wait = none → s.sl.halted = false →
      Runs (.bkpt g code) s fun t => t = s.setSl { s.sl with haltReq := true }) ∧
    (s.cxv.bken = true → s.q.wait = none → (s.seq { s.cur with x := !s.cur.x }).wait = none → s.sl.halted = false →
      s.q.held = [] → (s.seq { s.cur with x := !s.cur.x }).held = [] → Runs (.bkpt g code) s fun t => t.sl = { s.sl with halted := true, haltReq := false, stepOne := none, stepping := false } ∧
        ∀ r, t.seq r = s.seq r) ∧
    (s.cxv.halten = false → Runs (.halt g) s fun t => EndsUnhandled s t 0x11 s.q.pc (BitVec.allOnes 64)) ∧
    (s.cxv.halten = true → (s.seq { s.cur with x := !s.cur.x }).atBoundary = false → s.sl.halted = false →
      Runs (.halt g) s fun t => QFlows s t ∧ t.sl = { s.sl with haltReq := true, lockend := 0 }) ∧
    (s.q.intrap = true → Runs (.eret g) s fun t => Outside s t ∧ Others s t ∧
      t.q = { s.q with intrap := false, pc := s.q.epc &&& ~~~7 }) ∧
    (Handled s → Traps (.eret g) s 0x02 0)

/-- R303, R304: what taking a trap does at any sequencer `r`, and what follows where no handler is installed or one is
running already. -/
def Obligations.TrapEntry : Prop :=
  ∀ (s : State) (r : SeqRef) (code : Nat) (async : Bool) (epc eval : Word),
    let q := s.seq r
    let t := s.takeTrap r code async epc eval
    (q.intrap = false → q.tvec.getLsbD 0 = true → (∀ h ∈ q.held, h.code ≠ 0x20) →
      t.seq r = { q with epc := epc &&& ~~~7, cause := BitVec.ofNat 9 (code + if async then 256 else 0), eval := eval,
                         intrap := true, wait := none, timecmp := 0, pc := q.tvec &&& ~~~7 } ∧
      (∀ r', r' ≠ r → t.seq r' = s.seq r') ∧ t.slot r.slot = { s.slot r.slot with lockend := 0 } ∧
      (∀ k, k ≠ r.slot → t.slot k = s.slot k) ∧ t = { s with seqs := t.seqs, slots := t.slots }) ∧
    -- a machine check that is held meets INTRAP 1 at once (R305)
    (q.intrap = true ∨ q.tvec.getLsbD 0 = false ∨ (∃ h ∈ q.held, h.code = 0x20) →
      ∀ x, (t.seq { r with x := x }).stopped = true ∧ (t.seq { r with x := x }).wait = none ∧ (t.seq { r with x := x }).held = [])

/-- The old value of a CSR into `d`, and the CSR's own change: what a CSR write is (R78). -/
def Sys2Proof.Claim.WritesQ (i : Instr) (s : State) (d : SReg) (old : Word) (q' : Seq) : Prop :=
  Runs i s fun t => Outside s t ∧ QSets (s.setQ q') t d old

/-- R78, R79, R98, R309: a CSR read returns the CSR and changes nothing; a write is one action that returns the old value;
W1C bits receive the bits of s[a]; RO fields stay; LOCKMAX traps PRIV; BFMTn outside the group's mask traps PROT. -/
def Sys2Proof.Claim.CsrAccess : Prop :=
  ∀ (s : State) (g : Guard) (d a : SReg) (csr : BitVec 12), s.q.guard g = true →
    let q := s.q
    let x := s.q.s a
    (s.csrReach csr.toNat = true → Gives (.csrr g d csr) s d (s.csr csr.toNat)) ∧
    (s.csrReach csr.toNat = false → Handled s → Traps (.csrr g d csr) s 0x05 (csr.zeroExtend 64)) ∧
    -- reads of single registers
    (Gives (.csrr g d 0x001) s d (q.cause.zeroExtend 64) ∧ Gives (.csrr g d 0x002) s d q.epc ∧
     Gives (.csrr g d 0x003) s d q.eval ∧ Gives (.csrr g d 0x004) s d q.tvec ∧
     Gives (.csrr g d 0x010) s d (BitVec.ofNat 64 s.cx) ∧ Gives (.csrr g d 0x014) s d (s.cxv.lockmax.zeroExtend 64) ∧
     Gives (.csrr g d 0x210) s d q.timecmp ∧ Gives (.csrr g d 0x211) s d s.sl.lockend ∧
     Gives (.csrr g d 0xF00) s d (if s.vond8 then 0x0000000880108003 else 0x0000000440084000)) ∧
    -- the three writes, of EVAL, whose whole field is RW
    WritesQ (.csrw g d a 0x003) s d q.eval { q with eval := x } ∧
    WritesQ (.csrs g d a 0x003) s d q.eval { q with eval := q.eval ||| x } ∧
    WritesQ (.csrc g d a 0x003) s d q.eval { q with eval := q.eval &&& ~~~x } ∧
    -- reserved and RO fields stay
    WritesQ (.csrw g d a 0x001) s d (q.cause.zeroExtend 64) { q with cause := x.extractLsb' 0 9 } ∧
    WritesQ (.csrw g d a 0x002) s d q.epc { q with epc := x &&& ~~~7 } ∧
    WritesQ (.csrw g d a 0x004) s d q.tvec { q with tvec := x &&& ~~~6 } ∧
    WritesQ (.csrw g d a 0x210) s d q.timecmp q ∧ WritesQ (.csrw g d a 0xF00) s d s.cap0 q ∧
    -- STATUS.FX is W1C, STRICT is RW
    (x.getLsbD 2 = true → Runs (.csrc g d a 0x000) s fun t => (t.ctx s.cx).fx = false ∧ t.q.s d = if d = 0 then 0 else s.csr 0) ∧
    (x.getLsbD 2 = false → Runs (.csrw g d a 0x000) s fun t => (t.ctx s.cx).fx = s.cxv.fx ∧ t.q.strict = x.getLsbD 1 ∧
      t.q.intrap = q.intrap) ∧
    -- LOCKMAX
    (Handled s → Traps (.csrw g d a 0x014) s 0x02 0x014 ∧ Traps (.csrs g d a 0x014) s 0x02 0x014 ∧
      Traps (.csrc g d a 0x014) s 0x02 0x014)

/-- R91, R98, R103, R123: the CSR writes that are steps of their own. BFMTn is written field by field, a reserved FORMAT or GEOM
keeping its previous value; LCEn sets END and DEPTH; VMODE acts as the instruction on USE and REST. -/
def Sys2Proof.Claim.CsrWritesOfTheirOwn : Prop :=
  ∀ (s : State) (g : Guard) (op : CsrOp) (d a : SReg), s.q.guard g = true →
    let x := s.q.s a
    (∀ n : BitVec 4, n.toNat < 12 →
      (∀ gr, s.grp s.sl.grpOf = some gr → gr.mask.getLsbD n.toNat = true →
        let old := gr.fmtOf n.toNat
        let new := csrNew op old x
        Runs (.bfmtWrite g op d a n) s fun t => ∃ gr' f, t.grp s.sl.grpOf = some gr' ∧ gr'.fmtOf n.toNat = f ∧
          f.extractLsb' 24 12 = new.extractLsb' 24 12 ∧
          f.extractLsb' 0 4 = (if (new.extractLsb' 0 4).toNat ≤ 0xA then new.extractLsb' 0 4 else old.extractLsb' 0 4) ∧
          f.extractLsb' 4 3 = (if (new.extractLsb' 4 3).toNat ≤ 5 then new.extractLsb' 4 3 else old.extractLsb' 4 3) ∧
          f.extractLsb' 36 28 = 0 ∧ f.extractLsb' 7 17 = 0 ∧
          gr' = { gr with bfmt := gr'.bfmt } ∧ (∀ m, m ≠ n.toNat → gr'.fmtOf m = gr.fmtOf m) ∧
          t = { s with seqs := t.seqs, grps := t.grps } ∧ QSets s t d old) ∧
      (s.hasBank s.cur.slot n.toNat = false → Handled s →
        Traps (.bfmtWrite g op d a n) s 0x05 (BitVec.ofNat 64 (0x110 + n.toNat)))) ∧
    (∀ n : BitVec 2, n.toNat < 3 →
      let l := s.q.loopAt n.toNat
      let old := l.fin ||| l.depth.zeroExtend 64
      let new := csrNew op old x
      Runs (.lceWrite g op d a n) s fun t => Outside s t ∧ Others s t ∧
        (∀ r, r ≠ d → t.q.s r = s.q.s r) ∧ t.q.s d = (if d = 0 then 0 else old) ∧
        (s.q.intrap = true → t.q.pc = s.q.pc + 8 ∧
          t.q.loopAt n.toNat = { l with fin := new &&& ~~~7, depth := new.extractLsb' 0 2 } ∧
          ∀ m, m ≠ n.toNat → t.q.loopAt m = s.q.loopAt m)) ∧
    (let old := s.sl.vmodeCsr
     let new := csrNew op old x
     let use := new.extractLsb' 0 8
     let rest := new.getLsbD 24
     (use = old.extractLsb' 0 8 → rest = old.getLsbD 24 → Gives (.vmodeCsrWrite g op d a) s d old) ∧
     (¬(use = old.extractLsb' 0 8 ∧ rest = old.getLsbD 24) → s.vmodeStall use rest 0 = none →
       Runs (.vmodeCsrWrite g op d a) s fun t => QSets s t d old ∧ t.sl = (s.vmodeAll use rest 0).sl ∧
         (∀ k, k ≠ s.cur.slot → t.slot k = s.slot k) ∧ t.mem = (s.vmodeAll use rest 0).mem ∧
         t = { s with seqs := t.seqs, slots := t.slots, mem := t.mem }) ∧
     (∀ k, ¬(use = old.extractLsb' 0 8 ∧ rest = old.getLsbD 24) → s.q.wait = none → s.vmodeStall use rest 0 = some k →
       Runs (.vmodeCsrWrite g op d a) s fun t => Others s t ∧
         t.q = { s.q with wait := some { ins := .vmodeCsrWrite g op d a, since := s.now, tok := k, fin := old } }))

/-- One byte of a bank of a group. -/
def Sys2Proof.Claim.bankByte (s : State) (gid b x : Nat) : Byte := (s.bankMem gid b).read x

/-- R97, R98, R99, R111: LDSP reads and STSP writes raw bytes of the task's own banks, little-endian; a misaligned address traps
ALIGN before anything else, an address outside the group's banks traps PROT, and a store changes exactly its bytes. -/
def Sys2Proof.Claim.ScratchpadAccess : Prop :=
  ∀ (s : State) (g : Guard) (m : MemOp), s.q.guard g = true →
    let a := effAddr s.q m
    let n := wBytes m.width
    let b := (a.extractLsb' 18 4).toNat
    let o := (a.extractLsb' 0 18).toNat
    let gid := s.sl.grpOf
    let there := a.toNat < 12 * 2 ^ 18 ∧ s.hasBank s.cur.slot b = true
    (a.toNat % n ≠ 0 → Handled s → Traps (.ldsp g m) s 0x03 a ∧ Traps (.stsp g m) s 0x03 a) ∧
    (a.toNat % n = 0 → ¬there → Handled s → Traps (.ldsp g m) s 0x05 a ∧ Traps (.stsp g m) s 0x05 a) ∧
    (a.toNat % n = 0 → there → s.mem.ue = [] →
      (s.cur.x = true ∨ s.meets s.cur.slot [(b, o, n)] = false →
        Gives (.ldsp g m) s m.data (BitVec.ofNat 64 ((s.bankMem gid b).readLE o n))) ∧
      (Runs (.stsp g m) s fun t => QFlows s t ∧ t = { s with seqs := t.seqs, grps := t.grps } ∧
        (∀ gid' b' x, ¬(gid' = gid ∧ b' = b ∧ o ≤ x ∧ x < o + n) → bankByte t gid' b' x = bankByte s gid' b' x) ∧
        ∀ i, i < n → bankByte t gid b (o + i) = BitVec.ofNat 8 ((s.q.s m.data).toNat / 256 ^ i)))

/-- R111, R413 of a die's SRAM: the same for DS, whose bounds are those of the launch's allocation. -/
def Sys2Proof.Claim.DieSramAccess : Prop :=
  ∀ (s : State) (g : Guard) (m : MemOp) (gr : Grp) (l : Launch), s.q.guard g = true →
    s.grp s.sl.grpOf = some gr → s.launchOf s.cx = some l →
    let a := effAddr s.q m
    let n := wBytes m.width
    let size := hdrN l.hdr 4 4 * 65536
    let o := a.toNat
    (a.toNat % n ≠ 0 → Handled s → Traps (.ldds g m) s 0x03 a ∧ Traps (.stds g m) s 0x03 a) ∧
    (a.toNat % n = 0 → ¬(o < 2 ^ 26 ∧ o < size) → Handled s → Traps (.ldds g m) s 0x05 a ∧ Traps (.stds g m) s 0x05 a) ∧
    (a.toNat % n = 0 → o < 2 ^ 26 → o < size → s.mem.ue = [] →
      Gives (.ldds g m) s m.data (BitVec.ofNat 64 ((s.dsMem s.cx gr.vdie).readLE o n)) ∧
      (Runs (.stds g m) s fun t => QFlows s t ∧ t = { s with seqs := t.seqs, ctxs := t.ctxs } ∧
        (∀ c v x, ¬(c = s.cx ∧ v = gr.vdie ∧ o ≤ x ∧ x < o + n) → (t.dsMem c v).read x = (s.dsMem c v).read x) ∧
        (∀ c, c ≠ s.cx → t.ctx c = s.ctx c) ∧ t.ctx s.cx = { s.ctx s.cx with launch := (t.ctx s.cx).launch } ∧
        ∀ i, i < n → (t.dsMem s.cx gr.vdie).read (o + i) = BitVec.ofNat 8 ((s.q.s m.data).toNat / 256 ^ i)))

/-- The page is mapped for the access, under a key of the context's domain, on a stack that is ready and whose bytes were
written under that key. -/
abbrev Sys2Proof.Claim.Reachable (s : State) (a : Word) (kind : Access) (n : Nat) (l : Leaf) : Prop :=
  s.translate s.cx a kind = .ok l ∧ s.stackAt l.pa = .ready ∧ s.mem.ue = [] ∧
  (lines64 l.pa n).any (fun x => s.foreign x (s.keyVal l.key)) = false

/-- R170 to R172, R178, R379: loads and stores of G go to the bytes of the translated address, little-endian, and change
exactly those; translation failures trap at the access, misalignment before them. -/
def Sys2Proof.Claim.GlobalAccess : Prop :=
  ∀ (s : State) (g : Guard) (m : MemOp), s.q.guard g = true →
    let a := effAddr s.q m
    let n := wBytes m.width
    (a.toNat % n ≠ 0 → Handled s → Traps (.ldg g m) s 0x03 a ∧ Traps (.stg g m) s 0x03 a) ∧
    (∀ t, a.toNat % n = 0 → s.translate s.cx a .read = .trap t → t.code ≠ 0x20 → Handled s → Traps (.ldg g m) s t.code t.eval) ∧
    (∀ t, a.toNat % n = 0 → s.translate s.cx a .write = .trap t → t.code ≠ 0x20 → Handled s → Traps (.stg g m) s t.code t.eval) ∧
    (∀ l, a.toNat % n = 0 → Reachable s a .read n l →
      Runs (.ldg g m) s fun t => QSets s t m.data (BitVec.ofNat 64 (s.mem.hbm.readLE l.pa n)) ∧
        t = { s with seqs := t.seqs, ctxs := t.ctxs } ∧ OnlyAccounts s t) ∧
    (∀ l, a.toNat % n = 0 → Reachable s a .write n l →
      Runs (.stg g m) s fun t => QFlows s t ∧
        t = { s with seqs := t.seqs, ctxs := t.ctxs, mem := { s.mem with hbm := t.mem.hbm, lineKey := t.mem.lineKey } } ∧
        OnlyAccounts s t ∧
        (∀ x, ¬(l.pa ≤ x ∧ x < l.pa + n) → t.mem.hbm.read x = s.mem.hbm.read x) ∧
        ∀ i, i < n → t.mem.hbm.read (l.pa + i) = BitVec.ofNat 8 ((s.q.s m.data).toNat / 256 ^ i))

/-- R170, R172, R379: the order of the reasons for which a translation fails, each with the address as EVAL. The walk reads its table
entries first: the first of them that stands on a stack that is not ready makes it stall, on a fenced stack takes MCHK, with SRC 3
(R310, R396). -/
def Sys2Proof.Claim.TranslationFailures : Prop :=
  ∀ (s : State) (c : Nat) (va : Word) (kind : Access),
    let x := s.ctx c
    let reads := s.walkReads x.asid.toNat va.toNat
    (va.toNat / 2 ^ 48 ≠ 0 → s.translate c va kind = .trap { code := 0x04, eval := va }) ∧
    (∀ pre a post, va.toNat / 2 ^ 48 = 0 → s.mem.ue = [] → reads = pre ++ a :: post → (∀ b ∈ pre, s.stackAt b = .ready) →
      (s.stackAt a = .absent → s.translate c va kind = .stall) ∧
      (s.stackAt a = .fenced → s.translate c va kind = .trap { code := 0x20, eval := BitVec.ofNat 64 (3 * 2 ^ 56 + a % 2 ^ 48) })) ∧
    (s.mem.ue = [] → (∀ a ∈ reads, s.stackAt a = .ready) →
    (s.walk x.asid.toNat va.toNat = none → s.translate c va kind = .trap { code := 0x04, eval := va }) ∧
    (∀ l, va.toNat / 2 ^ 48 = 0 → s.walk x.asid.toNat va.toNat = some l →
      let perm := match kind with | .read => l.r | .write => l.w | .rw => l.r && l.w | .fetch => l.x | .any => true
      (s.isDying x.asid.toNat l.page = true → s.translate c va kind = .trap { code := 0x04, eval := va }) ∧
      (s.isDying x.asid.toNat l.page = false → perm = false → s.translate c va kind = .trap { code := 0x05, eval := va }) ∧
      (s.isDying x.asid.toNat l.page = false → perm = true → s.keyOk l.key x.keydom = false →
        s.translate c va kind = .trap { code := 0x0B, eval := va }) ∧
      (s.isDying x.asid.toNat l.page = false → perm = true → s.keyOk l.key x.keydom = true → s.translate c va kind = .ok l)))

/-- What an atomic does with the old value `v` of the location, the operand `x` and the comparand or limit `y`, all of `w`
bits: the new value, if one is written, and the value returned (R237). -/
def Sys2Proof.Claim.Atomic (i : Instr) (w : Nat) (v x y : Nat) (new : Option Nat) (ret : Nat) : Prop :=
  let sg (n : Nat) : Int := (BitVec.ofNat w n).toInt
  match i with
  | .amo _ .add _ => new = some ((v + x) % 2 ^ w) ∧ ret = v
  | .amo _ .and _ => new = some (v &&& x) ∧ ret = v
  | .amo _ .or _ => new = some (v ||| x) ∧ ret = v
  | .amo _ .xor _ => new = some (v ^^^ x) ∧ ret = v
  | .amo _ .min _ => new = some (if sg v ≤ sg x then v else x) ∧ ret = v
  | .amo _ .max _ => new = some (if sg v ≤ sg x then x else v) ∧ ret = v
  | .amo _ .minu _ => new = some (min v x) ∧ ret = v
  | .amo _ .maxu _ => new = some (max v x) ∧ ret = v
  | .amo _ .swap _ => new = some x ∧ ret = v
  | .amoCas .. => (v = y → new = some x) ∧ (v ≠ y → new = none) ∧ ret = v
  | .amoClaim .. => (v < y → new = some (v + 1) ∧ ret = v) ∧ (¬v < y → new = none ∧ ret = 2 ^ 64 - 1)
  | _ => False

/-- R26, R237: the atomics on DS and on G, of 4 or 8 bytes: one action on the location; the old value returns (all ones from a
CLAIM that finds no room); a misaligned address traps ALIGN first. -/
def Obligations.AtomicOperations : Prop :=
  ∀ (s : State) (g : Guard) (f : AmoFields) (op : AmoOp) (c : SReg), s.q.guard g = true →
    let a := s.q.s f.base + f.disp.signExtend 64
    let n := if f.wide then 8 else 4
    let cut (r : Word) : Nat := r.toNat % 2 ^ (8 * n)
    ∀ i, i = .amo g op f ∨ i = .amoCas g f c ∨ i = .amoClaim g f c →
      (a.toNat % n ≠ 0 → Handled s → Traps i s 0x03 a) ∧
      (∀ gr l, f.space = .ds → a.toNat % n = 0 → s.mem.ue = [] → s.grp s.sl.grpOf = some gr → s.launchOf s.cx = some l →
        a.toNat < 2 ^ 26 → a.toNat < hdrN l.hdr 4 4 * 65536 →
        ∃ new ret, Atomic i (8 * n) ((s.dsMem s.cx gr.vdie).readLE a.toNat n) (cut (s.q.s f.data)) (cut (s.q.s c)) new ret ∧
          Runs i s fun t => QSets s t f.data (BitVec.ofNat 64 ret) ∧ t = { s with seqs := t.seqs, ctxs := t.ctxs } ∧
            (∀ v, new = some v → (t.dsMem s.cx gr.vdie).readLE a.toNat n = v) ∧
            ∀ c' d x, ¬(new ≠ none ∧ c' = s.cx ∧ d = gr.vdie ∧ a.toNat ≤ x ∧ x < a.toNat + n) →
              (t.dsMem c' d).read x = (s.dsMem c' d).read x) ∧
      (∀ l, f.space = .g → a.toNat % n = 0 → Reachable s a .rw n l →
        ∃ new ret, Atomic i (8 * n) (s.mem.hbm.readLE l.pa n) (cut (s.q.s f.data)) (cut (s.q.s c)) new ret ∧
          Runs i s fun t => QSets s t f.data (BitVec.ofNat 64 ret) ∧ OnlyAccounts s t ∧
            t = { s with seqs := t.seqs, ctxs := t.ctxs, mem := { s.mem with hbm := t.mem.hbm, lineKey := t.mem.lineKey } } ∧
            (∀ v, new = some v → t.mem.hbm.readLE l.pa n = v) ∧
            ∀ x, ¬(new ≠ none ∧ l.pa ≤ x ∧ x < l.pa + n) → t.mem.hbm.read x = s.mem.hbm.read x)

/-- The status of R236 over the distinct failed targets: CODE 1 and their number, with the lowest-numbered one as PEER; 0 where
there is none. Where a package and a node have the same number, the package is named (log 30); host n is
held as n + 65536, and named n. -/
def Sys2Proof.Claim.LostStatus (failed : List (Bool × Nat)) (v : Word) : Prop :=
  (failed = [] → v = 0) ∧
  (failed ≠ [] → ∃ k p, (k, p) ∈ failed ∧ (∀ k' p', (k', p') ∈ failed →
    p % 65536 < p' % 65536 ∨ (p % 65536 = p' % 65536 ∧ (k = true → k' = true))) ∧
    v = BitVec.ofNat 64 ((if k then 2 ^ 32 else 0) + min 4095 failed.length * 2 ^ 20 + p % 65536 * 2 ^ 8 + 1))

/-- The targets that FENCE at scope `sc` reports: nodes and hosts only at SYS (R236). -/
def Sys2Proof.Claim.told (sc : BitVec 3) (t : Bool × Nat) : Bool := sc == 4 || !t.1
/-- A FENCE that passes writes the status of the failed targets that it reports, which no later FENCE reports again (log 30). -/
def Sys2Proof.Claim.Passes (i : Instr) (s : State) (d : SReg) (sc : BitVec 3) : Prop :=
  ∃ v, LostStatus (s.q.failed.filter (told sc)) v ∧
    Runs i s fun t => Outside s t ∧ QSets (s.setQ { s.q with failed := s.q.failed.filter (fun t => !told sc t) }) t d v

/-- R234 to R236: FENCE waits for the sequencer's remote stores at FAB and SYS scope and writes the status of its failed
targets, which at CORE, DIE and PKG scope is 0; FENCE.E waits for the records of its own sequencer and writes 2 where one has
faulted, not for one whose signal, of a local scope, has been applied; each that waits completes with FENCE_COMPLETE or
FENCE_E_COMPLETE, unless an asynchronous cause is due (R305). -/
def Obligations.Fences : Prop :=
  ∀ (s : State) (g : Guard) (d : SReg) (sc : BitVec 3),
    let pending := (3 ≤ sc.toNat ∧ s.fabPending s.uid s.cur.x = true) ∨ (sc.toNat = 4 ∧ s.ethPending s.uid s.cur.x = true)
    let records := (s.openRecords s.cur.slot).any (fun r => r.who == s.cur)
    let fault : Word := if s.q.recFault then 2 else 0
    (s.q.guard g = true → s.q.wait = none →
      (sc.toNat < 3 → Gives (.fence g d sc) s d 0) ∧
      (3 ≤ sc.toNat → sc.toNat ≤ 4 → ¬pending → Passes (.fence g d sc) s d sc) ∧
      (pending → Blocks (.fence g d sc) s) ∧
      (records = false → Gives (.fenceE g d) s d fault) ∧ (records = true → Blocks (.fenceE g d) s)) ∧
    (∀ w : Wait, s.q.wait = some w → w.ins = .fence g d sc → Calm s →
      (sc.toNat < 3 → Gives (.fenceComplete s.cur) s d 0) ∧
      (3 ≤ sc.toNat → sc.toNat ≤ 4 → ¬pending → Passes (.fenceComplete s.cur) s d sc) ∧
      (pending → Runs (.fenceComplete s.cur) s fun t => t = s)) ∧
    (∀ w : Wait, s.q.wait = some w → w.ins = .fenceE g d → Calm s →
      (records = false → Gives (.fenceEComplete s.cur) s d fault) ∧
      (records = true → Runs (.fenceEComplete s.cur) s fun t => t = s))

/-- Semaphore `k` of the context of the task that runs takes the value `m`; every other semaphore, and everything else of
every context, stays. -/
def Sys2Proof.Claim.SetsSem (s t : State) (k : Nat) (m : Sem) : Prop :=
  t.sem s.cx k = m ∧ (∀ c j, ¬(c = s.cx ∧ j = k) → t.sem c j = s.sem c j) ∧
  (∀ c, t.ctx c = { s.ctx c with sems := (t.ctx c).sems }) ∧ t = { s with seqs := t.seqs, ctxs := t.ctxs }

/-- R208, R211, R217, R218: the semaphore instructions. SEMINIT clears poison, SEMSIG keeps it, SEMWAIT and SEMTRY trap on it;
SEMWAIT passes where the count is at or at most 32,767 beyond the threshold, and otherwise blocks at its own address until
SEMWAIT_PASS finds it so; SEMTRY answers at once. -/
def Obligations.SemaphoreInstructions : Prop :=
  ∀ (s : State) (g : Guard) (d a : SReg) (k : BitVec 8) (imm : BitVec 16),
    let m := s.sem s.cx k.toNat
    let v : BitVec 16 := BitVec.ofNat 16 (imm.toNat + (s.q.s a).toNat)
    let pass := (m.count.toNat + 2 ^ 16 - v.toNat) % 2 ^ 16 < 2 ^ 15
    (s.q.guard g = true →
      (Runs (.seminit g a k imm) s fun t => QFlows s t ∧ SetsSem s t k.toNat { count := v, poison := false, cause := 0 }) ∧
      (Runs (.semsig g a k imm) s fun t => QFlows s t ∧
        SetsSem s t k.toNat { m with count := BitVec.ofNat 16 (m.count.toNat + v.toNat) }) ∧
      Gives (.semrd g d k) s d (BitVec.ofNat 64 (m.cause.toNat * 2 ^ 24 + m.poison.toNat * 2 ^ 16 + m.count.toNat)) ∧
      (m.poison = true → Handled s →
        Traps (.semwait g a k imm) s 0x09 (BitVec.ofNat 64 (m.cause.toNat * 2 ^ 8 + k.toNat)) ∧
        Traps (.semtry g d a k imm) s 0x09 (BitVec.ofNat 64 (m.cause.toNat * 2 ^ 8 + k.toNat))) ∧
      (m.poison = false → pass →
        Flows (.semwait g a k imm) s ∧
        (Runs (.semtry g d a k imm) s fun t => QSets s.spinAll t d 1 ∧ (t.ctx s.cx).pen = 0 ∧ t.sl.spincnt = 0 ∧ t.sl.spinFrac = 0 ∧
          ∀ c j, t.sem c j = s.sem c j)) ∧
      (m.poison = false → ¬pass →
        (s.q.wait = none → Runs (.semwait g a k imm) s fun t => Outside s t ∧ Others s t ∧
          t.q = { s.q with wait := some { ins := .semwait g a k imm, since := s.now } }) ∧
        (Runs (.semtry g d a k imm) s fun t => QSets s t d 0 ∧ ∀ c j, t.sem c j = s.sem c j))) ∧
    -- a blocked SEMWAIT
    (∀ w : Wait, s.q.wait = some w → w.ins = .semwait g a k imm → m.poison = false → Calm s →
      (pass → Flows (.semwaitPass s.cur) s) ∧ (¬pass → Runs (.semwaitPass s.cur) s fun t => t = s))

/-- The entries of an architectural queue, as scalars: aq2 holds single bits (R221). -/
def Sys2Proof.Claim.entries (t : Slot) (n : Nat) : List Word :=
  if n = 0 then t.aq0 else if n = 1 then t.aq1 else if n = 2 then t.aq2.map (fun b => if b then 1 else 0) else t.aq3
/-- Queue `n` of the slot comes to hold `l`; the other queues and everything else outside the sequencers stay. -/
def Sys2Proof.Claim.SetsQueue (s t : State) (n : Nat) (l : List Word) : Prop :=
  entries t.sl n = l ∧ (∀ m, m < 4 → m ≠ n → entries t.sl m = entries s.sl m) ∧
  t.sl = { s.sl with aq0 := t.sl.aq0, aq1 := t.sl.aq1, aq2 := t.sl.aq2, aq3 := t.sl.aq3 } ∧
  (∀ k, k ≠ s.cur.slot → t.slot k = s.slot k) ∧ t = { s with seqs := t.seqs, slots := t.slots }
/-- R221 to R223: each queue is a FIFO of 32 entries. A push appends at the tail, or blocks while the queue is full, or is
discarded once the consumer has ended; a pop removes the head, or blocks while the queue is empty, or gives 0 once the
producer has ended; AQBR pops aq2 and branches on the bit. -/
def Sys2Proof.Claim.ArchitecturalQueues : Prop :=
  ∀ (s : State) (g : Guard) (n : BitVec 2) (a d : SReg) (off : BitVec 32), s.q.guard g = true → s.q.wait = none →
    let l := entries s.sl n.toNat
    let x := if n = 2 then (if s.q.p (BitVec.ofNat 3 a.toNat) then 1 else 0) else s.q.s a
    (s.cur.x = (n == 3) →
      (s.other.stopped = true → Flows (.aqpush g n a) s) ∧
      (s.other.stopped = false → l.length < 32 → Runs (.aqpush g n a) s fun t => QFlows s t ∧ SetsQueue s t n.toNat (l ++ [x])) ∧
      (s.other.stopped = false → 32 ≤ l.length → Blocks (.aqpush g n a) s)) ∧
    (s.cur.x = (n != 3) →
      (∀ h r, l = h :: r →
        (n ≠ 2 → Runs (.aqpop g n d) s fun t => QSets s t d h ∧ SetsQueue s t n.toNat r) ∧
        (n = 2 → Runs (.aqpop g n d) s fun t => QSetsP s t (BitVec.ofNat 3 d.toNat) (h == 1) ∧ SetsQueue s t 2 r)) ∧
      (l = [] → s.other.stopped = false → Blocks (.aqpop g n d) s) ∧
      (l = [] → s.other.stopped = true → (n ≠ 2 → Gives (.aqpop g n d) s d 0) ∧
        (n = 2 → GivesP (.aqpop g n d) s (BitVec.ofNat 3 d.toNat) false))) ∧
    (s.cur.x = true →
      (∀ r, entries s.sl 2 = 1 :: r → Runs (.aqbr g off) s fun t => Jumps s t (s.q.pc + 8 * off.signExtend 64) ∧ SetsQueue s t 2 r) ∧
      (∀ r, entries s.sl 2 = 0 :: r → Runs (.aqbr g off) s fun t => QFlows s t ∧ SetsQueue s t 2 r) ∧
      (entries s.sl 2 = [] → s.other.stopped = false → Blocks (.aqbr g off) s) ∧
      (entries s.sl 2 = [] → s.other.stopped = true → Flows (.aqbr g off) s))

/-- A push or pop that blocks is answered by the steps that complete it, at the sequencer `q` that waits, as the instruction
itself would be (R222), where no asynchronous cause is due (R305). -/
def Sys2Proof.Claim.QueueWaitsComplete : Prop :=
  ∀ (s : State) (g : Guard) (n : BitVec 2) (a d : SReg) (w : Wait), s.q.wait = some w → Calm s →
    (w.ins = .aqpush g n a → (entries s.sl n.toNat).length < 32 → s.other.stopped = false →
      Runs (.aqpushRoom s.cur) s fun t => QFlows s t ∧ SetsQueue s t n.toNat (entries s.sl n.toNat ++
        [if n = 2 then (if s.q.p (BitVec.ofNat 3 a.toNat) then 1 else 0) else s.q.s a])) ∧
    (∀ h r, w.ins = .aqpop g n d → n ≠ 2 → entries s.sl n.toNat = h :: r →
      Runs (.aqpopData s.cur) s fun t => QSets s t d h ∧ SetsQueue s t n.toNat r) ∧
    (∀ h r, w.ins = .aqpop g n d → n = 2 → entries s.sl 2 = h :: r →
      Runs (.aqpopData s.cur) s fun t => QSetsP s t (BitVec.ofNat 3 d.toNat) (h == 1) ∧ SetsQueue s t 2 r) ∧
    (w.ins = .aqpop g n d → n ≠ 2 → entries s.sl n.toNat = [] → s.other.stopped = true →
      Runs (.aqpopData s.cur) s fun t => Outside s t ∧ QSets s t d 0) ∧
    (∀ i, i = .aqpop g n d ∨ i = .aqpush g n a → w.ins = i → s.other.stopped = false →
      (i = .aqpop g n d → entries s.sl n.toNat = []) → (i = .aqpush g n a → 32 ≤ (entries s.sl n.toNat).length) →
      (i = .aqpop g n d → Runs (.aqpopData s.cur) s fun t => t = s) ∧
      (i = .aqpush g n a → Runs (.aqpushRoom s.cur) s fun t => t = s))

/-- A sequencer that waits for a time: TIMECMP holds it, the instruction stands as its wait (R94). -/
def Sys2Proof.Claim.WaitsFor (i : Instr) (s : State) (t : Word) : Prop :=
  Runs i s fun u => Outside s u ∧ Others s u ∧ u.q = { s.q with timecmp := t, wait := some { ins := i, since := s.now } }

/-- R93 to R96: TIME reads the counter; WAITT ends once the counter has reached its operand, and holds the operand in TIMECMP
until then; WAITT.LOCK traps LOCKLONG for a window longer than LOCKMAX, and otherwise opens a window from the end of the wait
and charges MX and VX of its core with 2.5 cycles per ns, rounded up; the window closes at LOCKEND. -/
def Sys2Proof.Claim.TimeAndLockedWindows : Prop :=
  ∀ (s : State) (g : Guard) (d a : SReg) (len : BitVec 32),
    let x := s.q.s a
    let now := s.clk.time
    let core := s.cur.slot / 4
    let due : State → Prop := fun t =>
      QFlows (s.setQ { s.q with timecmp := 0 }) t ∧ Outside s t
    let opened : State → Prop := fun t =>
      QFlows (s.setQ { s.q with timecmp := 0 }) t ∧ t.sl = { s.sl with lockend := now + len.zeroExtend 64 } ∧
      (∀ k, k ≠ s.cur.slot → t.slot k = s.slot k) ∧ t = { s with seqs := t.seqs, slots := t.slots, ctxs := t.ctxs } ∧
      OnlyAccounts s t
    (s.q.guard g = true → s.q.wait = none →
      Gives (.time g d) s d now ∧
      (x.toNat ≤ now.toNat → Runs (.waitt g a) s due) ∧ (now.toNat < x.toNat → WaitsFor (.waitt g a) s x) ∧
      (s.cxv.lockmax.toNat < len.toNat → Handled s → Traps (.waittLock g a len) s 0x0C (len.zeroExtend 64)) ∧
      (len.toNat ≤ s.cxv.lockmax.toNat → now.toNat < x.toNat → WaitsFor (.waittLock g a len) s x) ∧
      (len.toNat ≤ s.cxv.lockmax.toNat → x.toNat ≤ now.toNat → Runs (.waittLock g a len) s opened ∧
        ((∀ tk, s.sl.task = some tk → tk.stage = none) → ∀ res, res < 2 → (s.cxv.gauge.lo = false ∨ 0 < (s.cxv.acct res core).avail) →
          len ≠ 0 → Runs (.waittLock g a len) s fun t =>
            ((t.ctx s.cx).acct res core).avail = (s.cxv.acct res core).avail - ((5 * len.toNat + 1) / 2 : Nat)))) ∧
    (∀ w : Wait, s.q.wait = some w → w.ins = .waitt g a → Calm s →
      (x.toNat ≤ now.toNat → Runs (.waittComplete s.cur) s due) ∧
      (now.toNat < x.toNat → Runs (.waittComplete s.cur) s fun t => t.q = { s.q with timecmp := x } ∧ Outside s t)) ∧
    (∀ w : Wait, s.q.wait = some w → w.ins = .waittLock g a len → Calm s → x.toNat ≤ now.toNat →
      Runs (.waittLockComplete s.cur) s opened) ∧
    (∀ k, (s.slot k).lockend.toNat ≤ now.toNat → Runs (.lockWindowClose k) s fun t =>
      t.slot k = { s.slot k with lockend := 0 } ∧ (∀ j, j ≠ k → t.slot j = s.slot j) ∧ t = { s with slots := t.slots }) ∧
    (∀ k, now.toNat < (s.slot k).lockend.toNat → Runs (.lockWindowClose k) s fun t => t = s)

/-- R46, R167: where each selector's field lies in a handle: its lowest bit and its width. -/
def Sys2Proof.Claim.fieldOf : Nat → Nat × Nat
  | 0 => (0, 64) | 1 => (64, 4) | 2 => (68, 4) | 3 => (72, 4) | 4 => (76, 4) | 5 => (96, 16) | 6 => (112, 16) | 7 => (128, 16)
  | 8 => (144, 16) | 9 => (160, 32) | 10 => (192, 32) | _ => (224, 32)

/-- R166 to R169: HLD and HST move 32 bytes of G, SP or DS, one access with the checks of those spaces; HSET and HGET one field; HOFF moves the base by elements, by blocks for LOG6; HXL
gives an element's byte address. -/
def Sys2Proof.Claim.HandleInstructions : Prop :=
  ∀ (s : State) (g : Guard) (hd : HReg) (d a : SReg) (fld : BitVec 6), s.q.guard g = true →
    let h := s.q.h hd
    let x := s.q.s a
    let lo := (fieldOf fld.toNat).1
    let n := (fieldOf fld.toNat).2
    let k := x.toInt
    -- HGET and HSET of each of the twelve fields; a selector above 11 is no instruction (R37)
    (fld.toNat < 12 → Gives (.hget g d hd fld) s d (BitVec.ofNat 64 (h.toNat / 2 ^ lo % 2 ^ n))) ∧
    (fld.toNat < 12 → ∃ v : BitVec 256, GivesH (.hset g hd a fld) s hd v ∧ v.toNat / 2 ^ lo % 2 ^ n = x.toNat % 2 ^ n ∧
      v.toNat % 2 ^ lo = h.toNat % 2 ^ lo ∧ v.toNat / 2 ^ (lo + n) = h.toNat / 2 ^ (lo + n)) ∧
    -- HOFF
    (10 < hFmt h → Handled s → Traps (.hoff g hd a) s 0x01 0xFF04) ∧
    (hFmt h = 7 → k % 32 ≠ 0 → Handled s → Traps (.hoff g hd a) s 0x03 (hBase h)) ∧
    (hFmt h = 7 → k % 32 = 0 → ∃ v : BitVec 256, GivesH (.hoff g hd a) s hd v ∧
      hBase v = hBase h + BitVec.ofInt 64 (24 * (k / 32)) ∧ v.toNat / 2 ^ 64 = h.toNat / 2 ^ 64) ∧
    (hFmt h ≤ 10 → hFmt h ≠ 7 → ∃ v : BitVec 256, GivesH (.hoff g hd a) s hd v ∧
      hBase v = hBase h + BitVec.ofInt 64 (fmtSize (hFmt h) * k) ∧ v.toNat / 2 ^ 64 = h.toNat / 2 ^ 64) ∧
    -- HXL
    (handleOk h = false → Handled s → Traps (.hxl g d hd a) s 0x01 0xFF04) ∧
    (handleOk h = true → hExt h 0 * hExt h 1 * hExt h 2 * hExt h 3 ≤ x.toNat → Handled s → Traps (.hxl g d hd a) s 0x05 x) ∧
    (handleOk h = true → x.toNat < hExt h 0 * hExt h 1 * hExt h 2 * hExt h 3 →
      let j := x.toNat
      let e0 := hExt h 0; let e1 := hExt h 1; let e2 := hExt h 2
      let p := j % e0 + j / e0 % e1 * hStr h 1 + j / (e0 * e1) % e2 * hStr h 2 + j / (e0 * e1 * e2) * hStr h 3
      Gives (.hxl g d hd a) s d (BitVec.ofNat 64 ((hBase h).toNat + if hFmt h = 7 then 24 * (p / 32) else fmtSize (hFmt h) * p))) ∧
    -- HLD and HST
    (∀ sp, x.toNat % 32 ≠ 0 → Handled s → Traps (.hld g hd a sp) s 0x03 x ∧ Traps (.hst g hd a sp) s 0x03 x) ∧
    (∀ l, x.toNat % 32 = 0 → Reachable s x .read 32 l → Runs (.hld g hd a .g) s fun t =>
      QSetsH s t hd (BitVec.ofNat 256 (s.mem.hbm.readLE l.pa 32)) ∧ OnlyAccounts s t ∧ t = { s with seqs := t.seqs, ctxs := t.ctxs }) ∧
    (∀ l, x.toNat % 32 = 0 → Reachable s x .write 32 l → Runs (.hst g hd a .g) s fun t => QFlows s t ∧ OnlyAccounts s t ∧
      t = { s with seqs := t.seqs, ctxs := t.ctxs, mem := { s.mem with hbm := t.mem.hbm, lineKey := t.mem.lineKey } } ∧
      t.mem.hbm.readLE l.pa 32 = h.toNat ∧ ∀ y, ¬(l.pa ≤ y ∧ y < l.pa + 32) → t.mem.hbm.read y = s.mem.hbm.read y) ∧
    (x.toNat % 32 = 0 → x.toNat < 12 * 2 ^ 18 → s.hasBank s.cur.slot (x.toNat / 2 ^ 18) = true → s.mem.ue = [] →
      let gid := s.sl.grpOf; let b := x.toNat / 2 ^ 18; let o := x.toNat % 2 ^ 18
      GivesH (.hld g hd a .sp) s hd (BitVec.ofNat 256 ((s.bankMem gid b).readLE o 32)) ∧
      (Runs (.hst g hd a .sp) s fun t => QFlows s t ∧ t = { s with seqs := t.seqs, grps := t.grps } ∧
        (t.bankMem gid b).readLE o 32 = h.toNat ∧
        ∀ gid' b' y, ¬(gid' = gid ∧ b' = b ∧ o ≤ y ∧ y < o + 32) → bankByte t gid' b' y = bankByte s gid' b' y)) ∧
    (x.toNat % 32 = 0 → ¬(x.toNat < 12 * 2 ^ 18 ∧ s.hasBank s.cur.slot (x.toNat / 2 ^ 18) = true) → Handled s →
      Traps (.hld g hd a .sp) s 0x05 x ∧ Traps (.hst g hd a .sp) s 0x05 x) ∧
    (∀ gr l, x.toNat % 32 = 0 → s.grp s.sl.grpOf = some gr → s.launchOf s.cx = some l →
      let o := x.toNat
      (¬(o < 2 ^ 26 ∧ o < hdrN l.hdr 4 4 * 65536) → Handled s → Traps (.hld g hd a .ds) s 0x05 x ∧ Traps (.hst g hd a .ds) s 0x05 x) ∧
      (o < 2 ^ 26 → o < hdrN l.hdr 4 4 * 65536 → s.mem.ue = [] →
        GivesH (.hld g hd a .ds) s hd (BitVec.ofNat 256 ((s.dsMem s.cx gr.vdie).readLE o 32)) ∧
        (Runs (.hst g hd a .ds) s fun t => QFlows s t ∧ t = { s with seqs := t.seqs, ctxs := t.ctxs } ∧
          (t.dsMem s.cx gr.vdie).readLE o 32 = h.toNat ∧
          (∀ c v y, ¬(c = s.cx ∧ v = gr.vdie ∧ o ≤ y ∧ y < o + 32) → (t.dsMem c v).read y = (s.dsMem c v).read y) ∧
          (∀ c, c ≠ s.cx → t.ctx c = s.ctx c) ∧ t.ctx s.cx = { s.ctx s.cx with launch := (t.ctx s.cx).launch }))) ∧
    (∀ t, x.toNat % 32 = 0 → s.translate s.cx x .read = .trap t → t.code ≠ 0x20 → Handled s → Traps (.hld g hd a .g) s t.code t.eval) ∧
    (∀ t, x.toNat % 32 = 0 → s.translate s.cx x .write = .trap t → t.code ≠ 0x20 → Handled s → Traps (.hst g hd a .g) s t.code t.eval)

/-- The handle and flags that WINREG accepts (R180). -/
abbrev Sys2Proof.Claim.WindowOk (h : BitVec 256) (f : Word) : Prop :=
  handleOk h = true ∧ hSpace h = 0 ∧ hDense h = true ∧ f.toNat < 16 ∧ 4 ≤ f.toNat ∧ hSpan h ≤ 2 ^ 44

/-- The window that WINREG registers. -/
def Sys2Proof.Claim.newWindow (h : BitVec 256) (f : Word) (ps : List Nat) : Win where
  base := hBase h
  span := hSpan h
  rd := f.getLsbD 0
  wr := f.getLsbD 1
  fab := f.getLsbD 2
  net := f.getLsbD 3
  pins := ps

/-- R180, R181: WINREG pins the pages of a dense handle in G and takes the lowest free window id; it answers all ones where no
id is free, traps ILL, OPERAND or PROT on a handle or flags that it does not accept, and waits while the pin table lacks room;
WINREV answers 1 for no window, and otherwise marks the window revoking and frees it, its pins released, once nothing accepted
through it is outstanding. -/
def Sys2Proof.Claim.WindowInstructions : Prop :=
  ∀ (s : State) (g : Guard) (d a b : SReg) (hr : HReg), s.q.guard g = true →
    let h := s.q.h hr
    let f := s.q.s b
    let k := (s.q.s a).toNat
    let c := s.cxv
    -- the pages of the span, each translated for what the flags allow
    let pages := s.spanPages (spanFuel (hSpan h)) s.cx
      (if f.getLsbD 0 then (if f.getLsbD 1 then .rw else .read) else if f.getLsbD 1 then .write else .any) (hBase h) (hSpan h)
    (¬(handleOk h = true ∧ hSpace h = 0 ∧ hDense h = true ∧ f.toNat < 16 ∧ 4 ≤ f.toNat) → Handled s →
      Traps (.winreg g d hr b) s 0x01 0xFF04) ∧
    (handleOk h = true → hSpace h = 0 → hDense h = true → f.toNat < 16 → 4 ≤ f.toNat → (f.getLsbD 1 = true → hRo h = false) →
      2 ^ 44 < hSpan h → Handled s → Traps (.winreg g d hr b) s 0x01 0xFF04) ∧
    (WindowOk h f → f.getLsbD 1 = true → hRo h = true → Handled s → Traps (.winreg g d hr b) s 0x05 (hBase h)) ∧
    (WindowOk h f → (f.getLsbD 1 = true → hRo h = false) → tblFree c.windows 256 = none →
      Gives (.winreg g d hr b) s d 0xFFFFFFFFFFFFFFFF) ∧
    (∀ n t, WindowOk h f → (f.getLsbD 1 = true → hRo h = false) → tblFree c.windows 256 = some n → pages = .trap t → t.code ≠ 0x20 →
      Handled s → Traps (.winreg g d hr b) s t.code t.eval) ∧
    -- a stack that the translation reaches is not ready (R396)
    (∀ n, WindowOk h f → (f.getLsbD 1 = true → hRo h = false) → tblFree c.windows 256 = some n → pages = .stall → s.q.wait = none →
      Blocks (.winreg g d hr b) s) ∧
    (∀ n ps, WindowOk h f → (f.getLsbD 1 = true → hRo h = false) → tblFree c.windows 256 = some n → pages = .ok ps →
      -- at once, or once the pin table has room, where no asynchronous cause is due
      (∀ i, i = .winreg g d hr b ∨ (i = .enqPinRoom s.cur ∧ Calm s ∧ ∃ v : Wait, s.q.wait = some v ∧ v.ins = .winreg g d hr b) →
        s.pinRoom (dedup ps) = true → Runs i s fun t => QSets s t d (BitVec.ofNat 64 n) ∧
        tblGet (t.ctx s.cx).windows n = some (newWindow h f (dedup ps)) ∧
        (∀ m, m ≠ n → tblGet (t.ctx s.cx).windows m = tblGet c.windows m) ∧
        (∀ p, tblGetD t.mem.pins p 0 = tblGetD s.mem.pins p 0 + (dedup ps).count p) ∧
        t.mem.hbm = s.mem.hbm ∧ t.grps = s.grps) ∧
      (s.pinRoom (dedup ps) = false → s.q.wait = none → Blocks (.winreg g d hr b) s) ∧
      (∀ v : Wait, s.pinRoom (dedup ps) = false → s.q.wait = some v → v.ins = .winreg g d hr b → Runs (.enqPinRoom s.cur) s fun t => t = s)) ∧
    -- WINREV
    (tblGet c.windows k = none → Gives (.winrev g d a) s d 1) ∧
    (∀ w, tblGet c.windows k = some w →
      (s.windowBusy s.cx k = false → Runs (.winrev g d a) s fun t => QSets s t d 0 ∧ tblGet (t.ctx s.cx).windows k = none ∧
        (∀ m, m ≠ k → tblGet (t.ctx s.cx).windows m = tblGet c.windows m) ∧ t.mem.hbm = s.mem.hbm ∧ t.grps = s.grps) ∧
      (s.windowBusy s.cx k = true → s.q.wait = none → Runs (.winrev g d a) s fun t => Others s t ∧
        t.q = { s.q with wait := some { ins := .winrev g d a, since := s.now } } ∧
        tblGet (t.ctx s.cx).windows k = some { w with revoking := true } ∧ t = { s with seqs := t.seqs, ctxs := t.ctxs }) ∧
      -- a WINREV that waits
      (∀ v : Wait, s.q.wait = some v → v.ins = .winrev g d a → w.revoking = true → s.windowBusy s.cx k = false →
        Runs (.winrevDrain s.cur) s fun t => QSets s t d 0 ∧ tblGet (t.ctx s.cx).windows k = none ∧ t.mem.hbm = s.mem.hbm) ∧
      (∀ v : Wait, s.q.wait = some v → v.ins = .winrev g d a →
        (w.revoking = true → s.windowBusy s.cx k = true → Runs (.winrevDrain s.cur) s fun t => t = s) ∧
        -- its id was freed by another WINREV, and registered anew
        (w.revoking = false → Gives (.winrevDrain s.cur) s d 0))) ∧
    (∀ v : Wait, s.q.wait = some v → v.ins = .winrev g d a → tblGet c.windows k = none → Gives (.winrevDrain s.cur) s d 0)

/-- The code of an engine (R38). -/
def Sys2Proof.Claim.codeOf : Eng → Nat
  | .mx => 0 | .vx => 1 | .cx => 2 | .ae => 3
/-- R42, R48, R49, R52, R104, R125, R127: what a record that is enqueued must be, and what is captured of it. An op that no table
assigns traps ILL, ENGINEOP, and one of another engine ILL, RECORD; a record that is accepted writes no handle that is
read-only, and takes with it its task, the handles that it names, the formats of its banks, VSHAPE for VX and the parameters of
the auction for AE. -/
def Sys2Proof.Claim.RecordCapture : Prop :=
  ∀ (s : State) (eng : Eng) (r : BitVec 512),
    (opAssigned r = false → s.checkRecord eng r = .error { code := 1, eval := 7 }) ∧
    (opAssigned r = true → rEng r ≠ codeOf eng → s.checkRecord eng r = .error { code := 1, eval := 8 }) ∧
    ∀ q, s.checkRecord eng r = .ok q →
      opAssigned r = true ∧ rEng r = codeOf eng ∧ q.who = s.cur ∧ q.ctx = s.cx ∧ q.grp = s.sl.grpOf ∧ q.pins = [] ∧
      (∀ p ∈ [(descD r, q.hD), (descA r, q.hA), (descB r, q.hB), (descC r, q.hC)], dSpace p.1 = 0xD → p.2 = s.q.h (dHandle p.1)) ∧
      (∀ i h o, i < 4 → q.writesTo i = true → q.opd i = .hnd h o → hRo h = false) ∧
      (∀ g b, s.grp s.sl.grpOf = some g → b ∈ (descs r).map dSpace → tblGetD q.bfmt b 0 = tblGetD g.bfmt b 0) ∧
      q.vshape = (if eng = .vx then s.sl.vshape else 0) ∧ q.aeeps = (if eng = .ae then s.sl.aeeps else 0) ∧
      q.aemax = (if eng = .ae then s.sl.aemax else 0) ∧ q.aeres = (if eng = .ae then s.sl.aeres else 0)

/-- R44, R45, R52, R173, R179: an accepted record goes to the tail of its engine's queue, holding one pin on each page of its
handles; it waits for a place while the queue holds 16, and for pins, holding none, while the pin table lacks room; a record
that fails a check traps, and nothing is queued. The record is that of the literal words, of eight scalars, or of 64 aligned
bytes of a bank of the group, and traps ALIGN or PROT elsewhere. -/
def Sys2Proof.Claim.EnqueueInstructions : Prop :=
  ∀ (s : State) (g : Guard) (eng : Eng) (lits : BitVec 512) (k : BitVec 6) (a : SReg), s.q.guard g = true →
    s.cur.x = (eng != .cx) →
    let spA := s.q.s a
    let inBank := spA.toNat < 12 * 2 ^ 18 ∧ s.hasBank s.cur.slot (spA.toNat / 2 ^ 18) = true ∧ s.mem.ue = []
    (spA.toNat % 64 ≠ 0 → Handled s → Traps (.enqm g eng a) s 0x03 spA) ∧
    (spA.toNat % 64 = 0 → ¬(spA.toNat < 12 * 2 ^ 18 ∧ s.hasBank s.cur.slot (spA.toNat / 2 ^ 18) = true) → Handled s →
      Traps (.enqm g eng a) s 0x05 spA) ∧
    ∀ i r, (i = .enq g eng lits ∧ r = lits) ∨
        (i = .enqr g eng k ∧ ∀ n, n < 8 → r.extractLsb' (64 * n) 64 = s.q.s (k + BitVec.ofNat 6 n)) ∨
        (i = .enqm g eng a ∧ spA.toNat % 64 = 0 ∧ inBank ∧
          r.toNat = (s.bankMem s.sl.grpOf (spA.toNat / 2 ^ 18)).readLE (spA.toNat % 2 ^ 18) 64) →
      let i72 := match i with | .enq .. => 72 | _ => 8
      (∀ t, s.checkRecord eng r = .error t → t.code ≠ 0x20 → Handled s → Traps i s t.code t.eval) ∧
      (∀ q, s.checkRecord eng r = .ok q →
        (∀ t, s.recordPages q = .trap t → t.code ≠ 0x20 → Handled s → Traps i s t.code t.eval) ∧
        -- a stack that the check reaches is not ready (R396)
        (s.recordPages q = .stall → s.q.wait = none → Runs i s fun t => Outside s t ∧ Others s t ∧
          t.q = { s.q with wait := some { ins := i, tok := 1, since := s.now, held := some q } }) ∧
        (∀ ps, s.recordPages q = .ok ps →
          (s.pinRoom ps = false → s.q.wait = none → Runs i s fun t => Outside s t ∧ Others s t ∧
            t.q = { s.q with wait := some { ins := i, tok := 1, since := s.now, held := some q } }) ∧
          (s.pinRoom ps = true → (s.sl.queue (engOf (rEng q.r))).length < 16 → Runs i s fun t =>
            QFlows s t i72 ∧ (∀ k, k ≠ s.cur.slot → t.slot k = s.slot k) ∧
            t.sl = s.sl.setQueue (engOf (rEng q.r)) (s.sl.queue (engOf (rEng q.r)) ++ [{ q with pins := ps, serial := s.serial }]) ∧
            (∀ p, tblGetD t.mem.pins p 0 = tblGetD s.mem.pins p 0 + ps.count p) ∧
            t = { s with seqs := t.seqs, slots := t.slots, serial := s.serial + 1, mem := { s.mem with pins := t.mem.pins } }) ∧
          (s.pinRoom ps = true → s.q.wait = none → 16 ≤ (s.sl.queue (engOf (rEng q.r))).length → Runs i s fun t => Others s t ∧
            t.q = { s.q with wait := some { ins := i, tok := 2, since := s.now, held := some { q with pins := ps } } } ∧
            (∀ p, tblGetD t.mem.pins p 0 = tblGetD s.mem.pins p 0 + ps.count p) ∧ t.slots = s.slots)))

/-- R45, R173, R179: an ENQ that waits for a place is queued by ENQ_QUEUE_PLACE once the queue has room; one that waits for pins
is translated and pinned by ENQ_PIN_ROOM once the pin table has room, or traps. -/
def Sys2Proof.Claim.EnqueueWaitsComplete : Prop :=
  ∀ (s : State) (i : Instr) (q : QRec) (u : Word),
    let e := engOf (rEng q.r)
    let n := match i with | .enq .. => 72 | _ => 8
    (s.q.wait = some { ins := i, tok := 2, since := u, held := some q } → Calm s →
      ((s.sl.queue e).length < 16 → Runs (.enqQueuePlace s.cur) s fun t => QFlows s t n ∧
        t.sl = s.sl.setQueue e (s.sl.queue e ++ [{ q with serial := s.serial }]) ∧
        (∀ k, k ≠ s.cur.slot → t.slot k = s.slot k) ∧ t = { s with seqs := t.seqs, slots := t.slots, serial := s.serial + 1 }) ∧
      (16 ≤ (s.sl.queue e).length → Runs (.enqQueuePlace s.cur) s fun t => t.slots = s.slots ∧ t.q.pc = s.q.pc)) ∧
    -- (a WINREG that waits for pins: WindowInstructions)
    (s.q.wait = some { ins := i, tok := 1, since := u, held := some q } → Calm s → (∀ g d a b, i ≠ .winreg g d a b) →
      (∀ t, s.recordPages q = .trap t → t.code ≠ 0x20 → Handled s → Traps (.enqPinRoom s.cur) s t.code t.eval) ∧
      ∀ ps, s.recordPages q = .ok ps →
        (s.pinRoom ps = false → Runs (.enqPinRoom s.cur) s fun t => Outside s t ∧ ∀ r, t.seq r = s.seq r) ∧
        (s.pinRoom ps = true → (s.sl.queue e).length < 16 → Runs (.enqPinRoom s.cur) s fun t => QFlows s t n ∧
          t.sl = s.sl.setQueue e (s.sl.queue e ++ [{ q with pins := ps, serial := s.serial }]) ∧
          ∀ p, tblGetD t.mem.pins p 0 = tblGetD s.mem.pins p 0 + ps.count p) ∧
        (s.pinRoom ps = true → 16 ≤ (s.sl.queue e).length → Runs (.enqPinRoom s.cur) s fun t =>
          t.q = { s.q with wait := some { ins := i, tok := 2, since := u, held := some { q with pins := ps } } } ∧
          (∀ p, tblGetD t.mem.pins p 0 = tblGetD s.mem.pins p 0 + ps.count p) ∧ t.slots = s.slots))

/-- The condition of a POLL on values of `n` bytes, unsigned (R238). -/
abbrev Sys2Proof.Claim.pollTrue (cc : PCond) (n v : Nat) (y : Word) : Prop :=
  let y' := y.toNat % 2 ^ (8 * n)
  match cc with | .eq => v = y' | .ne => v ≠ y' | .geu => y' ≤ v | .ltu => v < y'

/-- R238, R239, R294: a POLL of DS or G gives the value once the condition holds, and then clears the spin penalty; otherwise it
stands as a wait, which POLL_PASS completes when the value passes; a misaligned address traps ALIGN. PAUSE waits for at most
1,048,576 cycles of 0.4 ns, or of 0.8 ns while the die is in THROTTLE (R400), of which `seen` quarters are counted already. The cycles waited so far are counted first: by `spinAccrue`, and for a
POLL that passes, by `spinAll`, for every slot whose cycles may raise the penalty that it clears. -/
def Sys2Proof.Claim.PollAndPause : Prop :=
  ∀ (s : State) (g : Guard) (cc : PCond) (wide : Bool) (d a b : SReg),
    let x := s.q.s a
    let y := s.q.s b
    let n := if wide then 8 else 4
    let u := s.spinAccrue s.cur.slot
    let passed (t : State) (v : Nat) : Prop :=
      QSets u.spinAll t d (BitVec.ofNat 64 v) ∧ (t.ctx s.cx).pen = 0 ∧ t.sl = { s.sl with spincnt := 0, spinFrac := 0 } ∧
      t.mem = s.mem ∧ t.grps = s.grps
    let cycles := min x.toNat 1048576
    (s.q.guard g = true → s.q.wait = none →
      (∀ sp, x.toNat % n ≠ 0 → Handled s → Traps (.poll g cc sp wide d a b) s 0x03 x) ∧
      (∀ gr l, x.toNat % n = 0 → s.grp s.sl.grpOf = some gr → s.launchOf s.cx = some l → s.mem.ue = [] →
        x.toNat < 2 ^ 26 → x.toNat < hdrN l.hdr 4 4 * 65536 →
        let v := (s.dsMem s.cx gr.vdie).readLE x.toNat n
        (pollTrue cc n v y → Runs (.poll g cc .ds wide d a b) s fun t => passed t v) ∧
        (¬pollTrue cc n v y → Runs (.poll g cc .ds wide d a b) s fun t => Outside u t ∧ Others u t ∧
          t.q = { s.q with wait := some { ins := .poll g cc .ds wide d a b, since := s.now } })) ∧
      (∀ l, x.toNat % n = 0 → Reachable s x .read n l →
        let v := s.mem.hbm.readLE l.pa n
        (pollTrue cc n v y → Runs (.poll g cc .g wide d a b) s fun t => passed t v) ∧
        (¬pollTrue cc n v y → Runs (.poll g cc .g wide d a b) s fun t => Others u t ∧ OnlyAccounts u t ∧
          t.q = { s.q with wait := some { ins := .poll g cc .g wide d a b, since := s.now } } ∧
          t = { u with seqs := t.seqs, ctxs := t.ctxs })) ∧
      (cycles = 0 → Flows (.pause g a) s) ∧
      (cycles ≠ 0 → Runs (.pause g a) s fun t => Outside u t ∧ Others u t ∧
        t.q = { s.q with wait := some { ins := .pause g a, since := s.now } })) ∧
    (∀ w : Wait, s.q.wait = some w → w.tok = 0 → w.ins = .poll g cc .g wide d a b → Calm s → ∀ l, x.toNat % n = 0 →
      Reachable s x .read n l → pollTrue cc n (s.mem.hbm.readLE l.pa n) y →
      Runs (.pollPass s.cur) s fun t => passed t (s.mem.hbm.readLE l.pa n)) ∧
    (∀ w : Wait, s.q.wait = some w → w.ins = .pause g a → Calm s →
      let gone := w.seen + (if (s.die (s.cur.slot / 128)).therm = .throttle then 5 else 10) * (s.now - w.upto.getD w.since).toNat
      (4 * cycles ≤ gone → Runs (.pauseExpiry s.cur) s fun t => QFlows u t ∧ t.mem = s.mem ∧ t.grps = s.grps) ∧
      (gone < 4 * cycles → Runs (.pauseExpiry s.cur) s fun t => t = s))

/-- The shared stage node whose owners pay for a store: that of the task that runs (R358). -/
def Sys2Proof.Claim.nodeOf (s : State) (own : Owner) : Option Nat :=
  match own with | .store .. => (s.sl.task.bind (·.stage)).map (·.1) | _ => none
/-- A message at the tail of its destination's queue of port `p` (R271): its bytes, its owner, its charge of 64 bytes (R272).
Nothing else outside the sequencers changes but that the connection may note when it is to be declared down. -/
def Sys2Proof.Claim.QueuesAt (s t : State) (p : Nat) (m : Msg) (own : Owner) : Prop :=
  (∃ o : OutMsg, o.m = m ∧ o.ctx = s.cx ∧ o.own = own ∧ o.node = nodeOf s own ∧ o.cost = 64 ∧ o.charged = false ∧ o.sent = false ∧
    tblGetD (t.port p).queues m.dst [] = tblGetD (s.port p).queues m.dst [] ++ [o]) ∧
  (∀ d, d ≠ m.dst → tblGetD (t.port p).queues d [] = tblGetD (s.port p).queues d []) ∧
  t.port p = { s.port p with queues := (t.port p).queues } ∧ (∀ r, r ≠ p → t.port r = s.port r) ∧
  (∀ d, t.conn d = { s.conn d with downAt := (t.conn d).downAt }) ∧
  t = { s with seqs := t.seqs, serial := t.serial, fab := { s.fab with ports := t.fab.ports, conns := t.fab.conns } }
/-- A message can be queued: the connection is up, its home port is `p`, and there is room (R260, R270, R271). -/
abbrev Sys2Proof.Claim.Sendable (s : State) (a : Word) (p : Nat) : Prop :=
  a.toNat / 2 ^ 52 ≠ s.pkgId ∧ (s.conn (a.toNat / 2 ^ 52)).down = false ∧ s.homePort (a.toNat / 2 ^ 52) = some p ∧
  0 < (s.port p).room (a.toNat / 2 ^ 52)
/-- The instruction stands and awaits the answer that carries the number `tok`; 0 for none, before its message is queued. -/
def Sys2Proof.Claim.Awaits (s t : State) (i : Instr) (tok : Nat) : Prop :=
  Others s t ∧ t.q = { s.q with wait := some { ins := i, tok := tok, since := s.now } }
/-- No room: the sequencer stalls, and QSTALL of the port rises by 1 up to its maximum (R271, R279). -/
def Sys2Proof.Claim.StallsFull (s t : State) (i : Instr) (p : Nat) : Prop :=
  Awaits s t i 0 ∧ (∀ r, r ≠ p → t.port r = s.port r) ∧
  ((s.port p).sloterr.toNat / 2 ^ 32 % 2 ^ 16 = 65535 → t.port p = s.port p) ∧
  ((s.port p).sloterr.toNat / 2 ^ 32 % 2 ^ 16 ≠ 65535 → t.port p = { s.port p with sloterr := (s.port p).sloterr + 2 ^ 32 }) ∧
  t = { s with seqs := t.seqs, fab := { s.fab with ports := t.fab.ports } }
/-- The message of a request to F (R255). -/
def Sys2Proof.Claim.message (s : State) (op : Nat) (a : Word) (n : Nat) (args data : List Byte) (flag : Option Word) : Msg where
  src := s.pkgId
  dst := a.toNat / 2 ^ 52
  msn := 0
  op := op
  flag := flag.isSome
  tctx := s.tctx s.cx (a.toNat / 2 ^ 52)
  gang := (s.ctx s.cx).gang.toNat
  addr := a
  flagAddr := flag.getD 0
  len := n
  args := args
  data := data
/-- An address of the package's own, in a window of a present context that allows the access (R180, R257, R259); `b` is the
virtual address it names. -/
def Sys2Proof.Claim.OwnWindow (s : State) (c : Nat) (net : Bool) (a : Word) (n : Nat) (wr : Bool) (b : Word) : Prop :=
  ∃ x w, tblGet s.ctxs c = some x ∧ x.resident = true ∧ x.saving = false ∧ tblGet x.windows (a.toNat / 2 ^ 44 % 256) = some w ∧
    w.revoking = false ∧ a.toNat % 2 ^ 44 + n ≤ w.span ∧ (if net then w.net else w.fab) = true ∧ (if wr then w.wr else w.rd) = true ∧
    b = w.base + BitVec.ofNat 64 (a.toNat % 2 ^ 44)

/-- A store has completed, and PROT with the address `a` is held for the next instruction boundary (R262, R305, R368). -/
def Sys2Proof.Claim.Refused (s t : State) (a : Word) : Prop :=
  ∃ u, QFlows s u ∧ Outside s u ∧ Outside u t ∧ Others u t ∧ t.q = { u.q with held := s.q.held ++ [{ code := 0x05, eval := a }] }

/-- R257, R262, R270 to R272: LDF, STF and the flag form. A misaligned address or flag traps ALIGN and a flag on another peer
PROT, and a connection that is down or has no home port traps PROT; a store completes once its message is queued, a load waits
for the data of its READ; a full queue stalls it; an address of the package's own is served at once; a load that its window refuses
traps PROT, a store does at the next boundary. -/
def Sys2Proof.Claim.FabricLoadsAndStores : Prop :=
  ∀ (s : State) (g : Guard) (m : MemOp), s.q.guard g = true → s.q.wait = none →
    let n := wBytes m.width
    let v := (s.q.s m.data).toNat % 2 ^ (8 * n)
    let a := effAddr s.q m
    let b := s.q.s m.base + m.disp.signExtend 64
    let fa := s.q.s m.index
    let peer := a.toNat / 2 ^ 52
    let own := s.pkgId
    (a.toNat % n ≠ 0 → Handled s → Traps (.ldf g m) s 0x03 a ∧ Traps (.stf g m) s 0x03 a) ∧
    (b.toNat % n ≠ 0 → Handled s → Traps (.stfFlag g m) s 0x03 b) ∧
    (b.toNat % n = 0 → fa.toNat % 8 ≠ 0 → Handled s → Traps (.stfFlag g m) s 0x03 fa) ∧
    (b.toNat % n = 0 → fa.toNat % 8 = 0 → fa.toNat / 2 ^ 52 ≠ b.toNat / 2 ^ 52 → Handled s → Traps (.stfFlag g m) s 0x05 fa) ∧
    (a.toNat % n = 0 → peer ≠ own → Handled s →
      ((s.conn peer).down = true → Traps (.ldf g m) s 0x05 a ∧ Traps (.stf g m) s 0x05 a) ∧
      -- a peer without a home port is unreachable: its connection is declared down (R270)
      ((s.conn peer).down = false → s.homePort peer = none → ((s.markDown peer).conn peer).down = true ∧
        ∀ i, i = .ldf g m ∨ i = .stf g m → Runs i s fun t => EntersTrap (s.markDown peer) t 0x05 false s.q.pc a)) ∧
    (∀ p, a.toNat % n = 0 → Sendable s a p →
      (Runs (.stf g m) s fun t => QFlows s t ∧
        QueuesAt s t p (message s 1 a n [] (bytesOfLE n v) none) (.store s.uid s.cur.x a)) ∧
      (Runs (.ldf g m) s fun t => Awaits s t (.ldf g m) s.serial ∧
        QueuesAt s t p (message s 2 a n (List.replicate 32 0) [] none) (.load s.cur s.serial))) ∧
    (∀ p, b.toNat % n = 0 → fa.toNat % 8 = 0 → fa.toNat / 2 ^ 52 = b.toNat / 2 ^ 52 → Sendable s b p →
      Runs (.stfFlag g m) s fun t => QFlows s t ∧
        QueuesAt s t p (message s 1 b n [] (bytesOfLE n v) (some fa)) (.store s.uid s.cur.x b)) ∧
    (∀ p, a.toNat % n = 0 → peer ≠ own → (s.conn peer).down = false → s.homePort peer = some p → (s.port p).room peer = 0 →
      (Runs (.ldf g m) s fun t => StallsFull s t (.ldf g m) p) ∧ (Runs (.stf g m) s fun t => StallsFull s t (.stf g m) p)) ∧
    (a.toNat % n = 0 → peer = own →
      (∀ va bs, OwnWindow s (s.tctx s.cx own) false a n false va → s.pinnedRead (n + 1) (s.tctx s.cx own) va n = .ok bs →
        Gives (.ldf g m) s m.data (BitVec.ofNat 64 (leOfBytes bs))) ∧
      (∀ va u, OwnWindow s (s.tctx s.cx own) false a n true va →
        s.pinnedWrite (n + 1) (s.tctx s.cx own) va (bytesOfLE n v) = .ok u →
        Runs (.stf g m) s fun t => Outside u t ∧ QFlows s t) ∧
      (∀ x, tblGet s.ctxs (s.tctx s.cx own) = some x → tblGet x.windows (a.toNat / 2 ^ 44 % 256) = none →
        (x.resident = true → x.saving = false → Handled s → Traps (.ldf g m) s 0x05 a) ∧
        -- a store has completed: its final NACK is an asynchronous cause (R262)
        (s.q.stopped = false → Runs (.stf g m) s fun t => Refused s t a)))

/-- The packet of a request to N or H (R365). -/
def Sys2Proof.Claim.ethPacket (s : State) (host : Bool) (a : Word) (n : Nat) (data : List Byte) : Pkt where
  node := a.toNat / 2 ^ 52
  host := host
  tok := s.eth.nextTok
  win := a.toNat / 2 ^ 44 % 256
  off := a.toNat % 2 ^ 44
  tctx := s.cx
  gang := (s.ctx s.cx).gang.toNat
  len := n
  code := 0
  frag := false
  rfrag := false
  args := []
  data := data
  authOk := true
/-- The packet is queued, charged 64 bytes when it goes (R367, R368); one for a window that is being revoked is marked, to be refused
(R378). -/
def Sys2Proof.Claim.SendsPacket (s t : State) (p : Pkt) (own : Owner) (read : Bool) : Prop :=
  (∃ o : OutPkt, o.p = p ∧ o.ctx = s.cx ∧ o.own = own ∧ o.node = nodeOf s own ∧ o.read = read ∧ o.cost = 64 ∧ o.charged = false ∧ o.sent = false ∧
    o.late = s.isLate p ∧
    t.eth.pkts = s.eth.pkts ++ [o]) ∧ t.eth.nextTok = s.eth.nextTok + 1 ∧
  (∀ k, (tblGet t.eth.nodes k).map (fun v => { v with failAt := 0 }) = (tblGet s.eth.nodes k).map (fun v => { v with failAt := 0 })) ∧
  (∀ k, (tblGet t.eth.sessions k).map (fun v => { v with failAt := 0 }) =
    (tblGet s.eth.sessions k).map (fun v => { v with failAt := 0 })) ∧
  t = { s with seqs := t.seqs, serial := t.serial, eth :=
    { s.eth with pkts := t.eth.pkts, nextTok := t.eth.nextTok, nodes := t.eth.nodes, sessions := t.eth.sessions } }

/-- R364, R367, R368: LDN, STN, LDH and STH. That a packet's target context is the context's own number, by which SELF is served from
its own windows too, is the model's choice (log 27). A misaligned address traps ALIGN; one that names no node, session or window, or a
failed target, traps PROT; a store completes once its packet is queued, a load waits; the SELF node is served at once, and
refuses as F does. -/
def Sys2Proof.Claim.EthernetLoadsAndStores : Prop :=
  ∀ (s : State) (g : Guard) (m : MemOp), s.q.guard g = true → s.q.wait = none →
    let n := wBytes m.width
    let v := (s.q.s m.data).toNat % 2 ^ (8 * n)
    let a := effAddr s.q m
    let k := a.toNat / 2 ^ 52
    let w := a.toNat / 2 ^ 44 % 256
    (a.toNat % n ≠ 0 → Handled s → Traps (.ldn g m) s 0x03 a ∧ Traps (.stn g m) s 0x03 a ∧ Traps (.ldh g m) s 0x03 a ∧
      Traps (.sth g m) s 0x03 a) ∧
    (a.toNat % n = 0 → Handled s →
      (tblGet s.eth.nodes k = none ∨ (∃ d, tblGet s.eth.nodes k = some d ∧ d.self = false ∧ d.failed = true) →
        Traps (.ldn g m) s 0x05 a ∧ Traps (.stn g m) s 0x05 a) ∧
      (tblGet s.eth.sessions k = none ∨ (∃ d, tblGet s.eth.sessions k = some d ∧ (tblGet d.windows w = none ∨ d.failed = true)) →
        Traps (.ldh g m) s 0x05 a ∧ Traps (.sth g m) s 0x05 a)) ∧
    (∀ d, a.toNat % n = 0 → tblGet s.eth.nodes k = some d → d.self = false → d.failed = false → (d.enc = true → d.key ≠ none) →
      (Runs (.stn g m) s fun t => QFlows s t ∧
        SendsPacket s t (ethPacket s false a n (bytesOfLE n v)) (.store s.uid s.cur.x a) false) ∧
      (Runs (.ldn g m) s fun t => Awaits s t (.ldn g m) s.serial ∧
        SendsPacket s t (ethPacket s false a n []) (.load s.cur s.serial) true)) ∧
    (∀ d hw, a.toNat % n = 0 → tblGet s.eth.sessions k = some d → tblGet d.windows w = some hw → d.failed = false →
      (Runs (.sth g m) s fun t => QFlows s t ∧
        SendsPacket s t (ethPacket s true a n (bytesOfLE n v)) (.store s.uid s.cur.x a) false) ∧
      (Runs (.ldh g m) s fun t => Awaits s t (.ldh g m) s.serial ∧
        SendsPacket s t (ethPacket s true a n []) (.load s.cur s.serial) true)) ∧
    (∀ d, a.toNat % n = 0 → tblGet s.eth.nodes k = some d → d.self = true →
      (∀ va bs, OwnWindow s s.cx true a n false va → s.pinnedRead (n + 1) s.cx va n = .ok bs →
        Gives (.ldn g m) s m.data (BitVec.ofNat 64 (leOfBytes bs))) ∧
      (∀ va u, OwnWindow s s.cx true a n true va → s.pinnedWrite (n + 1) s.cx va (bytesOfLE n v) = .ok u →
        Runs (.stn g m) s fun t => Outside u t ∧ QFlows s t) ∧
      (∀ x, tblGet s.ctxs s.cx = some x → tblGet x.windows w = none →
        (x.resident = true → x.saving = false → Handled s → Traps (.ldn g m) s 0x05 a) ∧
        (s.q.stopped = false → Runs (.stn g m) s fun t => Refused s t a)))

/-- The codes of the operations of an AMO, and of the conditions of a POLL, in the order of R237 and R238 (log 23). -/
def Sys2Proof.Claim.amoNumber : AmoOp → Nat
  | .add => 0 | .and => 1 | .or => 2 | .xor => 3 | .min => 4 | .max => 5 | .minu => 6 | .maxu => 7 | .swap => 8
def Sys2Proof.Claim.condNumber : PCond → Nat
  | .eq => 0 | .ne => 1 | .geu => 2 | .ltu => 3
/-- ARGS of an AMO or POLL (log 23). -/
def Sys2Proof.Claim.argsOf (code n : Nat) (x y : Word) : List Byte :=
  bytesOfLE 1 code ++ bytesOfLE 7 n ++ bytesOfLE 8 x.toNat ++ bytesOfLE 8 y.toNat ++ bytesOfLE 8 0

/-- R237, R238, R257: atomics and POLLs on F. The request is queued with its operands and the instruction awaits the answer; on
the package's own windows the access is served at once. How ARGS holds them is the model's choice (log 23): the operation's code in
byte 0, the width in byte 1, the operand at byte 8, and the comparand or limit at byte 16. -/
def Obligations.RemoteAtomicsAndPolls : Prop :=
  ∀ (s : State) (g : Guard) (f : AmoFields) (op : AmoOp) (c : SReg) (cc : PCond) (wide : Bool) (d a b : SReg),
    s.q.guard g = true → s.q.wait = none →
    let cut (n : Nat) (r : Word) : Nat := r.toNat % 2 ^ (8 * n)
    let own := s.pkgId
    (∀ i code y, (i = .amo g op f ∧ code = amoNumber op ∧ y = 0) ∨ (i = .amoCas g f c ∧ code = 9 ∧ y = s.q.s c) ∨
        (i = .amoClaim g f c ∧ code = 10 ∧ y = s.q.s c) → f.space = .f →
      let x := s.q.s f.base + f.disp.signExtend 64
      let n := if f.wide then 8 else 4
      (∀ p, x.toNat % n = 0 → Sendable s x p → Runs i s fun t => Awaits s t i s.serial ∧
        QueuesAt s t p (message s 4 x n (argsOf code n (s.q.s f.data) y) [] none) (.load s.cur s.serial)) ∧
      (∀ va bs, x.toNat % n = 0 → x.toNat / 2 ^ 52 = own → OwnWindow s (s.tctx s.cx own) false x n false va →
        OwnWindow s (s.tctx s.cx own) false x n true va → s.pinnedRead (n + 1) (s.tctx s.cx own) va n = .ok bs →
        ∃ new ret, Atomic i (8 * n) (leOfBytes bs) (cut n (s.q.s f.data)) (cut n (s.q.s c)) new ret ∧
          (new = none → Gives i s f.data (BitVec.ofNat 64 ret)) ∧
          ∀ v u, new = some v → s.pinnedWrite 9 (s.tctx s.cx own) va (bytesOfLE n v) = .ok u →
            Runs i s fun t => Outside u t ∧ QSets s t f.data (BitVec.ofNat 64 ret))) ∧
    (let u := s.spinAccrue s.cur.slot
      let i : Instr := .poll g cc .f wide d a b
      let x := s.q.s a
      let n := if wide then 8 else 4
      (∀ p, x.toNat % n = 0 → Sendable s x p → Runs i s fun t => Awaits u t i s.serial ∧
        QueuesAt u t p (message s 5 x n (argsOf (condNumber cc) n (s.q.s b) 0) [] none) (.load s.cur s.serial)) ∧
      (∀ va bs, x.toNat % n = 0 → x.toNat / 2 ^ 52 = own → OwnWindow s (s.tctx s.cx own) false x n false va →
        s.pinnedRead (n + 1) (s.tctx s.cx own) va n = .ok bs →
        (pollTrue cc n (leOfBytes bs) (s.q.s b) → Runs i s fun t => QSets u.spinAll t d (BitVec.ofNat 64 (leOfBytes bs)) ∧ t.mem = s.mem) ∧
        (¬pollTrue cc n (leOfBytes bs) (s.q.s b) → Runs i s fun t => Others u t ∧ Outside u t ∧
          t.q = { u.q with wait := some { ins := i, since := s.now, fin := 1 } })))

/-- The byte offset of the first field of a task record that breaks R197: APC, XPC and HPTR misaligned, a reserved bit or an
edge beyond NEDGE in EDGES, a reserved bit, LEVEL or HCNT out of range in CTL, or the last word. -/
def Sys2Proof.Claim.firstBad (b : List Byte) (nlev nedge : Nat) : Option Nat :=
  let w (k : Nat) : Nat := leOfBytes ((b.drop (8 * k)).take 8)
  let edge (k : Nat) : Nat := w 5 / 2 ^ (16 * k) % 2 ^ 16
  let badEdge (k : Nat) : Bool := decide (8192 ≤ edge k) || (decide (4096 ≤ edge k) && decide (nedge ≤ edge k % 4096))
  if w 0 % 8 ≠ 0 then some 0 else if w 1 % 8 ≠ 0 then some 8 else if w 4 % 32 ≠ 0 then some 32
  else if badEdge 0 || badEdge 1 || badEdge 2 || badEdge 3 then some 40
  else if w 6 / 8 % 32 ≠ 0 ∨ nlev ≤ w 6 % 8 ∨ 32 < w 6 / 256 % 64 ∨ w 6 / 2 ^ 14 ≠ 0 then some 48
  else if w 7 ≠ 0 then some 56 else none

/-- The launch of the context that runs becomes `l`; nothing else of any context changes but accounts. -/
def Sys2Proof.Claim.LaunchIs (s t : State) (l : Launch) : Prop :=
  t.launchOf s.cx = some l ∧ (∀ c, c ≠ s.cx → t.ctx c = { s.ctx c with accts := (t.ctx c).accts }) ∧
  t.ctx s.cx = { s.cxv with accts := (t.ctx s.cx).accts, launch := some l }

/-- R197, R198: TSPAWN. A queue beyond NTQ traps PROT, a misaligned record ALIGN, a record that breaks R197 PROT with the offset
of its first bad field; while the queue is full the instruction blocks, keeping the record that it has read; otherwise the record enters at the tail, and its 64 bytes
are written to the queue's memory. TSPAWN_ROOM completes one that waits in the same way, with that record. -/
def Sys2Proof.Claim.TaskSpawning : Prop :=
  ∀ (s : State) (g : Guard) (a : SReg) (qn : BitVec 8) (l : Launch) (gr : Grp),
    s.launchOf s.cx = some l → s.grp s.sl.grpOf = some gr →
    let n := qn.toNat
    let addr := s.q.s a
    let nlev := hdrN l.hdr 2 1 % 16
    let nedge := hdrN l.hdr 76 2
    let depth := 2 ^ hdrN l.hdr 73 1
    let tq := tblGetD l.tqs n {}
    let ring := hdrW l.hdr 56 + BitVec.ofNat 64 ((n * depth + tq.tail % depth) * 64)
    (s.q.guard g = true → Handled s →
      (hdrN l.hdr 74 2 ≤ n → Traps (.tspawn g a qn) s 0x05 (BitVec.ofNat 64 n)) ∧
      (n < hdrN l.hdr 74 2 → addr.toNat % 64 ≠ 0 → Traps (.tspawn g a qn) s 0x03 addr)) ∧
    -- a record that is found bad, or that waits for a place
    (∀ lf, s.q.guard g = true → s.q.wait = none → n < hdrN l.hdr 74 2 → addr.toNat % 64 = 0 → Reachable s addr .read 64 lf →
      let b := s.mem.hbm.readBytes lf.pa 64
      (∀ off, firstBad b nlev nedge = some off → Handled s → Runs (.tspawn g a qn) s fun t => ∃ u, OnlyAccounts s u ∧
        u.seqs = s.seqs ∧ EntersTrap u t 0x05 false s.q.pc (BitVec.ofNat 64 off)) ∧
      (firstBad b nlev nedge = none → depth ≤ tq.items.length → Runs (.tspawn g a qn) s fun t => Others s t ∧ OnlyAccounts s t ∧
        t.q = { s.q with wait := some { ins := .tspawn g a qn, since := s.now, read := b } } ∧
        t = { s with seqs := t.seqs, ctxs := t.ctxs })) ∧
    (∀ w : Wait, s.q.wait = some w → w.ins = .tspawn g a qn → depth ≤ tq.items.length →
      Runs (.tspawnRoom s.cur) s fun t => Outside s t ∧ Others s t ∧ t.q = s.q) ∧
    -- the record enters the queue: as TSPAWN has just read it, or as it has read it before it waited
    (∀ i b, (i = .tspawn g a qn ∧ s.q.guard g = true ∧ s.q.wait = none ∧ n < hdrN l.hdr 74 2 ∧ addr.toNat % 64 = 0 ∧
          (∃ lf, Reachable s addr .read 64 lf ∧ b = s.mem.hbm.readBytes lf.pa 64) ∧ firstBad b nlev nedge = none) ∨
        (i = .tspawnRoom s.cur ∧ ∃ w : Wait, s.q.wait = some w ∧ w.ins = .tspawn g a qn ∧ b = w.read ∧ b.length = 64) →
      (∀ lw, tq.items.length < depth → ring.toNat % 64 = 0 → Reachable s ring .write 64 lw →
        Runs i s fun t => QFlows s t ∧
          (∃ l', LaunchIs s t l' ∧ l' = { l with tqs := l'.tqs } ∧ (∀ m, m ≠ n → tblGetD l'.tqs m {} = tblGetD l.tqs m {}) ∧
            tblGetD l'.tqs n {} = { tail := tq.tail + 1, items := tq.items ++ [
              { bytes := b, level := leOfBytes ((b.drop 48).take 8) % 8,
                idx := gr.idx.drop (leOfBytes ((b.drop 48).take 8) % 8 - gr.level)
                s8 := (List.range 8).map (fun k => s.q.s (BitVec.ofNat 6 (8 + k))) }] }) ∧
          t.mem.hbm.readBytes lw.pa 64 = b ∧ (∀ x, ¬(lw.pa ≤ x ∧ x < lw.pa + 64) → t.mem.hbm.read x = s.mem.hbm.read x) ∧
          t = { s with seqs := t.seqs, ctxs := t.ctxs, mem := { s.mem with hbm := t.mem.hbm, lineKey := t.mem.lineKey } }))

/-- R118, R195: TEND waits for the slot's records that name a tile register, those among them that an ENQ holds for pins or for a place; then the scope and any locked window close and
the sequencer stops. Once both have stopped the task has ended: its queues are empty, and the slot is free as soon as it has no
record. A cause that is still held then has no boundary left, and ends the task unhandled at the TEND: so the model reads R216 and R305
(log 31). -/
def Sys2Proof.Claim.TaskEnd : Prop :=
  ∀ (s : State) (g : Guard),
    let tiles := (s.takenOf s.cur.slot).any (fun q => [descD q.r, descA q.r, descB q.r, descC q.r].any (fun d =>
      d.extractLsb' 20 4 == 0xC))
    let ends : State → Prop := fun t =>
      t.q.stopped = true ∧ t.q.wait = none ∧ t.q.tendPc = s.q.pc ∧ (∀ r, t.q.s r = s.q.s r) ∧ Others s t ∧
      (s.other.stopped = false → t.sl = { s.sl with scope := none, vuse := 0, lockend := 0, moved := s.now } ∧
        (∀ k, k ≠ s.cur.slot → t.slot k = s.slot k) ∧ t = { s with seqs := t.seqs, slots := t.slots }) ∧
      (∀ tk, s.other.stopped = true → s.sl.task = some tk → tk.ended = false →
        (s.recordsOf s.cur.slot = [] → t.sl = { gen := s.sl.gen + 1 }) ∧
        (s.recordsOf s.cur.slot ≠ [] → t.sl = { s.sl with
          task := some { tk with ended := true, resv := [] }, scope := none, vuse := 0, aq0 := [], aq1 := [], aq2 := [], aq3 := [],
          lockend := 0, preReq := false, stopReq := false, haltReq := false, moved := s.now }))
    (s.q.guard g = true → s.sl.scope = none ∨ tiles = false → s.q.held = [] → Runs (.tend g) s ends) ∧
    (∀ h, s.q.guard g = true → s.sl.scope = none ∨ tiles = false → firstHeld s.q.held = some h →
      Runs (.tend g) s fun t => EndsUnhandled s t (h.code + 256) s.q.pc h.eval) ∧
    (s.q.guard g = true → s.q.wait = none → s.sl.scope ≠ none → tiles = true → Blocks (.tend g) s) ∧
    (∀ w : Wait, s.q.wait = some w → w.ins = .tend g → s.sl.scope = none ∨ tiles = false → s.q.held = [] →
      Runs (.scopecDrain s.cur) s ends) ∧
    (∀ (w : Wait) (h : Trp), s.q.wait = some w → w.ins = .tend g → s.sl.scope = none ∨ tiles = false → firstHeld s.q.held = some h →
      Runs (.scopecDrain s.cur) s fun t => EndsUnhandled s t (h.code + 256) s.q.pc h.eval) ∧
    (∀ w : Wait, s.q.wait = some w → w.ins = .tend g → s.sl.scope ≠ none → tiles = true → Runs (.scopecDrain s.cur) s fun t => t = s)

/-- An item of an edge's ring can be read, as `x`: in G, or in the DS of the edge's die. -/
def Sys2Proof.Claim.RingItem (s : State) (l : Launch) (v : Edge) (ix : Nat) (x : Nat) : Prop :=
  let at_ := v.ring + BitVec.ofNat 64 (8 * (ix % v.cap))
  (v.ds = false ∧ ∃ lf, Reachable s at_ .read 8 lf ∧ at_.toNat % 8 = 0 ∧ x = s.mem.hbm.readLE lf.pa 8) ∨
  (v.ds = true ∧ s.mem.ue = [] ∧ at_.toNat < 2 ^ 26 ∧ at_.toNat < hdrN l.hdr 4 4 * 65536 ∧
    x = (s.dsMem s.cx v.vdie).readLE at_.toNat 8)
/-- The item is written, and no other byte of memory. -/
def Sys2Proof.Claim.RingWritten (s t : State) (l : Launch) (v : Edge) (ix : Nat) (x : Nat) : Prop :=
  let at_ := v.ring + BitVec.ofNat 64 (8 * (ix % v.cap))
  (v.ds = false ∧ ∃ lf, Reachable s at_ .write 8 lf ∧ at_.toNat % 8 = 0 ∧ t.mem.hbm.readLE lf.pa 8 = x ∧
    (∀ y, ¬(lf.pa ≤ y ∧ y < lf.pa + 8) → t.mem.hbm.read y = s.mem.hbm.read y) ∧ ∀ c d y, (t.dsMem c d).read y = (s.dsMem c d).read y) ∨
  (v.ds = true ∧ at_.toNat < 2 ^ 26 ∧ at_.toNat < hdrN l.hdr 4 4 * 65536 ∧ (t.dsMem s.cx v.vdie).readLE at_.toNat 8 = x ∧
    t.mem = s.mem ∧ ∀ c d y, ¬(c = s.cx ∧ d = v.vdie ∧ at_.toNat ≤ y ∧ y < at_.toNat + 8) → (t.dsMem c d).read y = (s.dsMem c d).read y)
/-- The item can be written. -/
def Sys2Proof.Claim.RingRoom (s : State) (l : Launch) (v : Edge) (ix : Nat) : Prop :=
  let at_ := v.ring + BitVec.ofNat 64 (8 * (ix % v.cap))
  (v.ds = false ∧ ∃ lf, Reachable s at_ .write 8 lf ∧ at_.toNat % 8 = 0) ∨
  (v.ds = true ∧ s.mem.ue = [] ∧ at_.toNat < 2 ^ 26 ∧ at_.toNat < hdrN l.hdr 4 4 * 65536)
/-- Edge `e` becomes `v`, and the task's reservation `r`, where it holds it, is used; the other edges, reservations and slots
stay, and nothing else of a launch changes but its DS. -/
def Sys2Proof.Claim.EdgeIs (s t : State) (l : Launch) (e : Nat) (v : Edge) (r : Nat × Bool) : Prop :=
  (∃ l', LaunchIs s t l' ∧ l' = { l with edges := l'.edges, ds := l'.ds } ∧ tblGet l'.edges e = some v ∧
    ∀ m, m ≠ e → tblGet l'.edges m = tblGet l.edges m) ∧
  t.sl = { s.sl with task := s.sl.task.map (fun k => { k with resv := k.resv.erase r }) } ∧
  (∀ k, k ≠ s.cur.slot → t.slot k = s.slot k) ∧
  t = { s with seqs := t.seqs, ctxs := t.ctxs, slots := t.slots, mem := { s.mem with hbm := t.mem.hbm, lineKey := t.mem.lineKey } }

/-- R196, R199, R200: EPUSH, EPOP and ETRY. An edge beyond NEDGE, or in the DS of another die, traps PROT. EPUSH needs a free
place and EPOP an item that no other task has reserved, or its own reservation, which it uses; without one EPUSH and EPOP block
and ETRY answers 0; EPUSH_ROOM and EPOP_ITEM complete those that wait. -/
def Obligations.EdgeInstructions : Prop :=
  ∀ (s : State) (g : Guard) (d a : SReg) (p : PReg) (en : BitVec 12) (l : Launch) (gr : Grp) (tk : Task),
    s.launchOf s.cx = some l → s.sl.task = some tk → s.grp s.sl.grpOf = some gr →
    let e := en.toNat
    let here (out : Bool) : Prop := (e, out) ∈ tk.resv
    ((hdrN l.hdr 76 2 ≤ e ∨ tblGet l.edges e = none ∨ ∃ v, tblGet l.edges e = some v ∧ v.ds = true ∧ v.vdie ≠ gr.vdie) →
      s.q.guard g = true → Handled s → Traps (.epush g a en) s 0x05 (BitVec.ofNat 64 e) ∧
        Traps (.epop g d en) s 0x05 (BitVec.ofNat 64 e) ∧ Traps (.etry g d p en) s 0x05 (BitVec.ofNat 64 e)) ∧
    (∀ v, e < hdrN l.hdr 76 2 → tblGet l.edges e = some v → (v.ds = true → v.vdie = gr.vdie) →
      (∀ i, (i = .epush g a en ∧ s.q.guard g = true ∧ s.q.wait = none) ∨
          (i = .epushRoom s.cur ∧ ∃ w : Wait, s.q.wait = some w ∧ w.ins = .epush g a en) →
        (here true ∨ v.resF < v.free → RingRoom s l v v.tail → Runs i s fun t => QFlows s t ∧
          RingWritten s t l v v.tail (s.q.s a).toNat ∧ ∃ v', EdgeIs s t l e v' (e, true) ∧
            v' = { v with free := v.free - 1, tail := v.tail + 1, items := v.items + 1, resF := v'.resF } ∧
            (here true → v'.resF = v.resF - 1) ∧ (¬here true → v'.resF = v.resF)) ∧
        (¬here true → v.free ≤ v.resF →
          (i = .epush g a en → Blocks i s) ∧ (i = .epushRoom s.cur → Runs i s fun t => t = s))) ∧
      (∀ x, RingItem s l v v.head x →
        let taken : State → Prop := fun t => ∃ v', EdgeIs s t l e v' (e, false) ∧ t.mem = s.mem ∧
          (∀ c k y, (t.dsMem c k).read y = (s.dsMem c k).read y) ∧
          v' = { v with items := v.items - 1, head := v.head + 1, free := v.free + 1, resI := v'.resI } ∧
          (here false → v'.resI = v.resI - 1) ∧ (¬here false → v'.resI = v.resI)
        here false ∨ v.resI < v.items →
        (∀ i, (i = .epop g d en ∧ s.q.guard g = true) ∨
            (i = .epopItem s.cur ∧ ∃ w : Wait, s.q.wait = some w ∧ w.ins = .epop g d en) →
          Runs i s fun t => QSets s t d (BitVec.ofNat 64 x) ∧ taken t) ∧
        (s.q.guard g = true → Runs (.etry g d p en) s fun t => taken t ∧ Others s t ∧ FlowsFrom s.q t.q 8 ∧
          t.q = { s.q with regs := t.q.regs, preds := t.q.preds, pc := t.q.pc, loops := t.q.loops, loopBuf := t.q.loopBuf,
                           wait := none } ∧
          t.q.p p = true ∧ (∀ r, r ≠ p → t.q.p r = s.q.p r) ∧ t.q.s d = (if d = 0 then 0 else BitVec.ofNat 64 x) ∧
          ∀ r, r ≠ d → t.q.s r = s.q.s r)) ∧
      (¬here false → v.items ≤ v.resI →
        (s.q.guard g = true → s.q.wait = none → Blocks (.epop g d en) s) ∧
        (∀ w : Wait, s.q.wait = some w → w.ins = .epop g d en → Runs (.epopItem s.cur) s fun t => t = s) ∧
        (s.q.guard g = true → GivesP (.etry g d p en) s p false)))

/-- The clusters of a core that no scope holds: 8 less those of the scopes of its four slots (R115, R117). -/
def Sys2Proof.Claim.freeOf (s : State) (core : Nat) : Nat :=
  8 - ([0, 1, 2, 3].map (fun k => match (s.slot (4 * core + k)).scope with | some sc => sc.cl.length | none => 0)).sum
/-- Of the memories, only the uncorrectable errors at `p` differ: they are gone, as of words written whole (R413). -/
def Sys2Proof.Claim.ErrorsGone (s t : State) (p : UeLoc → Prop) : Prop :=
  t.mem = { s.mem with ue := t.mem.ue } ∧ ∀ l, l ∈ t.mem.ue ↔ l ∈ s.mem.ue ∧ ¬p l
/-- The scope that a grant opens in the slot of the sequencer that runs; the queue of its core becomes `rest`. -/
def Sys2Proof.Claim.ScopeOpens (s t : State) (n : Nat) (rest : List (Asker × Nat)) : Prop :=
  let need := (n + 7) / 8
  let c := s.cur.slot / 4
  QFlows s t ∧
  t.sl = { s.sl with scope := some { n := n, cl := List.replicate need .on, mem := [] }, vuse := BitVec.ofNat 8 (2 ^ need - 1),
                     vrest := false } ∧
  (∀ k, k ≠ s.cur.slot → t.slot k = s.slot k) ∧ t.core c = { s.core c with scopeQ := rest } ∧
  (∀ k, k ≠ c → t.core k = s.core k) ∧ ErrorsGone s t (fun l => ∃ w, l = .tileWord s.cur.slot w) ∧
  t = { s with seqs := t.seqs, slots := t.slots, cores := t.cores, mem := t.mem }

/-- R117: SCOPEO joins the tail of its core's queue and blocks until it is at the head and enough clusters are free; the scope
then holds whole clusters of zero bytes without errors (R413), and VMODE names all of them. A slot that holds a scope traps SCOPE. SCOPEO_GRANT serves
the head of the queue, unless an asynchronous cause is due there, which ends its wait (R305). -/
def Sys2Proof.Claim.RegisterScopesOpen : Prop :=
  ∀ (s : State) (g : Guard) (n : BitVec 7),
    let c := s.cur.slot / 4
    let need := (n.toNat + 7) / 8
    let queue := (s.core c).scopeQ
    (s.q.guard g = true → s.q.wait = none →
      (s.sl.scope ≠ none → Handled s → Traps (.scopeo g n) s 0x08 0) ∧
      (s.sl.scope = none → queue = [] → need ≤ freeOf s c → Runs (.scopeo g n) s fun t => ScopeOpens s t n.toNat []) ∧
      (s.sl.scope = none → queue ≠ [] ∨ freeOf s c < need → Runs (.scopeo g n) s fun t => Others s t ∧
        t.q = { s.q with wait := some { ins := .scopeo g n, since := s.now } } ∧
        t.core c = { s.core c with scopeQ := queue ++ [(.seq s.cur, n.toNat)] } ∧ (∀ k, k ≠ c → t.core k = s.core k) ∧
        t = { s with seqs := t.seqs, cores := t.cores })) ∧
    (queue = [] → Runs (.scopeoGrant c) s fun t => t = s) ∧
    -- a restore that waits at the head takes its clusters itself (R120); one whose task waits no more leaves the queue
    (∀ x gr k m rest, queue = (.back x gr k, m) :: rest →
      ((∃ v ∈ (s.ctx x).savedSlots, v.grp = gr ∧ v.from_ = k) → Runs (.scopeoGrant c) s fun t => t = s) ∧
      (¬(∃ v ∈ (s.ctx x).savedSlots, v.grp = gr ∧ v.from_ = k) → Runs (.scopeoGrant c) s fun t =>
        t.core c = { s.core c with scopeQ := rest } ∧ (∀ k, k ≠ c → t.core k = s.core k) ∧ t = { s with cores := t.cores })) ∧
    (∀ r m rest, queue = (.seq r, m) :: rest →
      let u := { s with cur := r }
      (u.q.held ≠ [] → u.q.intrap = false → u.q.wait.map (·.ins) = some (.scopeo g n) → Runs (.scopeoGrant c) s fun t => t = s) ∧
      (u.q.held = [] ∨ u.q.intrap = true →
      ((s.slot r.slot).scope = none → freeOf s c < (m + 7) / 8 → Runs (.scopeoGrant c) s fun t => t = s) ∧
      ((s.slot r.slot).scope = none → (m + 7) / 8 ≤ freeOf s c → r.slot / 4 = c →
        Runs (.scopeoGrant c) s fun t => ScopeOpens u t m rest) ∧
      ((s.slot r.slot).scope ≠ none → Handled u → Runs (.scopeoGrant c) s fun t => ∃ v, v = { u with cores := v.cores } ∧
        v.core c = { s.core c with scopeQ := rest } ∧ (∀ k, k ≠ c → v.core k = s.core k) ∧ EntersTrap v t 0x08 false u.q.pc 0)))

/-- What VMODE makes of a cluster: `use` asks for it, `gated` is REST (R122). A wake that is asked for again stays ON after it. -/
def Sys2Proof.Claim.clusterBecomes (use gated : Bool) : Cluster → Cluster
  | .on => if use then .on else if gated then .gated else .drowsy
  | .drowsy => if use then .waking false false else if gated then .gated else .drowsy
  | .gated => if use then .waking true false else .gated
  | .waking cold _ => if use then .waking cold false else if gated then .gated else .waking cold true

/-- R118, R121, R122: SCOPEC gives the clusters back once no record names a tile register, and does nothing without a scope;
VMODE wakes, gates or rests each cluster in turn, the bytes of a gated one being lost, and stalls at one that it is to gate while
a record names it; SCOPEC_DRAIN lets those that wait go on;
CLUSTER_WAKE ends a wake. -/
def Sys2Proof.Claim.ClusterPower : Prop :=
  ∀ (s : State) (g : Guard) (use : BitVec 8) (gated : Bool),
    let tiles := (s.takenOf s.cur.slot).any (fun q => [descD q.r, descA q.r, descB q.r, descC q.r].any (fun d =>
      d.extractLsb' 20 4 == 0xC))
    let closed : State → Prop := fun t => QFlows s t ∧ t.sl = { s.sl with scope := none, vuse := 0 } ∧
      (∀ k, k ≠ s.cur.slot → t.slot k = s.slot k) ∧ t = { s with seqs := t.seqs, slots := t.slots }
    -- VMODE stalls at cluster `k`: it is to be gated, and a record names a register of it
    let stalls (sc : Scope) (k : Nat) : Prop := gated = true ∧ use.getLsbD k = false ∧ sc.cl[k]? ≠ some .gated ∧
      s.clusterNamed s.cur.slot k = true
    let set (sc : Scope) (lo hi : Nat) (t : State) (sc' : Scope) : Prop :=
      (∀ k, k ≠ s.cur.slot → t.slot k = s.slot k) ∧ t = { s with seqs := t.seqs, slots := t.slots, mem := t.mem } ∧
      sc'.n = sc.n ∧ sc'.cl.length = sc.cl.length ∧
      (∀ k, k < sc.cl.length → sc'.cl[k]? =
        if lo ≤ k ∧ k < hi then sc.cl[k]?.map (clusterBecomes (use.getLsbD k) gated) else sc.cl[k]?) ∧
      (∀ x, sc'.mem.read x = if lo ≤ x / 8192 ∧ x / 8192 < hi ∧ x / 8192 < sc.cl.length ∧ gated = true ∧
        use.getLsbD (x / 8192) = false then 0 else sc.mem.read x) ∧
      ErrorsGone s t (fun l => ∃ w, l = .tileWord s.cur.slot w ∧ lo ≤ w / 1024 ∧ w / 1024 < hi ∧ use.getLsbD (w / 1024) = true ∧
        sc.cl[w / 1024]? = some .gated)
    let all (sc : Scope) (lo : Nat) : State → Prop := fun t => QFlows s t ∧ ∃ sc', set sc lo sc.cl.length t sc' ∧
      t.sl = { s.sl with scope := some sc', vuse := use &&& BitVec.ofNat 8 (2 ^ sc.cl.length - 1), vrest := gated }
    let held (sc : Scope) (lo k : Nat) : State → Prop := fun t => ∃ sc', set sc lo k t sc' ∧
      t.sl = { s.sl with scope := some sc' } ∧ Others s t ∧ t.q = { s.q with wait := t.q.wait } ∧
      ∃ w, t.q.wait = some w ∧ w.ins = .vmode g use gated ∧ w.tok = k
    (s.q.guard g = true →
      (s.sl.scope = none → Flows (.scopec g) s ∧ Runs (.vmode g use gated) s fun t => QFlows s t ∧
        (∀ k, t.slot k = s.slot k) ∧ t = { s with seqs := t.seqs, slots := t.slots }) ∧
      (s.sl.scope ≠ none → tiles = false → Runs (.scopec g) s closed) ∧
      (s.sl.scope ≠ none → tiles = true → s.q.wait = none → Blocks (.scopec g) s) ∧
      (∀ sc, s.sl.scope = some sc →
        ((∀ k, k < sc.cl.length → ¬stalls sc k) → Runs (.vmode g use gated) s (all sc 0)) ∧
        (∀ k, k < sc.cl.length → stalls sc k → (∀ j, j < k → ¬stalls sc j) → s.q.wait = none →
          Runs (.vmode g use gated) s (held sc 0 k)))) ∧
    (∀ w : Wait, s.q.wait = some w →
      (w.ins = .scopec g → s.sl.scope ≠ none → tiles = false → Runs (.scopecDrain s.cur) s closed) ∧
      (w.ins = .scopec g → s.sl.scope ≠ none → tiles = true → Runs (.scopecDrain s.cur) s fun t => t = s) ∧
      (∀ sc, w.ins = .vmode g use gated → s.sl.scope = some sc →
        ((∀ k, w.tok ≤ k → k < sc.cl.length → ¬stalls sc k) → Runs (.scopecDrain s.cur) s (all sc w.tok)) ∧
        (∀ k, w.tok ≤ k → k < sc.cl.length → stalls sc k → (∀ j, w.tok ≤ j → j < k → ¬stalls sc j) →
          Runs (.scopecDrain s.cur) s (held sc w.tok k)))) ∧
    (∀ slot k sc cold d, (s.slot slot).scope = some sc → sc.cl[k]? = some (.waking cold d) →
      Runs (.clusterWake slot k) s fun t => (∀ j, j ≠ slot → t.slot j = s.slot j) ∧ t = { s with slots := t.slots } ∧
        t.slot slot = { s.slot slot with scope := some { sc with cl := sc.cl.set k (if d then .drowsy else .on) } })

/-- COUNT − THR, modulo 2^48, is below 2^47 (R317). -/
abbrev Sys2Proof.Claim.hasPassed (count thr : BitVec 48) : Prop := (count.toNat + 2 ^ 48 - thr.toNat) % 2 ^ 48 < 2 ^ 47
/-- Counter `k` of context `c` takes the value `v`, and the operations armed on it that come to pass are due, all through this
one update (R317, R321). Nothing else outside the sequencers changes. -/
def Sys2Proof.Claim.CounterIs (s t : State) (c k : Nat) (v : Ctr) : Prop :=
  t.ctr c k = v ∧ (∀ d j, ¬(d = c ∧ j = k) → t.ctr d j = s.ctr d j) ∧
  (∀ d, t.ctx d = { s.ctx d with ctrs := (t.ctx d).ctrs }) ∧
  (∀ id, (tblGet s.coll.armed id = none → tblGet t.coll.armed id = none) ∧ ∀ a, tblGet s.coll.armed id = some a →
    (a.ctx = c ∧ a.ctr = k ∧ a.fired = false ∧ a.due = none ∧ hasPassed v.count a.thr →
      tblGet t.coll.armed id = some { a with due := some s.serial }) ∧
    (¬(a.ctx = c ∧ a.ctr = k ∧ a.fired = false ∧ a.due = none ∧ hasPassed v.count a.thr) →
      tblGet t.coll.armed id = some a)) ∧
  t = { s with seqs := t.seqs, ctxs := t.ctxs, coll := { s.coll with armed := t.coll.armed }, serial := s.serial + 1 }

/-- R317, R318, R321: CTRSET, CTRADD and CTRRD, while no collective of the context is running (the end of one may raise counters
too). A counter beyond 4,095 traps PROT; CTRSET clears poison, CTRADD keeps it; armed operations become due by the same update. -/
def Sys2Proof.Claim.CounterInstructions : Prop :=
  ∀ (s : State) (g : Guard) (d a b : SReg), s.q.guard g = true →
    let k := (s.q.s a).toNat
    let c := s.ctr s.cx k
    let x := (s.q.s b).toNat % 2 ^ 48
    (4096 ≤ k → Handled s → Traps (.ctrset g a b) s 0x05 (s.q.s a) ∧ Traps (.ctradd g a b) s 0x05 (s.q.s a) ∧
      Traps (.ctrrd g d a) s 0x05 (s.q.s a)) ∧
    (k < 4096 → Gives (.ctrrd g d a) s d (BitVec.ofNat 64 ((if c.poison then 2 ^ 63 else 0) + c.count.toNat))) ∧
    (k < 4096 → (∀ e ∈ s.coll.colls, e.2.ctx = s.cx → e.2.running = false) →
      (Runs (.ctrset g a b) s fun t => QFlows s t ∧ CounterIs s t s.cx k { count := BitVec.ofNat 48 x, poison := false }) ∧
      (Runs (.ctradd g a b) s fun t => QFlows s t ∧ CounterIs s t s.cx k { c with count := BitVec.ofNat 48 (c.count.toNat + x) }))

/-- A little-endian field of some bytes. -/
def Sys2Proof.Claim.le (b : List Byte) (off n : Nat) : Nat := leOfBytes ((b.drop off).take n)
/-- A descriptor that R319 allows, whose counters are 0xFFFF or below 4,096 (R320). -/
abbrev Sys2Proof.Claim.DescriptorOk (b : List Byte) : Prop :=
  1 ≤ le b 0 1 ∧ le b 0 1 ≤ 5 ∧ le b 1 1 ≤ 2 ∧ 2 ≤ le b 2 1 ∧ le b 2 1 ≤ 6 ∧ le b 3 1 = 0 ∧ le b 4 4 ≤ 65536 ∧
  le b 4 4 % (if le b 2 1 = 4 ∨ le b 2 1 = 5 then 2 else 4) = 0 ∧ (le b 24 2 < 4096 ∨ le b 24 2 = 65535) ∧
  (le b 26 2 < 4096 ∨ le b 26 2 = 65535) ∧ (le b 0 1 = 3 ∨ le b 0 1 = 4 ∨ le b 36 8 = 0) ∧ le b 44 20 = 0
/-- The operation that a descriptor arms on a counter at a threshold. -/
def Sys2Proof.Claim.operation (s : State) (b : List Byte) (ctr : Nat) (thr : BitVec 48) (due : Option Nat) : Armed where
  ctx := s.cx
  ctr := ctr
  thr := thr
  op := le b 0 1
  redop := le b 1 1
  dtype := le b 2 1
  len := le b 4 4
  src := BitVec.ofNat 64 (le b 8 8)
  dst := BitVec.ofNat 64 (le b 16 8)
  lctr := le b 24 2
  rctr := le b 26 2
  linc := le b 28 4
  rinc := le b 32 4
  disp := BitVec.ofNat 64 (le b 36 8)
  task := s.uid
  due := due
/-- The entries of the package's armed table that are in use: operations not yet fired (R320, R321). -/
def Sys2Proof.Claim.armedCount (s : State) : Nat := (s.coll.armed.filter (fun e => !e.2.fired)).length
/-- One operation more is armed, and nothing else changes but accounts and the sequencers. -/
def Sys2Proof.Claim.Arms (s t : State) (a : Armed) : Prop :=
  tblGet t.coll.armed s.serial = some a ∧ (∀ id, id ≠ s.serial → tblGet t.coll.armed id = tblGet s.coll.armed id) ∧
  OnlyAccounts s t ∧
  t = { s with seqs := t.seqs, ctxs := t.ctxs, serial := s.serial + 1, coll := { s.coll with armed := t.coll.armed } }

/-- R319 to R321: TRIG captures a descriptor of 64 bytes and arms it on a counter and a threshold; it is due at once where the
counter passes already. A counter beyond 4,095, a misaligned descriptor or one that breaks R319 traps; while the table of 16,384
entries is full the instruction waits with what it has captured, and TRIG_ROOM arms it, unless an asynchronous cause is due. -/
def Sys2Proof.Claim.TriggeredOperationsArmed : Prop :=
  ∀ (s : State) (g : Guard) (a b c : SReg),
    let x := s.q.s a
    let k := (s.q.s b).toNat
    let thr : BitVec 48 := (s.q.s c).extractLsb' 0 48
    let i : Instr := .trig g a b c
    let arms (m : List Byte) (t : State) : Prop := QFlows s t ∧
      (hasPassed (s.ctr s.cx k).count thr → Arms s t (operation s m k thr (some s.serial))) ∧
      (¬hasPassed (s.ctr s.cx k).count thr → Arms s t (operation s m k thr none))
    (s.q.guard g = true →
      (4096 ≤ k → Handled s → Traps i s 0x05 (s.q.s b)) ∧
      (k < 4096 → x.toNat % 64 ≠ 0 → Handled s → Traps i s 0x03 x) ∧
      (∀ lf, k < 4096 → x.toNat % 64 = 0 → Reachable s x .read 64 lf →
        let m := s.mem.hbm.readBytes lf.pa 64
        (¬DescriptorOk m → Handled s → Runs i s fun t => ∃ u, OnlyAccounts s u ∧ u.seqs = s.seqs ∧
          EntersTrap u t 0x05 false s.q.pc x) ∧
        (DescriptorOk m → armedCount s < 16384 → Runs i s (arms m)) ∧
        (DescriptorOk m → 16384 ≤ armedCount s → s.q.wait = none → Runs i s fun t => Others s t ∧ OnlyAccounts s t ∧
          t = { s with seqs := t.seqs, ctxs := t.ctxs } ∧
          ∃ h : QRec, h.r.toNat = leOfBytes m ∧
            t.q = { s.q with wait := some { ins := i, since := s.now, held := some h } }))) ∧
    (∀ (w : Wait) (h : QRec), s.q.wait = some w → w.ins = i → w.held = some h → Calm s →
      (armedCount s < 16384 → Runs (.trigRoom s.cur) s (arms (bytesOfLE 64 h.r.toNat))) ∧
      (16384 ≤ armedCount s → Runs (.trigRoom s.cur) s fun t => t = s))

/-- The fields of a parameter block that need no group (R328). -/
abbrev Sys2Proof.Claim.BlockOk (b : List Byte) : Prop :=
  1 ≤ le b 0 1 ∧ le b 0 1 ≤ 5 ∧ le b 1 1 ≤ 2 ∧ 2 ≤ le b 2 1 ∧ le b 2 1 ≤ 6 ∧ le b 3 1 ≤ 3 ∧ le b 8 8 ≠ 0 ∧ le b 80 2 + 19 ≤ 4095 ∧
  le b 82 1 ≤ 1 ∧ le b 83 1 = 0 ∧ le b 88 8 % 8 = 0 ∧ le b 96 32 = 0

/-- R328, R329: COLL reads its block and answers BADBLOCK, BADGROUP, NOTMEMBER, BADBUF or FULL with nothing armed; or it answers
0, writes 0 to STATUS, and queues the collective and its operations, running unless an earlier one of its CTRBASE is there. The
order of the answers is the model's reading (log 30). -/
def Obligations.CollectivesStart : Prop :=
  ∀ (s : State) (g : Guard) (d a : SReg) (lf : Leaf), s.q.guard g = true →
    let x := s.q.s a
    let b := s.mem.hbm.readBytes lf.pa 128
    let gid := le b 4 2
    let base := le b 80 2
    let answers (v : Word) : Prop := Runs (.coll g d a) s fun t => QSets s t d v ∧ OnlyAccounts s t ∧
      t = { s with seqs := t.seqs, ctxs := t.ctxs }
    (x.toNat % 64 ≠ 0 → Handled s → Traps (.coll g d a) s 0x03 x) ∧
    (x.toNat % 64 = 0 → x.toNat % 65536 ≤ 65408 → Reachable s x .read 128 lf →
      (¬BlockOk b → answers 1) ∧
      (BlockOk b → tblGet s.coll.groups gid = none → answers 2) ∧
      (∀ gr, BlockOk b → tblGet s.coll.groups gid = some gr →
        (gr.owner ≠ s.cx → answers 2) ∧
        (gr.owner = s.cx → (le b 8 8 % gr.members.length ≠ 0 ∨ (4 ≤ le b 0 1 ∧ gr.members.length ≤ le b 6 2)) → answers 1) ∧
        (gr.owner = s.cx → le b 8 8 % gr.members.length = 0 → (4 ≤ le b 0 1 → le b 6 2 < gr.members.length) →
          (∀ m ∈ gr.members, m.net = false → m.addr.toNat / 2 ^ 52 ≠ s.pkgId) →
          (∀ m ∈ gr.members, m.net = true → ∀ v, tblGet s.eth.nodes (m.addr.toNat / 2 ^ 52) = some v → v.self = false) →
          answers 3)) ∧
      (∀ e, s.collPlan b = .error e → answers (BitVec.ofNat 64 e)) ∧
      (∀ v ops lw, s.collPlan b = .ok (v, ops) → Reachable s v.status .write 8 lw → v.status.toNat % 8 = 0 → ops ≠ [] →
        (∀ j, j < 20 → (s.ctr s.cx (base + j)).poison = false) → (∀ m ∈ v.peers, s.memberLost m = false) →
        (∀ e ∈ s.coll.colls, e.1 < s.serial) → (∀ e ∈ s.coll.armed, e.1 < s.serial) →
        Runs (.coll g d a) s fun t => QSets s t d 0 ∧ t.mem.hbm.readLE lw.pa 8 = 0 ∧
          (∀ y, ¬(lw.pa ≤ y ∧ y < lw.pa + 8) → t.mem.hbm.read y = s.mem.hbm.read y) ∧
          v.base = base ∧ v.status = BitVec.ofNat 64 (le b 88 8) ∧ v.seq = le b 84 4 ∧
          (v.running = true ↔ ∀ e ∈ s.coll.colls, ¬(e.2.ctx = s.cx ∧ e.2.base = base)) ∧
          tblGet t.coll.colls s.serial = some v ∧
          (∀ j o, ops[j]? = some o → ∃ o', tblGet t.coll.armed (s.serial + 1 + j) = some o' ∧
            o' = { o with coll := some s.serial, due := o'.due }) ∧
          (∀ id, id < s.serial → tblGet t.coll.armed id = tblGet s.coll.armed id ∧ tblGet t.coll.colls id = tblGet s.coll.colls id) ∧
          OnlyAccounts s t))

/-- R330, the ring, for an ALLREDUCE of P members at rank r: P − 1 steps of reduce-scatter and P − 1 of allgather, each of one
chunk to rank r + 1; step s of the first sends chunk (r − s) mod P by RPUT on SEQ × 2(P − 1) + s arrivals, from SEND at s = 0 and
from RECV afterwards, its DISP pointing into SEND; step s of the second sends RECV chunk (r + 1 − s) mod P by PUT on P − 1 + s
arrivals more. Arrivals count on CTRBASE, completions on CTRBASE + 1. -/
def Obligations.RingAllreduceSteps : Prop :=
  ∀ (c : CollCtx) (n s : Nat) (m : Member), c.k.op = 1 → c.ms.length = n + 1 → 0 < n → c.r < n + 1 → s < n →
    c.one.lctr = c.k.base + 1 → c.one.linc = 1 → c.ms[(c.r + 1) % (n + 1)]? = some m →
    let chunk := c.k.count / (n + 1) * fmtSize c.k.dtype
    let at_ (base : Word) (j : Nat) : Word := base + BitVec.ofNat 64 (chunk * j)
    let there (j : Nat) : Word := at_ (m.addr + (hBase c.k.recv - c.win)) j
    c.ring.1.length = 2 * n ∧ c.ring.2 = [(0, (c.k.seq + 1) * (2 * n))] ∧
    (∃ a, c.ring.1[s]? = some a ∧ a.op = 3 ∧ a.ctr = c.k.base ∧ a.thr = BitVec.ofNat 48 (c.k.seq * (2 * n) + s) ∧ a.len = chunk ∧
      (let j := (c.r + (n + 1) - s) % (n + 1)
       a.src = (if s = 0 then at_ (hBase c.k.send) j else at_ (hBase c.k.recv) j) ∧ a.dst = there j) ∧
      a.disp = hBase c.k.send - hBase c.k.recv ∧ a.net = m.net ∧ a.rctr = c.k.base ∧ a.rinc = 1 ∧ a.lctr = c.k.base + 1 ∧ a.linc = 1) ∧
    (∃ a, c.ring.1[n + s]? = some a ∧ a.op = 2 ∧ a.ctr = c.k.base ∧ a.thr = BitVec.ofNat 48 (c.k.seq * (2 * n) + n + s) ∧
      a.len = chunk ∧ (let j := (c.r + 1 + (n + 1) - s) % (n + 1); a.src = at_ (hBase c.k.recv) j ∧ a.dst = there j) ∧
      a.disp = 0 ∧ a.net = m.net ∧ a.rctr = c.k.base ∧ a.rinc = 1 ∧ a.lctr = c.k.base + 1 ∧ a.linc = 1)

/-- R321, R322: firing and completion of a triggered operation. One that may not fire yet stays armed; one that fires on a
poisoned counter does nothing and is faulted; CADD has nothing to do; COPY moves its bytes unchanged, or is faulted where they cannot
be read; PUT and RPUT queue their
message, of at most L bytes, on the connection of their target; on completion LCTR rises by LINC, or is poisoned. -/
def Obligations.TriggeredOperationsFire : Prop :=
  ∀ (s : State) (id : Nat) (a : Armed), tblGet s.coll.armed id = some a →
    let f := { a with fired := true }
    let s1 := s.setArmed (tblSet s.coll.armed id f)
    let is (t : State) (b : Armed) : Prop := tblGet t.coll.armed id = some b ∧
      ∀ j, j ≠ id → tblGet t.coll.armed j = tblGet s.coll.armed j
    -- HBM bytes are there for it, in reservation or as leftover (R290)
    let may := s1.mayHbm a.ctx = true
    let poisoned := (s.ctr a.ctx a.ctr).poison
    (a.fired = false → s.canFire id a = false → Runs (.triggeredOpFire id) s fun t => t = s) ∧
    ((s.ctx a.ctx).resident = false ∨ a.due = none → s.canFire id a = false) ∧
    (a.fired = false → a.spent = false → a.cause = 0 → s.canFire id a = true →
      (poisoned = true → Runs (.triggeredOpFire id) s fun t => is t { f with spent := true, cause := 2, peer := 0 } ∧
        t = { s with coll := { s.coll with armed := t.coll.armed } }) ∧
      (poisoned = false → a.op = 5 → Runs (.triggeredOpFire id) s fun t => is t { f with spent := true } ∧
        t = { s with coll := { s.coll with armed := t.coll.armed } }) ∧
      (∀ x s2 s3, poisoned = false → a.op = 1 → may → s1.readG (a.len / 64 + 2) a.ctx a.src a.len = .ok (x, s2) →
        s2.writeG (a.len / 64 + 2) a.ctx a.dst x = .ok s3 →
        Runs (.triggeredOpFire id) s fun t => is t { f with spent := true, off := a.len } ∧ t.mem = s3.mem ∧ OnlyAccounts s t) ∧
      -- a fault of COPY: the operation has faulted
      (poisoned = false → a.op = 1 → may → (∃ e, s1.readG (a.len / 64 + 2) a.ctx a.src a.len = .trap e) →
        Runs (.triggeredOpFire id) s fun t => is t { f with spent := true, cause := 2, peer := 0 }) ∧
      (∀ x s2 p, poisoned = false → a.op = 2 ∨ a.op = 3 → a.net = false → a.off = 0 → 0 < a.len → a.len ≤ s.cutLen a.ctx 1 → may →
        s1.readG (a.len / 64 + 2) a.ctx a.src a.len = .ok (x, s2) →
        let peer := a.dst.toNat / 2 ^ 52
        peer ≠ s.pkgId → (s.conn peer).down = false → s.homePort peer = some p → 0 < (s.port p).room peer →
        Runs (.triggeredOpFire id) s fun t => is t { f with spent := true, off := a.len, pend := a.pend + 1 } ∧
          t.mem = s2.mem ∧ OnlyAccounts s t ∧ ∃ o : OutMsg, o.own = .trig id ∧ o.ctx = a.ctx ∧ o.sent = false ∧
            o.cost = max 64 ((a.len + 63) / 64 * 64) ∧ o.m.op = (if a.op = 2 then 8 else 9) ∧ o.m.dst = peer ∧ o.m.addr = a.dst ∧
            o.m.data = x ∧ o.m.len = a.len ∧ le o.m.args 0 2 = a.rctr % 65536 ∧ le o.m.args 2 1 = a.redop % 256 ∧
            le o.m.args 3 1 = a.dtype % 256 ∧ le o.m.args 4 4 = a.rinc % 2 ^ 32 ∧ le o.m.args 8 8 = a.disp.toNat ∧
            tblGetD (t.port p).queues peer [] = tblGetD (s.port p).queues peer [] ++ [o])) ∧
    -- completion
    (a.fired = false ∨ a.spent = false ∨ a.pend ≠ 0 → Runs (.triggeredOpComplete id) s fun t => t = s) ∧
    (a.fired = true → a.spent = true → a.pend = 0 → a.coll = none → (∀ e ∈ s.coll.colls, e.2.ctx = a.ctx → e.2.running = false) →
      let u := s.setArmed (tblErase s.coll.armed id)
      let c := s.ctr a.ctx a.lctr
      (4096 ≤ a.lctr → Runs (.triggeredOpComplete id) s fun t => t = u) ∧
      (a.lctr < 4096 → a.cause = 0 → Runs (.triggeredOpComplete id) s fun t =>
        CounterIs u t a.ctx a.lctr { c with count := BitVec.ofNat 48 (c.count.toNat + a.linc) }) ∧
      (a.lctr < 4096 → a.cause ≠ 0 → Runs (.triggeredOpComplete id) s fun t =>
        CounterIs u t a.ctx a.lctr { c with poison := true }))

/-- A field of stage entry `k` of a pipeline descriptor (R351). -/
abbrev Sys2Proof.Claim.entry (b : List Byte) (k off n : Nat) : Nat := le b (64 + 64 * k + off) n
/-- A descriptor that keeps R350 and R351, for a launch with these levels, edges and task queues. -/
abbrev Sys2Proof.Claim.PipelineOk (b : List Byte) (l : Launch) : Prop :=
  let src := BitVec.ofNat 256 (le b 32 32)
  le b 0 1 < 16 ∧ le b 1 1 < 2 ∧ le b 2 2 < 4096 ∧ le b 2 2 < hdrN l.hdr 76 2 ∧ le b 4 1 < hdrN l.hdr 74 2 ∧ le b 5 1 < 8 ∧
  le b 5 1 < hdrN l.hdr 2 1 % 16 ∧ le b 6 2 = 0 ∧ 1 ≤ le b 16 8 ∧ le b 16 8 < 2 ^ 48 ∧
  handleOk src = true ∧ hSpace src = 0 ∧ hDense src = true ∧ hSpan src ≤ 2 ^ 30 ∧
  le b 8 8 + le b 16 8 ≤ hSpan src / entry b 0 40 4 ∧
  ∀ k, k < le b 0 1 % 16 + 1 →
    entry b k 0 8 % 8 = 0 ∧ entry b k 8 8 % 8 = 0 ∧ entry b k 16 8 % 32 = 0 ∧ entry b k 32 8 % 64 = 0 ∧
    entry b k 40 4 % 64 = 0 ∧ 64 ≤ entry b k 40 4 ∧ entry b k 40 4 ≤ 65536 ∧ 1 ≤ entry b k 44 2 ∧ entry b k 44 2 ≤ 256 ∧
    entry b k 46 1 ≤ 32 ∧ entry b k 47 1 = 0 ∧ entry b k 48 4 % 8 = 0 ∧ 8 ≤ entry b k 48 4 ∧ entry b k 48 4 ≤ 65536 ∧
    (entry b k 8 8 = 0 → entry b k 52 4 = 0) ∧
    (entry b k 8 8 ≠ 0 → entry b k 52 4 % 8 = 0 ∧ 8 ≤ entry b k 52 4 ∧ entry b k 52 4 ≤ 65536) ∧
    entry b k 56 2 ≤ 256 ∧ entry b k 58 6 = 0

/-- R350, R351, R354, R355: PBIND. A misaligned descriptor traps ALIGN; one that breaks R350 or R351 gives BADDESC, too few
pins NOPIN, no id NOID, too few nodes NOSTAGE, and no state is changed; otherwise the result is the lowest free id, the pins
are taken, and the binding joins the chosen instance from item max(START, n) on, pending, or forms a new one that runs from
START. The order of the codes is the model's reading (log 28). -/
def Sys2Proof.Claim.PipelineBind : Prop :=
  ∀ (s s0 s1 : State) (g : Guard) (d a : SReg) (l : Launch) (h e : List Byte), s.q.guard g = true →
    let addr := s.q.s a
    let i : Instr := .pbind g d a
    let k := some s.cur.slot
    let nst := le h 0 1 % 16 + 1
    let b := h ++ e
    let start := le b 8 8
    let answers (code : Nat) : Prop := Runs i s fun t => QSets s t d (BitVec.ofNat 64 (2 ^ 63 + code)) ∧ OnlyAccounts s t ∧
      t.graft = s.graft ∧ t.coll = s.coll ∧ t.mem = s.mem
    (addr.toNat % 64 ≠ 0 → Handled s → Traps i s 0x03 addr) ∧
    (addr.toNat % 64 = 0 → s.launchOf s.cx = some l → s.readG 2 s.cx addr 64 k = .ok (h, s0) →
      s0.readG 17 s.cx (addr + 64) (64 * nst) k = .ok (e, s1) → h.length = 64 →
      (¬PipelineOk b l → answers 1) ∧
      ∀ rs s2 pins, PipelineOk b l → s1.stageReads s.cx b (List.range nst) = .ok (rs, s2) →
        (∀ r ∈ rs, ∀ x ∈ r.hs, handleOk x = true ∧ hSpan x ≤ 2 ^ 30) → s2.bindPages s.cx b rs = .ok pins →
        (s2.pinRoom pins = false → answers 5) ∧
        (s2.pinRoom pins = true → tblFree s.graft.binds 64 = none → answers 2) ∧
        ∀ id isrc ids, s2.pinRoom pins = true → tblFree s.graft.binds 64 = some id → s2.identities s.cx b rs = (isrc, ids) →
          (s2.searchInst isrc ids start (le b 1 1 % 2 == 1) = none →
            (1024 < s.graft.stages.length + ids.length → answers 3) ∧
            (s.graft.stages.length + ids.length ≤ 1024 → (∀ n ∈ s.graft.stages, n.1 < 1024) →
              Runs i s fun t => QSets s t d (BitVec.ofNat 64 id) ∧
                (∀ p, tblGetD t.mem.pins p 0 = tblGetD s.mem.pins p 0 + pins.count p) ∧ t.mem.hbm = s.mem.hbm ∧
                ∃ v, tblGet t.graft.binds id = some v ∧ v.ctx = s.cx ∧ v.launch = l.serial ∧ v.bytes = b ∧ v.shared = 0 ∧
                  v.j0 = start ∧ v.last = start + le b 16 8 - 1 ∧ v.attached = true ∧ v.detaching = false ∧ v.pins = pins ∧
                  v.nodes.length = ids.length ∧
                  ∀ j n, v.nodes[j]? = some n → ∃ w, tblGet t.graft.stages n = some w ∧ some w.ident = ids[j]? ∧ w.k = j ∧
                    w.owners = [id] ∧ w.host = id ∧ w.first = start ∧ w.next = start ∧ w.fin = start)) ∧
          (∀ c, s2.searchInst isrc ids start (le b 1 1 % 2 == 1) = some c →
            s.graft.stages.length + (ids.length - c.path.length) ≤ 1024 → (∃ n, tblFree s.coll.groups 1024 = some n) →
            Runs i s fun t => QSets s t d (BitVec.ofNat 64 id) ∧ ∃ v, tblGet t.graft.binds id = some v ∧ v.ctx = s.cx ∧
              v.shared = c.path.length ∧ v.j0 = max start c.n ∧ v.attached = false ∧ v.nodes.take c.path.length = c.path ∧
              v.inst = c.inst))

/-- R355: the choice among the instances. With JOINLATE clear the chosen one has not passed START and shares at least as many
stages as every other that has not; with JOINLATE set it shares at least as many as any. -/
def Sys2Proof.Claim.PipelineSearch : Prop :=
  ∀ (s : State) (isrc : Word) (ids : List Word) (start : Nat) (late : Bool),
    (∀ c, s.searchInst isrc ids start late = some c → 1 ≤ c.path.length ∧ (late = false → c.n ≤ start) ∧
      ∀ r ∈ s.roots, late = true ∨ r.2.next ≤ start → (s.pathOf isrc ids r).length ≤ c.path.length ∧
        ((s.pathOf isrc ids r).length = c.path.length → late = false → c.n ≤ r.2.next)) ∧
    (s.searchInst isrc ids start late = none → ∀ r ∈ s.roots, late = true ∨ r.2.next ≤ start → s.pathOf isrc ids r = [])

/-- R359, R361: PUNBIND answers 0 and marks the binding of its context detaching, out of the owners of its nodes, and answers 1
otherwise with no other effect; PQUERY answers from the binding, and all ones where there is none or the query is unassigned. -/
def Sys2Proof.Claim.PipelineUnbindAndQuery : Prop :=
  ∀ (s : State) (g : Guard) (d a b : SReg), s.q.guard g = true →
    let k := (s.q.s a).toNat
    let q := (s.q.s b).toNat
    let all : Word := 0xFFFFFFFFFFFFFFFF
    ((tblGet s.graft.binds k = none ∨ ∃ v, tblGet s.graft.binds k = some v ∧ v.ctx ≠ s.cx) →
      Gives (.punbind g d a) s d 1 ∧ Gives (.pquery g d a b) s d all) ∧
    (∀ v, tblGet s.graft.binds k = some v → v.ctx = s.cx →
      -- it is being released already: by PUNBIND, or because its launch has ended (R359)
      (v.detaching = true ∨ (∃ l, s.launchOf s.cx = some l ∧ (l.serial ≠ v.launch ∨ l.ending ≠ none)) ∨ s.launchOf s.cx = none →
        Gives (.punbind g d a) s d 1) ∧
      (∀ l, v.detaching = false → s.launchOf s.cx = some l → l.serial = v.launch → l.ending = none → Runs (.punbind g d a) s fun t => QSets s t d 0 ∧
        tblGet t.graft.binds k = some { v with detaching := true, born := s.serial, left := true } ∧
        (∀ j, j ≠ k → tblGet t.graft.binds j = tblGet s.graft.binds j) ∧
        (∀ n w, tblGet s.graft.stages n = some w → n ∈ v.nodes →
          tblGet t.graft.stages n = some { w with owners := w.owners.filter (· != k) }) ∧
        (∀ n, n ∉ v.nodes → tblGet t.graft.stages n = tblGet s.graft.stages n) ∧
        t = { s with seqs := t.seqs, graft := t.graft, serial := s.serial + 1 }) ∧
      (q = 1 → Gives (.pquery g d a b) s d (BitVec.ofNat 64 v.j0)) ∧
      (q = 2 → Gives (.pquery g d a b) s d (BitVec.ofNat 64 v.pushed)) ∧
      (∀ n r w, q = 3 → v.nodes = n :: r → tblGet s.graft.stages n = some w →
        Gives (.pquery g d a b) s d (BitVec.ofNat 64 w.next)) ∧
      (∀ x, 256 ≤ q → q < 256 + (le v.bytes 0 1 % 16 + 1) → v.ids[q - 256]? = some x → Gives (.pquery g d a b) s d x) ∧
      (q = 511 → Gives (.pquery g d a b) s d v.isrc) ∧
      (3 < q → q < 256 → Gives (.pquery g d a b) s d all) ∧
      (256 + (le v.bytes 0 1 % 16 + 1) ≤ q → q ≠ 511 → Gives (.pquery g d a b) s d all) ∧
      (∀ n r w l, q = 0 → v.nodes = n :: r → tblGet s.graft.stages n = some w → s.launchOf s.cx = some l →
        let gone := v.detaching = true ∨ l.serial ≠ v.launch ∨ l.ending ≠ none
        ∃ st, Gives (.pquery g d a b) s d (BitVec.ofNat 64
            (st + v.shared * 2 ^ 8 + (le v.bytes 0 1 % 16 + 1) * 2 ^ 16 + w.owners.length * 2 ^ 24)) ∧
          (gone → st = 3) ∧ (¬gone → v.faulted = true → st = 4) ∧
          (v.faulted = false → ¬gone → v.attached = false → st = 0) ∧
          (v.faulted = false → ¬gone → v.attached = true → (v.j0 + v.pushed ≤ v.last → st = 1) ∧
            (v.last < v.j0 + v.pushed → st = 2))))

/-- As `Reachable`, for any context. -/
abbrev Sys2Proof.Claim.ReachableBy (s : State) (c : Nat) (a : Word) (kind : Access) (n : Nat) (l : Leaf) : Prop :=
  s.translate c a kind = .ok l ∧ s.stackAt l.pa = .ready ∧ s.mem.ue = [] ∧
  (lines64 l.pa n).any (fun x => s.foreign x (s.keyVal l.key)) = false
/-- The launch of a context becomes `l`; nothing else of any context changes but accounts. -/
def Sys2Proof.Claim.LaunchOf (s t : State) (c : Nat) (l : Launch) : Prop :=
  t.launchOf c = some l ∧ (∀ d, d ≠ c → t.ctx d = { s.ctx d with accts := (t.ctx d).accts }) ∧
  t.ctx c = { s.ctx c with accts := (t.ctx c).accts, launch := some l }

/-- R356, R357, R359: the engine attaches a binding once its instance has quiesced; starts the task of a node for an item, as a
record in queue TQ of the host's launch; pushes an item that the last stage has produced onto OUTEDGE; and frees a released
binding of which no task runs and whose nodes no binding to be attached shares. When an instance has quiesced, an item is at hand and a slot is free is as the model reads it
(log 28). -/
def Obligations.GraftEngine : Prop :=
  ∀ (s : State) (k : Nat) (b : Bind), tblGet s.graft.binds k = some b →
    -- ATTACH
    (b.attached = false → s.bindGone b = false → s.firstChange b = true →
      s.quiesced b.inst (if b.shared = 0 then none else b.nodes[b.shared - 1]?) = true → b.nodes.Nodup →
      Runs (.attach k) s fun t => tblGet t.graft.binds k = some { b with attached := true } ∧
        (∀ j, j ≠ k → tblGet t.graft.binds j = tblGet s.graft.binds j) ∧
        (∀ j n w, b.nodes[j]? = some n → tblGet s.graft.stages n = some w →
          tblGet t.graft.stages n = some { w with owners := if j < b.shared then w.owners ++ [k] else [k] }) ∧
        (∀ n, n ∉ b.nodes → tblGet t.graft.stages n = tblGet s.graft.stages n) ∧ t = { s with graft := t.graft }) ∧
    (b.attached = true ∨ s.bindGone b = true → Runs (.attach k) s fun t => t = s) ∧
    -- STAGE TASK START
    (∀ node v l item lw, tblGet s.graft.stages node = some v → v.host = k → v.owners ≠ [] → s.launchOf b.ctx = some l →
      l.serial = b.launch → l.ending = none → b.faulted = false → (b.detaching = true → ∃ o ∈ v.owners, o ≠ k) →
      v.started item = false → v.first ≤ item → item ≤ s.lastOf v → item < 2 ^ 64 →
      (v.k = 0 → item = v.next ∧ s.changing v.inst = false) → s.inputAt v b item = true → s.slotFree k b v.k item = true →
      let n := le b.bytes 4 1
      let depth := 2 ^ hdrN l.hdr 73 1
      let tq := tblGetD l.tqs n {}
      let ring := hdrW l.hdr 56 + BitVec.ofNat 64 ((n * depth + tq.tail % depth) * 64)
      let input : Word := if v.k = 0 then BitVec.ofNat 64 (le b.bytes 32 8) + BitVec.ofNat 64 (item * entry b.bytes 0 40 4)
        else BitVec.ofNat 64 (entry b.bytes (v.k - 1) 32 8) +
          BitVec.ofNat 64 (item % entry b.bytes (v.k - 1) 44 2 * entry b.bytes (v.k - 1) 40 4)
      tq.items.length < depth → ring.toNat % 64 = 0 → ReachableBy s b.ctx ring .write 64 lw →
      Runs (.stageTaskStart node item) s fun t => ∃ l' r, LaunchOf s t b.ctx l' ∧ l' = { l with tqs := l'.tqs } ∧
        (∀ m, m ≠ n → tblGetD l'.tqs m {} = tblGetD l.tqs m {}) ∧
        tblGetD l'.tqs n {} = { tail := tq.tail + 1, items := tq.items ++ [
          { bytes := r, level := le b.bytes 5 1 % 8, idx := b.idx, s8 := List.replicate 8 0, stage := some (node, item)
            s3 := BitVec.ofNat 64 (entry b.bytes v.k 32 8) +
              BitVec.ofNat 64 (item % entry b.bytes v.k 44 2 * entry b.bytes v.k 40 4) }] } ∧
        le r 0 8 = entry b.bytes v.k 8 8 ∧ le r 8 8 = entry b.bytes v.k 0 8 ∧ le r 16 8 = item ∧ le r 24 8 = input.toNat ∧
        le r 32 8 = entry b.bytes v.k 16 8 ∧ le r 40 8 = 0 ∧ le r 48 8 = le b.bytes 5 1 % 8 + 256 * entry b.bytes v.k 46 1 ∧
        le r 56 8 = 0 ∧ t.mem.hbm.readBytes lw.pa 64 = r ∧
        (∀ x, ¬(lw.pa ≤ x ∧ x < lw.pa + 64) → t.mem.hbm.read x = s.mem.hbm.read x) ∧
        (∃ w, tblGet t.graft.stages node = some w ∧ w.started item = true ∧ w.owners = v.owners ∧ w.host = v.host) ∧
        ∀ m, m ≠ node → tblGet t.graft.stages m = tblGet s.graft.stages m) ∧
    -- a push by BRANCH COPY
    (∀ l e v lw, b.attached = true → s.bindGone b = false → b.faulted = false → b.j0 + b.pushed ≤ b.last →
      s.produced k b (b.j0 + b.pushed) = true → (∀ j, s.copiesAt k b j = false) → s.launchOf b.ctx = some l →
      e = le b.bytes 2 2 % 4096 → tblGet l.edges e = some v → v.resF < v.free → v.ds = false →
      let at_ := v.ring + BitVec.ofNat 64 (8 * (v.tail % v.cap))
      at_.toNat % 8 = 0 → ReachableBy s b.ctx at_ .write 8 lw → b.j0 + b.pushed < 2 ^ 64 →
      Runs (.branchCopy k (b.j0 + b.pushed)) s fun t => tblGet t.graft.binds k = some { b with pushed := b.pushed + 1 } ∧
        t.mem.hbm.readLE lw.pa 8 = b.j0 + b.pushed ∧
        (∀ x, ¬(lw.pa ≤ x ∧ x < lw.pa + 8) → t.mem.hbm.read x = s.mem.hbm.read x) ∧
        ∃ l', LaunchOf s t b.ctx l' ∧ l' = { l with edges := l'.edges } ∧
          tblGet l'.edges e = some { v with free := v.free - 1, tail := v.tail + 1, items := v.items + 1 } ∧
          ∀ m, m ≠ e → tblGet l'.edges m = tblGet l.edges m) ∧
    -- DETACH COMPLETE
    (s.bindGone b = true → b.left = true → s.keptFor k = false →
      (∀ e ∈ s.graft.stages, e.2.host = k → e.2.owners = []) →
      (∀ e ∈ s.graft.stages, e.2.host = k → s.nodeLive e.1 = false) → (∀ e ∈ s.mem.keys, e.2.dying = false) →
      Runs (.detachComplete k) s fun t => tblGet t.graft.binds k = none ∧
        (∀ j, j ≠ k → tblGet t.graft.binds j = tblGet s.graft.binds j) ∧
        (∀ n v, tblGet t.graft.stages n = some v → v.host ≠ k) ∧
        (∀ p, tblGetD t.mem.pins p 0 = tblGetD s.mem.pins p 0 - b.pins.count p) ∧ t.mem.hbm = s.mem.hbm) ∧
    (s.bindGone b = false → Runs (.detachComplete k) s fun t => t = s)

/-- R305, R311, R312, R14, R286: an asynchronous cause is taken at a boundary outside a handler, a machine check first and the
others in ascending order of their codes, before anything else completes the wait that stands there; a pre-emption waits for both boundaries, for a locked window and for running records,
and then saves the slot and frees it; a restore brings a saved group and its task back on any core that can take them. -/
def Obligations.AsynchronousCausesAndPreemption : Prop :=
  ∀ (s : State),
    -- ASYNC TRAP TAKEN
    (∀ q : SeqRef, (s.seq q).held ≠ [] → (s.seq q).stopped = false → (s.seq q).intrap = false → (s.seq q).tvec.getLsbD 0 = true →
      (s.slot q.slot).halted = false → ((s.seq q).wait = none ∨ ∃ w : Wait, (s.seq q).wait = some w ∧ w.held = none ∧
        ((∃ g a k v, w.ins = .semwait g a k v) ∨ (∃ g a, w.ins = .waitt g a) ∨ (∃ g n a, w.ins = .aqpush g n a) ∨
          (∃ g n d, w.ins = .aqpop g n d) ∨ (∃ g d sc, w.ins = .fence g d sc) ∨ (∃ g cc sp wd d a b, w.ins = .poll g cc sp wd d a b))) →
      (∀ e ∈ (s.core (q.slot / 4)).scopeQ, e.1 ≠ .seq q) →
      -- a second machine check would meet INTRAP 1 at once
      ((s.seq q).held.filter (fun h => h.code == 0x20)).length ≤ 1 →
      let u := s.spinAccrue q.slot
      ∃ h, h ∈ (s.seq q).held ∧ (∀ j ∈ (s.seq q).held, h.code = 0x20 ∨ (j.code ≠ 0x20 ∧ h.code ≤ j.code)) ∧
        Runs (.asyncTrapTaken q) s fun t =>
          t.seq q = { s.seq q with
            held := (s.seq q).held.erase h, epc := (s.seq q).pc &&& ~~~7, cause := BitVec.ofNat 9 (h.code + 256), eval := h.eval,
            intrap := true, wait := none, timecmp := 0, pc := (s.seq q).tvec &&& ~~~7 } ∧
          (∀ r, r ≠ q → t.seq r = u.seq r) ∧ t.slot q.slot = { u.slot q.slot with lockend := 0 } ∧
          (∀ k, k ≠ q.slot → t.slot k = s.slot k) ∧ t = { u with seqs := t.seqs, slots := t.slots }) ∧
    -- until then nothing else completes the wait
    (∀ (w : Wait), s.q.held ≠ [] → s.q.intrap = false → s.q.wait = some w →
      (∀ g a k v, w.ins = .semwait g a k v → Runs (.semwaitPass s.cur) s fun t => t = s) ∧
      (∀ g a, w.ins = .waitt g a → Runs (.waittComplete s.cur) s fun t => t = s) ∧
      (∀ g a n, w.ins = .waittLock g a n → Runs (.waittLockComplete s.cur) s fun t => t = s) ∧
      (∀ g n a, w.ins = .aqpush g n a → Runs (.aqpushRoom s.cur) s fun t => t = s) ∧
      (∀ g n d, w.ins = .aqpop g n d → Runs (.aqpopData s.cur) s fun t => t = s) ∧
      (∀ g d sc, w.ins = .fence g d sc → Runs (.fenceComplete s.cur) s fun t => t = s) ∧
      (∀ g d, w.ins = .fenceE g d → Runs (.fenceEComplete s.cur) s fun t => t = s) ∧
      (∀ g cc sp wd d a b, w.ins = .poll g cc sp wd d a b → Runs (.pollPass s.cur) s fun t => t = s)) ∧
    (∀ q : SeqRef, (s.seq q).held = [] ∨ (s.seq q).stopped = true ∨ (s.seq q).intrap = true → Runs (.asyncTrapTaken q) s fun t => t = s) ∧
    -- PREEMPTION
    (∀ k : Nat, ((s.slot k).lockend ≠ 0 ∨ ((s.slot k).stopReq = false ∧ ((s.slot k).preReq = false ∨ s.quiet k = false))) →
      Runs (.preemption k) s fun t => t = s) ∧
    (∀ (k : Nat) (tk : Task), let a : SeqRef := { slot := k, x := false }; let x : SeqRef := { slot := k, x := true }
      (s.slot k).task = some tk → (s.slot k).lockend = 0 → (s.seq a).wait = none → (s.seq x).wait = none →
      ((s.slot k).stopReq = false → (s.slot k).preReq = true → s.quiet k = true →
        Runs (.preemption k) s fun t => t.slot k = { gen := (s.slot k).gen + 1 } ∧ t.seq a = {} ∧ t.seq x = {} ∧
          (∀ j, j ≠ k → t.slot j = s.slot j) ∧ (∀ r, r ≠ a → r ≠ x → t.seq r = s.seq r) ∧ t.mem.hbm = s.mem.hbm ∧
          ∃ sv, (t.ctx tk.ctx).savedSlots = (s.ctx tk.ctx).savedSlots ++ [sv] ∧ sv.grp = tk.grp ∧
            sv.a = { s.seq a with loopBuf := [] } ∧ sv.x = { s.seq x with loopBuf := [] } ∧
            sv.slot.task = some tk ∧ sv.slot.masks = (s.slot k).masks ∧ sv.slot.vshape = (s.slot k).vshape ∧
            sv.slot.hazcnt = (s.slot k).hazcnt ∧ sv.slot.aq0 = (s.slot k).aq0 ∧ sv.slot.aq1 = (s.slot k).aq1 ∧
            sv.slot.aq2 = (s.slot k).aq2 ∧ sv.slot.aq3 = (s.slot k).aq3 ∧ sv.slot.halted = (s.slot k).halted ∧
            sv.slot.qmx.map (·.r) = (s.slot k).qmx.map (·.r) ∧ (∀ q ∈ sv.slot.qmx ++ sv.slot.qvx ++ sv.slot.qcx ++ sv.slot.qae, q.pins = []) ∧
            sv.slot.scope.map (·.mem) = (s.slot k).scope.map (·.mem)) ∧
      ((s.slot k).stopReq = true → tk.ended = false → Runs (.preemption k) s fun t =>
        (t.seq a).stopped = true ∧ (t.seq x).stopped = true ∧ (t.slot k).qmx = [] ∧ (t.slot k).qvx = [] ∧ (t.slot k).qcx = [] ∧
        (t.slot k).qae = [])) ∧
    -- CONTEXT RESTORE
    (∀ c : Nat, (s.ctx c).admitted = false ∨ (s.ctx c).resident = true → ∀ cores, Runs (.contextRestore c cores) s fun t => t = s) ∧
    (∀ c : Nat, (s.ctx c).admitted = true → (s.ctx c).resident = false → (s.ctx c).savedGrps = [] → (s.ctx c).stash = [] →
      (s.ctxs.filter (fun e => e.1 != 0 && e.2.resident)).length < s.shr.resmax →
      Runs (.contextRestore c []) s fun t => t.ctx c = { s.ctx c with resident := true, admitted := false } ∧
        (∀ d, d ≠ c → t.ctx d = s.ctx d) ∧ t = { s with ctxs := t.ctxs }) ∧
    (∀ (c core k : Nat) (rest : List Nat) (v : SavedGrp) (w : SavedSlot) (l : Launch),
      (s.ctx c).admitted = true → (s.ctx c).resident = false → (s.ctx c).savedGrps = [v] → (s.ctx c).savedSlots = [w] → w.grp = v.key →
      (s.ctx c).stash = [] → (s.ctxs.filter (fun e => e.1 != 0 && e.2.resident)).length < s.shr.resmax →
      (s.ctx c).launch = some l → l.ending = none → s.canTake core v.grp.mask v.grp.mxUse = true →
      s.freeSlots core = k :: rest → (s.grps.any (fun e => e.2.ctx == c)) = false →
      l.dsUnits ≤ s.dsFree (core / 32) → w.slot.scope = none → w.slot.qmx = [] → w.slot.qvx = [] → w.slot.qcx = [] → w.slot.qae = [] →
      Runs (.contextRestore c [core]) s fun t => (t.ctx c).resident = true ∧ (t.ctx c).admitted = false ∧
        (t.ctx c).savedGrps = [] ∧ (t.ctx c).savedSlots = [] ∧ (t.ctx c).sems = (s.ctx c).sems ∧ (t.ctx c).pen = (s.ctx c).pen ∧
        t.grp v.key = some { v.grp with core := core, placed := s.serial, since := s.now } ∧
        -- an engine of another core, or another die's AE, has not served the slot yet (R13)
        t.slot k = { w.slot with
          gen := (s.slot k).gen, stopReq := false,
          servMx := if w.from_ / 4 = core then w.slot.servMx else 0, servVx := if w.from_ / 4 = core then w.slot.servVx else 0,
          servCx := if w.from_ / 4 = core then w.slot.servCx else 0,
          servAe := if w.from_ / 128 = core / 32 then w.slot.servAe else 0 } ∧
        t.seq { slot := k, x := false } = w.a ∧ t.seq { slot := k, x := true } = w.x ∧
        (v.grp.mxUse = true → (t.core core).plane0 = v.plane0 ∧ (t.core core).plane1 = v.plane1 ∧ (t.core core).acc = v.acc ∧
          (t.core core).active = v.active ∧ (t.core core).mxGrp = some v.key) ∧
        (∀ j, j ≠ k → t.slot j = s.slot j) ∧ t.mem = { s.mem with ue := t.mem.ue } ∧
        ∀ x, x ∈ t.mem.ue ↔ x ∈ s.mem.ue ∧ ¬((∃ n, x = .tileWord k n) ∨ (∃ b n, x = .bankWord v.key b n) ∨
          ∃ n, x = .dsWord c v.grp.vdie n))

/-- R43, R52, R53, R87, R172, R302, R310: a word that is no instruction traps ILL with its sub-cause and changes nothing; a fetch that fails
translation traps precisely at the word. An uncorrectable error in a sequencer's state, an architectural queue or a queued
record ends the task unhandled even with a handler, and sends an event record of type 0x04, and one in a sequencer's state fences
the die (R394); one in storage that is read later waits there; one of no context is scrubbed, with a record of type 0x05; CECNT
counts one that ECC corrects. That an error of an architectural queue is charged to the X sequencer is the model's reading (log 30), and
so is the fence of the die (log 26). -/
def Obligations.FetchFaultsAndMachineChecks : Prop :=
  ∀ (s : State),
    (∀ (w : Word) (e : Reject), decode w 0 = .error e → Handled s → Traps (.unassignedEncoding w) s 0x01 (0xFF00 +
      match e with | .major => 1 | .fn => 2 | .reserved => 3 | .operand => 4 | .allOnes => 6 | .truncated => 2)) ∧
    (∀ t : Trp, Handled s → tblGet s.q.loopBuf s.q.pc.toNat = none → s.translate s.cx s.q.pc .fetch = .trap t → t.code ≠ 0x20 →
      Traps (.instructionFetchFault s.cur) s t.code t.eval) ∧
    (∀ (q : SeqRef) (loc : UeLoc) (src : Nat) (tk : Task) (l : Launch),
      (loc = .seqState q ∧ src = 5) ∨ (loc = .queueState q.slot ∧ q.x = true ∧ src = 5) ∨
        (∃ e r rest, loc = .record e q.slot ∧ (s.slot q.slot).queue e = r :: rest ∧ r.who = q ∧ src = 6) →
      (s.slot q.slot).task = some tk → (s.ctx tk.ctx).launch = some l → l.ending = none → (∀ e ∈ s.mem.keys, e.2.dying = false) →
      let d := q.slot / 128
      let saying (t : State) : Prop := Emits s t 4 tk.ctx (bytesOfLE 8 (src * 2 ^ 56 + 2 ^ 55))
      Runs (.uncorrectableError loc) s fun t =>
        (∃ l', (t.ctx tk.ctx).launch = some l' ∧
          l'.ending = some (6, { core := q.slot / 4, slot := q.slot % 4, cause := 0x120, epc := (s.seq q).pc,
                                 eval := BitVec.ofNat 64 (src * 2 ^ 56 + 2 ^ 55) })) ∧
        (loc ≠ .seqState q → saying t ∧ ∀ x, (t.seq { slot := q.slot, x := x }).stopped = true) ∧
        -- an error in a sequencer's state fences its die too (R394)
        (loc = .seqState q → (s.die d).fenced = false → d < (if s.vond8 then 8 else 4) →
          (t.die d).fenced = true ∧ (t.die d).ready = false ∧ (t.slot q.slot).task = none ∧ ∃ u, saying u ∧ ∃ more, t.out = u.out ++ more)) ∧
    (∀ loc : UeLoc, (∃ g b w, loc = .bankWord g b w ∧ s.grp g ≠ none) ∨ (∃ c v w, loc = .dsWord c v w ∧ s.launchOf c ≠ none) ∨
        (∃ k w, loc = .tileWord k w ∧ (s.slot k).scope ≠ none) ∨ (∃ c e, loc = .stashEntry c e ∧ tblGet (s.ctx c).stash e ≠ none) ∨
        (∃ n, loc = .hbmLine n) → loc ∉ s.mem.ue →
      Runs (.uncorrectableError loc) s fun t => t = { s with mem := { s.mem with ue := s.mem.ue ++ [loc] } }) ∧
    (∀ (src : BitVec 8) (addr : BitVec 48), Runs (.uncorrectableError (.unowned src addr)) s fun t =>
      Emits s t 5 0xFFFF (bytesOfLE 8 (src.toNat * 2 ^ 56 + addr.toNat)) ∧ t.mem = s.mem ∧ t.seqs = s.seqs ∧ t.slots = s.slots ∧ t.grps = s.grps ∧ t.ctxs = s.ctxs) ∧
    (∀ q : SeqRef, (s.slot q.slot).task = none → ∀ loc, loc = .seqState q ∨ loc = .queueState q.slot →
      Runs (.uncorrectableError loc) s fun t => Emits s t 5 0xFFFF (bytesOfLE 8 (5 * 2 ^ 56)) ∧ t.mem = s.mem ∧ t.seqs = s.seqs) ∧
    (Runs (.uncorrectableError .corrected) s fun t =>
      let n := if s.preg.cecnt = BitVec.allOnes 64 then s.preg.cecnt else s.preg.cecnt + 1
      t = { s with preg := { s.preg with cecnt := n } })

/-- A record may start (R213, R311, R314): no debug halt, no pre-emption that has reached the engines, and its wait passes. -/
def Sys2Proof.Claim.MayBegin (s : State) (k : Nat) (q : QRec) : Prop :=
  let m := s.sem q.ctx (rWsem q.r)
  (s.slot k).halted = false ∧ ((s.slot k).preReq = false ∨ (s.slot k).lockend ≠ 0) ∧
  (rNw q.r = true ∨ (m.poison = false ∧ (m.count.toNat + 2 ^ 16 - (rWthr q.r).toNat) % 2 ^ 16 < 2 ^ 15))
/-- The record as it runs before its first issue: done at once where a trip count is 0 (R39), its operands staged unless the
fetcher has to copy them (R161). -/
def Sys2Proof.Claim.begun (q : QRec) : Run :=
  { q := q, done := rIssues q.r == 0, staged := if rEng q.r = 0 ∧ mFetches q = true then 0 else rIssues q.r }
/-- The slot's task goes on. -/
def Sys2Proof.Claim.Alive (s : State) (k : Nat) : Prop := ∃ tk : Task, (s.slot k).task = some tk ∧ tk.ended = false

/-- R13, R182, R213, R217: the head record of a queue starts when its wait passes and its engine is free of the record before
it, which lands, with what the operand fetcher has staged ahead for it; a CX record takes the lowest free channel when its core chooses its slot; a wait that has met poison retires
the record, and its semaphore takes the root cause. -/
def Sys2Proof.Claim.RecordsStart : Prop :=
  ∀ (s : State) (e : Eng) (k : Nat) (q : QRec) (rest : List QRec), (s.slot k).queue e = q :: rest →
    let m := s.sem q.ctx (rWsem q.r)
    -- what the operand fetcher has staged ahead of the start stands ready (R161)
    let run : Run := match tblGet (s.slot k).ahead q.serial with
      | none => begun q
      | some a => { begun q with staged := a.staged, stage := a.stage, fetchBad := a.fetchBad }
    let sl : Slot := { s.slot k with ahead :=
      if (tblGet (s.slot k).ahead q.serial).isNone then (s.slot k).ahead else tblErase (s.slot k).ahead q.serial }
    (MayBegin s k q → e ≠ .cx →
      ((s.slot k).run e = none → Runs (.recordStart e k) s fun t =>
        t.slot k = (sl.setQueue e rest).setRun e (some run) ∧ (∀ j, j ≠ k → t.slot j = s.slot j) ∧
        t = { s with slots := t.slots }) ∧
      (∀ r : Run, (s.slot k).run e = some r → r.done = true → Runs (.recordStart e k) s fun t =>
        t.slot k = { (sl.setQueue e rest).setRun e (some run) with landing := (s.slot k).landing ++ [r] } ∧
        (∀ j, j ≠ k → t.slot j = s.slot j) ∧ t = { s with slots := t.slots }) ∧
      (∀ r : Run, (s.slot k).run e = some r → r.done = false → Runs (.recordStart e k) s fun t => t = s)) ∧
    (MayBegin s k q → e = .cx →
      (∀ c, tblFree (s.core (k / 4)).ch 4 = some c → s.cxChosen (k / 4) = some k → Runs (.recordStart e k) s fun t =>
        (t.slot k).queue .cx = rest ∧ (∀ j, j ≠ k → t.slot j = s.slot j) ∧
        tblGet (t.core (k / 4)).ch c = some (begun q) ∧
        t.core (k / 4) = { s.core (k / 4) with ch := (t.core (k / 4)).ch } ∧ (∀ d, d ≠ c → tblGet (t.core (k / 4)).ch d = tblGet (s.core (k / 4)).ch d) ∧
        (∀ j, j ≠ k / 4 → t.core j = s.core j) ∧ t = { s with slots := t.slots, cores := t.cores, serial := s.serial + 1 }) ∧
      ((∀ c, c < 4 → tblGet (s.core (k / 4)).ch c ≠ none) → Runs (.recordStart e k) s fun t => t = s)) ∧
    ((s.slot k).halted = true ∨ ((s.slot k).preReq = true ∧ (s.slot k).lockend = 0) ∨
      (rNw q.r = false ∧ m.poison = false ∧ ¬(m.count.toNat + 2 ^ 16 - (rWthr q.r).toNat) % 2 ^ 16 < 2 ^ 15) →
      Runs (.recordStart e k) s fun t => t = s) ∧
    ((s.slot k).halted = false → (s.slot k).preReq = false → rNw q.r = false → m.poison = true → q.pins = [] → q.who.slot = k →
      tblGet (s.slot k).ahead q.serial = none →
      Alive s k → (s.seq q.who).stopped = false →
      Runs (.recordStart e k) s fun t => t.slot k = (s.slot k).setQueue e rest ∧
        t.seq q.who = { s.seq q.who with recFault := true
                                         held := (s.seq q.who).held ++
                                           [{ code := 9, eval := BitVec.ofNat 64 (m.cause.toNat * 2 ^ 8 + rWsem q.r + 2 ^ 16) }] } ∧
        (∀ r, r ≠ q.who → t.seq r = s.seq r) ∧
        (∀ c j, ¬(c = q.ctx ∧ j = rSsem q.r) ∨ rNs q.r = true → t.sem c j = s.sem c j) ∧
        (rNs q.r = false → t.sem q.ctx (rSsem q.r) = if (s.sem q.ctx (rSsem q.r)).poison then s.sem q.ctx (rSsem q.r)
          else { s.sem q.ctx (rSsem q.r) with poison := true, cause := m.cause }))

/-- R174, R212, R214, R216, R235: a record that has performed its last issue retires and applies its signal once, its
increment SINC or the bytes it wrote in units of 64; a faulted one poisons its semaphore, or, with NS set, raises its cause at
the sequencer that enqueued it: ENGFAULT for a page that failed when its pins were taken again (R177). -/
def Sys2Proof.Claim.RecordsRetire : Prop :=
  ∀ (s : State) (e : Eng) (k ch : Nat) (r : Run), r.done = true → r.q.who.slot = k → r.q.pins = [] → Alive s k →
    tblGet (s.slot k).ahead r.q.serial = none →
    ((e ≠ .cx ∧ (s.slot k).landing = [] ∧ (s.slot k).run e = some r) ∨ (e = .cx ∧ tblGet (s.core (k / 4)).ch ch = some r)) →
    (rEng r.q.r = 0 → rOp r.q.r ≠ 6) →
    let q := r.q
    let m := s.sem q.ctx (rSsem q.r)
    let gone (t : State) : Prop := (e ≠ .cx → t.slot k = { (s.slot k).setRun e none with moved := s.now }) ∧
      (e = .cx → t.slot k = { s.slot k with moved := s.now } ∧
      t.core (k / 4) = { s.core (k / 4) with ch := (t.core (k / 4)).ch } ∧ tblGet (t.core (k / 4)).ch ch = none ∧ ∀ c, c ≠ ch → tblGet (t.core (k / 4)).ch c = tblGet (s.core (k / 4)).ch c) ∧
      (∀ j, j ≠ k → t.slot j = s.slot j) ∧ t.mem = s.mem ∧ t.grps = s.grps
    let sems (t : State) (x : Sem) : Prop := t.sem q.ctx (rSsem q.r) = x ∧
      ∀ c j, ¬(c = q.ctx ∧ j = rSsem q.r) → t.sem c j = s.sem c j
    (r.fault = none → r.sigDone = false → rNs q.r = false → Runs (.recordRetire e k ch) s fun t => gone t ∧ t.seqs = s.seqs ∧
      sems t { m with count := m.count + (if rSb q.r then BitVec.ofNat 16 ((s.recBytes q + 63) / 64) else rSinc q.r) }) ∧
    (r.fault = none → r.sigDone = true ∨ rNs q.r = true → Runs (.recordRetire e k ch) s fun t => gone t ∧ t.seqs = s.seqs ∧
      sems t m) ∧
    (∀ c v, r.fault = some (c, v) →
      (rNs q.r = false → Runs (.recordRetire e k ch) s fun t => gone t ∧
        t.seq q.who = { s.seq q.who with recFault := true } ∧ (∀ x, x ≠ q.who → t.seq x = s.seq x) ∧
        sems t (if m.poison then m else { m with poison := true, cause := BitVec.ofNat 8 c })) ∧
      (rNs q.r = true → (s.seq q.who).stopped = false → c ≠ 0x20 → Runs (.recordRetire e k ch) s fun t => gone t ∧
        t.seq q.who = { s.seq q.who with recFault := true, held := (s.seq q.who).held ++
          [if c = 4 then { code := 0x0A, eval := BitVec.ofNat 64 (rOpc q.r) } else { code := c, eval := v }] } ∧
        (∀ x, x ≠ q.who → t.seq x = s.seq x) ∧ sems t m))

/-- An account pays for `n` at the start of an issue (R290): from AVAIL while it is positive, otherwise as leftover where the
gauge allows it; only the task's own context pays (R358 has the case of a shared stage task). -/
def Sys2Proof.Claim.Pays (s t : State) (k ctx res inst n : Nat) : Prop :=
  let a := (s.ctx ctx).acct res inst
  (∀ tk : Task, (s.slot k).task = some tk → tk.stage = none) → (t.ctx ctx).acct res inst =
    if n = 0 then a else if a.avail ≤ 0 ∧ (s.ctx ctx).gauge.lo = true then { a with loused := a.loused + n }
    else { a with avail := a.avail - n, chg := a.chg + n }
/-- The running MX record `r` of slot `k` is of op `op`, has its next issue staged, and R13 serves its slot. -/
def Sys2Proof.Claim.MxReady (s : State) (k op : Nat) (r : Run) : Prop :=
  (s.slot k).rmx = some r ∧ r.done = false ∧ r.next < r.staged ∧ s.serves .mx k = true ∧ rOp r.q.r = op ∧ r.q.who.slot = k ∧
  r.q.freeScales = false ∧ r.blk = []
/-- The state in which the issue reads: the slot has been served and the issue charged. -/
def Sys2Proof.Claim.mxStart (s : State) (k : Nat) (r : Run) : State :=
  (s.serve .mx k).chargeT k r.q.ctx 0 (k / 4) (mCost r.q r.next)
/-- The issue is performed: the record stands at the next one, or is done after its last; nothing differs but the account,
the core's matrix engine and the banks. -/
def Sys2Proof.Claim.MxIssued (s t : State) (k : Nat) (r : Run) (cost : Nat) : Prop :=
  t.slot k = { s.slot k with
    rmx := some { r with next := r.next + 1, done := r.next + 1 == rIssues r.q.r, stage := tblErase r.stage r.next }
    servMx := s.serial } ∧
  (∀ j, j ≠ k → t.slot j = s.slot j) ∧ (∀ j, j ≠ k / 4 → t.core j = s.core j) ∧ OnlyAccounts s t ∧
  Pays s t k r.q.ctx 0 (k / 4) cost ∧
  t = { s with slots := t.slots, ctxs := t.ctxs, cores := t.cores, grps := t.grps, serial := s.serial + 1 }
/-- Operand A of the issue, element by element: read where the record says, or staged by the fetcher (R161). -/
def Sys2Proof.Claim.AReads (u : State) (r : Run) (n : Nat) (pos : Nat → Int) (x : Nat → Nat) : Prop :=
  (mFetches r.q = false ∧ ∀ i, i < n → u.mxRead r.q r.q.opA (pos i) = .ok (x i, 0)) ∨
  (mFetches r.q = true ∧ tblGet r.stage r.next = some (0, (List.range n).map x))
/-- A faulting issue ends the record, with OPC and the issue in EVAL (R216, R302). -/
def Sys2Proof.Claim.MxFaults (s t : State) (k : Nat) (r : Run) : Prop :=
  t.slot k = { s.slot k with
    rmx := some { r with done := true, fault := some (0x0A, BitVec.ofNat 64 ((r.q.r.extractLsb' 0 16).toNat + r.next % 2 ^ 32 * 2 ^ 16)) }
    servMx := s.serial } ∧
  (∀ j, j ≠ k → t.slot j = s.slot j) ∧ t.cores = s.cores ∧ t.grps = s.grps ∧ t.mem = s.mem ∧ t.seqs = s.seqs ∧ OnlyAccounts s t

/-- R148, R153, R154, R157, R161: MX.LDW writes a 64 × 64 tile into the shadow plane, which .ACT then makes the active one;
MX.ACCLR zeroes its column blocks; the operand fetcher stages the next tile of a handle, for a running record or ahead
of the start of a queued one, and is charged for its bytes. -/
def Sys2Proof.Claim.MatrixWeightsAndClears : Prop :=
  ∀ (s : State) (k : Nat) (r : Run) (x : Nat → Nat),
    let q := r.q
    let u := mxStart s k r
    let c := s.core (k / 4)
    let f := mFmt q.opA
    let at_ (n : Nat) (i : Nat) : Int := mBase q q.opA (descA q.r) n + ((i / 64 * mApitch q + i % 64 : Nat) : Int)
    (MxReady s k 1 r → f ≠ 7 → AReads u r 4096 (at_ r.next) x →
      Runs (.mxLdw k) s fun t => MxIssued s t k r (if f = 6 then 32 else 16) ∧ t.grps = s.grps ∧
        t.core (k / 4) = { c with plane0 := (t.core (k / 4)).plane0, plane1 := (t.core (k / 4)).plane1,
                                  active := c.active != (rVar q.r == 1) } ∧
        (if c.active then (t.core (k / 4)).plane1 = c.plane1 else (t.core (k / 4)).plane0 = c.plane0) ∧
        ∃ cells, (if c.active then (t.core (k / 4)).plane0 else (t.core (k / 4)).plane1) =
            { cells := cells, loaded := true, fmt := f, geom := 0, scales := [] } ∧
          ∀ i, i < 4096 → tblGetD cells i 0 = BitVec.ofNat 32 (x i)) ∧
    (MxReady s k 4 r → Runs (.mxAcclr k) s fun t => MxIssued s t k r (4 * mNb q) ∧ t.grps = s.grps ∧
      t.core (k / 4) = { c with acc := (t.core (k / 4)).acc } ∧
      ∀ i, tblGetD (t.core (k / 4)).acc i 0 =
        if 64 * mAcb q ≤ i % 256 ∧ i % 256 < 64 * mAcb q + 64 * mNb q then 0 else tblGetD c.acc i 0) ∧
    -- the operand fetcher
    ((∀ p ∈ (s.slot k).qmx, mFetches p = false) → (s.slot k).ahead = [] →
      ((s.slot k).rmx = none → Runs (.operandFetch k) s fun t => t = s) ∧
      ((s.slot k).rmx = some r → r.done = true ∨ mFetches q = false ∨ (rIssues q.r ≤ r.staged ∧ rOp q.r ≠ 6) →
        Runs (.operandFetch k) s fun t => t = s)) ∧
    ((s.slot k).rmx = some r → (s.slot k).landing = [] → r.done = false → mFetches q = true → rOp q.r = 1 → f ≠ 7 → q.who.slot = k →
      k < 1024 → r.staged < rIssues q.r →
      s.staging (k / 4) + 4096 * fmtSize f ≤ 262144 →
      (∀ i, i < 4096 → s.mxRead q q.opA (at_ r.staged i) = .ok (x i, 0)) →
      0 < ((s.ctx q.ctx).acct 3 (k / 4)).avail → 0 < ((s.ctx q.ctx).acct 4 0).avail →
      Runs (.operandFetch k) s fun t =>
        t.slot k = { s.slot k with
          rmx := some { r with staged := r.staged + 1, stage := tblSet r.stage r.staged (0, (List.range 4096).map x)
                               fetchBad := tblErase r.fetchBad r.staged } } ∧
        (∀ j, j ≠ k → t.slot j = s.slot j) ∧ OnlyAccounts s t ∧ Pays s t k q.ctx 3 (k / 4) (4096 * fmtSize f) ∧
        t = { s with slots := t.slots, ctxs := t.ctxs }) ∧
    -- ahead of the start of a queued record, once its wait is satisfied
    (∀ rest, (s.slot k).rmx = none → (s.slot k).landing = [] → (s.slot k).qmx = q :: rest → rNw q.r = true →
      tblGet (s.slot k).ahead q.serial = none → mFetches q = true → rOp q.r = 1 → f ≠ 7 → q.who.slot = k → k < 1024 → 0 < rIssues q.r →
      s.staging (k / 4) + 4096 * fmtSize f ≤ 262144 →
      (∀ i, i < 4096 → s.mxRead q q.opA (at_ 0 i) = .ok (x i, 0)) →
      0 < ((s.ctx q.ctx).acct 3 (k / 4)).avail → 0 < ((s.ctx q.ctx).acct 4 0).avail →
      Runs (.operandFetch k) s fun t =>
        t.slot k = { s.slot k with
          ahead := tblSet (s.slot k).ahead q.serial { q := q, staged := 1, stage := [(0, (0, (List.range 4096).map x))] } } ∧
        (∀ j, j ≠ k → t.slot j = s.slot j) ∧ OnlyAccounts s t ∧ Pays s t k q.ctx 3 (k / 4) (4096 * fmtSize f) ∧
        t = { s with slots := t.slots, ctxs := t.ctxs })

/-- The accumulators after a K-step on column block `b`: `v m n` in its 64 × 64 cells, all others as they were (R148, R155). -/
def Sys2Proof.Claim.AccStep (old new : Tbl (BitVec 32)) (b : Nat) (v : Nat → Nat → BitVec 32 → BitVec 32) : Prop :=
  ∀ m n, m < 64 → n < 256 → tblGetD new (256 * m + n) 0 =
    if 64 * b ≤ n ∧ n < 64 * b + 64 then v m (n - 64 * b) (tblGetD old (256 * m + n) 0) else tblGetD old (256 * m + n) 0
/-- The value of an I8 code: `f` 0 is signed, 1 is not (R47). -/
def Sys2Proof.Claim.i8 (f x : Nat) : Int := if f = 0 ∧ 128 ≤ x then (x : Int) - 256 else x
/-- A 32-bit accumulator takes an exact integer: wrapped, or clamped with SAT (R57, R68). -/
def Sys2Proof.Claim.into32 (sat : Bool) (v : Int) : BitVec 32 :=
  BitVec.ofInt 32 (if sat then max (-(2 ^ 31)) (min (2 ^ 31 - 1) v) else v)

/-- R68, R152, R153, R155, R159: MX.MM on the I8 path adds the exact sum of 32 products to every accumulator of its column
block, from zero where OVW and the K index say so, after .SW has swapped the planes before the first issue; MX.BSW does the
same for the block that a valid entry names, and nothing for an entry that is not valid; a format pair without a path and an
entry with reserved bits fault the record. -/
def Sys2Proof.Claim.MatrixMultiplication : Prop :=
  ∀ (s : State) (k : Nat) (r : Run) (x : Nat → Nat),
    let q := r.q
    let u := mxStart s k r
    let c := s.core (k / 4)
    let fa := mFmt q.opA
    let ix := rIndex q.r r.next
    let act := c.active != (rVar q.r == 1 && r.next == 0)
    let p := if act then c.plane1 else c.plane0
    let b := mAcb q + (if mAci q then ix.2.1 else 0)
    (MxReady s k 2 r → fa < 2 → b < 4 → (c.acc.map (·.1)).Nodup → (p.cells.map (·.1)).Nodup →
      AReads u r 2048 (fun i => mBase q q.opA (descA q.r) r.next + ((i / 32 * mApitch q + i % 32 : Nat) : Int)) x →
      (p.loaded = true → p.fmt < 2 → Runs (.mxMm k) s fun t => MxIssued s t k r 16 ∧ t.grps = s.grps ∧
        t.core (k / 4) = { c with acc := (t.core (k / 4)).acc, active := act } ∧
        AccStep c.acc (t.core (k / 4)).acc b fun m n old => into32 (rSat q.r)
          ((if mOvw q = true ∧ ix.1 = 0 then 0 else old.toInt) + ((List.range 32).map fun j => i8 fa (x (32 * m + j)) *
            i8 p.fmt (tblGetD p.cells (64 * (32 * ((mKh q + ix.1) % 2) + j) + n) 0).toNat).sum)) ∧
      (p.loaded = false → Runs (.mxMm k) s fun t => MxIssued s t k r 16 ∧ t.grps = s.grps ∧
        t.core (k / 4) = { c with acc := (t.core (k / 4)).acc, active := act } ∧
        AccStep c.acc (t.core (k / 4)).acc b fun _ _ old => if mOvw q = true ∧ ix.1 = 0 then 0 else old)) ∧
    (MxReady s k 2 r → fa < 2 → p.loaded = true → 2 ≤ p.fmt → Runs (.mxMm k) s fun t => MxFaults s t k r) ∧
    (∀ e, MxReady s k 6 r → u.bswEntry q r.next = .ok e → e < 2 ^ 64 →
      (e / 2 ^ 50 % 2 ^ 13 ≠ 0 ∨ e / 2 ^ 21 % 2 ^ 11 ≠ 0 → Runs (.mxBsw k) s fun t => MxFaults s t k r) ∧
      (e / 2 ^ 50 % 2 ^ 13 = 0 → e / 2 ^ 21 % 2 ^ 11 = 0 → e < 2 ^ 63 → Runs (.mxBsw k) s fun t =>
        MxIssued s t k r (mCost q r.next) ∧ t.grps = s.grps ∧ t.cores = s.cores) ∧
      (∀ (w : Nat → Nat) (h : BitVec 256), e / 2 ^ 50 % 2 ^ 13 = 0 → e / 2 ^ 21 % 2 ^ 11 = 0 → 2 ^ 63 ≤ e →
        q.bsw[e / 2 ^ 16 % 32]? = some h → (e / 2 ^ 32 % 2 ^ 16 + 1) * 2048 ≤ hCount h → hFmt h < 2 → fa < 2 → (c.acc.map (·.1)).Nodup →
        tblGet r.stage r.next = some (e, (List.range 2048).map w) →
        (∀ i : Nat, i < 2048 → u.mxRead q q.opA (mBase q q.opA (descA q.r) 0 + ((e % 2 ^ 16 * 2048 : Nat) : Int) + (i : Int)) = .ok (x i, 0)) →
        Runs (.mxBsw k) s fun t => MxIssued s t k r (mCost q r.next) ∧ t.grps = s.grps ∧
          (t.core (k / 4)).active = c.active ∧
          AccStep c.acc (t.core (k / 4)).acc (e / 2 ^ 48 % 4) fun m n old => into32 (rSat q.r)
            (old.toInt + ((List.range 32).map fun j => i8 fa (x (32 * m + j)) * i8 (hFmt h) (w (64 * j + n))).sum)))

/-- The elements of a bank's run, of `z` bytes each from element `e`. -/
def Sys2Proof.Claim.bankElem (s : State) (q : QRec) (b z e : Nat) : Nat := (s.bankMem q.grp b).readLE (e * z) z
/-- Rows of a D operand in a bank: `v m j` at element `base + m·pitch + j`, and every other byte of the group's banks stays. -/
def Sys2Proof.Claim.RowsWritten (s t : State) (q : QRec) (b z base rows cols pitch : Nat) (v : Nat → Nat → Nat) : Prop :=
  (∀ m j, m < rows → j < cols → bankElem t q b z (base + m * pitch + j) = v m j % 256 ^ z) ∧
  (∀ a, (∀ m j, m < rows → j < cols → a / z ≠ base + m * pitch + j) → (t.bankMem q.grp b).read a = (s.bankMem q.grp b).read a) ∧
  ∀ g d, ¬(g = q.grp ∧ d = b) → t.bankMem g d = s.bankMem g d
/-- The sum of the terms of a Hadamard point: a term is negated where the parity of i AND t is odd (R158). -/
def Sys2Proof.Claim.hadamard (rm : Rm) (i : Nat) (x : List Machine.Num) : Machine.Num :=
  match (x.zipIdx).map fun e => if ((List.range 6).filter fun b => i.testBit b && e.2.testBit b).length % 2 = 1 then e.1.negate else e.1 with
  | [] => .fin false 0 0
  | y :: r => r.foldl (numAdd rm) y

/-- R153, R156, R158: MX.ACRD moves column blocks of the accumulators to rows of D, and clears them with CLR; MX.HAD writes
the scaled Hadamard transform of each row of a 64 × 64 tile, in blocks of 16 to 64 points. -/
def Sys2Proof.Claim.MatrixResults : Prop :=
  ∀ (s : State) (k b off base : Nat) (w : Word) (g : Grp) (r : Run),
    let q := r.q
    let u := mxStart s k r
    let c := s.core (k / 4)
    q.opD = .bank b w off → s.grp q.grp = some g → s.mem.ue = [] → mBase q q.opD (descD q.r) r.next = (base : Int) →
    (MxReady s k 3 r → bfFmt w = (if mIacc q then 2 else 6) → mAcb q + mNb q ≤ 4 → 64 * mNb q ≤ mDpitch q →
      (base + 63 * mDpitch q + 64 * mNb q) * 4 ≤ 262144 → (c.acc.map (·.1)).Nodup →
      Runs (.mxAcrd k) s fun t => MxIssued s t k r (16 * mNb q) ∧
        RowsWritten s t q b 4 base 64 (64 * mNb q) (mDpitch q) (fun m j =>
            let v := (tblGetD c.acc (256 * m + 64 * mAcb q + j) 0).toNat
            if mIacc q then v else (cvtElem 6 6 (rRound q.r) (rSat q.r) v).1) ∧
        t.core (k / 4) = { c with acc := (t.core (k / 4)).acc } ∧
        ∀ i, tblGetD (t.core (k / 4)).acc i 0 =
          if mClr q = true ∧ 64 * mAcb q ≤ i % 256 ∧ i % 256 < 64 * mAcb q + 64 * mNb q then 0 else tblGetD c.acc i 0) ∧
    (∀ x : Nat → Nat, MxReady s k 5 r → isFlt (bfFmt w) = true → isFlt (mFmt q.opA) = true → rVar q.r < 3 → 64 ≤ mHpitch q →
      (base + 63 * mHpitch q + 64) * fmtSize (bfFmt w) ≤ 262144 →
      AReads u r 4096 (fun i => mBase q q.opA (descA q.r) r.next + ((i / 64 * mHpitch q + i % 64 : Nat) : Int)) x →
      Runs (.mxHad k) s fun t => t.cores = s.cores ∧ t.seqs = s.seqs ∧ t.mem = s.mem ∧
        t.slot k = { s.slot k with
          rmx := some { r with next := r.next + 1, done := r.next + 1 == rIssues r.q.r, stage := tblErase r.stage r.next }
          servMx := s.serial } ∧
        (∀ j, j ≠ k → t.slot j = s.slot j) ∧
        (∀ d, t.ctx d = { s.ctx d with accts := (t.ctx d).accts, fxc := (t.ctx d).fxc, fx := (t.ctx d).fx }) ∧
        RowsWritten s t q b (fmtSize (bfFmt w)) base 64 64 (mHpitch q) fun m j =>
          let P := 16 * 2 ^ rVar q.r
          let ins := (List.range P).map fun i => elemNum (mFmt q.opA) (x (64 * m + j / P * P + i))
          let y := match hadamard (rRound q.r) (j % P) ins with | .fin n a e => .fin n a (e - mHsc q) | y => y
          (deliver (fltOf (bfFmt w)) (rRound q.r) (rSat q.r) (!ins.any Machine.Num.isNan) y).1)

/-- The running VX record `r` of slot `k` is of op `op`, and R13 serves its slot; no cluster of the slot is waking, and no
storage holds an error. -/
def Sys2Proof.Claim.VxReady (s : State) (k op : Nat) (r : Run) : Prop :=
  (s.slot k).rvx = some r ∧ r.done = false ∧ r.next < r.staged ∧ s.serves .vx k = true ∧ rOp r.q.r = op ∧ r.q.who.slot = k ∧
  r.q.freeScales = false ∧ r.blk = [] ∧ s.mem.ue = [] ∧
  ∀ sc, (s.slot k).scope = some sc → ∀ c ∈ sc.cl, ∀ a b, c ≠ .waking a b
/-- The state in which the issue reads: DROWSY clusters that it reaches are ON, the slot is served, the issue charged. -/
def Sys2Proof.Claim.vxStart (s : State) (k : Nat) (r : Run) : State :=
  ((s.vWake r.q r.next).1.serve .vx k).chargeT k r.q.ctx 1 (k / 4) (vCost r.q r.next + (s.vWake r.q r.next).2)
/-- The issue is performed, and the record stands at the next one, or is done after its last; only the account, the
exception counters, and the storage that D names may differ. -/
def Sys2Proof.Claim.VxIssued (s t : State) (k : Nat) (r : Run) : Prop :=
  (∃ r', t.slot k = { s.slot k with rvx := some r', servVx := s.serial, scope := (t.slot k).scope, masks := (t.slot k).masks } ∧
    r' = { r with next := r.next + 1, done := r.next + 1 == rIssues r.q.r, stage := tblErase r.stage r.next, blk := r'.blk }) ∧
  ((t.slot k).scope.map fun sc => (sc.n, sc.cl.length)) = ((s.slot k).scope.map fun sc => (sc.n, sc.cl.length)) ∧
  Pays s t k r.q.ctx 1 (k / 4) (vCost r.q r.next + (s.vWake r.q r.next).2) ∧
  (∀ j, j ≠ k → t.slot j = s.slot j) ∧ t.seqs = s.seqs ∧ t.cores = s.cores ∧ t.mem = s.mem ∧
  (∀ d, t.ctx d = { s.ctx d with accts := (t.ctx d).accts, fxc := (t.ctx d).fxc, fx := (t.ctx d).fx, launch := (t.ctx d).launch })

/-- The memory that holds D: a bank of the group, the DS allocation, or the tile registers. -/
def Sys2Proof.Claim.destMem (s : State) (q : QRec) : Memory :=
  match q.opD with
  | .bank b _ _ => s.bankMem q.grp b
  | .hnd _ _ => s.dsMem q.ctx (s.vdieOf q)
  | _ => s.tileMem q.who.slot
def Sys2Proof.Claim.destSize (q : QRec) (f : Nat) : Nat :=
  match q.opD with | .bank _ w _ => fmtSize (bfFmt w) | .hnd h _ => fmtSize (hFmt h) | _ => fmtSize f
/-- The byte that element `p` of D starts at, where D is a dense bank, a DS handle or a tile operand (R54, R106, R126, R165). -/
def Sys2Proof.Claim.destAt (q : QRec) (f : Nat) (p : Int) : Option Nat :=
  let z := destSize q f
  if p < 0 then none else
  match q.opD with
  | .bank _ w _ => if bfFmt w ≠ 7 ∧ (p.toNat + 1) * z ≤ 262144 then some (p.toNat * z) else none
  | .hnd h _ => if hSpace h = 4 ∧ hFmt h ≠ 7 then (hPos h p.toNat).map fun x => ((hBase h).toNat + z * x) % 2 ^ 64 else none
  | .tile _ => some (p.toNat * z)
  | _ => none
/-- The `n` elements of D at `pos` exist and do not overlap, and their storage is there. -/
def Sys2Proof.Claim.DestOk (s : State) (q : QRec) (f n : Nat) (pos : Nat → Int) (addr : Nat → Nat) : Prop :=
  0 < destSize q f ∧ (∀ e, e < n → destAt q f (pos e) = some (addr e)) ∧
  (∀ e d, e < n → d < n → e ≠ d → addr e + destSize q f ≤ addr d ∨ addr d + destSize q f ≤ addr e) ∧
  (∀ b w o, q.opD = .bank b w o → s.grp q.grp ≠ none) ∧ (∀ h o, q.opD = .hnd h o → s.launchOf q.ctx ≠ none) ∧
  (∀ o, q.opD = .tile o → (s.slot q.who.slot).scope ≠ none)
/-- D holds the values as they are given; an element without a value, and every other byte of D's memory, is as it was; the
other banks and memories are as they were. -/
def Sys2Proof.Claim.VRaws (s t : State) (q : QRec) (f n : Nat) (addr : Nat → Nat) (val : Nat → Option Nat) : Prop :=
  let z := destSize q f
  (∀ e v, e < n → val e = some v → (destMem t q).readLE (addr e) z = v % 256 ^ z) ∧
  (∀ a, (∀ e, e < n → val e ≠ none → a < addr e ∨ addr e + z ≤ a) → (destMem t q).read a = (destMem s q).read a) ∧
  ((∀ b w o, q.opD ≠ .bank b w o) → t.grps = s.grps) ∧
  (∀ b w o, q.opD = .bank b w o → ∀ g d, ¬(g = q.grp ∧ d = b) → t.bankMem g d = s.bankMem g d) ∧
  ((∀ o, q.opD ≠ .tile o) → t.tileMem q.who.slot = s.tileMem q.who.slot) ∧
  ((∀ h o, q.opD ≠ .hnd h o) → ∀ d, (t.ctx d).launch = (s.ctx d).launch)
/-- The same with each value given in format `f` and converted to D's format. -/
def Sys2Proof.Claim.VWrites (s t : State) (q : QRec) (f n : Nat) (addr : Nat → Nat) (val : Nat → Option Nat) : Prop :=
  VRaws s t q f n addr fun e => (val e).map fun v => (convElem f (q.opD.fmt f) (rRound q.r) (rSat q.r) v).1

/-- A VX op that gives every element of the tile a value, computed from elements `src` of its operands: element by element,
with masked-off elements kept, or zeroed with MZ (R125, R126, R130). With `all` the masked-off ones are read too. -/
def Sys2Proof.Claim.VTile (i : Nat → Instr) (op : Nat) (f : QRec → Nat) (guard : QRec → Bool) (all : Bool)
    (pos : QRec → Nat → Nat → Nat → Int) (src : State → QRec → Nat → Nat → Nat → List (Nat × Int))
    (val : QRec → (Nat → Bool) → (Nat → List Nat) → Nat → Nat) : Prop :=
  ∀ (s : State) (k : Nat) (r : Run) (x : Nat → List Nat) (addr : Nat → Nat),
    let q := r.q
    let u := vxStart s k r
    let live (e : Nat) : Bool := !(vMen q) || ((s.slot k).mask (vMsel q)).getLsbD e
    VxReady s k op r → guard q = true →
    (∀ e, e < vE q → live e = true ∨ all = true → List.Forall₂ (fun p v => v < 2 ^ (8 * fmtSize (vOpFmt q p.1)) ∧
      ∃ ev, u.vGet q p.1 p.2 = .ok (v, ev)) (src s q r.next (e / vLanes q) (e % vLanes q)) (x e)) →
    DestOk s q (f q) (vE q) (fun e => pos q r.next (e / vLanes q) (e % vLanes q)) addr →
    Runs (i k) s fun t => VxIssued s t k r ∧ (t.slot k).masks = (s.slot k).masks ∧
      VWrites s t q (f q) (vE q) addr fun e => if live e then some (val q live x e) else if vMz q then some 0 else none
def Sys2Proof.Claim.opsFrom (is : List Nat) (q : QRec) (k r l : Nat) : List (Nat × Int) := is.map fun i => (i, vAt q i k r l)
/-- Element-wise: element (r, l) of D from the elements (r, l) of the first operands. -/
def Sys2Proof.Claim.VMap (i : Nat → Instr) (op : Nat) (is : List Nat) (val : QRec → List Nat → Nat)
    (guard : QRec → Bool := fun _ => true) : Prop :=
  VTile i op vF guard false (fun q k r l => vAt q 0 k r l) (fun _ q k r l => opsFrom is q k r l) fun q _ x e => val q (x e)

/-- Signed formats are I8, I32 and S10-free N16 by their codes 0, 2 and 9 (R47); an exact integer into a format (R57). -/
def Sys2Proof.Claim.fit (f : Nat) (sat : Bool) (v : Int) : Nat :=
  let w := 8 * fmtSize f
  let sg := f = 0 ∨ f = 2 ∨ f = 9
  let lo : Int := if sg then -(2 ^ (w - 1)) else 0
  let hi : Int := if sg then 2 ^ (w - 1) - 1 else 2 ^ w - 1
  ((if sat then max lo (min hi v) else v) % 2 ^ w).toNat
def Sys2Proof.Claim.toS (f x : Nat) : Int :=
  if (f = 0 ∨ f = 2 ∨ f = 9) ∧ 2 ^ (8 * fmtSize f - 1) ≤ x then (x : Int) - 2 ^ (8 * fmtSize f) else x
/-- Arithmetic in F: exact on integers and then fitted (R57), exact on floats and then delivered with one rounding (R58). -/
def Sys2Proof.Claim.arith (q : QRec) (int : List Int → Int) (flt : List Machine.Num → Machine.Num) (x : List Nat) : Nat :=
  let f := vF q
  if f = 4 ∨ f = 5 ∨ f = 6 then
    let n := x.map (elemNum f)
    (deliver (fltOf f) (rRound q.r) (rSat q.r) (!n.any Machine.Num.isNan) (flt n)).1
  else fit f (rSat q.r) (int (x.map (toS f)))
def Sys2Proof.Claim.a0 (x : List Int) : Int := x.headD 0
def Sys2Proof.Claim.a1 (x : List Int) : Int := x.tail.headD 0
def Sys2Proof.Claim.n0 (x : List Machine.Num) : Machine.Num := x.headD .nan
def Sys2Proof.Claim.n1 (x : List Machine.Num) : Machine.Num := x.tail.headD .nan
def Sys2Proof.Claim.n2 (x : List Machine.Num) : Machine.Num := x.tail.tail.headD .nan
def Sys2Proof.Claim.b0 (x : List Nat) : Nat := x.headD 0
def Sys2Proof.Claim.b1 (x : List Nat) : Nat := x.tail.headD 0

/-- R57, R58, R131, R133, R134: the element-wise arithmetic and bit ops, on every element that is not masked off. Shifts by the
width or more give 0, or the sign throughout; counts are of the width of F. -/
def Sys2Proof.Claim.VectorElementwise : Prop :=
  let w (q : QRec) : Nat := 8 * fmtSize (vF q)
  VMap .vadd 0x01 [1, 2] (fun q => arith q (fun v => a0 v + a1 v) fun n => numAdd (rRound q.r) (n0 n) (n1 n)) ∧
  VMap .vsub 0x02 [1, 2] (fun q => arith q (fun v => a0 v - a1 v) fun n => numAdd (rRound q.r) (n0 n) (n1 n).negate) ∧
  VMap .vmul 0x03 [1, 2] (fun q => arith q (fun v => a0 v * a1 v) fun n => numMul (n0 n) (n1 n)) ∧
  VMap .vfma 0x04 [1, 2, 3] (fun q => arith q (fun v => a0 v * a1 v + a1 v.tail)
    fun n => numAdd (rRound q.r) (numMul (n0 n) (n1 n)) (n2 n)) ∧
  VMap .vmin 0x05 [1, 2] (fun q => arith q (fun v => min (a0 v) (a1 v)) fun n => numMin (n0 n) (n1 n)) ∧
  VMap .vmax 0x06 [1, 2] (fun q => arith q (fun v => max (a0 v) (a1 v)) fun n => numMax (n0 n) (n1 n)) ∧
  VMap .vabs 0x07 [1] (fun q => arith q (fun v => |a0 v|) fun n => numAbs (n0 n)) ∧
  VMap .vneg 0x08 [1] (fun q => arith q (fun v => -a0 v) fun n => (n0 n).negate) ∧
  VMap .vand 0x11 [1, 2] (fun _ x => b0 x &&& b1 x) ∧
  VMap .vor 0x12 [1, 2] (fun _ x => b0 x ||| b1 x) ∧
  VMap .vxor 0x13 [1, 2] (fun _ x => b0 x ^^^ b1 x) ∧
  VMap .vnot 0x14 [1] (fun q x => 2 ^ w q - 1 - b0 x) ∧
  VMap .vshl 0x15 [1, 2] (fun q x => if w q ≤ b1 x then 0 else b0 x * 2 ^ b1 x % 2 ^ w q) ∧
  VMap .vshr 0x16 [1, 2] (fun q x => if w q ≤ b1 x then 0 else b0 x / 2 ^ b1 x) ∧
  VMap .vsra 0x17 [1, 2] (fun q x => (BitVec.sshiftRight (BitVec.ofNat (w q) (b0 x)) (b1 x)).toNat) (fun q => isInt (vF q)) ∧
  VMap .vclz 0x18 [1] (fun q x => ((List.range (w q)).reverse.takeWhile fun i => !(b0 x).testBit i).length) (fun q => isInt (vF q)) ∧
  VMap .vffs 0x19 [1] (fun q x => ((List.range (w q)).takeWhile fun i => !(b0 x).testBit i).length) (fun q => isInt (vF q)) ∧
  VMap .vpopc 0x1A [1] (fun q x => ((List.range (w q)).filter (b0 x).testBit).length) (fun q => isInt (vF q))

/-- R130, R135, R136, R138, R139: VCMP writes a mask register, zero where elements are masked off or absent; VSEL chooses by a
mask; VCVT converts once, from F to G; VPERM gathers by index, zero beyond the tile; VTRN transposes; VBCAST repeats the first
lane or row; VLD and VST move the bytes of their elements, and VMOV elements; VMOV's raw forms move a mask register. -/
def Sys2Proof.Claim.VectorSelectAndMove : Prop :=
  let at0 (q : QRec) (k r l : Nat) : Int := vAt q 0 k r l
  let any (_ : QRec) : Bool := true
  let raw (i : Nat → Instr) (op : Nat) : Prop :=
    ∀ (s : State) (k : Nat) (r : Run) (x addr : Nat → Nat),
      let q := r.q
      let u := vxStart s k r
      let live (e : Nat) : Bool := !(vMen q) || ((s.slot k).mask (vMsel q)).getLsbD e
      VxReady s k op r →
      (∀ e, e < vE q → live e = true → ∃ p, (q.opd 1).place (vF q) (vAt q 1 r.next (e / vLanes q) (e % vLanes q)) = .ok p ∧
        u.readRaw q (vF q) p = .ok (x e)) →
      DestOk s q (vF q) (vE q) (fun e => at0 q r.next (e / vLanes q) (e % vLanes q)) addr →
      Runs (i k) s fun t => VxIssued s t k r ∧ (t.slot k).masks = (s.slot k).masks ∧
        VRaws s t q (vF q) (vE q) addr fun e => if live e then some (x e) else if vMz q then some 0 else none
  VTile .vsel 0x22 vF any false at0 (fun s q k r l =>
    let j := if ((s.slot q.who.slot).mask (vMsel q)).getLsbD (r * vLanes q + l) then 1 else 2
    opsFrom [j] q k r l) (fun _ _ x e => b0 (x e)) ∧
  VTile .vcvt 0x23 (fun q => vOpFmt q 0) any false at0 (fun _ q k r l => opsFrom [1] q k r l)
    (fun q _ x e => if (q.opD.ownFmt).any (· != vF q) then b0 (x e)
      else (cvtElem (vF q) (vOpFmt q 0) (rRound q.r) (rSat q.r) (b0 (x e))).1) ∧
  VTile .vperm 0x41 vF any true at0 (fun _ q k r l => opsFrom [1, 2] q k r l)
    (fun q _ x e => if b1 (x e) < vE q then b0 (x (b1 (x e))) else 0) ∧
  VTile .vtrn 0x42 vF any false (fun q k r l => vBase q 0 k + ((l * vRows q + r : Nat) : Int)) (fun _ q k r l => opsFrom [1] q k r l)
    (fun _ _ x e => b0 (x e)) ∧
  VTile .vbcast 0x43 vF any false at0 (fun _ q k r l =>
    [(1, if vOpx q % 2 = 1 then vAt q 1 k r 0 else vAt q 1 k 0 l)]) (fun _ _ x e => b0 (x e)) ∧
  raw .vld 0x44 ∧ raw .vst 0x45 ∧ VMap .vmov 0x46 [1] (fun _ x => b0 x) (fun q => vOpx q % 4 == 0) ∧
  -- VCMP
  (∀ (s : State) (k : Nat) (r : Run) (x : Nat → Nat × Nat),
    let q := r.q
    let u := vxStart s k r
    let live (e : Nat) : Bool := !(vMen q) || ((s.slot k).mask (vMsel q)).getLsbD e
    VxReady s k 0x21 r → vE q ≤ 1024 →
    (∀ e, e < vE q → live e = true → (∃ ev, u.vGet q 1 (vAt q 1 r.next (e / vLanes q) (e % vLanes q)) = .ok ((x e).1, ev)) ∧
      ∃ ev, u.vGet q 2 (vAt q 2 r.next (e / vLanes q) (e % vLanes q)) = .ok ((x e).2, ev)) →
    Runs (.vcmp k) s fun t => VxIssued s t k r ∧ t.grps = s.grps ∧ (∀ d, (t.ctx d).launch = (s.ctx d).launch) ∧
      t.tileMem k = s.tileMem k ∧ (∀ n, n ≠ vMdst q → (t.slot k).mask n = (s.slot k).mask n) ∧
      ∀ e, e < 1024 → ((t.slot k).mask (vMdst q)).getLsbD e = (decide (e < vE q) && live e &&
        (let a := elemNum (vF q) (x e).1; let b := elemNum (vF q) (x e).2
         match rVar q.r with | 0 => numEq a b | 1 => !numEq a b | 2 => numLt a b | _ => numLt a b || numEq a b))) ∧
  -- VMOV of a mask register
  (∀ (s : State) (k : Nat) (r : Run) (off : Nat),
    let q := r.q
    VxReady s k 0x46 r → (s.slot k).scope ≠ none →
    (∀ o, q.opD = .tile o → vOpx q % 4 = 1 → dElem (descD q.r) (dOff (descD q.r)) (rIndex q.r r.next) = (off : Int) →
      Runs (.vmov k) s fun t => VxIssued s t k r ∧ t.grps = s.grps ∧ (t.slot k).masks = (s.slot k).masks ∧
        (t.tileMem k).readLE off 128 = ((s.slot k).mask (vMsel q)).toNat ∧
        ∀ a, a < off ∨ off + 128 ≤ a → (t.tileMem k).read a = (s.tileMem k).read a) ∧
    (∀ o, q.opA = .tile o → 2 ≤ vOpx q % 4 → dElem (descA q.r) (dOff (descA q.r)) (rIndex q.r r.next) = (off : Int) →
      Runs (.vmov k) s fun t => VxIssued s t k r ∧ t.grps = s.grps ∧ t.tileMem k = s.tileMem k ∧
        (∀ n, n ≠ vMdst q → (t.slot k).mask n = (s.slot k).mask n) ∧
        (t.slot k).mask (vMdst q) = BitVec.ofNat 1024 ((s.tileMem k).readLE off 128)))

/-- The elements of line `j` along the axis, in order: index in the line and number in the tile (R137). -/
def Sys2Proof.Claim.lineOf (q : QRec) (j : Nat) : List (Nat × Nat) :=
  if vOpx q % 2 = 1 then (List.range (vRows q)).map fun i => (i, i * vLanes q + j)
  else (List.range (vLanes q)).map fun i => (i, j * vLanes q + i)
/-- The sum of some elements: exact and then fitted for integers, in ascending order with a rounding each for floats. -/
def Sys2Proof.Claim.total (q : QRec) (xs : List Nat) : Nat :=
  let f := vF q
  let rd (x : Machine.Num) (nanNew : Bool) : Nat := (deliver (fltOf f) (rRound q.r) (rSat q.r) nanNew x).1
  if f = 4 ∨ f = 5 ∨ f = 6 then
    match xs with
    | [] => 0
    | y :: r => rd (elemNum f (r.foldl (fun a b => rd (numAdd (rRound q.r) (elemNum f a) (elemNum f b))
        (!(elemNum f a).isNan && !(elemNum f b).isNan)) y)) false
  else fit f (rSat q.r) (xs.map (toS f)).sum
/-- A reduction: one result for each line, of the elements of it that are not masked off (R137). -/
def Sys2Proof.Claim.VLines (i : Nat → Instr) (op : Nat) (f : QRec → Nat) (guard : QRec → Bool) (val : QRec → List (Nat × Nat) → Nat) : Prop :=
  ∀ (s : State) (k : Nat) (r : Run) (x addr : Nat → Nat),
    let q := r.q
    let u := vxStart s k r
    let live (e : Nat) : Bool := !(vMen q) || ((s.slot k).mask (vMsel q)).getLsbD e
    let n := if vOpx q % 2 = 1 then vLanes q else vRows q
    VxReady s k op r → guard q = true →
    (∀ e, e < vE q → live e = true → x e < 2 ^ (8 * fmtSize (vF q)) ∧
      ∃ ev, u.vGet q 1 (vAt q 1 r.next (e / vLanes q) (e % vLanes q)) = .ok (x e, ev)) →
    DestOk s q (f q) n (fun j => vBase q 0 r.next + (j : Int)) addr →
    Runs (i k) s fun t => VxIssued s t k r ∧ (t.slot k).masks = (s.slot k).masks ∧
      VWrites s t q (f q) n addr fun j => some (val q (((lineOf q j).filter fun e => live e.2).map fun e => (e.1, x e.2)))

/-- The greatest (`up`) or least of some floats: a NaN where one of them is, −0 below +0; an infinity where there is none (R137). -/
def Sys2Proof.Claim.extreme (up : Bool) (q : QRec) (xs : List Nat) : Nat :=
  let f := vF q
  match xs with
  | [] => satInf (fltOf f) (rSat q.r) (infBits (fltOf f) up)
  | y :: r => (deliver (fltOf f) (rRound q.r) (rSat q.r) false
      (r.foldl (fun a b => if up then numMax a (elemNum f b) else numMin a (elemNum f b)) (elemNum f y))).1

/-- R66, R108, R136, R137: VREDS, VREDX and VREDN reduce each line, an empty one to 0, to the end of an integer range or to an
infinity; VARGX gives the index of the first greatest element, a NaN being above every value; VSCAN runs the sums along each
line, inclusive or not; VQL6 quantises a tile into blocks of LOG6: codes and scales of a bank, the codes of a handle, and the
scales to B where it is a bank. That into a handle the codes are stored, and no scale, is the model's reading (log 19). -/
def Sys2Proof.Claim.VectorReductions : Prop :=
  let nums (q : QRec) : Bool := isInt (vF q) || isFlt (vF q)
  VLines .vreds 0x31 vF (fun _ => true) (fun q xs => total q (xs.map (·.2))) ∧
  VLines .vredx 0x32 vF nums (fun q xs => if isFlt (vF q) then extreme true q (xs.map (·.2))
    else fit (vF q) false ((xs.map fun e => toS (vF q) e.2).foldl max (intLo (vF q)))) ∧
  VLines .vredn 0x33 vF nums (fun q xs => if isFlt (vF q) then extreme false q (xs.map (·.2))
    else fit (vF q) false ((xs.map fun e => toS (vF q) e.2).foldl min (intHi (vF q)))) ∧
  VLines .vargx 0x34 (fun q => vOpFmt q 0) nums (fun q xs =>
    let n (e : Nat × Nat) : Machine.Num := elemNum (vF q) e.2
    let first : Option (Nat × Nat) := if isFlt (vF q) then
        (xs.find? fun e => (n e).isNan).orElse fun _ => xs.find? fun e => xs.all fun d => !numLess (n e) (n d)
      else xs.find? fun e => xs.all fun d => toS (vF q) d.2 ≤ toS (vF q) e.2
    match first with | some e => e.1 | none => 0xFFFFFFFF) ∧
  VTile .vscan 0x35 vF (fun _ => true) false (fun q k r l => vAt q 0 k r l) (fun _ q k r l => opsFrom [1] q k r l)
    (fun q live x e =>
      let (j, i) := if vOpx q % 2 = 1 then (e % vLanes q, e / vLanes q) else (e / vLanes q, e % vLanes q)
      total q (((lineOf q j).filter fun d => live d.2 && (d.1 < i || (d.1 == i && vOpx q / 2 % 2 == 0))).map fun d => b0 (x d.2))) ∧
  (∀ (s : State) (k b off base : Nat) (w : Word) (r : Run) (x : Nat → Nat),
    let q := r.q
    let u := vxStart s k r
    let val (e : Nat) : Machine.Num := toNum fp32 (convElem (vF q) 6 .rne false (x e)).1
    let o := bfScoff w
    let z (j : Nat) : Nat × List Nat × List Nat := log6Quant ((List.range 32).map fun i => some (val (32 * j + i)))
    VxReady s k 0x24 r → isFlt (vF q) = true → s.grp q.grp ≠ none → vE q % 32 = 0 →
    (∀ e, e < vE q → ∃ ev, u.vGet q 1 (vAt q 1 r.next (e / vLanes q) (e % vLanes q)) = .ok (x e, ev)) →
    -- into a bank, the scales beside the codes, and to B
    (q.opD = .bank b w off → bfFmt w = 7 → o ≠ 0 → vBase q 0 r.next = ((32 * base : Nat) : Int) → base + vE q / 32 ≤ bfBlocks w →
      let quantised (t : State) : Prop := VxIssued s t k r ∧ (∀ d, (t.ctx d).launch = (s.ctx d).launch) ∧ t.tileMem k = s.tileMem k ∧
        (∀ j, j < vE q / 32 → (t.bankMem q.grp b).readLE (24 * (base + j)) 24 = packCodes (z j).2.1 ∧
          (t.bankMem q.grp b).readLE (o + 2 * (base + j)) 2 = (z j).1) ∧
        (∀ a, ¬(24 * base ≤ a ∧ a < 24 * (base + vE q / 32)) → ¬(o + 2 * base ≤ a ∧ a < o + 2 * (base + vE q / 32)) →
          (t.bankMem q.grp b).read a = (s.bankMem q.grp b).read a)
      (q.opB = .absent → Runs (.vql6 k) s fun t => quantised t ∧ ∀ g d, ¬(g = q.grp ∧ d = b) → t.bankMem g d = s.bankMem g d) ∧
      (∀ (c n m : Nat) (v : Word), q.opB = .bank c v m → c ≠ b → bfFmt v = 8 → vBase q 2 r.next = ((n : Nat) : Int) →
        (n + vE q / 32) * 2 ≤ 262144 → Runs (.vql6 k) s fun t => quantised t ∧
          (∀ j, j < vE q / 32 → (t.bankMem q.grp c).readLE (2 * (n + j)) 2 = (z j).1) ∧
          (∀ a, ¬(2 * n ≤ a ∧ a < 2 * (n + vE q / 32)) → (t.bankMem q.grp c).read a = (s.bankMem q.grp c).read a) ∧
          ∀ g d, ¬(g = q.grp ∧ (d = b ∨ d = c)) → t.bankMem g d = s.bankMem g d)) ∧
    -- into the blocks of a handle in DS
    (∀ (h : BitVec 256) (addr : Nat → Nat), q.opD = .hnd h off → hFmt h = 7 → q.opB = .absent → s.launchOf q.ctx ≠ none →
      (∀ j i, j < vE q / 32 → i < 32 → q.opD.place (vF q) (vBase q 0 r.next + ((32 * j + i : Nat) : Int)) = .ok (.code (.ds (addr j)) i)) →
      (∀ i j, i < vE q / 32 → j < vE q / 32 → i ≠ j → addr i + 24 ≤ addr j ∨ addr j + 24 ≤ addr i) →
      Runs (.vql6 k) s fun t => VxIssued s t k r ∧ t.grps = s.grps ∧ t.tileMem k = s.tileMem k ∧
        (∀ j, j < vE q / 32 → (t.dsMem q.ctx (s.vdieOf q)).readLE (addr j) 24 = packCodes (z j).2.1) ∧
        ∀ a, (∀ j, j < vE q / 32 → a < addr j ∨ addr j + 24 ≤ a) →
          (t.dsMem q.ctx (s.vdieOf q)).read a = (s.dsMem q.ctx (s.vdieOf q)).read a))

/-- R140, R141, R142: the ops of the log path, element by element: VLOG2 and VEXP2 into and out of the log format, VLADD, VLSUB,
VLSHR and VLPOW within it, and the six functions. -/
def Sys2Proof.Claim.VectorLogPath : Prop :=
  let wide (q : QRec) (x : List Nat) : Nat := (convElem (vF q) 6 .rne false (b0 x)).1
  let l (x : Nat) : BitVec 32 := BitVec.ofNat 32 x
  let fn (g : Nat → Nat × Ev) (q : QRec) (x : List Nat) : Nat := (fnFinish (vF q) (rRound q.r) (rSat q.r) (g (wide q x))).1
  VTile .vlog2 0x51 (fun _ => 2) (fun _ => true) false (fun q k r l => vAt q 0 k r l) (fun _ q k r l => opsFrom [1] q k r l)
    (fun q _ x e => (logL (toNum fp32 (wide q (x e)))).toNat) ∧
  VMap .vexp2 0x52 [1] (fun q x => (fnFinish (vF q) (rRound q.r) (rSat q.r) (logE (l (b0 x)))).1) ∧
  VMap .vladd 0x53 [1, 2] (fun _ x => (logAdd (l (b0 x)) (l (b1 x))).toNat) ∧
  VMap .vlsub 0x54 [1, 2] (fun _ x => (logSub (l (b0 x)) (l (b1 x))).toNat) ∧
  VMap .vlshr 0x55 [1] (fun q x => (logShr (vOpx q % 32) (l (b0 x))).toNat) ∧
  VMap .vlpow 0x56 [1] (fun q x => (logPow (BitVec.ofNat 9 (vOpx q)) (l (b0 x))).toNat) ∧
  VMap .vexpe 0x61 [1] (fn fnExpe) ∧ VMap .vrcp 0x62 [1] (fn fnRcp) ∧ VMap .vrsqrt 0x63 [1] (fn fnRsqrt) ∧
  VMap .vsigm 0x64 [1] (fn fnSigm) ∧ VMap .vtanh 0x65 [1] (fn fnTanh) ∧ VMap .vsilu 0x66 [1] (fn fnSilu)

/-- Channel `ch` of a core runs record `r` of op `op`; nothing that the issue before has read remotely is outstanding, and the next one
has not begun, may start, and meets no pending write; its index list, if it has one, is not remote. -/
def Sys2Proof.Claim.CxReady (s : State) (core ch op : Nat) (r : Run) : Prop :=
  tblGet (s.core core).ch ch = some r ∧ rOp r.q.r = op ∧ r.done = false ∧ r.next < rIssues r.q.r ∧ r.opened = false ∧ r.part = 0 ∧ r.stage = [] ∧
  r.listing = false ∧ r.ixs = none ∧ ((op = 3 ∨ op = 4) → r.q.opB.remote = 0) ∧
  r.q.freeScales = false ∧
  r.blk = [] ∧ s.mem.ue = [] ∧ 0 < ((s.ctx r.q.ctx).acct 3 core).avail ∧ 0 < ((s.ctx r.q.ctx).acct 4 0).avail ∧
  s.meets r.q.who.slot (s.cxReads r.q r.next none) = false
/-- The channel now runs `r'`; the other channels, every other core, the slots and the sequencers are as they were. -/
def Sys2Proof.Claim.CxRuns (s t : State) (core ch : Nat) (r' : Run) : Prop :=
  tblGet (t.core core).ch ch = some r' ∧ (∀ c, c ≠ ch → tblGet (t.core core).ch c = tblGet (s.core core).ch c) ∧
  t.core core = { s.core core with ch := (t.core core).ch } ∧ (∀ c, c ≠ core → t.core c = s.core c) ∧
  t.slots = s.slots ∧ t.seqs = s.seqs ∧ t.mem = s.mem
/-- An operand of a copy that lies in this package, and is not D's storage: reading it does not meet what the issue writes. -/
def Sys2Proof.Claim.Apart (q : QRec) (o : Opd) : Prop :=
  o.remote = 0 ∧ (match o, q.opD with
    | .bank b _ _, .bank d _ _ => b ≠ d
    | .hnd h _, .hnd _ _ => hSpace h = 0
    | .hnd h _, .bank _ _ _ => hSpace h ≠ 5
    | .tile _, _ => False
    | _, _ => True)

/-- R54, R60, R182, R184, R187, R188: a local issue moves LEN elements in order: CX.CPY one to one, CX.FILL a constant,
CX.GTH from and CX.SCT to the elements that an index list names, skipping the index 0xFFFFFFFF; other bytes stay. -/
def Sys2Proof.Claim.LocalCopies : Prop :=
  ∀ (s : State) (core ch : Nat) (r : Run) (x idx addr : Nat → Nat), core < 256 →
    let q := r.q
    let k := r.next
    let u := s.cxCharge q core k none
    let n := cxLen q
    let f := q.opD.fmt 6
    let r' : Run := { r with next := k + 1, done := k + 1 == rIssues q.r, hazed := false }
    let reads (p : Nat → Int) (on : Nat → Bool) : Prop := Apart q q.opA ∧ ∀ i, i < n → on i = true →
      ∃ ev, u.readAs q q.opA f (rRound q.r) (rSat q.r) (p i) = .ok (x i, ev)
    let indices : Prop := ∀ i, i < n → ∃ p, q.opB.place 3 (cxB q k + (i : Int)) = .ok p ∧ s.readRaw q 3 p = .ok (idx i)
    let moved (t : State) (on : Nat → Bool) (v : Nat → Nat) : Prop := CxRuns s t core ch r' ∧
      VWrites s t q f n addr (fun i => if on i then some (v i) else none) ∧
      (∀ d, t.ctx d = { s.ctx d with accts := (t.ctx d).accts, fxc := (t.ctx d).fxc, fx := (t.ctx d).fx, launch := (t.ctx d).launch })
    f ≠ 7 → (∀ o, q.opD ≠ .tile o) →
    (CxReady s core ch 1 r → q.opB = .absent → DestOk s q f n (fun i => cxD q k + (i : Int)) addr → reads (fun i => cxA q k + (i : Int)) (fun _ => true) →
      Runs (.cxCpy core ch) s fun t => moved t (fun _ => true) x ∧
        Pays s t q.who.slot q.ctx 3 core (match q.opA with | .imm _ => 0 | o => opdBytes o n)) ∧
    (∀ v : Word, CxReady s core ch 2 r → q.opA = .imm v → q.opB = .absent → DestOk s q f n (fun i => cxD q k + (i : Int)) addr →
      Runs (.cxFill core ch) s fun t => moved t (fun _ => true) (fun _ => v.toNat % 2 ^ (8 * fmtSize f)) ∧
        Pays s t q.who.slot q.ctx 3 core 0) ∧
    (CxReady s core ch 3 r → indices → DestOk s q f n (fun i => cxD q k + (i : Int)) addr →
      reads (fun i => cxA q k + (idx i : Int)) (fun i => idx i != 0xFFFFFFFF) →
      Runs (.cxGth core ch) s fun t => moved t (fun i => idx i != 0xFFFFFFFF) x) ∧
    (CxReady s core ch 4 r → indices → (∀ i, i < n → idx i ≠ 0xFFFFFFFF) → DestOk s q f n (fun i => cxD q k + (idx i : Int)) addr →
      reads (fun i => cxA q k + (i : Int)) (fun _ => true) →
      Runs (.cxSct core ch) s fun t => moved t (fun _ => true) x)

/-- A message of an issue is at the tail of the queue of its destination at port `p` (R271, R272); besides the channel, the
account and that queue nothing of the package differs but the time by which the connection must answer. -/
def Sys2Proof.Claim.CxQueues (s t : State) (p : Nat) (m : Msg) (ctx : Nat) (own : Owner) (cost : Nat) : Prop :=
  (∃ o : OutMsg, o.m = m ∧ o.ctx = ctx ∧ o.own = own ∧ o.cost = cost ∧ o.node = none ∧ o.charged = false ∧ o.sent = false ∧
    tblGetD (t.port p).queues m.dst [] = tblGetD (s.port p).queues m.dst [] ++ [o]) ∧
  (∀ d, d ≠ m.dst → tblGetD (t.port p).queues d [] = tblGetD (s.port p).queues d []) ∧
  (∀ d, d ≠ p → t.port d = s.port d) ∧ t.grps = s.grps ∧ t.eth = s.eth
/-- A packet of an issue is queued (R365, R368). -/
def Sys2Proof.Claim.CxPackets (s t : State) (p : Pkt) (ctx : Nat) (own : Owner) (read : Bool) (cost : Nat) : Prop :=
  (∃ o : OutPkt, o.p = p ∧ o.ctx = ctx ∧ o.own = own ∧ o.read = read ∧ o.cost = cost ∧ o.charged = false ∧ o.sent = false ∧ o.again = false ∧ o.late = false ∧
    o.node = none ∧ t.eth.pkts = s.eth.pkts ++ [o]) ∧ t.eth.nextTok = s.eth.nextTok + 1 ∧ t.grps = s.grps ∧ t.fab = s.fab
/-- The remote operand `h` is dense in one dimension and holds elements `p` to `p + n − 1`: one run of bytes from `a`. -/
def Sys2Proof.Claim.OneRun (h : BitVec 256) (sp : Nat) (p : Int) (n : Nat) (a : Word) : Prop :=
  hSpace h = sp ∧ hRank h = 1 ∧ handleOk h = true ∧ 0 < fmtSize (hFmt h) ∧ 0 ≤ p ∧ p + (n : Int) ≤ (hExt h 0 : Int) ∧
  a.toNat = (hBase h).toNat + fmtSize (hFmt h) * p.toNat ∧ a.toNat + fmtSize (hFmt h) * n ≤ 2 ^ 64

/-- R182, R185, R186, R257, R271, R272, R365: an issue whose remote run fits one message sends it: CX.PUTF and CX.PUTN a WRITE
of the elements' bytes, with the flag of B on the last issue; CX.GETF and CX.GETN a READ, whose elements are then awaited;
CX.MCST a WRITE to every member's window. The record then stands at its next issue, and is not done while an answer is missing; that
the next issue of one that reads waits for its data is the model's reading (log 18), as are the place of a flag address in a packet's
ARGS (log 23) and the target context of a packet, the context's own number (log 27). -/
def Sys2Proof.Claim.RemoteCopies : Prop :=
  ∀ (s : State) (core ch p off : Nat) (r : Run) (h : BitVec 256) (a : Word) (x : Nat → Nat),
    let q := r.q
    let k := r.next
    let n := cxLen q
    let z := fmtSize (hFmt h)
    let len := n * z
    let own : Owner := .record core ch q.serial k 0
    let last := k + 1 = rIssues q.r
    let flag : Option Word := if k + 1 = rIssues q.r then (match q.opB with | .imm v => some v | _ => none) else none
    let data := ((List.range n).map fun i => bytesOfLE z (s10Bits (hFmt h) (x i))).flatten
    let cost := max 64 ((len + 63) / 64 * 64)
    let dst := a.toNat / 2 ^ 52
    let msg (op : Nat) (fl : Option Word) (d : List Byte) : Msg :=
      { src := s.pkgId, dst := dst, msn := 0, op := op, flag := fl.isSome, tctx := s.tctx q.ctx dst, gang := (s.ctx q.ctx).gang.toNat,
        addr := a, flagAddr := fl.getD 0, len := len, args := [], data := d }
    let pkt (fl : List Byte) (d : List Byte) : Pkt :=
      { node := dst, host := false, tok := s.eth.nextTok, win := a.toNat / 2 ^ 44 % 256, off := a.toNat % 2 ^ 44, tctx := q.ctx,
        gang := (s.ctx q.ctx).gang.toNat, len := len, code := 0, frag := false, rfrag := false, args := fl, data := d, authOk := true }
    let sent : Run := { r with next := k + 1, opened := false, todo := [], part := 0, stalled := false, hazed := false, pend := r.pend ++ [(k, 0)] }
    let local_ : Prop := q.opA.remote = 0 ∧ hFmt h ≠ 7 ∧
      ∀ i, i < n → x i < 256 ^ z ∧ s.readAs q q.opA (hFmt h) (rRound q.r) (rSat q.r) (cxA q k + (i : Int)) = .ok (x i, [])
    let quiet : Prop := ¬(last ∧ rNs q.r = false ∧ rScope q.r ≤ 2)
    let fits : Prop := 0 < n ∧ len ≤ 4096 ∧ ((s.ctx q.ctx).gauge.fb < 64 ∨ len ≤ (s.ctx q.ctx).gauge.fb / 64 * 64)
    (fits → q.opD = .hnd h off → local_ → quiet →
      (CxReady s core ch 5 r → OneRun h 1 (cxD q k) n a → Sendable s a p →
        Runs (.cxPutf core ch) s fun t => CxRuns s t core ch sent ∧ CxQueues s t p (msg 1 flag data) q.ctx own cost) ∧
      (∀ d, CxReady s core ch 7 r → flag = none ∨ r.pend = [] → OneRun h 2 (cxD q k) n a → tblGet s.eth.nodes dst = some d → d.self = false → d.failed = false →
        (d.enc = true → d.key ≠ none) →
        Runs (.cxPutn core ch) s fun t => CxRuns s t core ch sent ∧
          CxPackets s t (pkt (match flag with | some f => bytesOfLE 8 f.toNat | none => []) data) q.ctx own false cost)) ∧
    (fits → q.opA = .hnd h off → hFmt h ≠ 7 → q.opD.remote = 0 →
      (∀ i, i < n → ∃ pl, q.opD.place 6 (cxD q k + (i : Int)) = .ok pl) → 0 ≤ cxD q k →
      let ts := (List.range n).map fun i => [(cxA q k).toNat + i, (cxD q k).toNat + i]
      let read : Run := { sent with stage := [(k, 0, ts.flatten)] }
      (CxReady s core ch 6 r → OneRun h 1 (cxA q k) n a → Sendable s a p →
        Runs (.cxGetf core ch) s fun t => CxRuns s t core ch read ∧ CxQueues s t p (msg 2 none []) q.ctx own cost) ∧
      (∀ d, CxReady s core ch 8 r → OneRun h 2 (cxA q k) n a → tblGet s.eth.nodes dst = some d → d.self = false → d.failed = false →
        (d.enc = true → d.key ≠ none) →
        Runs (.cxGetn core ch) s fun t => CxRuns s t core ch read ∧ CxPackets s t (pkt [] []) q.ctx own true cost)) ∧
    (∀ (v : Word) (g : Group) (m : Member), CxReady s core ch 9 r → fits → quiet → q.opD = .imm v → v.toNat % 2 ^ 16 < 1024 →
      tblGet s.coll.groups (v.toNat % 2 ^ 16) = some g → g.owner = q.ctx → g.members = [m] → m.net = false →
      a = m.addr + BitVec.ofNat 64 (v.toNat / 2 ^ 16 % 2 ^ 44) → q.opA.remote = 0 → q.opA.fmt 6 = hFmt h → hFmt h ≠ 7 →
      (∀ i, i < n → x i < 256 ^ z ∧ ∃ pl, q.opA.place (hFmt h) (cxA q k + (i : Int)) = .ok pl ∧ s.readRaw q (hFmt h) pl = .ok (x i)) →
      0 < z → Sendable s a p →
      Runs (.cxMcst core ch) s fun t => CxRuns s t core ch sent ∧
        CxQueues s t p (msg 1 (flag.map fun f => m.addr + f) data) q.ctx own cost)

/-- The running AE record of slot `k`, alone on its die, with its accounts positive (R13, R290, R334). -/
def Sys2Proof.Claim.AeReady (s : State) (k op : Nat) (r : Run) : Prop :=
  k < 1024 ∧ (s.slot k).rae = some r ∧ r.done = false ∧ rOp r.q.r = op ∧ r.q.who.slot = k ∧ s.mem.ue = [] ∧
  (∀ j, j / 128 = k / 128 → j ≠ k → ∀ v : Run, (s.slot j).rae = some v → v.done = true) ∧
  0 < ((s.ctx (s.ctxAt k)).acct 2 (k / 128)).avail ∧ 0 < ((s.ctx (s.ctxAt k)).acct 4 0).avail
/-- The operands of an auction of these sizes (R337, R338): capacities, and scores of every row and column. -/
def Sys2Proof.Claim.AeReads (s : State) (q : QRec) (n m : Nat) (cap : Nat → Nat) (score : Nat → Nat → Nat) : Prop :=
  let p := aePitch q m
  m ≤ p ∧ q.opB.fmt 3 ≠ 2 ∧
  (∀ j, j < m → s.aeRead q q.opB 3 (aBase q 2 + (j : Int)) = .ok (cap j)) ∧
  (∀ i j, i < n → j < p → s.aeRead q q.opA 6 (aBase q 1 + ((p * i + j : Nat) : Int)) = .ok (score i j))

/-- R334, R340, R341, R345, R346: a round of AE.RUN, its first, starts from the zero auction of the record's sizes, the first of
AE.CONT and every later one from the state area in C; C then holds the auction after the round and D the entries that changed (all of
them, at the start); the round is charged, counted, and ends the record when the auction is done or its rounds are used up; a record
whose auction is done already ends without a round. -/
def Obligations.AuctionRounds : Prop :=
  (∀ (a : Auction) (cap : List Nat) (score : Nat → Nat → Option Int) (eps res : Int) (rounds maxr : Nat),
    let b := a.round cap score eps res rounds maxr
    b.n = a.n ∧ b.m = a.m ∧ b.k = a.k ∧ b.rounds = rounds ∧ b.total = min (a.total + 1) (2 ^ 32 - 1) ∧
    (b.status = 0 ∨ b.status = 1 ∨ b.status = 2) ∧ (rounds = maxr → b.status ≠ 0)) ∧
  ∀ (s : State) (k bD bC oD oC baseD baseC : Nat) (wD wC : Word) (g : Grp) (r : Run) (cap : Nat → Nat) (score : Nat → Nat → Nat),
    let q := r.q
    let after (t : State) (a b : Auction) (all : Bool) : Prop :=
      let na := (a.live).length
      (∀ i, i < aeBytes a.n → (t.bankMem q.grp bC).read (baseC + i) = BitVec.ofNat 8 ((b.bytes[i]?).getD 0)) ∧
      (∀ i j, i < a.n → j < a.k → bankElem t q bD 4 (baseD + i * a.k + j) =
        if all = true ∨ a.colAt i j ≠ b.colAt i j then ofSigned 32 (b.colAt i j) else bankElem s q bD 4 (baseD + i * a.k + j)) ∧
      t.slot k = { s.slot k with rae := some { r with next := r.next + 1, done := b.status != 0 }, servAe := s.serial } ∧
      (∀ j, j ≠ k → t.slot j = s.slot j) ∧ t.die (k / 128) = { s.die (k / 128) with ae := { serial := some q.serial, auc := b } } ∧
      Pays s t k q.ctx 2 (k / 128) (24 + (na * a.m + 63) / 64 + 2 * na +
        if r.next = 0 ∨ (s.die (k / 128)).ae.serial ≠ some q.serial then (aeBytes a.n + 63) / 64 else 0) ∧
      OnlyAccounts s t ∧ t.seqs = s.seqs ∧ t.cores = s.cores ∧ t.mem = s.mem
    let round (a : Auction) : Auction := a.round ((List.range a.m).map fun j => min (cap j) 1024)
      (fun i j => if i ∈ a.live ∧ j < a.m then scoreOf (score i j) else none) q.aeeps.toInt q.aeres.toInt (r.next + 1) q.aemax.toNat
    q.opD = .bank bD wD oD → q.opC = .bank bC wC oC → bD ≠ bC → bfFmt wD = 2 → bfFmt wC < 2 → s.grp q.grp = some g →
    aBase q 0 = (baseD : Int) → aBase q 3 = (baseC : Int) →
    (∀ n m l, AeReady s k 1 r → r.next = 0 → n = rField q.r 22 10 + 1 → m = rField q.r 14 8 + 1 → l = rField q.r 11 3 + 1 → n ≤ 1024 →
      baseC + aeBytes n ≤ 262144 → (baseD + n * l) * 4 ≤ 262144 → AeReads s q n m cap score →
      Runs (.aeRun k) s fun t => after t (Auction.fresh n m l) (round (Auction.fresh n m l)) true) ∧
    (∀ (i : Instr) (op : Nat) (a : Auction), (i = .aeRun k ∧ op = 1 ∧ r.next ≠ 0) ∨ (i = .aeCont k ∧ op = 2) →
      AeReady s k op r → a = aucOf (((List.range 32768).map fun j => ((s.bankMem q.grp bC).read (baseC + j)).toNat).toArray) →
      a.ok = true → baseC + 32768 ≤ 262144 → (baseD + a.n * a.k) * 4 ≤ 262144 → AeReads s q a.n a.m cap score →
      (a.status = 1 → Runs i s fun t => t.slot k = { s.slot k with rae := some { r with done := true } } ∧
        (∀ j, j ≠ k → t.slot j = s.slot j) ∧ t = { s with slots := t.slots }) ∧
      (a.status ≠ 1 → r.next ≠ 0 ∨ a.status = 2 → Runs i s fun t => after t a (round a) false))

/-- A launch has ended with `code` (R193): its status word is written, its event record sent, and the context has no launch. -/
def Sys2Proof.Claim.LaunchEnds (s t : State) (c : Nat) (h : BitVec 2048) (lf : Leaf) (code reissued : Nat) (more : List Byte) : Prop :=
  t.mem.hbm.readLE lf.pa 8 = reissued % 2 ^ 32 * 2 ^ 32 + code ∧
  (∀ x, ¬(lf.pa ≤ x ∧ x < lf.pa + 8) → t.mem.hbm.read x = s.mem.hbm.read x) ∧
  (t.ctx c).launch = none ∧ (t.ctx c).savedGrps = [] ∧ (t.ctx c).savedSlots = [] ∧
  Emits s t 1 c (bytesOfLE 8 (reissued % 2 ^ 32 * 2 ^ 32 + code) ++ bytesOfLE 8 (hdrN h 48 8) ++ bytesOfLE 8 0 ++ more) ∧
  t.seqs = s.seqs ∧ t.slots = s.slots ∧ ∀ d, d ≠ c → t.ctx d = s.ctx d

/-- R125, R189, R192, R193, R205, R209, R396: the master takes the head of a context's launch queue once a die is ready; a record of another version, with no
level, an entry that is misaligned or a reserved bit of VSHAPE ends BADLAUNCH, one that asks for more DS than a die has NORES, and any other that keeps R189 to R191
starts, its context's semaphores, counters and exception counters 0. A launch ends DONE when no group, record, remote
store or binding of it is left, and one that is ending, with its own code, when no group and no remote store is. -/
def Sys2Proof.Claim.LaunchAcceptAndEnd : Prop :=
  ∀ (s : State) (c : Nat) (h : BitVec 2048) (lf : Leaf),
    ReachableBy s c (hdrW h 48) .write 8 lf →
    ((s.ctx c).launchQ = [] → Runs (.launchAccept c) s fun t => t = s) ∧
    (∀ rest, (s.ctx c).launchQ = h :: rest →
      let up (d : Nat) : Prop := d < s.nDies ∧ (s.die d).ready = true ∧ (s.die d).fenced = false
      ((s.ctx c).resident = false ∨ (s.ctx c).leaving = true ∨ (s.ctx c).launch ≠ none ∨ (∀ d, ¬up d) → Runs (.launchAccept c) s fun t => t = s) ∧
      ((s.ctx c).resident = true → (s.ctx c).leaving = false → (s.ctx c).launch = none → (∃ d, up d) → hdrN h 48 8 % 8 = 0 →
        (hdrN h 0 2 ≠ 1 ∨ hdrN h 2 1 = 0 ∨ 8 < hdrN h 2 1 ∨ hdrN h 8 8 % 8 ≠ 0 ∨ hdrN h 16 8 % 8 ≠ 0 ∨ hdrN h 32 8 % 32 ≠ 0 ∨
          32 < hdrN h 72 1 ∨ hdrN h 78 2 ≠ 0 ∨ hdrW h 40 &&& ~~~0x0000FFFF07FF07FF#64 ≠ 0 →
          Runs (.launchAccept c) s fun t => LaunchEnds s t c h lf 3 0 [] ∧ (t.ctx c).launchQ = rest) ∧
        (headerBad h = false → hdrN h 76 2 = 0 → 1024 < hdrN h 4 4 →
          Runs (.launchAccept c) s fun t => LaunchEnds s t c h lf 2 0 [] ∧ (t.ctx c).launchQ = rest) ∧
        (headerBad h = false → hdrN h 76 2 = 0 → hdrN h 4 4 ≤ 1024 → hCosched h = false →
          Runs (.launchAccept c) s fun t => t.ctx c = (let l : Launch := { hdr := h, serial := s.serial, heldAt := s.now }
              { s.ctx c with launchQ := rest, launch := some l, sems := [], ctrs := [], fxc := [] }) ∧
            (∀ d, d ≠ c → t.ctx d = s.ctx d) ∧ t = { s with ctxs := t.ctxs, serial := s.serial + 1 }))) ∧
    (∀ l : Launch, s.launchOf c = some l → l.hdr = h → hdrN h 48 8 % 8 = 0 → (∀ e ∈ s.grps, e.2.ctx ≠ c) →
      (s.storesOpen c = true → Runs (.launchEnd c) s fun t => t = s) ∧
      (∀ code info, l.ending = some (code, info) → code < 6 → s.storesOpen c = false →
        Runs (.launchEnd c) s fun t => LaunchEnds s t c h lf code l.reissued []) ∧
      (l.ending = none → l.nextGrp = nGroups h → l.back = [] → (s.ctx c).savedGrps = [] → (∀ e ∈ l.tqs, e.2.items = []) →
        (∀ e ∈ s.graft.binds, e.2.ctx ≠ c) → s.storesOpen c = false → Runs (.launchEnd c) s fun t => LaunchEnds s t c h lf 1 l.reissued []) ∧
      (l.ending = none → l.nextGrp < nGroups h → Runs (.launchEnd c) s fun t => t = s)) ∧
    (s.launchOf c = none → Runs (.launchEnd c) s fun t => t = s)

/-- The first sequencer state of a task (R75, R194): at its entry, stopped where the entry is 0, with these scalars. -/
def Sys2Proof.Claim.StartsAt (q : Seq) (pc : Word) (stopped : Bool) (regs : Nat → Word) : Prop :=
  q = { pc := pc, stopped := stopped, regs := q.regs } ∧ ∀ r : SReg, q.s r = if r = 0 then 0 else regs r.toNat

/-- R75, R99, R146, R190, R194, R203, R204: a held group is placed on the core that can take it at the least wait(c) + wake(c), ties
going to the lower wake(c) and then the lower number: its banks zero and in the formats of the launch record, the MX that it
claims cleared, its core ON and waking; the groups of a COSCHED launch are placed together or not at all; a free slot of the core
then takes the next task of the group's own tree, or the head of a task queue, each starting with the scalars that R75 names, on
a core that is ON. When a distributor acts is the schedule's choice (log 2). -/
def Sys2Proof.Claim.GroupsAndTasksStart : Prop :=
  ∀ (s : State) (c : Nat) (l : Launch), s.launchOf c = some l → (s.ctx c).resident = true → (s.ctx c).leaving = false → l.ending = none →
    let h := l.hdr
    let cost (k : Nat) : Nat := (s.notStarted k + 3) / 4 * l.durs.sum + (s.core k).power.wake * max 1 l.durs.length
    let wake (k : Nat) : Nat := (s.core k).power.wake
    let better (i j : Nat) : Prop := cost i < cost j ∨ cost i = cost j ∧ (wake i < wake j ∨ wake i = wake j ∧ i < j)
    (∀ core, hCosched h = true → l.back = [] → l.nextGrp = 0 → (∀ e ∈ s.ctxs, e.1 ≠ c → e.2.launch = none) →
      Runs (.groupPlace c core) s fun t => t = s ∨ ∃ l', t.launchOf c = some l' ∧ l'.nextGrp = nGroups h ∧ l'.back = [] ∧
        ∀ lin, lin < nGroups h → ∃ gid g, t.grp gid = some g ∧ g.ctx = c ∧ g.lin = lin) ∧
    (∀ core, hCosched h = false → l.back = [] → l.nextGrp < nGroups h → (∀ e ∈ s.ctxs, e.1 ≠ c → e.2.launch = none) →
      (s.canPlace c l.nextGrp core = false → Runs (.groupPlace c core) s fun t => t = s) ∧
      (∀ j, s.canPlace c l.nextGrp j = true → better j core → Runs (.groupPlace c core) s fun t => t = s) ∧
      (s.canPlace c l.nextGrp core = true → (∀ j, s.canPlace c l.nextGrp j = true → j ≠ core → better core j) →
        Runs (.groupPlace c core) s fun t =>
        (∃ g v, t.grp s.serial = some g ∧ g.ctx = c ∧ g.core = core ∧ g.lin = l.nextGrp ∧ g.level = coreLevel h ∧ g.mask = hMask h ∧
          g.mxUse = hMx h ∧ g.banks = [] ∧ g.vdie = v ∧ g.since = s.now ∧ g.nTasks = nTasksOf h ∧ g.nextTask = 0 ∧ g.live = 0 ∧
          g.idx = nodeIdx h (hNlev h) 8 (coreLevel h) l.nextGrp ∧
          (∀ n, n < 12 → tblGetD g.bfmt n 0 = if (hMask h).getLsbD n then bankFmt h n else 0) ∧
          ∃ l', t.launchOf c = some l' ∧ l'.nextGrp = l.nextGrp + 1 ∧ l'.back = [] ∧ l'.dies[v]? = some (core / 32) ∧ l'.hdr = h ∧
            l'.serial = l.serial ∧ l'.edges = l.edges ∧ l'.tqs = l.tqs ∧
            l'.ds = if s.dsVdies c (s.ctx c) (core / 32) = [] then tblErase l.ds v else l.ds) ∧
        (∀ k, k ≠ s.serial → t.grp k = s.grp k) ∧ (∀ k, k ≠ core → t.core k = s.core k) ∧ (t.core core).power = .on ∧
        ((s.core core).power ≠ .on → (t.core core).waking = true) ∧
        (hMx h = true → (t.core core).mxGrp = some s.serial ∧ (t.core core).plane0 = {} ∧ (t.core core).plane1 = {} ∧ (t.core core).acc = []) ∧
        (hMx h = false → t.core core = { s.core core with power := .on, waking := (t.core core).waking }) ∧
        t.seqs = s.seqs ∧ t.slots = s.slots ∧ (s.mem.ue = [] → t.mem = s.mem) ∧ ∀ d, d ≠ c → t.ctx d = s.ctx d)) ∧
    (∀ (gid k : Nat) (g : Grp), s.grp gid = some g → g.ctx = c → k / 4 = g.core → (s.slot k).task = none →
      (s.core g.core).waking = false → s.coreUp g.core = true →
      let a : SeqRef := { slot := k, x := false }
      let x : SeqRef := { slot := k, x := true }
      let starts (t : State) (apc xpc : Word) (regs : Nat → Word) (own : Nat) : Prop :=
        StartsAt (t.seq a) apc (apc == 0) regs ∧ StartsAt (t.seq x) xpc false regs ∧ (∀ r, r ≠ a → r ≠ x → t.seq r = s.seq r) ∧
        (∀ j, j ≠ k → t.slot j = s.slot j) ∧ t.grp gid = some { g with live := g.live + 1, nextTask := g.nextTask + own } ∧ (∀ j, j ≠ gid → t.grp j = s.grp j) ∧ t.mem = s.mem ∧
        t.core g.core = { s.core g.core with power := .on } ∧ (∀ j, j ≠ g.core → t.core j = s.core j)
      (g.nextTask < g.nTasks → hdrN h 72 1 = 0 → Runs (.taskIssue c (.tree gid) k) s fun t =>
        let idx := nodeIdx h g.level 8 0 g.nextTask ++ g.idx
        starts t (hApc h) (hXpc h) (fun r => if r = 1 then hdrW h 24 else if 8 ≤ r then BitVec.ofNat 64 ((idx[r - 8]?).getD 0) else 0) 1 ∧
        t.ctxs = s.ctxs ∧
        let tk : Task := { uid := s.serial, ctx := c, grp := gid, idx := idx, start := s.now }
        t.slot k = { task := some tk, gen := (s.slot k).gen, vshape := hdrW h 40 &&& 0x0000FFFF07FF07FF }) ∧
      (g.nextTask = g.nTasks → Runs (.taskIssue c (.tree gid) k) s fun t => t = s) ∧
      (∀ (n : Nat) (sp : Spawn) (rest : List Spawn), tblGet l.tqs n = some { tail := (tblGetD l.tqs n {}).tail, items := sp :: rest } →
        (∀ e ∈ l.tqs, e.1 < n → e.2.items = []) → sp.idx.isSuffixOf g.idx = true → (∀ e ∈ s.grps, e.1 ≠ gid → e.2.ctx ≠ c) →
        s.grps.Pairwise (fun u v => u.1 ≠ v.1) → recEdges sp.bytes = ([], []) → recHcnt sp.bytes = 0 → sp.stage = none → sp.s8.length = 8 →
        Runs (.taskIssue c (.queue n) k) s fun t =>
          starts t (recW sp.bytes 0) (recW sp.bytes 8) (fun r => if r = 1 then recW sp.bytes 16 else if r = 2 then recW sp.bytes 24
            else if 8 ≤ r then (sp.s8[r - 8]?).getD 0 else 0) 0 ∧
          t.launchOf c = some { l with tqs := tblSet l.tqs n { tail := (tblGetD l.tqs n {}).tail, items := rest } } ∧
          (∀ d, d ≠ c → t.ctx d = s.ctx d) ∧
          let tk : Task := { uid := s.serial, ctx := c, grp := gid, idx := sp.idx, spawned := true, level := sp.level, start := s.now }
          t.slot k = { task := some tk, gen := (s.slot k).gen, vshape := hdrW h 40 &&& 0x0000FFFF07FF07FF }))

/-- The core holds no group's banks or MX, no scope, no task and no job of a collective. -/
def Sys2Proof.Claim.Empty (s : State) (core : Nat) : Prop :=
  (∀ e ∈ s.grps, e.2.core = core → e.2.mask = 0 ∧ e.2.mxUse = false) ∧ (s.core core).red = [] ∧ (s.core core).mxGrp = none ∧ ∀ j, j < 4 → (s.slot (4 * core + j)).scope = none ∧ (s.slot (4 * core + j)).task = none

/-- R203, R205, R206, R289, R291, R294: an IDLE core that holds nothing is GATED after 100 µs, and a wake ends; a fenced die loses
its groups, tasks and cores, and a new master is elected; a launch none of whose groups has gone on for 20 µs gives up its youngest
for one that has waited as long; a period edge, reached, gives every account its reservation, less what it owes, and halves the selvedge; a slot
that spins, counted in cycles of its core's clock, 2.5 GHz or 1.25 GHz on a die in THROTTLE (R400), raises its context's penalty. -/
def Obligations.PowerLossAndPeriods : Prop :=
  ∀ (s : State),
    (∀ core, let v := s.core core
      (v.power = .idle → Empty s core → v.since.toNat + 100000 ≤ s.now.toNat → Runs (.coreGate core) s fun t =>
        t.core core = { v with power := .gated, since := s.now } ∧ (∀ k, k ≠ core → t.core k = s.core k) ∧ t = { s with cores := t.cores }) ∧
      (v.power ≠ .idle ∨ s.now.toNat < v.since.toNat + 100000 ∨
        (∃ e ∈ s.grps, e.2.core = core ∧ (e.2.mask ≠ 0 ∨ e.2.mxUse = true)) → Runs (.coreGate core) s fun t => t = s) ∧
      (v.waking = true → Runs (.coreWake core) s fun t => t.core core = { v with waking := false } ∧ (∀ k, k ≠ core → t.core k = s.core k) ∧
        t = { s with cores := t.cores }) ∧
      (v.waking = false → Runs (.coreWake core) s fun t => t = s)) ∧
    (∀ d, ((s.die d).fenced = false → Runs (.dieFence d) s fun t => t = s) ∧
      ((s.die d).fenced = true → (∀ e ∈ s.grps, s.launchOf e.2.ctx ≠ none) → Runs (.dieFence d) s fun t =>
        (∀ e ∈ t.grps, e.2.core / 32 ≠ d) ∧ (∀ i, i < 128 → (t.slot (128 * d + i)).task = none) ∧
        (∀ k, k / 32 = d → t.core k = {}) ∧
        (∀ m, m < s.nDies → (s.die m).ready = true → (s.die m).fenced = false → (∀ j, j < m → (s.die j).ready = false ∨ (s.die j).fenced = true) →
          t.master = m))) ∧
    (∀ (c gid : Nat) (g : Grp) (l : Launch), s.launchOf c = some l → (s.ctx c).resident = true → (s.ctx c).leaving = false →
      hCosched l.hdr = false → l.ending = none → l.nextGrp < nGroups l.hdr → s.grps = [(gid, g)] → g.ctx = c →
      (∀ e ∈ s.slots, ∀ tk : Task, e.2.task = some tk → tk.grp ≠ gid) → l.heldAt.toNat + 20000 ≤ s.now.toNat →
      g.since.toNat + 20000 ≤ s.now.toNat →
      Runs (.gridStarvation c) s fun t => t.grps = [] ∧ (t.ctx c).gridstarve.toNat = min (2 ^ 32 - 1) ((s.ctx c).gridstarve.toNat + 1) ∧
        (∃ v, (t.ctx c).savedGrps = (s.ctx c).savedGrps ++ [v] ∧ v.key = gid ∧ v.grp = g) ∧
        t.launchOf c = some { l with back := l.back ++ [{ lin := g.lin, saved := some gid }] } ∧ t.slots = s.slots ∧ t.seqs = s.seqs ∧ t.mem = s.mem) ∧
    (∀ c, s.launchOf c = none → Runs (.gridStarvation c) s fun t => t = s) ∧
    (s.clk.time.toNat < s.shr.edge.toNat → Runs .periodEdge s fun t => t = s) ∧
    (s.shr.edge.toNat ≤ s.clk.time.toNat → (s.ctxs.map (·.1)).Pairwise (· < ·) → (∀ e ∈ s.ctxs, e.2.waiting = false ∧ (e.2.accts.map (·.1)).Nodup) → s.seats ≤ s.shr.resmax →
      Runs .periodEdge s fun t =>
        t.shr.edge = s.shr.edge + BitVec.ofNat 64 (s.shr.nextPeriod.getD s.shr.period) ∧ t.shr.period = s.shr.nextPeriod.getD s.shr.period ∧
        (∀ g, (tblGetD t.shr.selv g {}).acc = (tblGetD s.shr.selv g {}).acc / 2 ∧ (tblGetD t.shr.selv g {}).granted = 0) ∧
        (∀ e ∈ s.ctxs, (t.ctx e.1).gauge = e.2.nextGauge.getD e.2.gauge ∧ (t.ctx e.1).nextGauge = none ∧
          (t.ctx e.1).logIndex = e.2.logIndex + 1 ∧ (t.ctx e.1).sems = e.2.sems ∧ (t.ctx e.1).resident = e.2.resident ∧
          ∀ res inst, res < 7 → res ≠ 5 → inst ∈ s.places res → (t.ctx e.1).acct res inst =
            { avail := ((e.2.nextGauge.getD e.2.gauge).res res : Int) + min (e.2.acct res inst).avail 0 }) ∧
        t.seqs = s.spinAll.seqs ∧ t.slots = s.spinAll.slots ∧ t.mem = s.mem ∧ t.grps = s.grps) ∧
    (∀ k, let a : SeqRef := { slot := k, x := false }; let x : SeqRef := { slot := k, x := true }
      ((s.seq a).wait = none → (s.seq x).wait = none → Runs (.spinLimit k) s fun t => t = s) ∧
      (∀ (w : Wait) (g : Guard) (r : SReg), (s.seq a).wait = some w → w.ins = .pause g r → (s.seq x).wait = none →
        let pace := if (s.die (k / 128)).therm = .throttle then 5 else 10
        let quarters := min (4 * min ((s.seq a).s r).toNat (2 ^ 20) - w.seen) (pace * (s.now - w.upto.getD w.since).toNat)
        let sum := 4 * (s.slot k).spincnt + (s.slot k).spinFrac + quarters
        let c := (s.slot k).ctxOf
        let lim := (s.ctx c).spinlim.toNat
        0 < quarters → 0 < lim → Runs (.spinLimit k) s fun t =>
          (t.slot k) = { s.slot k with spincnt := sum / 4, spinFrac := sum % 4 } ∧
          t.ctx c = { s.ctx c with pen := min 15 ((s.ctx c).pen + (sum / 4 / lim - (s.slot k).spincnt / lim)) } ∧
          t.seq a = { s.seq a with wait := some { w with seen := w.seen + quarters, upto := some s.now } } ∧ (∀ r, r ≠ a → t.seq r = s.seq r) ∧
          (∀ j, j ≠ k → t.slot j = s.slot j) ∧ ∀ d, d ≠ c → t.ctx d = s.ctx d))

/-- Optical port `p` becomes `v`, and nothing else of the package differs. -/
def Sys2Proof.Claim.PortIs (s t : State) (p : Nat) (v : Port) : Prop :=
  t.port p = v ∧ (∀ r, r ≠ p → t.port r = s.port r) ∧ t = { s with fab := { s.fab with ports := t.fab.ports } }
/-- A frame that authenticates, of a session that the custodian key admitted, at an endpoint that serves (R370, R371). -/
def Sys2Proof.Claim.Custodian (s : State) (h : Cmd) : Prop :=
  s.authentic h = true ∧ ∃ v : Session, tblGet s.eth.sessions h.sess = some v ∧ v.admitted = true ∧ v.pending = none ∧
    s.preg.endptReady = true ∧ ∃ e ∈ s.eth.ports, e.2.ready = true

/-- The answer to a command: its TAG, a status and data, with the tag of these bytes under the session's key (R371, R385). -/
def Sys2Proof.Claim.answerOf (s : State) (h : Cmd) (status : Nat) (data : List Byte) : Out :=
  .answer h.sess h.tag status data (s.tagOf h.sess (bytesOfLE 4 h.tag.toNat ++ bytesOfLE 1 status ++ data))

/-- R243, R248, R252, R265, R267, R273, R279: a rotor slot starts on its grid once EN has taken effect; its data part starts with
the link layer afresh, the receiver's side of it with the first flit where one comes earlier, on the wavelengths that are not dark;
at its end what was not acknowledged goes back to be sent again. SLOTCFG is written only while EN is 0, but for EN itself, whose
clearing takes effect at the end of the slot, and a configuration that breaks its limits leaves EN 0 and sets the
error bit. That an EN written 1 meanwhile cancels the clearing, and that messages which stand at a port that is no longer the home of
their destination move to its home port as a slot of that one starts, are the model's readings (logs 31, 33). -/
def Obligations.RotorSlots : Prop :=
  ∀ (s : State) (p : Nat),
    let v := s.port p
    let cfg := v.slotcfg.toNat
    let ns := cfg % 2 ^ 32
    let guardNs := cfg / 2 ^ 32 % 2 ^ 20
    let nslot := cfg / 2 ^ 52 % 2 ^ 8 + 1
    let now := s.clk.time
    let slot (k : Nat) : Nat := (tblGetD v.slottab k 0).toNat
    let peerOf (k : Nat) : Option Nat := if slot k / 2 ^ 15 % 2 = 1 then some (slot k % 2 ^ 12) else none
    (cfg / 2 ^ 63 = 0 ∨ v.inSlot = true ∨ now.toNat < v.epoch.toNat → Runs (.slotStart p) s fun t => t = s) ∧
    (cfg / 2 ^ 63 = 1 → v.inSlot = false → v.epoch.toNat ≤ now.toNat → 0 < ns → cfg / 2 ^ 61 % 2 = 0 →
      let k := (now.toNat - v.epoch.toNat) / ns
      v.onAt.toNat ≤ v.epoch.toNat + k * ns →
      Runs (.slotStart p) s fun t => t.port p = { v with
        inSlot := true, data := false, rxOpen := false, slotIx := k % nslot, slotBeg := BitVec.ofNat 64 (v.epoch.toNat + k * ns), peer := peerOf (k % nslot)
        rounds := if k % nslot = 0 ∨ v.rounds = 0 then BitVec.ofNat 32 (min (2 ^ 32 - 1) (v.rounds.toNat + 1)) else v.rounds
        allow := (t.port p).allow, meet := 0, fwd := 0, passed := []
        queues := (t.port p).queues } ∧
        (∀ r, r ≠ p → t.port r = { s.port r with queues := (t.port r).queues }) ∧ t = { s with fab := { s.fab with ports := t.fab.ports } } ∧
        ((∀ e ∈ s.fab.ports, e.1 ≠ p → e.2.queues = []) → (t.port p).queues = v.queues ∧ ∀ r, r ≠ p → t.port r = s.port r) ∧
        ∀ e ∈ (t.port p).allow, (s.ctxs.any fun c => c.1 == e.1 && c.2.gauge.fb == e.2) = true ∧ e.2 ≠ 0) ∧
    (v.inSlot = false ∨ v.data = true ∨ v.peer = none ∨ v.ready = false → Runs (.guardEnd p) s fun t => t = s) ∧
    (v.inSlot = true → v.data = false → v.peer ≠ none → v.ready = true → v.slotBeg.toNat + guardNs < 2 ^ 64 →
      v.slotBeg.toNat + guardNs ≤ now.toNat →
      Runs (.guardEnd p) s fun t => PortIs s t p (t.port p) ∧ (t.port p).data = true ∧ (t.port p).txSeq = 0 ∧
        (v.rxOpen = false → (t.port p).rxSeq = 0 ∧ (t.port p).pend0 = 0 ∧ (t.port p).pend1 = 0 ∧
          (t.port p).old0 = v.rxVc0.length ∧ (t.port p).old1 = v.rxVc1.length ∧ (t.port p).ctrlIn = []) ∧
        (v.rxOpen = true → (t.port p).rxSeq = v.rxSeq ∧ (t.port p).ctrlIn = v.ctrlIn) ∧
        (t.port p).rxVc0 = v.rxVc0 ∧ (t.port p).rxVc1 = v.rxVc1 ∧ (t.port p).rxOpen = true ∧ (t.port p).txBuf = [] ∧ (t.port p).txQueue = [] ∧ (t.port p).replayAt = none ∧
        (t.port p).credit0 = 2048 ∧ (t.port p).credit1 = 512 ∧ (t.port p).paused = false ∧ (t.port p).queues = v.queues ∧
        (t.port p).active = ~~~(v.event.extractLsb' 32 16) ∧ (t.port p).slotcfg = v.slotcfg ∧
        (v.event.extractLsb' 32 16 ≠ 0xFFFF → (t.port p).txDown = false ∧ (t.port p).event = v.event) ∧
        (v.event.extractLsb' 32 16 = 0xFFFF → (t.port p).txDown = true ∧ (t.port p).event = v.event ||| 8)) ∧
    (v.inSlot = false ∨ now.toNat < v.slotBeg.toNat + ns → v.slotBeg.toNat + ns < 2 ^ 64 → Runs (.slotEnd p) s fun t => t = s) ∧
    (v.inSlot = true → v.lols = [] → v.slotBeg.toNat + ns < 2 ^ 64 → v.slotBeg.toNat + ns ≤ now.toNat →
      Runs (.slotEnd p) s fun t =>
        (t.port p).inSlot = false ∧ (t.port p).data = false ∧ (t.port p).peer = none ∧ (t.port p).txBuf = [] ∧ (t.port p).txQueue = [] ∧
        (t.port p).queues = v.queues ∧ (t.port p).slotcfg = (if v.offReq then BitVec.ofNat 64 (cfg % 2 ^ 63) else v.slotcfg) ∧
        (∀ r, r ≠ p → t.port r = s.port r) ∧
        (∀ q, (t.conn q).out = (s.conn q).out.map fun o =>
          if (v.txBuf ++ v.txQueue).any (fun f => f.what == .req q o.m.msn) then { o with sent := false } else o) ∧
        t = { s with fab := { s.fab with ports := t.fab.ports, conns := t.fab.conns } }) ∧
    (∀ (h : Cmd) (x : Word), Custodian s h → p < s.nPorts →
      let answered (t : State) : Prop := t.out = s.out ++ [answerOf s h 0 []] ∧ (∀ r, r ≠ p → t.port r = s.port r) ∧
        t = { s with out := t.out, fab := { s.fab with ports := t.fab.ports } }
      let n := x.toNat
      let bad := n % 2 ^ 32 < 1000 ∨ 100000 < n % 2 ^ 32 ∨ n / 2 ^ 32 % 2 ^ 20 < 100 ∨ n % 2 ^ 32 < n / 2 ^ 32 % 2 ^ 20 + 1000 ∨
        (∃ k, k ≤ n / 2 ^ 52 % 2 ^ 8 ∧ v.peerAt k = some s.pkgId) ∨ (n / 2 ^ 61 % 2 = 1 ∧ v.rmeet = 0)
      n / 2 ^ 62 % 2 = 0 →
      (cfg / 2 ^ 63 = 1 → Runs (.slotcfgWrite h p x) s fun t => answered t ∧
        t.port p = if n / 2 ^ 63 = 1 then { v with offReq := false } else if v.inSlot then { v with offReq := true }
          else { v with slotcfg := BitVec.ofNat 64 (cfg % 2 ^ 63) }) ∧
      (cfg / 2 ^ 63 = 0 → n / 2 ^ 63 = 0 → Runs (.slotcfgWrite h p x) s fun t => answered t ∧
        t.port p = { v with slotcfg := BitVec.ofNat 64 (n + cfg / 2 ^ 62 % 2 * 2 ^ 62) }) ∧
      (cfg / 2 ^ 63 = 0 → n / 2 ^ 63 = 1 → bad → Runs (.slotcfgWrite h p x) s fun t => answered t ∧
        t.port p = { v with slotcfg := v.slotcfg ||| 0x4000000000000000 }) ∧
      (cfg / 2 ^ 63 = 0 → n / 2 ^ 63 = 1 → ¬bad → Runs (.slotcfgWrite h p x) s fun t => answered t ∧
        (t.port p).slotcfg = BitVec.ofNat 64 (n + cfg / 2 ^ 62 % 2 * 2 ^ 62) ∧ (t.port p).rounds = 0 ∧
        t.port p = { v with slotcfg := (t.port p).slotcfg, onAt := (t.port p).onAt, rounds := 0 } ∧
        (t.port p).onAt = (if now.toNat ≤ v.epoch.toNat then v.epoch else
          let r := (n / 2 ^ 52 % 2 ^ 8 + 1) * (n % 2 ^ 32)
          v.epoch + BitVec.ofNat 64 ((now.toNat - v.epoch.toNat + r - 1) / r * r))))

/-- The port direction is down for the rest of the slot (R252). -/
def Sys2Proof.Claim.downFor (v : Port) : Port := { v with txDown := true, paused := false, replayAt := none, event := v.event ||| 8 }
/-- A replay from the oldest flit that is not acknowledged, or, after 16 of them, a link that is down (R247, R252). -/
def Sys2Proof.Claim.replays (v : Port) : Port :=
  match v.txBuf with
  | [] => v
  | f :: _ => if v.replays < 16 then { v with replays := v.replays + 1, replayAt := some f.f.seq.toNat } else downFor v
/-- A control flit of 64 payload bytes (R244). -/
def Sys2Proof.Claim.ctrl (code : Nat) (pl : List Byte) : Flit :=
  { typ := 1, vc := 0, ackv := false, aux := BitVec.ofNat 16 code, ack := 0, seq := 0
    payload := pl ++ List.replicate (64 - pl.length) 0, crc := 0 }

/-- R243, R246, R247, R249 to R254: what a port does on each control flit that has arrived, on each loss and return of light, and on a
replay timeout. A mask of wavelengths has one bit for each; those found dark are named together in the LOL of the next beat. The
model's readings (log 31): transmission stops for a LOL at the end of the beat in progress, in whole ns, and the record 0x21 is made
when the new stripe, whose first SEQ it carries, starts. -/
def Sys2Proof.Claim.LinkControl : Prop :=
  ∀ (s : State) (p : Nat) (f : Flit) (rest : List Flit),
    let v := s.port p
    let w := { v with ctrlIn := rest }
    let mask : BitVec 16 := BitVec.ofNat 16 (leOfBytes (f.payload.take 2))
    let oldest := match v.txBuf with | x :: _ => x.f.seq.toNat | [] => v.txSeq
    let event (t : State) (typ : Nat) (m seq : Nat) (time : Word) : Prop := Emits s t typ 0xFFFF (bytesOfLE 8 p ++ bytesOfLE 8 (v.peer.getD 0) ++
      bytesOfLE 8 m ++ bytesOfLE 8 seq ++ bytesOfLE 8 time.toNat)
    (v.ctrlIn = f :: rest → f.payload.length = 64 →
      (f.aux = 4 → Runs (.credit p f) s fun t => PortIs s t p { w with
        credit0 := v.credit0 + leOfBytes (f.payload.take 2), credit1 := v.credit1 + leOfBytes ((f.payload.drop 2).take 2) }) ∧
      (f.aux = 1 → Runs (.nak p f) s fun t => PortIs s t p (replays w)) ∧
      (f.aux = 2 → mask &&& v.active = 0 → Runs (.lol p f) s fun t => PortIs s t p w) ∧
      (f.aux = 2 → mask &&& v.active ≠ 0 →
        let hit := mask &&& v.active
        let guard := v.slotBeg + BitVec.ofNat 64 (v.slotcfg.toNat / 2 ^ 32 % 2 ^ 20)
        let beat := 7 * (v.beatAt - guard).toNat / 40
        let stop := if v.paused then v.stopAt else if v.beats ≠ 0 ∧ 7 * (s.clk.time - guard).toNat < 40 * (beat + 1) then
          guard + BitVec.ofNat 64 (40 * (beat + 1) / 7) else s.clk.time
        let x := { w with
          active := v.active &&& ~~~hit, paused := true, replayAt := none, lols := v.lols ++ [hit], stopAt := stop
          event := v.event ||| BitVec.ofNat 64 (hit.toNat * 2 ^ 32 + 1) }
        (x.active ≠ 0 → Runs (.lol p f) s fun t => PortIs s t p x) ∧
        (x.active = 0 → v.lols = [] → Runs (.lol p f) s fun t => t.port p = downFor { x with lols := [] } ∧
          (∀ r, r ≠ p → t.port r = s.port r) ∧ event t 0x21 hit.toNat oldest stop ∧
          t = { s with fab := { s.fab with ports := t.fab.ports }, out := t.out, eth := t.eth, preg := t.preg })) ∧
      (f.aux = 3 → mask &&& v.event.extractLsb' 32 16 ≠ 0 → Runs (.light p f) s fun t =>
        let hit := mask &&& v.event.extractLsb' 32 16
        t.port p = { w with event := (v.event &&& ~~~(BitVec.ofNat 64 (hit.toNat * 2 ^ 32))) ||| 4 } ∧
        (∀ r, r ≠ p → t.port r = s.port r) ∧ event t 0x22 hit.toNat 0 s.clk.time ∧
        t = { s with fab := { s.fab with ports := t.fab.ports }, out := t.out, eth := t.eth, preg := t.preg })) ∧
    (∀ i : Instr, i = .credit p f ∨ i = .nak p f ∨ i = .lol p f ∨ i = .light p f → v.ctrlIn = [] → Runs i s fun t => t = s) ∧
    (v.paused = true → v.txDown = false → v.lols = [] → Runs (.restripeResume p) s fun t =>
      PortIs s t p (replays { v with paused := false, stripe := oldest })) ∧
    (∀ m, v.paused = true → v.txDown = false → v.lols = [m] → Runs (.restripeResume p) s fun t =>
      t.port p = replays { v with paused := false, stripe := oldest, lols := [] } ∧ (∀ r, r ≠ p → t.port r = s.port r) ∧
      event t 0x21 m.toNat oldest v.stopAt ∧
      t = { s with fab := { s.fab with ports := t.fab.ports }, out := t.out, eth := t.eth, preg := t.preg }) ∧
    (v.paused = false ∨ v.txDown = true → Runs (.restripeResume p) s fun t => t = s) ∧
    (∀ x xs, v.txBuf = x :: xs → x.since.toNat + 2000 < 2 ^ 64 →
      (v.data = true → v.txDown = false → v.paused = false → x.since.toNat + 2000 ≤ s.now.toNat →
        Runs (.replayTimeout p) s fun t => PortIs s t p (replays v)) ∧
      (v.data = false ∨ v.txDown = true ∨ v.paused = true ∨ s.now.toNat < x.since.toNat + 2000 →
        Runs (.replayTimeout p) s fun t => t = s)) ∧
    -- light at the receiver
    (∀ n, let l := v.lane n
      let rx := v.event.extractLsb' 16 16
      let lol := v.lolMask ||| BitVec.ofNat 16 (2 ^ n)
      v.ready = true → n < 16 →
      (∀ above, l.above = above → Runs (.receivedPowerChange p n above) s fun t => t = s) ∧
      (∀ above, l.above ≠ above → v.nakWait = none → Runs (.receivedPowerChange p n above) s fun t => PortIs s t p (t.port p) ∧
        (t.port p).lane n = { l with above := above, since := s.now, outUse := none } ∧ (∀ k, k ≠ n → (t.port p).lane k = v.lane k) ∧
        t.port p = { v with lanes := (t.port p).lanes }) ∧
      (l.above = false → v.nakWait = some n → s.now.toNat < (l.since + 64).toNat →
        (∀ u, v.nakAt = some u → (u + 2000).toNat ≤ s.now.toNat) → Runs (.receivedPowerChange p n true) s fun t =>
          PortIs s t p { v with
            lanes := (t.port p).lanes, nakWait := none, nakAt := some s.now, ctrlOut := v.ctrlOut ++ [ctrl 1 (bytesOfLE 4 v.rxSeq)] }) ∧
      (l.above = false → rx.getLsbD n = false ∨ l.dark = false → l.since.toNat + 64 < 2 ^ 64 →
        (s.now.toNat < l.since.toNat + 64 → Runs (.wavelengthDark p n) s fun t => t = s) ∧
        (l.since.toNat + 64 ≤ s.now.toNat → v.nakWait = none → Runs (.wavelengthDark p n) s fun t => PortIs s t p (t.port p) ∧
          (t.port p).lane n = { l with dark := true, lolAt := s.now } ∧ (∀ k, k ≠ n → (t.port p).lane k = v.lane k) ∧
          t.port p = { v with
            lanes := (t.port p).lanes, lolMask := lol, event := v.event ||| BitVec.ofNat 64 (2 ^ (16 + n) + 2) })) ∧
      (l.above = false → rx.getLsbD n = true → l.outUse = none → v.rxActive.getLsbD n = true → l.lolAt.toNat + 1000 < 2 ^ 64 → l.lolAt.toNat + 1000 ≤ s.now.toNat →
        Runs (.lolResend p n) s fun t => PortIs s t p (t.port p) ∧ (t.port p).lane n = { l with lolAt := s.now } ∧
          t.port p = { v with lanes := (t.port p).lanes, lolMask := lol }) ∧
      (l.above = true ∨ rx.getLsbD n = false → Runs (.lolResend p n) s fun t => t = s) ∧
      (l.above = true → rx.getLsbD n = true → l.since.toNat + 1000 < 2 ^ 64 → l.since.toNat + 1000 ≤ s.now.toNat →
        Runs (.lightReturn p n) s fun t => PortIs s t p { v with
            ctrlOut := v.ctrlOut ++ [ctrl 3 (bytesOfLE 2 (2 ^ n))], event := (v.event &&& ~~~(BitVec.ofNat 64 (2 ^ (16 + n)))) ||| 4 }) ∧
      (l.above = false → Runs (.lightReturn p n) s fun t => t = s))

/-- The port can receive: the slot that has a peer is between 100 ns before its guard's end and its own end (R248, R267, R268). -/
def Sys2Proof.Claim.Listens (s : State) (p : Nat) : Prop :=
  let v := s.port p
  v.ready = true ∧ v.inSlot = true ∧ v.peer ≠ none ∧ v.slotBeg.toNat + (v.slotcfg.toNat / 2 ^ 32 % 2 ^ 20) < 2 ^ 64 ∧
  100 ≤ v.slotBeg.toNat + (v.slotcfg.toNat / 2 ^ 32 % 2 ^ 20) ∧
  v.slotBeg.toNat + (v.slotcfg.toNat / 2 ^ 32 % 2 ^ 20) ≤ s.clk.time.toNat + 100 ∧
  s.clk.time.toNat < (v.slotBeg + BitVec.ofNat 64 (v.slotcfg.toNat % 2 ^ 32)).toNat

/-- R242 to R247, R251, R268: a flit is taken in sequence order: the expected one enters its VC's buffer, any other does not; one whose CRC does
not match, that comes after the slot, or that is no IDLE on a dark wavelength, changes nothing; a flit of the 100 ns before the
guard's end opens the receiver, and an IDLE with AUX 0x0001 takes its lane out of the peer's stripe. A beat carries new flits in order on the active lanes, numbered from the
next sequence number, each using a credit and entering the replay buffer; every lane carries a flit whose CRC holds; a direction that
is down sends IDLE flits on its wavelengths out of use. A data part holds the beats of 40/7 ns that end inside it (log 24), and the
receiver learns the peer's stripe from what it accepts (log 31). -/
def Sys2Proof.Claim.LinkFlits : Prop :=
  ∀ (s : State) (p : Nat),
    let v := s.port p
    (∀ (n : Nat) (f : Flit),
      (flitCrc f ≠ f.crc ∨ ((v.lane n).dark = true ∧ f.typ ≠ 0) ∨ 16 ≤ n ∨ v.ready = false ∨ v.inSlot = false ∨
        (v.slotBeg + BitVec.ofNat 64 (v.slotcfg.toNat % 2 ^ 32)).toNat ≤ s.clk.time.toNat → Runs (.flitArrival p n f) s fun t => t = s) ∧
      (Listens s p → flitCrc f = f.crc → n < 16 → f.payload.length = 64 → f.ackv = false → v.rxOpen = true → f.typ = 0 → f.aux = 1 →
        Runs (.flitArrival p n f) s fun t => PortIs s t p { v with lanes := (t.port p).lanes, rxActive := (t.port p).rxActive } ∧
          (∀ k : Nat, (t.port p).rxActive.getLsbD k = (v.rxActive.getLsbD k && decide (k ≠ n))) ∧
          (t.port p).lane n = { v.lane n with outUse := some ((v.lane n).outUse.getD s.now) } ∧ ∀ k, k ≠ n → (t.port p).lane k = v.lane k) ∧
      (Listens s p → flitCrc f = f.crc → (v.lane n).dark = false → n < 16 → f.payload.length = 64 → f.ackv = false →
        (v.rxOpen = false → f.typ = 2 ∨ f.typ = 3 → f.vc = 0 → f.seq = 0 → Runs (.flitArrival p n f) s fun t => PortIs s t p (t.port p) ∧
          (t.port p).rxOpen = true ∧ (t.port p).rxSeq = 1 ∧ (t.port p).rxVc0 = v.rxVc0 ++ [f] ∧ (t.port p).rxVc1 = v.rxVc1 ∧
          (t.port p).old0 = v.rxVc0.length ∧ (t.port p).old1 = v.rxVc1.length ∧ (t.port p).pend0 = 0 ∧ (t.port p).pend1 = 0) ∧
        (v.rxOpen = true → f.typ = 2 ∨ f.typ = 3 → f.vc = 0 → f.seq.toNat = v.rxSeq → v.darkWait = false →
          Runs (.flitArrival p n f) s fun t => PortIs s t p { v with
            rxSeq := (v.rxSeq + 1) % 2 ^ 20, nakAt := none, nakWait := none, rxVc0 := v.rxVc0 ++ [f],
            lanes := (t.port p).lanes, rxActive := (t.port p).rxActive, lastLane := some n } ∧
            (t.port p).rxActive.getLsbD n = true ∧ (t.port p).lane n = { v.lane n with outUse := none } ∧
            ∀ k, k ≠ n → (t.port p).lane k = v.lane k) ∧
        (v.rxOpen = true → f.typ = 2 ∨ f.typ = 3 → f.vc.toNat ≤ 1 → f.seq.toNat ≠ v.rxSeq → Runs (.flitArrival p n f) s fun t => PortIs s t p (t.port p) ∧
          (t.port p).rxSeq = v.rxSeq ∧ (t.port p).rxVc0 = v.rxVc0 ∧ (t.port p).rxVc1 = v.rxVc1) ∧
        (v.rxOpen = true → f.typ = 1 → 1 ≤ f.aux.toNat → f.aux.toNat ≤ 4 → Runs (.flitArrival p n f) s fun t =>
          PortIs s t p { v with ctrlIn := v.ctrlIn ++ [f] }))) ∧
    let guardNs := v.slotcfg.toNat / 2 ^ 32 % 2 ^ 20
    let inData : Prop := 7 * (s.clk.time - (v.slotBeg + BitVec.ofNat 64 guardNs)).toNat / 40 < 7 * (v.slotcfg.toNat % 2 ^ 32 - guardNs - 100) / 40
    (v.data = false ∨ v.ready = false ∨ v.paused = true ∨ ¬inData → Runs (.beat p) s fun t => t = s) ∧
    (v.data = true → v.ready = true → v.txDown = true → v.paused = false →
      inData →
      Runs (.beat p) s fun t => t.port p = { v with beats := v.beats + 1, beatAt := s.clk.time } ∧ (∀ r, r ≠ p → t.port r = s.port r) ∧
        t = { s with fab := { s.fab with ports := t.fab.ports }, out := t.out } ∧
        ∃ l : List (Nat × Flit), t.out = s.out ++ l.map (fun e => .flit p e.1 e.2) ∧
          l.map (·.1) = (List.range 16).filter (fun w => !v.active.getLsbD w) ∧
          ∀ e ∈ l, e.2.typ = 0 ∧ e.2.aux = 1 ∧ flitCrc e.2 = e.2.crc) ∧
    (v.data = true → v.ready = true → v.txDown = false → v.paused = false → v.active = 0xFFFF →
      inData →
      v.replayAt = none → v.ctrlOut = [] → v.lolMask = 0 → v.pend0 = 0 → v.pend1 = 0 → v.txSeq < 2 ^ 20 → v.stripe < 2 ^ 20 →
      16 ≤ v.txQueue.length → (∀ f ∈ v.txQueue, f.f.vc = 0) → 16 ≤ v.credit0 → v.txBuf.length + 16 ≤ 4096 →
      let pos := (v.txSeq + 2 ^ 20 - v.stripe) % 2 ^ 20 % 16
      let m := 16 - pos
      Runs (.beat p) s fun t =>
        (t.port p).txSeq = (v.txSeq + m) % 2 ^ 20 ∧ (t.port p).credit0 = v.credit0 - m ∧ (t.port p).txQueue = v.txQueue.drop m ∧
        (t.port p).txBuf.length = v.txBuf.length + m ∧ (t.port p).txBuf.take v.txBuf.length = v.txBuf ∧
        (∀ i, i < m → ∃ f, (t.port p).txBuf[v.txBuf.length + i]? = some f ∧ f.f.seq.toNat = (v.txSeq + i) % 2 ^ 20 ∧ f.since = s.now ∧
          (v.txQueue[i]?).map (fun x => (x.f.typ, x.f.payload, x.what)) = some (f.f.typ, f.f.payload, f.what)) ∧
        (∀ r, r ≠ p → t.port r = s.port r) ∧ t = { s with fab := { s.fab with ports := t.fab.ports }, out := t.out } ∧
        ∃ l : List Flit, l.length = 16 ∧ t.out = s.out ++ l.mapIdx (fun i f => .flit p i f) ∧ (∀ f ∈ l, flitCrc f = f.crc) ∧
          ∀ i, i < m → ∃ f x, l[pos + i]? = some f ∧ v.txQueue[i]? = some x ∧ f.seq.toNat = (v.txSeq + i) % 2 ^ 20 ∧
            f.typ = x.f.typ ∧ f.payload = x.f.payload)

/-- A whole message `m` of `n` flits stands first in the request buffer of port `p` (R242, R243, R255), none early or held and
none down on its connection, which is up; the way back to its sender is open. -/
def Sys2Proof.Claim.Arrived (s : State) (p n : Nat) (m : Msg) : Prop :=
  assemble (s.port p).rxVc0 = some (m, n) ∧ m.dst = s.pkgId ∧ m.msn = (s.conn m.src).expect ∧ m.msn < 2 ^ 32 ∧
  (s.conn m.src).early = [] ∧ (s.conn m.src).waiting = [] ∧ (s.conn m.src).down = false ∧ m.gang = 0 ∧ ∃ h, s.homePort m.src = some h
/-- A response of this package to the sender of `m` (R256, R257). -/
def Sys2Proof.Claim.reply (s : State) (m : Msg) (op msn : Nat) (args data : List Byte) : Msg :=
  { src := s.pkgId, dst := m.src, msn := msn, op := op, flag := false, tctx := m.tctx, gang := 0, addr := 0, flagAddr := 0,
    len := max 1 data.length, args := args, data := data }
/-- The message has left the buffer, the credits of its flits of this slot pending, and these responses wait for their sender; the next message
is expected (R243, R258). -/
def Sys2Proof.Claim.Served (s t : State) (p n : Nat) (m : Msg) (rs : List Msg) : Prop :=
  t.port p = { s.port p with
    rxVc0 := (s.port p).rxVc0.drop n, pend0 := (s.port p).pend0 + (n - (s.port p).old0), old0 := (s.port p).old0 - n } ∧ (∀ r, r ≠ p → t.port r = s.port r) ∧
  (t.conn m.src).resp = (s.conn m.src).resp ++ rs ∧ (t.conn m.src).expect = (m.msn + 1) % 2 ^ 32 ∧
  (t.conn m.src).out = (s.conn m.src).out ∧ (∀ q, q ≠ m.src → t.conn q = s.conn q) ∧ t.seqs = s.seqs ∧ t.slots = s.slots
def Sys2Proof.Claim.ackOf (s : State) (m : Msg) : Msg := reply s m 6 0 (bytesOfLE 32 m.msn) []
/-- A NACK of `m` with its code (R259). -/
def Sys2Proof.Claim.nackOf (s : State) (m : Msg) (code : Nat) : Msg := reply s m 7 0 (bytesOfLE 4 m.msn ++ bytesOfLE 28 code) []
def Sys2Proof.Claim.dataOf (s : State) (m : Msg) (bs : List Byte) : Msg := reply s m 3 m.msn [] bs

/-- R237, R238, R256 to R259, R296, R323: a request at its target. A write or fragment stores its data in the window and is
acknowledged; one to a context that is not resident, or whose save has begun, goes to its stash, in HBM; a read, atomic or POLL
returns its data, or STASHFULL where the context is away; a POLL whose condition does not hold waits; one that names no context or
no window is refused with its code and no ACK. A message seen before is answered again and
not applied; one for another package is held as transit. Where an AMO or POLL holds its code, width and operands in ARGS is the model's
choice (log 23). -/
def Sys2Proof.Claim.RequestsAtTheTarget : Prop :=
  ∀ (s : State) (p n : Nat) (m : Msg),
    let row (i : Instr) : Prop := (i = .write p m ∧ m.op = 1) ∨ (i = .read p m ∧ m.op = 2) ∨ (i = .amoMessage p m ∧ m.op = 4) ∨
      (i = .pollMessage p m ∧ m.op = 5) ∨ (i = .frag p m ∧ m.op = 8) ∨ (i = .rfrag p m ∧ m.op = 9)
    let w := m.addr.toNat / 2 ^ 44 % 256
    let off := m.addr.toNat % 2 ^ 44
    (Arrived s p n m →
      (∀ i, row i → tblGet s.ctxs m.tctx = none → Runs i s fun t => Served s t p n m [nackOf s m 6] ∧ t.mem = s.mem) ∧
      (∀ i x, row i → tblGet s.ctxs m.tctx = some x → x.resident = true → x.saving = false → tblGet x.windows w = none →
        Runs i s fun t => Served s t p n m [nackOf s m 5] ∧ t.mem = s.mem) ∧
      (∀ i x, (i = .read p m ∧ m.op = 2) ∨ (i = .pollMessage p m ∧ m.op = 5) → tblGet s.ctxs m.tctx = some x →
        x.resident = false ∨ x.saving = true → Runs i s fun t => Served s t p n m [nackOf s m 1] ∧ t.mem = s.mem) ∧
      (∀ i va u, (i = .write p m ∧ m.op = 1) ∨ (i = .frag p m ∧ m.op = 8 ∧ (s.ctx m.tctx).ctrs = [] ∧ m.args = List.replicate 32 0xFF) →
        m.flag = false → OwnWindow s m.tctx false m.addr m.data.length true va →
        s.pinnedWrite (m.data.length + 1) m.tctx va m.data = .ok u →
        (i = .write p m → Runs i s fun t => Served s t p n m [ackOf s m] ∧ t.mem = u.mem ∧ t.ctxs = s.ctxs) ∧
        (i = .frag p m → ∃ t, exec i s = .next t ∧ t.mem = u.mem)) ∧
      (∀ va bs u, m.op = 9 → s.vond8 = true → m.flag = false → m.args = bytesOfLE 2 0xFFFF ++ [0, 2] ++ List.replicate 28 0 → m.data.length % 4 = 0 →
        (s.ctx m.tctx).ctrs = [] → OwnWindow s m.tctx false m.addr m.data.length true va →
        s.pinnedRead (m.data.length + 1) m.tctx va m.data.length = .ok bs →
        s.pinnedWrite (m.data.length + 1) m.tctx va (((List.range (m.data.length / 4)).map fun i =>
          bytesOfLE 4 (leOfBytes ((bs.drop (4 * i)).take 4) + leOfBytes ((m.data.drop (4 * i)).take 4))).flatten) = .ok u →
        ∃ t, exec (.rfrag p m) s = .next t ∧ t.mem = u.mem) ∧
      (∀ x v k, m.op = 1 → m.flag = false → tblGet s.ctxs m.tctx = some x → x.resident = false ∨ x.saving = true →
        tblGet x.windows w = some v → v.revoking = false → off + m.data.length ≤ v.span → v.fab = true → v.wr = true →
        tblFree x.stash 8 = some k → s.stackAt x.stashBase.toNat = .ready →
        let pa := x.stashBase.toNat + 4160 * k
        Runs (.write p m) s fun t => Served s t p n m [ackOf s m] ∧ t.mem.hbm.readLE pa 2 = m.src % 2 ^ 16 ∧
          t.mem.hbm.readLE (pa + 4) 1 = w ∧ t.mem.hbm.readLE (pa + 8) 8 = off ∧ t.mem.hbm.readLE (pa + 24) 8 = s.clk.time.toNat ∧
          (∀ i, i < m.data.length → t.mem.hbm.read (pa + 64 + i) = (m.data[i]?).getD 0) ∧
          (∀ a, a / 64 < pa / 64 ∨ (pa + 63 + m.data.length) / 64 < a / 64 → t.mem.hbm.read a = s.mem.hbm.read a) ∧
          ∃ e, tblGet (t.ctx m.tctx).stash k = some e ∧
            e.time = s.clk.time ∧ e.req.src = m.src ∧ e.req.win = w ∧ e.req.off = off ∧ e.req.data = m.data ∧ e.req.flag = none) ∧
      (∀ va bs, m.op = 2 → OwnWindow s m.tctx false m.addr m.len false va → s.pinnedRead (m.len + 1) m.tctx va m.len = .ok bs →
        Runs (.read p m) s fun t => Served s t p n m [dataOf s m bs, ackOf s m] ∧ t.mem = s.mem ∧ t.ctxs = s.ctxs) ∧
      (∀ va bs u x, m.op = 4 → m.args = 0 :: 8 :: (List.replicate 6 0 ++ bytesOfLE 8 x ++ List.replicate 16 0) → x < 2 ^ 64 →
        OwnWindow s m.tctx false m.addr 8 false va → OwnWindow s m.tctx false m.addr 8 true va → s.pinnedRead 9 m.tctx va 8 = .ok bs →
        bs.length = 8 → s.pinnedWrite 9 m.tctx va (bytesOfLE 8 ((leOfBytes bs + x) % 2 ^ 64)) = .ok u →
        Runs (.amoMessage p m) s fun t => Served s t p n m [dataOf s m bs, ackOf s m] ∧ t.mem = u.mem) ∧
      (∀ va bs x, m.op = 5 → m.args = 0 :: 8 :: (List.replicate 6 0 ++ bytesOfLE 8 x ++ List.replicate 16 0) → x < 2 ^ 64 →
        OwnWindow s m.tctx false m.addr 8 false va → s.pinnedRead 9 m.tctx va 8 = .ok bs → bs.length = 8 →
        (leOfBytes bs = x → Runs (.pollMessage p m) s fun t => Served s t p n m [dataOf s m bs, ackOf s m] ∧ t.mem = s.mem) ∧
        (leOfBytes bs ≠ x → Runs (.pollMessage p m) s fun t => Served s t p n m [] ∧ (t.conn m.src).waiting = [m] ∧ t.mem = s.mem))) ∧
    -- a duplicate, and transit
    (∀ i, row i → assemble (s.port p).rxVc0 = some (m, n) → m.dst = s.pkgId → (s.conn m.src).waiting = [] → (s.conn m.src).down = false →
      256 ≤ (m.msn + 2 ^ 32 - (s.conn m.src).expect) % 2 ^ 32 → (∃ h, s.homePort m.src = some h) →
      Runs i s fun t => t.mem = s.mem ∧ t.ctxs = s.ctxs ∧ (t.conn m.src).expect = (s.conn m.src).expect ∧
        (s.conn m.src).resp.length < (t.conn m.src).resp.length) ∧
    (∀ i h, row i → (s.conn m.src).waiting = [] → assemble (s.port p).rxVc0 = some (m, n) → m.dst ≠ s.pkgId →
      s.homePort m.dst = some h → h ≠ p → (s.port h).relayOn = true → s.fab.transit.length < 256 →
      Runs i s fun t => t.fab.transit = s.fab.transit ++ [m] ∧ t.mem = s.mem ∧ t.ctxs = s.ctxs)

/-- A response `m` of `n` flits stands first in the response buffer of port `p`. -/
def Sys2Proof.Claim.Answered (s : State) (p n : Nat) (m : Msg) : Prop :=
  assemble (s.port p).rxVc0 = none ∧ assemble (s.port p).rxVc1 = some (m, n) ∧ m.dst = s.pkgId
/-- The response has left the buffer, and `left` is what its connection still has outstanding. -/
def Sys2Proof.Claim.Settled (s t : State) (p n : Nat) (m : Msg) (left : List OutMsg) : Prop :=
  t.port p = { s.port p with
    rxVc1 := (s.port p).rxVc1.drop n, pend1 := (s.port p).pend1 + (n - (s.port p).old1), old1 := (s.port p).old1 - n } ∧ (∀ r, r ≠ p → t.port r = s.port r) ∧
  (t.conn m.src).out = left ∧ t.mem = s.mem ∧ ∀ q, q ≠ m.src → t.conn q = s.conn q

/-- R186, R236, R256, R258, R260, R262, R297: an answer at its sender. RDATA completes the load that waits; an ACK completes every
store up to its number and leaves reads, and that of a held message's resend lets the others that are held leave at once, where their
queue has room; a NACK with STASHFULL holds the message for its context, and any other raises PROT at the
task of the store; a message without an answer in time is sent again; a connection without progress for FABDOWN, or
whose peer the custodian has fenced (log 23), is declared down, loses its messages and tells their senders. -/
def Sys2Proof.Claim.AnswersAtTheSender : Prop :=
  ∀ (s : State) (p n : Nat) (m : Msg) (o : OutMsg),
    let q := m.src
    let c := s.conn q
    (Answered s p n m → c.out = [o] →
      (∀ (w : Wait) (k : SeqRef) (g : Guard) (mo : MemOp), m.op = 3 → m.msn = o.m.msn → o.m.op = 2 → o.retry = false → o.own = .load k w.tok →
        (s.seq k).wait = some w → w.ins = .ldf g mo → (s.seq k).held = [] ∨ (s.seq k).intrap = true → (s.seq k).deepest = none →
        Runs (.rdata p m) s fun t => Settled s t p n m [] ∧ (∀ r, r ≠ k → t.seq r = s.seq r) ∧
          (t.seq k).pc = (s.seq k).pc + 8 ∧ (t.seq k).wait = none ∧
          (t.seq k).s mo.data = (if mo.data = 0 then 0 else BitVec.ofNat 64 (leOfBytes m.data)) ∧ ∀ r, r ≠ mo.data → (t.seq k).s r = (s.seq k).s r) ∧
      (∀ i, (i = .rdata p m ∧ m.op = 3) ∧ m.msn ≠ o.m.msn → Runs i s fun t => Settled s t p n m [o] ∧ t.seqs = s.seqs) ∧
      (∀ uid x a, m.op = 6 → o.own = .store uid x a → o.m.op = 1 → o.retry = false →
        ((leOfBytes (m.args.take 4) + 2 ^ 32 - o.m.msn) % 2 ^ 32 < 2 ^ 31 → Runs (.ack p m) s fun t => Settled s t p n m [] ∧
          t.seqs = s.seqs ∧ t.slots = s.slots) ∧
        (2 ^ 31 ≤ (leOfBytes (m.args.take 4) + 2 ^ 32 - o.m.msn) % 2 ^ 32 → Runs (.ack p m) s fun t => Settled s t p n m [o] ∧
          t.seqs = s.seqs ∧ t.slots = s.slots)) ∧
      (∀ uid x a h r, m.op = 6 → o.own = .store uid x a → o.m.op = 1 → o.retry = true → c.held = [h] → h.tctx = o.m.tctx → h.probing = true →
        (leOfBytes (m.args.take 4) + 2 ^ 32 - o.m.msn) % 2 ^ 32 < 2 ^ 31 → s.homePort q = some r →
        ((s.port r).room q < h.msgs.length → Runs (.ack p m) s fun t => (t.conn q).out = [] ∧ t.seqs = s.seqs ∧ t.slots = s.slots ∧
          (t.conn q).held = [{ h with due := s.now, probing := false }] ∧ (t.port r).queues = (s.port r).queues) ∧
        (h.msgs.length ≤ (s.port r).room q →
        Runs (.ack p m) s fun t => (t.conn q).out = [] ∧ (t.conn q).held = [] ∧ t.seqs = s.seqs ∧ t.slots = s.slots ∧
          tblGetD (t.port r).queues q [] =
            h.msgs.map (fun e => { e with retry := false, charged := true, sent := false }) ++ tblGetD (s.port r).queues q [])) ∧
      (m.op = 6 → o.m.op = 2 → Runs (.ack p m) s fun t => Settled s t p n m [o] ∧ t.seqs = s.seqs) ∧
      (m.op = 7 → leOfBytes (m.args.take 4) = o.m.msn → leOfBytes ((m.args.drop 4).take 1) = 1 → c.held = [] →
        Runs (.nack p m) s fun t => Settled s t p n m [] ∧ t.seqs = s.seqs ∧
          ∃ h, (t.conn q).held = [h] ∧ h.tctx = o.m.tctx ∧ h.msgs = [o] ∧ h.probing = false ∧ h.delay = 2000 ∧ h.due = s.now + 2000) ∧
      (∀ uid x a (k : Nat) (tk : Task), m.op = 7 → leOfBytes (m.args.take 4) = o.m.msn → leOfBytes ((m.args.drop 4).take 1) ≠ 1 → o.retry = false →
        o.own = .store uid x a → (s.slots.map (·.1)).Nodup → (s.slot k).task = some tk → tk.uid = uid →
        (∀ e ∈ s.slots, ∀ v : Task, e.2.task = some v → v.uid = uid → e.1 = k) → (s.seq { slot := k, x := x }).stopped = false →
        Runs (.nack p m) s fun t => Settled s t p n m [] ∧ t.slots = s.slots ∧
          t.seq { slot := k, x := x } = (let y := s.seq { slot := k, x := x }
            { y with held := y.held ++ [{ code := 5, eval := o.m.addr }] }) ∧
          ∀ r, r ≠ { slot := k, x := x } → t.seq r = s.seq r)) ∧
    (∀ k, c.out = [o] → o.m.msn = k → o.sent = true → (∀ e ∈ s.fab.ports, e.2.txBuf = [] ∧ e.2.txQueue = []) →
      (o.due.toNat ≤ s.now.toNat → Runs (.resendTimeout q k) s fun t => (t.conn q) = { c with out := [{ o with sent := false }] } ∧
        (∀ r, r ≠ q → t.conn r = s.conn r) ∧ t = { s with fab := { s.fab with conns := t.fab.conns } }) ∧
      (s.now.toNat < o.due.toNat → Runs (.resendTimeout q k) s fun t => (∀ r, t.conn r = s.conn r) ∧
        t = { s with fab := { s.fab with conns := t.fab.conns } })) ∧
    (∀ k, let d := k % 4096
      let v := s.conn d
      let late := s.busyConn d = true ∧ v.downAt.toNat ≤ s.now.toNat
      (k < 4096 ∧ v.down = false ∧ ¬late ∨ v.down = true ∧ s.busyConn d = false → Runs (.connectionDown k) s fun t => t = s) ∧
      (v.down = true ∧ s.busyConn d = true ∨ v.down = false ∧ (4096 ≤ k ∨ late) → Runs (.connectionDown k) s fun t =>
        (t.conn d).down = true ∧ (t.conn d).out = [] ∧ (t.conn d).held = [] ∧
        (t.conn d).resp = [] ∧ (∀ r, tblGetD (t.port r).queues d [] = []) ∧ (s.coll.colls = [] → t.mem.hbm = s.mem.hbm))) ∧
    (∀ ctx h r, c.held = [h] → h.tctx = ctx → h.msgs = o :: r → h.probing = false → h.due.toNat ≤ s.now.toNat → s.homePort q = some p →
      0 < (s.port p).room q →
      Runs (.stashfullResend q ctx) s fun t => (t.conn q) = { c with held := [{ h with msgs := r, probing := true }] } ∧
        tblGetD (t.port p).queues q [] = { o with retry := true, charged := true, sent := false } :: tblGetD (s.port p).queues q [] ∧
        (t.port p).sfretry.toNat = min (2 ^ 32 - 1) ((s.port p).sfretry.toNat + 1) ∧ t.seqs = s.seqs ∧ t.mem = s.mem) ∧
    (∀ ctx, c.held = [] → Runs (.stashfullResend q ctx) s fun t => t = s)
/-- The commands that only a session admitted by the custodian key may send (R370, R371), with their session and tag. -/
def Sys2Proof.Claim.custodians : Instr → Option Cmd
  | .slotcfgWrite h .. | .regrd h .. | .regwr h .. | .asidset h .. | .nodeset h .. | .evqset h .. | .pageUnmap h .. | .pageEvict h ..
  | .tctxset h .. | .ctxset h .. | .ctxdel h .. | .gaugeset h .. | .rescfg h .. | .selvset h .. | .selvread h .. | .ctxread h ..
  | .lockset h .. | .grpset h .. | .grpdel h .. | .sharecls h .. | .keyload h .. | .keydel h .. | .nkeyload h .. | .logsign h ..
  | .dbgctl h .. | .dbghalt h .. | .dbgresume h .. | .dbgstep h .. | .dbgread h .. | .dbgwrite h .. => some h
  | _ => none
/-- The commands that any open session may send (R371). -/
def Sys2Proof.Claim.openTo : Instr → Option Cmd
  | .hwin h .. | .launch h .. | .logread h .. | .quote h .. => some h
  | _ => none
/-- A frame that authenticates, of a session that is open, and has no command that is not complete, at an endpoint that serves (R370,
R371). -/
def Sys2Proof.Claim.Opened (s : State) (h : Cmd) : Prop :=
  s.authentic h = true ∧ (∃ v : Session, tblGet s.eth.sessions h.sess = some v ∧ v.pending = none) ∧ s.preg.endptReady = true ∧ ∃ e ∈ s.eth.ports, e.2.ready = true
/-- The package has given one answer, and otherwise is `u`. -/
def Sys2Proof.Claim.Answer (u t : State) (h : Cmd) (status : Nat) (data : List Byte) : Prop :=
  t = { u with out := u.out ++ [answerOf u h status data] }

/-- R370, R371, R385, R394: a frame is authentic if it carries the KMAC256 tag that its session's key gives its bytes. A command in a
frame that is not, or behind a command of its session that is not complete, changes nothing and has no answer; nor has one on a session
that is not open, or while the endpoint or every Ethernet port is not ready, as the model reads R370 and R394 (log 21). One of the
custodian's, on a session that the custodian key has not admitted, is answered with status 1 and has no effect. -/
def Obligations.CommandsNeedTheirSession : Prop :=
  ∀ (s : State) (i : Instr) (h : Cmd), (custodians i = some h ∨ openTo i = some h) →
    (tblGet s.eth.sessions h.sess = none ∨ s.preg.endptReady = false ∨ (∀ e ∈ s.eth.ports, e.2.ready = false) ∨ s.authentic h = false ∨
        (∃ (v : Session) (p : Pending), tblGet s.eth.sessions h.sess = some v ∧ v.pending = some p ∧ ∀ win, p ≠ .hwin h.tag win) →
      Runs i s fun t => t = s) ∧
    (∀ v : Session, tblGet s.eth.sessions h.sess = some v → (s.authentic h = true ↔ h.mac = kmac256 v.key h.body)) ∧
    (∀ v : Session, custodians i = some h → tblGet s.eth.sessions h.sess = some v → v.admitted = false → v.pending = none →
      s.authentic h = true → s.preg.endptReady = true →
      (∃ e ∈ s.eth.ports, e.2.ready = true) → Runs i s fun t => Answer s t h 1 [])

/-- R8, R253, R260, R265 to R270, R273, R279, R297, R372, R373: REGRD and REGWR. What each register reads as; a write of a read-only
register, or of one that stands while EN is 1, leaves it; a field that is cleared by writing 1; the limits of the timeouts; an
address that names no register is answered with status 2. That a write of a read-only register is answered OK is the model's reading (log
22), and that a route write restores a connection that was declared down its choice (log 23). -/
def Obligations.RegisterCommands : Prop :=
  ∀ (s : State) (h : Cmd), Custodian s h →
    let addr (u i o : Nat) : BitVec 32 := BitVec.ofNat 32 (u * 2 ^ 24 + i * 2 ^ 16 + o)
    let reads (u i o v : Nat) : Prop := Runs (.regrd h (addr u i o)) s fun t => Answer s t h 0 (bytesOfLE 8 v)
    let writes (u i o : Nat) (v : Word) (P : State → Prop) : Prop := Runs (.regwr h (addr u i o) v) s fun t =>
      t.out = s.out ++ [answerOf s h 0 []] ∧ P t
    let bit (b : Bool) (k : Nat) : Nat := if b then 2 ^ k else 0
    -- the package
    reads 0 0 0 s.preg.cecnt.toNat ∧ reads 0 0 8 s.preg.evdrop.toNat ∧
    reads 0 0 0x10 (s.clk.offset.toNat * 2 ^ 32 + bit s.clk.hold 2 + bit s.clk.stepped 1 + bit s.clk.lock 0) ∧
    (∀ w, w < 2 → ∃ v, reads 0 0 (0x18 + 8 * w) v ∧ v < 2 ^ 64 ∧
      ∀ k, k < 64 → (v / 2 ^ k % 2 = 1 ↔ 64 * w + k < s.nPorts ∧ (s.port (64 * w + k)).ready = true)) ∧
    reads 0 0 0x28 (bit s.clk.ptpEn 8 + s.clk.ptpPort.toNat) ∧ reads 0 0 0x30 s.preg.ethfail.toNat ∧
    reads 0 0 0x38 s.preg.fabresend.toNat ∧ reads 0 0 0x40 s.preg.fabdown.toNat ∧
    (∀ q, q < 4096 → reads 0 0 (0x1000 + 8 * q) (tblGetD s.fab.routes q 0).toNat) ∧
    (∀ d, d < s.nDies → reads 0 0 (0x100 + 8 * d) ((match (s.die d).therm with
      | .normal => 0 | .warn => 1 | .throttle => 2 | .trip => 3) * 2 ^ 32 + (s.die d).temp.toNat)) ∧
    (∀ (x : Word) (o : Nat), (o = 0 ∨ o = 8 ∨ o = 0x18 ∨ o = 0x20 ∨ (o % 8 = 0 ∧ 0x100 ≤ o ∧ o < 0x100 + 8 * s.nDies)) →
      Runs (.regwr h (addr 0 0 o) x) s fun t => Answer s t h 0 []) ∧
    (∀ x : Word,
      writes 0 0 0x10 x (fun t => t = { s with out := t.out, clk := { s.clk with stepped := s.clk.stepped && !x.getLsbD 1 } }) ∧
      (x.toNat % 8 < s.nEth → writes 0 0 0x28 x fun t => t = { s with
        out := t.out
        clk := { s.clk with
          ptpEn := x.getLsbD 8, ptpPort := BitVec.ofNat 3 x.toNat, lock := s.clk.lock && x.getLsbD 8, hold := s.clk.hold && x.getLsbD 8
          slew := if x.getLsbD 8 then s.clk.slew else 0, part := if x.getLsbD 8 then s.clk.part else 0
          lastSync := if x.getLsbD 8 && !s.clk.ptpEn then s.now else s.clk.lastSync } }) ∧
      (let n := x.toNat % 2 ^ 32
       let timeout (o lo hi : Nat) (r : PkgRegs) : Prop :=
         (lo ≤ n ∧ n ≤ hi → writes 0 0 o x fun t => t = { s with out := t.out, preg := r }) ∧
         (n < lo ∨ hi < n → Runs (.regwr h (addr 0 0 o) x) s fun t => Answer s t h 2 [])
       timeout 0x30 100000 100000000 { s.preg with ethfail := BitVec.ofNat 32 n } ∧
       timeout 0x38 20000 10000000 { s.preg with fabresend := BitVec.ofNat 32 n } ∧
       timeout 0x40 100000 100000000 { s.preg with fabdown := BitVec.ofNat 32 n }) ∧
      (∀ q, q < 4096 → writes 0 0 (0x1000 + 8 * q) x fun t =>
        (∀ r, tblGetD t.fab.routes r 0 = if r = q then x &&& 0x80FF else tblGetD s.fab.routes r 0) ∧
        t.conn q = { s.conn q with down := false } ∧ (∀ r, r ≠ q → t.conn r = s.conn r) ∧
        t = { s with out := t.out, fab := { s.fab with routes := t.fab.routes, conns := t.fab.conns } })) ∧
    -- an optical port
    (∀ p, p < s.nPorts →
      let v := s.port p
      let becomes (t : State) (w : Port) : Prop := t.port p = w ∧ (∀ r, r ≠ p → t.port r = s.port r) ∧
        t = { s with out := t.out, fab := { s.fab with ports := t.fab.ports } }
      reads 1 p 0 v.slotcfg.toNat ∧ reads 1 p 8 v.epoch.toNat ∧ reads 1 p 0x10 v.relaycfg.toNat ∧ reads 1 p 0x18 v.rmeet.toNat ∧
      reads 1 p 0x20 (fcap (v.slotcfg.toNat % 2 ^ 32) (v.slotcfg.toNat / 2 ^ 32 % 2 ^ 20) % 2 ^ 32) ∧ reads 1 p 0x30 v.sloterr.toNat ∧
      reads 1 p 0x38 v.event.toNat ∧ reads 1 p 0x40 v.replay.toNat ∧ reads 1 p 0x48 v.sfretry.toNat ∧
      (v.slotIx < 256 → (∀ q, v.peer = some q → q < 4096) →
        reads 1 p 0x28 (v.rounds.toNat * 2 ^ 32 + v.slotIx * 2 ^ 24 + v.peer.getD 0 * 2 ^ 12 + bit (v.inSlot && decide (s.clk.time.toNat < (v.slotBeg + BitVec.ofNat 64 (v.slotcfg.toNat / 2 ^ 32 % 2 ^ 20)).toNat)) 11
          + bit (!v.slotcfg.getLsbD 63 || !v.inSlot || v.peer.isNone) 10)) ∧
      (∀ k, k < 256 → reads 1 p (0x800 + 8 * k) (tblGetD v.slottab k 0).toNat) ∧
      ∀ x : Word,
        let en := v.slotcfg.getLsbD 63
        writes 1 p 8 x (fun t => becomes t (if en then v else { v with epoch := x })) ∧
        writes 1 p 0x10 x (fun t => becomes t (if en then v else { v with relaycfg := x &&& 0xFFFFFFFF })) ∧
        writes 1 p 0x18 x (fun t => becomes t { v with rmeet := x &&& ~~~0x1FFFFF }) ∧
        writes 1 p 0x20 x (fun t => becomes t v) ∧ writes 1 p 0x28 x (fun t => becomes t v) ∧
        writes 1 p 0x30 x (fun t => becomes t { v with sloterr := v.sloterr &&& ~~~x }) ∧
        writes 1 p 0x38 x (fun t => becomes t { v with event := v.event &&& ~~~(x &&& 0xF) }) ∧
        writes 1 p 0x40 x (fun t => becomes t { v with replay := v.replay &&& ~~~(BitVec.ofNat 32 x.toNat) }) ∧
        writes 1 p 0x48 x (fun t => becomes t { v with sfretry := v.sfretry &&& ~~~(BitVec.ofNat 32 x.toNat) }) ∧
        ∀ k, k < 256 → writes 1 p (0x800 + 8 * k) x fun t => becomes t { v with slottab := (t.port p).slottab } ∧
          ∀ j, tblGetD (t.port p).slottab j 0 = if j = k ∧ en = false then x &&& 0x8FFF else tblGetD v.slottab j 0) ∧
    -- an Ethernet port
    (∀ p, p < s.nEth → reads 2 p 0x48 (s.ethPort p).sfretry.toNat ∧ ∀ x : Word, writes 2 p 0x48 x fun t =>
      t.ethPort p = { s.ethPort p with sfretry := (s.ethPort p).sfretry &&& ~~~(BitVec.ofNat 32 x.toNat) } ∧
      (∀ r, r ≠ p → t.ethPort r = s.ethPort r) ∧ t = { s with out := t.out, eth := { s.eth with ports := t.eth.ports } }) ∧
    -- no register
    (∀ u i o, u < 256 → i < 256 → o < 65536 → (o % 8 ≠ 0 ∨ 3 ≤ u ∨ (u = 0 ∧ 0 < i) ∨ (u = 1 ∧ s.nPorts ≤ i) ∨ (u = 2 ∧ (s.nEth ≤ i ∨ o ≠ 0x48))) →
      (Runs (.regrd h (addr u i o)) s fun t => Answer s t h 2 []) ∧ ∀ x, Runs (.regwr h (addr u i o) x) s fun t => Answer s t h 2 [])

/-- R170, R171, R257, R293, R309, R327, R352, R364, R371, R375: the tables that a command sets one entry of: roots of address spaces,
nodes, H windows, target contexts, locks, selvedge caps, groups, share classes, and the event ring. Every other entry stays; a
value out of its range is answered with status 2, a context that does not exist with 1, and a group in use with 4. A host window is
revoked by length 0: it takes nothing from then on, and the command is answered once what it took before is complete (R181, R378). The
model's choices: that the consumer word of a new ring counts as ESEQ until it is read (log 22), that NODESET ends a node's failure (log
23), and that GRPSET on an entry in use is answered with 4 (log 30). -/
def Sys2Proof.Claim.TableCommands : Prop :=
  ∀ (s : State) (h : Cmd),
    let ok (i : Instr) (P : State → Prop) : Prop := Runs i s fun t => t.out = s.out ++ [answerOf s h 0 []] ∧ P t
    let fails (i : Instr) (n : Nat) : Prop := Runs i s fun t => Answer s t h n []
    (Opened s h →
     ∀ (win : Nat) addr (len : Nat) rd wr, let i : Instr := .hwin h win addr len rd wr
      let drained : Prop := ∀ o ∈ s.eth.pkts, o.p.host = true → o.p.node = h.sess → o.p.win = win → o.late = true
      (∀ v : Session, win < 256 → tblGet s.eth.sessions h.sess = some v →
        let others (t : State) (P : Session → Prop) : Prop := t = { s with out := t.out, eth := { s.eth with sessions := t.eth.sessions } } ∧
          (∀ n, n ≠ h.sess → tblGet t.eth.sessions n = tblGet s.eth.sessions n) ∧ ∃ w, tblGet t.eth.sessions h.sess = some w ∧ P w
        (len ≠ 0 ∨ tblGet v.windows win = none ∨ drained → ok i fun t => others t fun w => w = { v with windows := w.windows } ∧
          ∀ k, tblGet w.windows k = if k = win then (if len = 0 then none else some { addr := addr, len := len, rd := rd, wr := wr })
            else tblGet v.windows k) ∧
        (∀ x : HostWin, len = 0 → tblGet v.windows win = some x → ¬drained → Runs i s fun t => t.out = s.out ∧ others t fun w =>
          w = { v with windows := w.windows, pending := some (.hwin h.tag win) } ∧
          ∀ k, tblGet w.windows k = if k = win then some { x with revoking := true } else tblGet v.windows k)) ∧
      (256 ≤ win → fails i 2)) ∧
    (Custodian s h →
    (∀ asid root, let i : Instr := .asidset h asid root
      (asid < 8192 → root.toNat % 4096 = 0 → ok i fun t => t = { s with out := t.out, mem := { s.mem with roots := t.mem.roots } } ∧
        ∀ a, tblGet t.mem.roots a = if a = asid then some root else tblGet s.mem.roots a) ∧
      (8192 ≤ asid ∨ root.toNat % 4096 ≠ 0 → fails i 2)) ∧
    (∀ node ip ports enc self, let i : Instr := .nodeset h node ip ports enc self
      let clash := self = true ∧ ∃ e ∈ s.eth.nodes, e.1 ≠ node ∧ e.2.self = true
      (node < 4096 → ¬clash → ok i fun t => t = { s with out := t.out, eth := { s.eth with nodes := t.eth.nodes } } ∧
        (∀ n, n ≠ node → tblGet t.eth.nodes n = tblGet s.eth.nodes n) ∧
        ∃ v, tblGet t.eth.nodes node = some v ∧ v.ip = ip ∧ v.ports = ports ∧ v.enc = enc ∧ v.self = self ∧ v.failed = false ∧
          v.failAt = ((tblGet s.eth.nodes node).map Node.failAt).getD 0 ∧ v.key = (tblGet s.eth.nodes node).bind Node.key) ∧
      (4096 ≤ node ∨ clash → fails i 2)) ∧
    (∀ ctx peer target, let i : Instr := .tctxset h ctx peer target
      (ctx < 8192 → peer < 4096 → target < 8192 → (tblGet s.ctxs ctx).isSome = true → ok i fun t =>
        t = { s with out := t.out, shr := { s.shr with tctx := t.shr.tctx } } ∧
        ∀ k, tblGet t.shr.tctx k = if k = ctx * 4096 + peer then some target else tblGet s.shr.tctx k) ∧
      (8192 ≤ ctx ∨ 4096 ≤ peer ∨ 8192 ≤ target → fails i 2) ∧
      (ctx < 8192 → peer < 4096 → target < 8192 → tblGet s.ctxs ctx = none → fails i 1)) ∧
    (∀ ctx maxns, let i : Instr := .lockset h ctx maxns
      (∀ c, tblGet s.ctxs ctx = some c → maxns < 2 ^ 32 → ok i fun t => t = { s with out := t.out, ctxs := t.ctxs } ∧
        ∀ k, tblGet t.ctxs k = if k = ctx then some { c with lockmax := BitVec.ofNat 32 maxns } else tblGet s.ctxs k) ∧
      (tblGet s.ctxs ctx = none → fails i 1)) ∧
    (∀ gang cap, let i : Instr := .selvset h gang cap
      (1 ≤ gang → gang < 65536 → cap ≤ 255 → ok i fun t => t = { s with out := t.out, shr := { s.shr with caps := t.shr.caps } } ∧
        ∀ g, tblGetD t.shr.caps g 32 = if g = gang then cap else tblGetD s.shr.caps g 32) ∧
      (gang = 0 ∨ 65536 ≤ gang ∨ 255 < cap → fails i 2)) ∧
    (∀ gang, 1 ≤ gang → gang < 65536 → Runs (.selvread h gang) s fun t =>
      let e := tblGetD s.shr.selv gang {}
      Answer s t h 0 (bytesOfLE 8 (e.acc + e.granted * 2 ^ 8 + tblGetD s.shr.caps gang 32 * 2 ^ 16))) ∧
    (∀ keydom cls, let i : Instr := .sharecls h keydom cls
      (keydom < 1024 → cls ≤ 255 → ok i fun t => t = { s with out := t.out, graft := { s.graft with classes := t.graft.classes } } ∧
        ∀ k, tblGetD t.graft.classes k 0 = if k = keydom then cls else tblGetD s.graft.classes k 0) ∧
      (1024 ≤ keydom ∨ 255 < cls → fails i 2)) ∧
    (∀ gid ctx enc members, let i : Instr := .grpset h gid ctx enc members
      let range := gid < 1024 ∧ 1 ≤ members.length ∧ members.length ≤ 256 ∧
        ∀ m ∈ members, m.kind ≤ 1 ∧ m.rest = 0 ∧ m.addr.toNat % 2 ^ 44 = 0
      (range → (tblGet s.ctxs ctx).isSome = true → s.groupUsed gid = false → ok i fun t =>
        t = { s with out := t.out, coll := { s.coll with groups := t.coll.groups } } ∧
        ∀ g, tblGet t.coll.groups g = if g = gid then some { owner := ctx, enc := enc, members := members } else tblGet s.coll.groups g) ∧
      (¬range → fails i 2) ∧ (range → tblGet s.ctxs ctx = none → fails i 1) ∧
      (range → (tblGet s.ctxs ctx).isSome = true → (∃ e ∈ s.coll.colls, e.2.gid = gid) → fails i 4)) ∧
    (∀ gid, let i : Instr := .grpdel h gid
      ((tblGet s.coll.groups gid).isSome = true → s.groupUsed gid = false → ok i fun t =>
        t = { s with out := t.out, coll := { s.coll with groups := t.coll.groups } } ∧
        ∀ g, tblGet t.coll.groups g = if g = gid then none else tblGet s.coll.groups g) ∧
      (tblGet s.coll.groups gid = none → fails i 2) ∧
      ((tblGet s.coll.groups gid).isSome = true → (∃ e ∈ s.coll.colls, e.2.gid = gid) → fails i 4)) ∧
    (∀ (ring prod cons : Word) (k : Nat), k ≤ 10 → s.eth.waitEnds = [] → ok (.evqset h ring prod cons (64 * 2 ^ k)) fun t =>
      t = { s with out := t.out, eth := { s.eth with ring := t.eth.ring } } ∧
      t.eth.ring = some { sess := h.sess, base := ring, prod := prod, cons := cons, nev := 64 * 2 ^ k, seen := s.eth.eseq }) ∧
    (∀ (ring prod cons : Word) (n : Nat), (∀ k, k ≤ 10 → n ≠ 64 * 2 ^ k) → fails (.evqset h ring prod cons n) 2))

/-- R375: when the host's consumer word has moved on, held launch-end records go out in their order, up to the room of the ring. -/
def Sys2Proof.Claim.EventRingRoom : Prop :=
  ∀ (s : State) (cons : Nat),
    (s.eth.ring = none → Runs (.eventRingRoom cons) s fun t => t = s) ∧
    ∀ r, s.eth.ring = some r →
      (cons < r.seen ∨ s.eth.eseq < cons → Runs (.eventRingRoom cons) s fun t => t = s) ∧
      (r.seen ≤ cons → cons ≤ s.eth.eseq → s.eth.waitEnds.length ≤ 4096 → s.eth.eseq - cons ≤ r.nev →
        let n := min s.eth.waitEnds.length (r.nev - (s.eth.eseq - cons))
        Runs (.eventRingRoom cons) s fun t =>
          t.out = s.out ++ (s.eth.waitEnds.take n).mapIdx (fun i e =>
            .event r.sess (r.base + BitVec.ofNat 64 (64 * ((s.eth.eseq + i) % r.nev))) (e.record (s.eth.eseq + i)) r.prod (s.eth.eseq + i)
              (s.tagOf r.sess (e.record (s.eth.eseq + i)))) ∧
          t.eth = { s.eth with ring := some { r with seen := cons }, eseq := s.eth.eseq + n, waitEnds := s.eth.waitEnds.drop n } ∧
          t = { s with out := t.out, eth := t.eth })

/-- The tables that map an address can be read: no stack of them is missing or fenced, and no line is in error. -/
def Sys2Proof.Claim.TablesRead (s : State) (asid a : Nat) : Prop := s.mem.ue = [] ∧ ∀ b ∈ s.walkReads asid a, s.stackAt b = .ready
/-- What a page command does for the page at `a`: `u` is the state after it, `first` and `status` go into its answer (0 DONE, 1 DEFERRED,
2 NOMAP, 3 BADASID), and the next page begins at `next`. `y` is where its leaf stands. -/
def Sys2Proof.Claim.OnePage (s u : State) (h : Cmd) (asid a : Nat) (evict : Bool) (first status next : Nat) : Prop :=
  let pins (p : Nat) : Nat := tblGetD s.mem.pins (asid * 2 ^ 32 + p / 65536) 0
  let plain : Prop := u = s ∧ first = a ∧ next = a / 65536 * 65536 + 65536
  (tblGet s.mem.roots asid = none ∧ status = 3 ∧ plain) ∨
  ((tblGet s.mem.roots asid).isSome = true ∧
    ((status = 2 ∧ plain ∧ (2 ^ 48 ≤ a ∨ TablesRead s asid a ∧ s.walk asid a = none)) ∨
     ∃ l y, a < 2 ^ 48 ∧ TablesRead s asid a ∧ s.walk asid a = some l ∧ s.leafAt asid a = some y ∧ first = l.page ∧ next = l.page + l.size ∧
      ((pins l.page = 0 ∧ status = 0 ∧ u = s.clearLeaf y) ∨
       (pins l.page ≠ 0 ∧ status = 1 ∧ u = { s with
          mem := { s.mem with
            dying := s.mem.dying ++ [{ sess := h.sess, tag := h.tag, asid := asid, va := BitVec.ofNat 64 l.page, leaf := y, evict := evict }] } }))))
/-- The pages of a page command, each in the state that the one before has left, and the data of its answer. -/
def Sys2Proof.Claim.Pages (h : Cmd) (asid : Nat) (evict : Bool) : Nat → State → Nat → State → List Byte → Prop
  | 0, s, _, t, d => t = s ∧ d = []
  | n + 1, s, a, t, d => ∃ u first status next e, OnePage s u h asid a evict first status next ∧
      Sys2Proof.Claim.Pages h asid evict n u next t e ∧ d = bytesOfLE 8 first ++ bytesOfLE 1 status ++ e

/-- R173 to R176, R370, R371: a page command takes its pages in order. One that no leaf maps is NOMAP; one that is not pinned loses its
mapping, by the V bit of its leaf alone, and is DONE; a pinned one is dying, and loses its mapping when its pins have gone. The command
is answered once, with what became of every page, at once or when the last DEFERRED page of it is unmapped, and no later command of the
session is executed before. Each page of an address space without a root is BADASID. The layout and the codes of the answer, the 64 KiB
that a page without a leaf counts, and NOMAP for an address with a bit above 47 are the model's (log 22). -/
def Obligations.PageCommands : Prop :=
  (∀ (s : State) (h : Cmd) (asid n : Nat) (va : Word) (evict : Bool) (t : State) (d : List Byte),
    Custodian s h → 0 < n → Pages h asid evict n s va.toNat t d →
    let mine (c : PageCmd) : Prop := c.sess = h.sess ∧ c.tag = h.tag
    Runs (if evict then .pageEvict h asid va n else .pageUnmap h asid va n) s fun x =>
      ((∀ c ∈ t.mem.dying, ¬mine c) → Answer t x h 0 d) ∧
      ((∃ c ∈ t.mem.dying, mine c) → x = { t with eth := { t.eth with sessions := x.eth.sessions } } ∧
        (∀ k, k ≠ h.sess → tblGet x.eth.sessions k = tblGet s.eth.sessions k) ∧
        tblGet x.eth.sessions h.sess = (tblGet s.eth.sessions h.sess).map fun v => { v with pending := some (.page h.tag d) })) ∧
  -- the V bit of a leaf
  (∀ (s : State) (asid a y : Nat) (root : Word) (l : Leaf), tblGet s.mem.roots asid = some root → root.toNat % 4096 = 0 →
    s.walk asid a = some l → s.leafAt asid a = some y →
    let u := s.clearLeaf y
    (∀ x, l.page ≤ x → x < l.page + l.size → u.walk asid x = none) ∧ u = { s with mem := { s.mem with hbm := u.mem.hbm } } ∧
      u.mem.hbm.read y = s.mem.hbm.read y &&& 0xFE ∧ ∀ x, x ≠ y → u.mem.hbm.read x = s.mem.hbm.read x) ∧
  -- the pins of a dying page have gone
  ∀ (s : State) (asid : Nat) (va : Word),
    let pins : Nat := tblGetD s.mem.pins (asid * 2 ^ 32 + va.toNat / 65536) 0
    let waits : List PageCmd := s.mem.dying.filter fun c => c.asid == asid && c.va == va
    let left : List PageCmd := s.mem.dying.filter fun c => !(c.asid == asid && c.va == va)
    (waits = [] ∨ pins ≠ 0 → Runs (.deferred asid va) s fun t => t = s) ∧
    (waits ≠ [] → pins = 0 → Runs (.deferred asid va) s fun t =>
      t = { s with out := t.out, eth := { s.eth with sessions := t.eth.sessions }, mem := { s.mem with hbm := t.mem.hbm, dying := left } } ∧
      (∀ y, t.mem.hbm.read y = if ∃ c ∈ waits, c.leaf = y then s.mem.hbm.read y &&& 0xFE else s.mem.hbm.read y) ∧
      ∀ c v d, waits = [c] → tblGet s.eth.sessions c.sess = some v → v.pending = some (.page c.tag d) →
        ((∃ x ∈ left, x.sess = c.sess ∧ x.tag = c.tag) → t.out = s.out ∧ t.eth = s.eth) ∧
        ((∀ x ∈ left, ¬(x.sess = c.sess ∧ x.tag = c.tag)) →
          t.out = s.out ++ [.answer c.sess c.tag 0 d (s.tagOf c.sess (bytesOfLE 4 c.tag.toNat ++ bytesOfLE 1 0 ++ d))] ∧
          tblGet t.eth.sessions c.sess = some { v with pending := none }))
/-- What the gauges of some contexts come to fits the package for periods of so many ns (R273, R287, R289). -/
def Sys2Proof.Claim.GaugesFit (s : State) (per : Nat) (gs : List Gauge) : Prop :=
  let sum (f : Gauge → Nat) : Nat := (gs.map f).sum
  sum Gauge.mx ≤ 5 * per / 2 ∧ sum Gauge.vx ≤ 5 * per / 2 ∧ sum Gauge.ae ≤ 5 * per / 2 ∧ sum Gauge.cx ≤ 160 * per ∧
  sum Gauge.hbm ≤ (if s.vond8 then 36000 else 18000) * per ∧ sum Gauge.eth ≤ (if s.vond8 then 1600 else 800) * per ∧
  ∀ p, p < s.nPorts → sum Gauge.fb ≤ fcap ((s.port p).slotcfg.toNat % 2 ^ 32) ((s.port p).slotcfg.toNat / 2 ^ 32 % 2 ^ 20)

/-- R281 to R284, R287 to R290, R293, R295, R374, R386, R387: contexts are made, changed and deleted; their gauges and the package's
periods change at the next edge, and only to what fits; their priority and accounts are read,
with what their slots have spun so far; launches queue, up to 64. What CTXREAD gives beside PRIO, sums over the places of a resource in 8
bytes each, is the model's choice (log 22), and so are the fields of a new context that CTXSET does not set (log 11). -/
def Obligations.ContextCommands : Prop :=
  ∀ (s : State) (h : Cmd),
    let ok (i : Instr) (P : State → Prop) : Prop := Runs i s fun t => t.out = s.out ++ [answerOf s h 0 []] ∧ P t
    let fails (i : Instr) (n : Nat) : Prop := Runs i s fun t => Answer s t h n []
    let others (ctx : Nat) : List (Nat × Gauge) := (s.ctxs.filter fun e => e.1 != ctx).map fun e => (e.1, e.2.nextGauge.getD e.2.gauge)
    let pinned (l : List (Nat × Gauge)) : Nat := (l.filter fun e => e.1 != 0 && e.2.pin).length
    let u := s.spinAll
    (Custodian s h →
      (∀ ctx asid keydom gang spinlim stash, let i : Instr := .ctxset h ctx asid keydom gang spinlim stash
        let range := ctx < 8192 ∧ asid < 8192 ∧ keydom < 1024 ∧ gang < 65536 ∧ spinlim < 2 ^ 32 ∧ stash.toNat % 65536 = 0
        let clash := ∃ e ∈ u.ctxs, e.1 ≠ ctx ∧ e.2.asid.toNat = asid
        let made (c : Ctx) (t : State) : Prop :=
          t = { u with out := t.out, ctxs := t.ctxs, shr := { s.shr with selv := t.shr.selv } } ∧
          (∀ k, tblGet t.ctxs k = if k = ctx then some { c with
            asid := BitVec.ofNat 13 asid, keydom := BitVec.ofNat 10 keydom, gang := BitVec.ofNat 16 gang
            spinlim := BitVec.ofNat 32 spinlim, stashBase := stash } else tblGet u.ctxs k) ∧
          ∀ g, ((∃ e ∈ t.ctxs, e.2.gang.toNat = g) → tblGet t.shr.selv g = tblGet s.shr.selv g) ∧
            ((∀ e ∈ t.ctxs, e.2.gang.toNat ≠ g) → tblGet t.shr.selv g = none)
        (¬range → fails i 2) ∧ (range → clash → fails i 4) ∧
        (range → ¬clash → tblGet u.ctxs ctx = none → ok i (made {
          created := s.clk.time
          logHead := sha3 (bytesOfLE 1312 (Config.mldsaPublic s.sec.puf) ++ bytesOfLE 2 ctx ++ bytesOfLE 8 s.clk.time.toNat) })) ∧
        ∀ c, range → ¬clash → tblGet u.ctxs ctx = some c →
          let fixed := (c.asid.toNat ≠ asid ∨ c.keydom.toNat ≠ keydom ∨ c.stashBase ≠ stash) ∧ (c.launch ≠ none ∨ c.stash ≠ [])
          (fixed → fails i 4) ∧ (¬fixed → ok i (made c))) ∧
      (∀ ctx, (ctx = 0 ∨ tblGet s.ctxs ctx = none → fails (.ctxdel h ctx) 1) ∧
        ∀ c, ctx ≠ 0 → tblGet s.ctxs ctx = some c →
          (c.launch ≠ none → fails (.ctxdel h ctx) 4) ∧
          (c.launch = none → Runs (.ctxdel h ctx) s fun t =>
            (∀ k, tblGet t.ctxs k = if k = ctx then none else tblGet s.ctxs k) ∧ tblGet t.mem.roots c.asid.toNat = none ∧
            (∀ a, a ≠ c.asid.toNat → tblGet t.mem.roots a = tblGet s.mem.roots a) ∧ t.mem.hbm = s.mem.hbm ∧
            (∀ e ∈ t.coll.armed, e.2.ctx ≠ ctx) ∧ (∀ e ∈ t.coll.colls, e.2.ctx ≠ ctx) ∧ t.seqs = s.seqs ∧ t.slots = s.slots ∧
            (c.launchQ = [] → (∀ e ∈ c.windows, e.2.pins = []) → t.out = s.out ++ [answerOf s h 0 []]) ∧
            ∃ o r k, tblGet t.sec.oldLogs ctx = some o ∧ o.ring.getLast? = some r ∧ r.index = c.logIndex + 1 ∧ r.bytes.length = 160 ∧
              (r.bytes.drop 6).head? = some (BitVec.ofNat 8 ((if c.resident then 1 else 0) + 2)) ∧
              o.checks.head? = some k ∧ k.index = c.logIndex + 1 ∧ k.time = s.clk.time)) ∧
      (∀ (ctx : Nat) (g : BitVec 512), let i : Instr := .gaugeset h ctx g
        let n (off len : Nat) : Nat := g.toNat / 256 ^ off % 256 ^ len
        let new : Gauge := {
          mx := n 0 4, vx := n 4 4, ae := n 8 4, fb := n 12 4, cx := n 16 8, hbm := n 24 8, eth := n 32 8
          pri := n 40 1, lo := n 41 1 % 2 == 1, pin := n 41 1 / 2 == 1 }
        let clear := n 40 1 < 64 ∧ n 41 1 < 4 ∧ n 42 22 = 0
        let all := (ctx, new) :: others ctx
        let fits := GaugesFit s (s.shr.nextPeriod.getD s.shr.period) (all.map (·.2)) ∧ pinned all ≤ s.shr.resmax
        (tblGet s.ctxs ctx = none → fails i 1) ∧
        ∀ c, tblGet s.ctxs ctx = some c → (¬clear → fails i 2) ∧ (clear → ¬fits → fails i 3) ∧
          (clear → fits → ok i fun t => t = { s with out := t.out, ctxs := t.ctxs } ∧
            ∀ k, tblGet t.ctxs k = if k = ctx then some { c with gauge := { c.gauge with fb := new.fb }, nextGauge := some new } else tblGet s.ctxs k)) ∧
      (∀ resmax period, let i : Instr := .rescfg h resmax period
        let range := 1 ≤ resmax ∧ resmax ≤ 255 ∧ 10 ≤ period ∧ period ≤ 10000
        let all := s.ctxs.map fun e => (e.1, e.2.nextGauge.getD e.2.gauge)
        let fits := (s.shr.nextPeriod.getD s.shr.period ≤ 1000 * period ∨ GaugesFit s (1000 * period) (all.map (·.2))) ∧ pinned all ≤ resmax
        (∀ e ∈ s.ctxs, e.1 < 8192) →
        (¬range → fails i 2) ∧ (range → ¬fits → fails i 3) ∧
        (range → fits → ok i fun t => t = { s with out := t.out, shr := { s.shr with resmax := resmax, nextPeriod := some (1000 * period) } })) ∧
      (∀ ctx, (tblGet s.ctxs ctx = none → fails (.ctxread h ctx) 1) ∧
        ∀ c, (tblGet s.ctxs ctx).isSome = true → tblGet u.ctxs ctx = some c → c.gauge.pri < 64 → c.pen < 16 →
          let acc := if c.gang = 0 then 0 else (tblGetD s.shr.selv c.gang.toNat {}).acc
          acc < 256 → Runs (.ctxread h ctx) s fun t => ∃ d, Answer u t h 0 d ∧ d.length = 120 ∧
            leOfBytes (d.take 8) = c.gauge.pri + acc * 2 ^ 12 + c.pen * 2 ^ 20 + min 63 (c.gauge.pri + acc / 4 - c.pen) * 2 ^ 24
              + (if c.launchQ ≠ [] ∨ c.launch ≠ none ∨ c.stash ≠ [] then 2 ^ 30 else 0) + (if c.resident then 2 ^ 31 else 0)
              + c.wins % 4 * 2 ^ 32 ∧
            ∀ r, r < 7 → let mine := c.accts.filter fun e => e.1 / 65536 == r
              BitVec.ofNat 64 (leOfBytes ((d.drop (8 + 16 * r)).take 8)) = BitVec.ofInt 64 (mine.map fun e => e.2.avail).sum ∧
              leOfBytes ((d.drop (16 + 16 * r)).take 8) = (mine.map fun e => e.2.loused).sum % 2 ^ 64)) ∧
    (Opened s h → ∀ ctx rec, let i : Instr := .launch h ctx rec
      (tblGet s.ctxs ctx = none → fails i 1) ∧
      ∀ c, tblGet s.ctxs ctx = some c → (64 ≤ c.launchQ.length → fails i 4) ∧
        (c.launchQ.length < 64 → ok i fun t => t = { s with out := t.out, ctxs := t.ctxs } ∧
          ∀ k, tblGet t.ctxs k = if k = ctx then some { c with launchQ := c.launchQ ++ [rec] } else tblGet s.ctxs k))

/-- R370, R380 to R390: keys are loaded into empty slots once their tag fits and their halves differ, and deleted at once or, while
a pinned page names them, when the last pin goes; both public keys are read by anyone; a session is opened, admitted if the custodian
key verifies its signature over the ciphertext; usage logs are read and signed, and a quote carries the digests and the nonce. What
ML-KEM and ML-DSA give is open (log 9). That a session opened anew replaces the old one, and that its number is one byte of its key's
input, are the model's readings (log 21), the layout of the answers its choice (log 22); a deleted context's log stays readable (log
30). -/
def Obligations.KeysAndIdentity : Prop :=
  ∀ (s : State) (h : Cmd),
    let ok (i : Instr) (d : List Byte) (P : State → Prop) : Prop := Runs i s fun t => t.out = s.out ++ [answerOf s h 0 d] ∧ P t
    let fails (i : Instr) (n : Nat) : Prop := Runs i s fun t => Answer s t h n []
    let le32 (v : BitVec 256) : List Byte := bytesOfLE 32 v.toNat
    let material (k dom ct : Nat) : List Byte := le32 (Config.mlkemDecap s.sec.puf ct) ++ (bytesOfLE 2 k ++ bytesOfLE 2 dom)
    let plain (k dom ct : Nat) (w : BitVec 512) : BitVec 512 := w ^^^ shake512 (material k dom ct)
    let good (k dom ct : Nat) (w : BitVec 512) (tag : BitVec 128) : Prop :=
      tag.toNat = (sha3 (material k dom ct ++ bytesOfLE 64 w.toNat)).toNat % 2 ^ 128 ∧
      (plain k dom ct w).toNat % 2 ^ 256 ≠ (plain k dom ct w).toNat / 2 ^ 256
    (Custodian s h →
      (∀ k dom ct w tag, let i : Instr := .keyload h k dom ct w tag
        (2048 ≤ k ∨ 1024 ≤ dom ∨ ¬good k dom ct w tag → fails i 2) ∧
        (k < 2048 → dom < 1024 → good k dom ct w tag →
          ((tblGet s.mem.keys k).isSome = true → fails i 4) ∧
          (tblGet s.mem.keys k = none → ok i [] fun t =>
            t = { s with out := t.out, mem := { s.mem with keys := t.mem.keys } } ∧
            ∀ j, tblGet t.mem.keys j = if j = k then some { keydom := BitVec.ofNat 10 dom, val := plain k dom ct w }
              else tblGet s.mem.keys j))) ∧
      (∀ k, let i : Instr := .keydel h k
        let held := ∃ e ∈ s.mem.pins, ∃ l, s.walk (e.1 / 2 ^ 32) (e.1 % 2 ^ 32 * 65536) = some l ∧ l.key = k
        let keys (t : State) (v : Option Key) : Prop := t = { s with out := t.out, mem := { s.mem with keys := t.mem.keys } } ∧
          ∀ j, tblGet t.mem.keys j = if j = k then v else tblGet s.mem.keys j
        (tblGet s.mem.keys k = none → fails i 2) ∧
        ∀ v, tblGet s.mem.keys k = some v → (v.dying = true → fails i 4) ∧
          (v.dying = false → held → ok i (bytesOfLE 8 1) fun t => keys t (some { v with dying := true })) ∧
          (v.dying = false → ¬held → ok i (bytesOfLE 8 0) fun t => keys t none)) ∧
      (∀ n dom ct w tag, let i : Instr := .nkeyload h n dom ct w tag
        (4096 ≤ n ∨ dom ≠ 0 ∨ tblGet s.eth.nodes n = none ∨ ¬good n dom ct w tag → fails i 2) ∧
        ∀ v, n < 4096 → dom = 0 → tblGet s.eth.nodes n = some v → good n dom ct w tag → ok i [] fun t =>
          t = { s with out := t.out, eth := { s.eth with nodes := t.eth.nodes } } ∧
          ∀ j, tblGet t.eth.nodes j = if j = n then some { v with key := some ((plain n dom ct w).extractLsb' 0 256) } else tblGet s.eth.nodes j) ∧
      (∀ ctx, (tblGet s.ctxs ctx = none → fails (.logsign h ctx) 1) ∧
        ∀ c, tblGet s.ctxs ctx = some c → ok (.logsign h ctx) [] fun t => t = { s with out := t.out, ctxs := t.ctxs } ∧
          (∀ k, k ≠ ctx → tblGet t.ctxs k = tblGet s.ctxs k) ∧
          ∃ k, tblGet t.ctxs ctx = some { c with checks := k :: c.checks.take 1 } ∧ k.index = c.logIndex ∧ k.head = c.logHead ∧ k.time = s.clk.time)) ∧
    (Opened s h →
      (∀ ctx index,
        (tblGet s.ctxs ctx = none → tblGet s.sec.oldLogs ctx = none → fails (.logread h ctx index) 1) ∧
        ∀ ring checks, ((∃ c, tblGet s.ctxs ctx = some c ∧ c.logRing = ring ∧ c.checks = checks) ∨
          (tblGet s.ctxs ctx = none ∧ tblGet s.sec.oldLogs ctx = some { ring := ring, checks := checks })) →
          Runs (.logread h ctx index) s fun t => ∃ a b, Answer s t h 0 (a ++ b) ∧ b.length = 2470 * checks.length ∧
            a = ((ring.filter fun r => index ≤ r.index).take 64).flatMap LogRec.bytes) ∧
      (∀ nonce : BitVec 256, Runs (.quote h nonce) s fun t => ∃ table : List Byte,
        let f := le32 s.sec.fwDigest ++ le32 s.sec.cfgDigest ++ le32 (sha3 table) ++ le32 nonce ++ bytesOfLE 8 s.clk.time.toNat
        Answer s t h 0 (f ++ bytesOfLE 2420 (Config.mldsaSign s.sec.puf (sha3 f))) ∧ table.length = 8192 ∧
        ∀ k, k < 2048 → leOfBytes ((table.drop (4 * k)).take 4) = match tblGet s.mem.keys k with
          | none => 0 | some v => v.keydom.toNat + (if v.dying then 2 ^ 30 else 0) + 2 ^ 31)) ∧
    (tblGet s.eth.sessions h.sess = none ∨ (∃ v : Session, tblGet s.eth.sessions h.sess = some v ∧ v.pending = none ∧ s.authentic h = true) →
      (∃ e ∈ s.eth.ports, e.2.ready = true) → Runs (.idread h) s fun t => Answer s t h 0
      (bytesOfLE 1312 (Config.mldsaPublic s.sec.puf) ++ bytesOfLE 1184 (Config.mlkemPublic s.sec.puf))) ∧
    ((∀ e ∈ s.eth.ports, e.2.ready = false) ∨ (∃ v : Session, tblGet s.eth.sessions h.sess = some v ∧ (v.pending ≠ none ∨ s.authentic h = false)) →
      Runs (.idread h) s fun t => t = s) ∧
    (∀ sess ct sig, let i : Instr := .sessionOpen sess ct sig
      (16 ≤ sess ∨ s.preg.endptReady = false ∨ (∀ e ∈ s.eth.ports, e.2.ready = false) → Runs i s fun t => t = s) ∧
      (sess < 16 → s.preg.endptReady = true → (∃ e ∈ s.eth.ports, e.2.ready = true) → Runs i s fun t =>
        t = { s with eth := { s.eth with sessions := t.eth.sessions } } ∧
        ∀ k, tblGet t.eth.sessions k = if k = sess then some {
          admitted := Config.mldsaVerify s.sec.custKey (bytesOfLE 1088 ct) sig
          key := sha3 (le32 (Config.mlkemDecap s.sec.puf ct) ++ bytesOfLE 1 sess)
          failAt := ((tblGet s.eth.sessions sess).map Session.failAt).getD 0 } else tblGet s.eth.sessions k))

/-- R14, R203, R205, R385, R387, R389, R393 to R395: the security engine is ready once the firmware image is verified under the key whose
digest the boot ROM holds, and the configuration blob in the same way; the chain of context 0 then starts from the identity. Each function
becomes ready once, and only a die, a core, a stack or an Ethernet port can be fenced, for good. Every change of a READY bit sends its
event. That a single core is fenced by FUNCTION_FENCED is the model's reading (log 26), and so is that bring-up happens once (log 30);
what ML-DSA verifies is open (log 9). -/
def Obligations.BringUpAndReadiness : Prop :=
  ∀ (s : State),
    let event (u t : State) (unit inst on : Nat) : Prop := Emits u t 8 0xFFFF (bytesOfLE 1 unit ++ bytesOfLE 2 inst ++ bytesOfLE 1 on)
    let ready (u : Unit') (P : State → Prop) : Prop := Runs (.functionReady u) s P
    let fenced (u : Unit') (P : State → Prop) : Prop := Runs (.functionFenced u) s P
    let same (t : State) : Prop := t = s
    (∀ fw cfg kerez sigs ck puf, let i : Instr := .bringUp fw cfg kerez sigs ck puf
      let le32 (v : BitVec 256) : List Byte := bytesOfLE 32 v.toNat
      (s.sec.begun = true → Runs i s same) ∧
      (s.sec.begun = false → Runs i s fun t => ∃ u : State,
        u = { s with
          sec := { s.sec with begun := true, puf := puf, custKey := ck, fwDigest := sha3 fw, cfgDigest := sha3 cfg }
          ctxs := u.ctxs } ∧
        (∀ k, k ≠ 0 → tblGet u.ctxs k = tblGet s.ctxs k) ∧ u.ctx 0 = { s.ctx 0 with logHead := (u.ctx 0).logHead } ∧
        ((s.ctx 0).logRing = [] → (u.ctx 0).logHead =
          sha3 (bytesOfLE 1312 (Config.mldsaPublic puf) ++ bytesOfLE 2 0 ++ bytesOfLE 8 (s.ctx 0).created.toNat)) ∧
        if sha3 (bytesOfLE 1312 kerez) = Config.kerezDigest ∧ Config.mldsaVerify kerez (le32 (sha3 fw)) sigs.1 = true ∧
            Config.mldsaVerify kerez (le32 (sha3 cfg)) sigs.2 = true then
          t = { u with preg := t.preg, out := t.out, eth := t.eth } ∧ t.preg.secReady = true ∧
            event { u with preg := { s.preg with secReady := true } } t 0 0 1
        else t = u)) ∧
    ready .sec same ∧
    (s.preg.endptReady = true ∨ s.preg.secReady = false ∨ (∀ e ∈ s.eth.ports, e.2.ready = false) → ready .endpt same) ∧
    (s.preg.endptReady = false → s.preg.secReady = true → (∃ e ∈ s.eth.ports, e.2.ready = true) → ready .endpt fun t =>
      t = { s with preg := t.preg, out := t.out, eth := t.eth } ∧ t.preg.endptReady = true ∧
      event { s with preg := { s.preg with endptReady := true } } t 1 0 1) ∧
    (∀ d, let v := s.die d
      (s.nDies ≤ d ∨ v.ready = true ∨ v.fenced = true → ready (.die d) same) ∧
      (d < s.nDies → v.ready = false → v.fenced = false → ready (.die d) fun t =>
        t = { s with dies := t.dies, cores := t.cores, master := t.master, out := t.out, eth := t.eth, preg := t.preg } ∧
        t.die d = { v with ready := true } ∧ (∀ e, e ≠ d → t.die e = s.die e) ∧
        (∀ k, t.core k = if k / 32 = d then { s.core k with power := .idle, since := s.now, waking := false } else s.core k) ∧
        ((t.die s.master).ready = true → t.master = s.master) ∧
        ((t.die s.master).ready = false → (∀ m, m < d → (s.die m).ready = false ∨ (s.die m).fenced = true) → t.master = d) ∧
        event s t 2 d 1)) ∧
    (∀ d, let v := s.die d
      (s.nDies ≤ d ∨ v.fenced = true → fenced (.die d) same) ∧
      (d < s.nDies → v.fenced = false → fenced (.die d) fun t => ∃ u, Runs (.dieFence d) u (fun w => w = t) ∧
        u = { s with dies := u.dies, out := u.out, eth := u.eth, preg := u.preg } ∧
        u.die d = { v with ready := false, fenced := true } ∧ (∀ e, e ≠ d → u.die e = s.die e) ∧
        (v.ready = true → event s u 2 d 0) ∧ (v.ready = false → u = { s with dies := u.dies }))) ∧
    (∀ c, ready (.core c) same ∧ (32 * s.nDies ≤ c ∨ (s.core c).fenced = true → fenced (.core c) same) ∧
      (c < 32 * s.nDies → (s.core c).fenced = false → (∀ e ∈ s.grps, s.launchOf e.2.ctx ≠ none) → fenced (.core c) fun t =>
        (t.core c).fenced = true ∧ t.coreUp c = false ∧ (∀ e ∈ t.grps, e.2.core ≠ c) ∧
        ∀ j, j < 4 → (t.slot (4 * c + j)).task = none)) ∧
    (∀ k, (s.nStacks ≤ k ∨ (tblGet s.mem.stk k).isSome = true → ready (.hbm k) same) ∧
      (k < s.nStacks → tblGet s.mem.stk k = none → ready (.hbm k) fun t =>
        t = { s with mem := { s.mem with stk := t.mem.stk, ue := t.mem.ue }, out := t.out, eth := t.eth, preg := t.preg } ∧
        (∀ e, e ∈ t.mem.ue ↔ e ∈ s.mem.ue ∧ ¬∃ l, e = .hbmLine l ∧ stackOf (64 * l) = k) ∧
        (∀ j, tblGet t.mem.stk j = if j = k then some true else tblGet s.mem.stk j) ∧ event s t 3 k 1) ∧
      (s.nStacks ≤ k ∨ tblGet s.mem.stk k = some false → fenced (.hbm k) same) ∧
      (k < s.nStacks → tblGet s.mem.stk k ≠ some false → fenced (.hbm k) fun t =>
        t = { s with mem := { s.mem with stk := t.mem.stk }, out := t.out, eth := t.eth, preg := t.preg } ∧
        (∀ j, tblGet t.mem.stk j = if j = k then some false else tblGet s.mem.stk j) ∧
        (tblGet s.mem.stk k = some true → event s t 3 k 0) ∧ (tblGet s.mem.stk k = none → t.out = s.out))) ∧
    (∀ p, (s.nPorts ≤ p ∨ (s.port p).ready = true → ready (.opt p) same) ∧
      (p < s.nPorts → (s.port p).ready = false → ready (.opt p) fun t => t.port p = { s.port p with ready := true } ∧
        (∀ r, r ≠ p → t.port r = s.port r) ∧ event s t 4 p 1 ∧
        t = { s with fab := { s.fab with ports := t.fab.ports }, out := t.out, eth := t.eth, preg := t.preg }) ∧
      fenced (.opt p) same) ∧
    (∀ p, let v := s.ethPort p
      let sets (t : State) (w : EthPort) : Prop := t.ethPort p = w ∧ (∀ r, r ≠ p → t.ethPort r = s.ethPort r) ∧
        t = { s with out := t.out, eth := t.eth, preg := t.preg }
      let ports (t : State) : State := { s with eth := { s.eth with ports := t.eth.ports } }
      (s.nEth ≤ p ∨ v.ready = true ∨ v.fenced = true → ready (.eth p) same) ∧
      (p < s.nEth → v.ready = false → v.fenced = false → ready (.eth p) fun t => sets t { v with ready := true } ∧ event (ports t) t 5 p 1) ∧
      (s.nEth ≤ p ∨ v.fenced = true → fenced (.eth p) same) ∧
      (p < s.nEth → v.fenced = false → fenced (.eth p) fun t => sets t { v with ready := false, fenced := true } ∧
        (v.ready = true → event (ports t) t 5 p 0) ∧ (v.ready = false → t = ports t))) ∧
    fenced .sec same ∧ fenced .endpt same

/-- R376 to R378, R399, R400: a sync message sets the offset and ends a holdover; at the first lock a later master steps TIME forward, by
which no time passes; at any other sync message the counter is slewed towards the master. On a package that takes its time from a master
two seconds without one end the lock. A die's thermal state follows its temperature with hysteresis, and a trip fences it. The model's
readings: the first lock is the first sync message that steps, or finds the offset within 50 ns, which two locked packages then differ by
at most twice, and the servo's rate (log 25); a temperature in two states' ranges takes the higher one, and TRIP has no end (log 26). -/
def Obligations.TimeAndThermalStates : Prop :=
  ∀ (s : State),
    (∀ (master : Nat) (offset : BitVec 32), let i : Instr := .ptpSync master offset
      let k := s.clk
      let near := decide (-50 ≤ offset.toInt ∧ offset.toInt ≤ 50)
      (k.ptpEn = false ∨ (s.ethPort k.ptpPort.toNat).ready = false → Runs i s fun t => t = s) ∧
      (k.ptpEn = true → (s.ethPort k.ptpPort.toNat).ready = true →
        (k.tuned = true ∨ master ≤ k.time.toNat ∨ 2 ^ 64 ≤ master → Runs i s fun t => t = { s with
          clk := { k with
            offset := offset, lock := near, hold := false, tuned := k.tuned || near, lastSync := s.now, slew := -offset.toInt } }) ∧
        (k.tuned = false → k.time.toNat < master → master < 2 ^ 64 → Runs i s fun t =>
          t.clk = { k with
            offset := offset, time := BitVec.ofNat 64 master, stepped := true, lock := true, hold := false, tuned := true, lastSync := s.now
            jump := k.jump + (BitVec.ofNat 64 master - k.time), slew := 0, part := 0 } ∧
          t.now = s.now ∧ t.mem = s.mem ∧
          (master < s.shr.edge.toNat → t = { s with clk := t.clk, slots := t.slots } ∧
            ∀ j, t.slot j = if (s.slot j).lockend ≠ 0 ∧ (s.slot j).lockend.toNat ≤ master then { s.slot j with lockend := 0 } else s.slot j)))) ∧
    (s.clk.ptpEn = true → s.clk.hold = false → 2000000000 ≤ (s.now - s.clk.lastSync).toNat → Runs .holdover s fun t =>
      t = { s with clk := { s.clk with lock := false, hold := true, slew := 0, part := 0 }, out := t.out, eth := t.eth, preg := t.preg } ∧
      Emits s t 6 0xFFFF (bytesOfLE 8 (s.clk.offset.signExtend 64).toNat)) ∧
    (s.clk.ptpEn = false ∨ s.clk.hold = true ∨ (s.now - s.clk.lastSync).toNat < 2000000000 → Runs .holdover s fun t => t = s) ∧
    ∀ (d temp : Nat), let i : Instr := .thermalStateChange d temp
      let v := s.die d
      -- cycles spun so far are counted in the old clock's
      let u := s.spinAll
      let code (x : Therm) : Nat := match x with | .normal => 0 | .warn => 1 | .throttle => 2 | .trip => 3
      let event (t : State) (x : Therm) : Prop := Emits u t 9 0xFFFF (bytesOfLE 1 d ++ bytesOfLE 1 (code v.therm) ++ bytesOfLE 1 (code x) ++ bytesOfLE 1 temp)
      let sets (t : State) (x : Therm) : Prop := t.die d = { v with therm := x, temp := BitVec.ofNat 8 temp } ∧ ∀ e, e ≠ d → t.die e = s.die e
      (s.nDies ≤ d ∨ 256 ≤ temp → Runs i s fun t => t = s) ∧
      (d < s.nDies → temp < 256 →
        let to_ (x : Therm) : Prop := Runs i s fun t => sets t x ∧ event t x ∧ t = { u with dies := t.dies, out := t.out, eth := t.eth, preg := t.preg }
        let stays := Runs i s fun t => sets t v.therm ∧ t = { u with dies := t.dies }
        (v.therm = .normal → (temp < 95 → stays) ∧ (95 ≤ temp → temp < 105 → to_ .warn) ∧ (105 ≤ temp → temp < 115 → to_ .throttle)) ∧
        (v.therm = .warn → (temp < 90 → to_ .normal) ∧ (90 ≤ temp → temp < 105 → stays) ∧ (105 ≤ temp → temp < 115 → to_ .throttle)) ∧
        (v.therm = .throttle → (temp < 100 → to_ .warn) ∧ (100 ≤ temp → temp < 115 → stays)) ∧
        (v.therm = .trip → stays) ∧
        (v.therm ≠ .trip → 115 ≤ temp → Runs i s fun t => ∃ w, sets w .trip ∧ event w .trip ∧
          w = { u with dies := w.dies, out := w.out, eth := w.eth, preg := w.preg } ∧ Runs (.functionFenced (.die d)) w fun x => x = t))
/-- The slot runs a task of the context that has not ended. -/
def Sys2Proof.Claim.RunsTask (s : State) (k ctx : Nat) : Prop := ∃ tk : Task, (s.slot k).task = some tk ∧ tk.ctx = ctx ∧ tk.ended = false
/-- A slot is halted for debug (R313, R314): its waits are over, with what they have spun counted, its event sent, and what it
holds stays. -/
def Sys2Proof.Claim.Halts (s t : State) (k : Nat) : Prop :=
  let a : SeqRef := { slot := k, x := false }; let x : SeqRef := { slot := k, x := true }
  t.slot k = { (s.spinAccrue k).slot k with halted := true, haltReq := false, stepOne := none, stepping := false } ∧ (∀ j, j ≠ k → t.slot j = s.slot j) ∧
  (∀ r, t.seq r = { s.seq r with wait := (t.seq r).wait, timecmp := (t.seq r).timecmp }) ∧
  (∀ r, r ≠ a → r ≠ x → t.seq r = s.seq r) ∧ (t.seq a).wait = none ∧ (t.seq x).wait = none ∧ t.mem = s.mem ∧ t.grps = s.grps ∧
  Emits s t 0x30 (s.slot k).ctxOf (bytesOfLE 8 (k / 4) ++ bytesOfLE 8 (k % 4) ++ bytesOfLE 8 (s.seq a).pc.toNat ++ bytesOfLE 8 (s.seq x).pc.toNat)
/-- A sequencer stands between instructions, or in a wait that a halt ends, and no trap is due there (R314, R316). -/
def Sys2Proof.Claim.CanHalt (q : Seq) : Prop :=
  (q.stopped = true ∨ q.held = [] ∨ q.intrap = true) ∧
  (q.wait = none ∨ ∃ w, q.wait = some w ∧ w.held = none ∧
    ((∃ g a b n, w.ins = .semwait g a b n) ∨ (∃ g a, w.ins = .waitt g a) ∨ (∃ g cc sp wide d a b, w.ins = .poll g cc sp wide d a b)))

/-- R124, R307 to R316: the debugger's commands on a context that allows them. A halt takes effect at once where both sequencers can
halt, else when they can, after a trap that is due; a halted slot stays halted; a resume and a step start halted sequencers; reads answer DSTAT with the data, writes change the one
thing they name. A swapped-out slot is reached in its saved state. A slot that the context does not have is answered with status 2, a
context without EN with 1. How an index names a thing of its class, that a saved slot is named by the slot it was saved from, and
status 2 for a slot that the context does not have are the model's (log 20). -/
def Obligations.DebuggerCommands : Prop :=
  ∀ (s : State) (h : Cmd) (ctx : Nat) (c : Ctx), Custodian s h → tblGet s.ctxs ctx = some c →
    let fails (i : Instr) (n : Nat) : Prop := Runs i s fun t => Answer s t h n []
    (∀ en bk ha, Runs (.dbgctl h ctx en bk ha) s fun t => t.out = s.out ++ [answerOf s h 0 []] ∧ t = { s with out := t.out, ctxs := t.ctxs } ∧
      ∀ k, tblGet t.ctxs k = if k = ctx then some { c with dbgEn := en, bken := bk, halten := ha } else tblGet s.ctxs k) ∧
    (∀ n, tblGet s.ctxs n = none → ∀ en bk ha, fails (.dbgctl h n en bk ha) 1) ∧
    (∀ i, (∃ sel, i = .dbghalt h ctx sel ∨ i = .dbgresume h ctx sel) ∨ (∃ k x, i = .dbgstep h ctx k x) ∨
      (∃ k x cls j n, i = .dbgread h ctx k x cls j n) ∨ (∃ k x cls j d, i = .dbgwrite h ctx k x cls j d) → c.dbgEn = false → fails i 1) ∧
    (c.dbgEn = true → ∀ k,
      let v := s.slot k
      let a := s.seq { slot := k, x := false }; let x := s.seq { slot := k, x := true }
      (¬RunsTask s k ctx → (∀ e ∈ c.savedSlots, e.from_ ≠ k) →
        fails (.dbghalt h ctx (.one k)) 2 ∧ fails (.dbgresume h ctx (.one k)) 2 ∧ (∀ b, fails (.dbgstep h ctx k b) 2) ∧
        (∀ b cls j n, fails (.dbgread h ctx k b cls j n) 2) ∧ ∀ b cls j d, fails (.dbgwrite h ctx k b cls j d) 2) ∧
      (RunsTask s k ctx → c.savedSlots = [] → v.halted = false →
        (CanHalt a → CanHalt x → (∀ e ∈ (s.core (k / 4)).scopeQ, ∀ b, e.1 ≠ .seq { slot := k, x := b }) → Runs (.dbghalt h ctx (.one k)) s fun t =>
          ∃ u, Halts s u k ∧ t.out = u.out ++ [answerOf s h 0 []] ∧ t = { u with out := t.out, ctxs := t.ctxs } ∧ ∀ d, t.ctx d = (s.spinAccrue k).ctx d) ∧
        (a.stopped = false → a.held ≠ [] → a.intrap = false → a.wait = none → Runs (.dbghalt h ctx (.one k)) s fun t =>
          t.out = s.out ++ [answerOf s h 0 []] ∧ t.slot k = { v with haltReq := true } ∧ (∀ j, j ≠ k → t.slot j = s.slot j) ∧
          t.seqs = s.seqs ∧ t.mem = s.mem) ∧
        (∀ w g r e, a.wait = some w → w.ins = .epush g r e → Runs (.dbghalt h ctx (.one k)) s fun t => t.out = s.out ++ [answerOf s h 0 []] ∧
          t.slot k = { v with haltReq := true } ∧ (∀ j, j ≠ k → t.slot j = s.slot j) ∧ t.seqs = s.seqs ∧ t.mem = s.mem)) ∧
      (RunsTask s k ctx → c.savedSlots = [] → v.halted = true → Runs (.dbghalt h ctx (.one k)) s fun t =>
        t.out = s.out ++ [answerOf s h 0 []] ∧ (∀ d, t.ctx d = s.ctx d) ∧ t = { s with out := t.out, ctxs := t.ctxs }) ∧
      (RunsTask s k ctx → c.savedSlots = [] → Runs (.dbgresume h ctx (.one k)) s fun t => t.out = s.out ++ [answerOf s h 0 []] ∧
        t.slot k = { v with halted := false, haltReq := false, stepOne := none, stepping := false } ∧ (∀ j, j ≠ k → t.slot j = s.slot j) ∧
        (∀ d, t.ctx d = s.ctx d) ∧ t = { s with out := t.out, slots := t.slots, ctxs := t.ctxs }) ∧
      (∀ b, RunsTask s k ctx →
        (v.halted = true → (s.seq { slot := k, x := b }).stopped = false → Runs (.dbgstep h ctx k b) s fun t => t.out = s.out ++ [answerOf s h 0 []] ∧
          t.slot k = { v with stepOne := some b } ∧ (∀ j, j ≠ k → t.slot j = s.slot j) ∧ t = { s with out := t.out, slots := t.slots }) ∧
        (v.halted = false ∨ (s.seq { slot := k, x := b }).stopped = true → fails (.dbgstep h ctx k b) 2))) ∧
    (∀ k e, c.savedSlots = [e] → c.dbgEn = true → e.from_ = k → ¬RunsTask s k ctx →
      (Runs (.dbghalt h ctx (.one k)) s fun t => (t.ctx ctx) = { c with savedSlots := [{ e with slot := { e.slot with halted := true, haltReq := false } }] } ∧
        t.slots = s.slots ∧ ∃ u, t.out = u.out ++ [answerOf s h 0 []] ∧ t.eth = u.eth ∧ t.preg = u.preg ∧ (e.slot.halted = true → u = s) ∧
        (e.slot.halted = false → Emits s u 0x30 ctx
          (bytesOfLE 8 (k / 4) ++ bytesOfLE 8 (k % 4) ++ bytesOfLE 8 e.a.pc.toNat ++ bytesOfLE 8 e.x.pc.toNat))) ∧
      (∀ b, let stopped := (if b then e.x else e.a).stopped
        (e.slot.halted = true → stopped = false → Runs (.dbgstep h ctx k b) s fun t => t.out = s.out ++ [answerOf s h 0 []] ∧
          t = { s with out := t.out, ctxs := t.ctxs } ∧ (∀ d, d ≠ ctx → t.ctx d = s.ctx d) ∧
          t.ctx ctx = { c with savedSlots := [{ e with slot := { e.slot with stepOne := some b } }] }) ∧
        (e.slot.halted = false ∨ stopped = true → fails (.dbgstep h ctx k b) 2)) ∧
      Runs (.dbgresume h ctx (.one k)) s fun t => t.slots = s.slots ∧ t.out = s.out ++ [answerOf s h 0 []] ∧
        (t.ctx ctx) = { c with savedSlots := [{ e with slot := { e.slot with halted := false, haltReq := false, stepOne := none, stepping := false } }] }) ∧
    -- state that the debugger reaches
    (c.dbgEn = true → ∀ (k : Nat) (b : Bool), RunsTask s k ctx →
      let v := s.slot k
      let r : SeqRef := { slot := k, x := b }
      let q := s.seq r
      let dstat (ok gated woke : Bool) : List Byte := bytesOfLE 8
        ((if ok then 1 else 0) + (if gated then 2 else 0) + (if s.quiet k then 4 else 0) + (if woke then 8 else 0))
      let reads (cls : DbgClass) (j : Nat) (d : List Byte) : Prop := ∀ n, n ≤ 64 → Runs (.dbgread h ctx k b cls j n) s fun t =>
        Answer s t h 0 (dstat true false false ++ d.take n)
      let writes (cls : DbgClass) (j : Nat) (d : List Byte) (P : State → Prop) : Prop := d.length ≤ 64 → Runs (.dbgwrite h ctx k b cls j d) s fun t =>
        t.out = s.out ++ [answerOf s h 0 (dstat true false false)] ∧ P t
      let neither (cls : DbgClass) (j : Nat) : Prop := (∀ n, n ≤ 64 → Runs (.dbgread h ctx k b cls j n) s fun t => Answer s t h 0 (dstat false false false)) ∧
        ∀ d, d.length ≤ 64 → Runs (.dbgwrite h ctx k b cls j d) s fun t => Answer s t h 0 (dstat false false false)
      (∀ cls j n d, (64 < n → fails (.dbgread h ctx k b cls j n) 2) ∧ (64 < d.length → fails (.dbgwrite h ctx k b cls j d) 2)) ∧
      (∀ j, j < 64 → reads .scalar j (bytesOfLE 8 (q.s (BitVec.ofNat 6 j)).toNat) ∧ ∀ d, writes .scalar j d fun t =>
        t = { s with out := t.out, seqs := t.seqs } ∧ (∀ p, p ≠ r → t.seq p = s.seq p) ∧ t.seq r = { q with regs := (t.seq r).regs } ∧
        ∀ i : SReg, (t.seq r).s i = if i.toNat = j ∧ i ≠ 0 then BitVec.ofNat 64 (leOfBytes d) else q.s i) ∧
      (∀ j, j < 8 → reads .predicate j (bytesOfLE 1 (if q.p (BitVec.ofNat 3 j) then 1 else 0)) ∧ ∀ d, writes .predicate j d fun t =>
        t = { s with out := t.out, seqs := t.seqs } ∧ (∀ p, p ≠ r → t.seq p = s.seq p) ∧ t.seq r = { q with preds := (t.seq r).preds } ∧
        ∀ i : PReg, (t.seq r).p i = if i.toNat = j ∧ i ≠ 0 then leOfBytes d % 2 == 1 else q.p i) ∧
      (∀ j, j < 32 → reads .handle j (bytesOfLE 32 (q.h (BitVec.ofNat 5 j)).toNat) ∧ ∀ d, writes .handle j d fun t =>
        t = { s with out := t.out, seqs := t.seqs } ∧ (∀ p, p ≠ r → t.seq p = s.seq p) ∧ t.seq r = { q with handles := (t.seq r).handles } ∧
        ∀ i : HReg, (t.seq r).h i = if i.toNat = j then BitVec.ofNat 256 (leOfBytes d) else q.h i) ∧
      (∀ j, j < 4096 → (csrKnown (BitVec.ofNat 12 j) = true ∧ { s with cur := r }.csrReach j = true →
          reads .csr j (bytesOfLE 8 ({ s with cur := r }.csr j).toNat)) ∧
        (csrKnown (BitVec.ofNat 12 j) = false → neither .csr j)) ∧
      (let byte (m : Tbl (BitVec 1024)) (y : Nat) : Byte := BitVec.ofNat 8 ((tblGetD m (y / 128) 0).toNat / 256 ^ (y % 128))
       ∀ j, (∀ n, n ≤ 64 → j + n ≤ 1024 → Runs (.dbgread h ctx k b .mask j n) s fun t =>
          Answer s t h 0 (dstat true false false ++ (List.range n).map fun i => byte v.masks (j + i))) ∧
        ∀ d, j + d.length ≤ 1024 → writes .mask j d fun t => t = { s with out := t.out, slots := t.slots } ∧
          (∀ i, i ≠ k → t.slot i = s.slot i) ∧ t.slot k = { v with masks := (t.slot k).masks } ∧
          ∀ y, y < 1024 → byte (t.slot k).masks y = if j ≤ y ∧ y < j + d.length then d[y - j]?.getD 0 else byte v.masks y) ∧
      (∀ j, j < 256 → reads .semaphore j (let m := (s.ctx ctx).sem j
          bytesOfLE 8 (m.count.toNat + (if m.poison then 2 ^ 16 else 0) + m.cause.toNat * 2 ^ 24)) ∧ ∀ d, writes .semaphore j d fun t =>
        t = { s with out := t.out, ctxs := t.ctxs } ∧ (∀ i, i ≠ ctx → t.ctx i = s.ctx i) ∧ t.ctx ctx = { c with sems := (t.ctx ctx).sems } ∧
        (∀ i, i ≠ j → (t.ctx ctx).sem i = c.sem i) ∧
        ((t.ctx ctx).sem j).count = BitVec.ofNat 16 (leOfBytes d) ∧ ((t.ctx ctx).sem j).cause = BitVec.ofNat 8 (leOfBytes d / 2 ^ 24)) ∧
      (∀ g bank off, s.grp v.grpOf = some g → bank < 12 → g.mask.getLsbD bank = true →
        (∀ n, n ≤ 64 → off < 2 ^ 18 → off + n ≤ 2 ^ 18 → Runs (.dbgread h ctx k b .bank (bank * 2 ^ 18 + off) n) s fun t =>
          Answer s t h 0 (dstat true false false ++ (List.range n).map fun i => (g.bank bank).read (off + i))) ∧
        ∀ d, off + d.length ≤ 2 ^ 18 → 0 < d.length → writes .bank (bank * 2 ^ 18 + off) d fun t =>
          t = { s with out := t.out, grps := t.grps, mem := { s.mem with ue := t.mem.ue } } ∧ (∀ i, i ≠ v.grpOf → t.grp i = s.grp i) ∧ ∃ u, t.grp v.grpOf = some u ∧ u = { g with banks := u.banks } ∧
          ∀ i y, (u.bank i).read y = if i = bank ∧ off ≤ y ∧ y < off + d.length then d[y - off]?.getD 0 else (g.bank i).read y) ∧
      (∀ w rest, v.aq0 = w :: rest → reads .queue 0 (bytesOfLE 8 w.toNat) ∧ ∀ d, writes .queue 0 d fun t =>
        t = { s with out := t.out, slots := t.slots } ∧ (∀ i, i ≠ k → t.slot i = s.slot i) ∧
        t.slot k = { v with aq0 := BitVec.ofNat 64 (leOfBytes d) :: rest }) ∧
      (∀ w rest, v.qmx = w :: rest → reads .queue 1024 (bytesOfLE 64 w.r.toNat)) ∧
      (∀ sc j n, v.scope = some sc → j + n ≤ 1024 * sc.n → n ≤ 64 →
        let cl (i : Nat) : Cluster := (sc.cl[(j + i) / 8192]?).getD .on
        let gone (i : Nat) : Bool := match cl i with | .gated => true | .waking true _ => true | _ => false
        let st := dstat true ((List.range n).any fun i => cl i == .gated) ((List.range n).any fun i => cl i == .drowsy)
        let woken (t : State) (u : Scope) : Prop := (∀ i, i ≠ k → t.slot i = s.slot i) ∧ t.slot k = { v with scope := some u } ∧
          u = { sc with cl := u.cl, mem := u.mem } ∧ ∀ x, u.cl[x]? =
            if (∃ i, i < n ∧ (j + i) / 8192 = x) ∧ sc.cl[x]? = some .drowsy then some .on else sc.cl[x]?
        (Runs (.dbgread h ctx k b .tile j n) s fun t =>
          t.out = s.out ++ [answerOf s h 0 (st ++ (List.range n).map fun i => if gone i then 0 else sc.mem.read (j + i))] ∧
          t = { s with out := t.out, slots := t.slots } ∧ ∃ u, woken t u ∧ u.mem = sc.mem) ∧
        ∀ d : List Byte, d.length = n → Runs (.dbgwrite h ctx k b .tile j d) s fun t => t.out = s.out ++ [answerOf s h 0 st] ∧
          t = { s with out := t.out, slots := t.slots, mem := { s.mem with ue := t.mem.ue } } ∧
          ∃ u, woken t u ∧ ∀ y, u.mem.read y = if j ≤ y ∧ y < j + n ∧ gone (y - j) = false then d[y - j]?.getD 0 else sc.mem.read y) ∧
      (∀ j, 64 ≤ j → neither .scalar j) ∧ (∀ j, 8 ≤ j → neither .predicate j) ∧ (∀ j, 32 ≤ j → neither .handle j) ∧
      (∀ j, 4096 ≤ j → neither .csr j) ∧ (∀ j, 1024 < j → neither .mask j) ∧ (∀ j, 256 ≤ j → neither .semaphore j) ∧ (∀ j, 2048 ≤ j → neither .queue j)) ∧
    -- a halt that was asked for
    (∀ k, ((s.slot k).haltReq = false → Runs (.debugHalt k) s fun t => t = s) ∧
      ((s.slot k).haltReq = true → (s.slot k).halted = false → CanHalt (s.seq { slot := k, x := false }) → CanHalt (s.seq { slot := k, x := true }) →
        (∀ e ∈ (s.core (k / 4)).scopeQ, ∀ b, e.1 ≠ .seq { slot := k, x := b }) → Runs (.debugHalt k) s fun t => Halts s t k))
/-- R180, R257, R259, R296, R363 to R366, R384, R413: a packet that arrives. A port that is not ready, a packet of a host or one of an
ENC node that fails authentication or has no key drops it; an operation that the device does not implement is refused; a packet seen
before in its delivery context is acknowledged and not applied; else its window decides: a write is stored and acknowledged, but for
bytes that a packet created later has written already, which are not touched, and a read is answered with the data, once the node's
RATE allows it. A delivery context without traffic for 100 µs is discarded. Codes beside R259's are the model's (log 23); so are that
a packet's token is its place in the order of creation, that a delivery context is that of a port with a peer, and the gap that RATE
leaves behind a packet (log 24). -/
def Sys2Proof.Claim.EthernetAtTheTarget : Prop :=
  ∀ (s : State) (port : Nat) (p : Pkt),
    let key := if p.node < 4096 then port * 4096 + p.node else 2 ^ 20 + port * 16 + (p.node - 4096)
    let ctxOf : Pdc := tblGetD s.eth.pdcs key {}
    let forged := ∃ v, tblGet s.eth.nodes p.node = some v ∧ v.enc = true ∧ (p.authOk = false ∨ v.key = none)
    let a : Word := BitVec.ofNat 64 (p.node * 2 ^ 52 + p.win * 2 ^ 44 + p.off)
    let row (i : Instr) : Prop := i = .ethWritePacket port p ∨ i = .ethReadPacket port p
    let at_ := p.win * 2 ^ 44 + p.off
    let later (i : Nat) : Bool := ctxOf.wrote.any fun e =>
      decide (p.tok < e.1 ∧ e.2.1 = p.tctx ∧ e.2.2.1 ≤ at_ + i ∧ at_ + i < e.2.2.1 + e.2.2.2)
    let took : Pdc := { ctxOf with
      seen := (p.tok, 0) :: ctxOf.seen, wrote := (p.tok, p.tctx, at_, p.data.length) :: ctxOf.wrote }
    let answers (t : State) (code : Nat) (data : List Byte) (d : Pdc) : Prop :=
      t.out = s.out ++ [.pktAck port p code data] ∧ tblGet t.eth.pdcs key = some { d with lastUse := s.now } ∧
      (∀ k, k ≠ key → tblGet t.eth.pdcs k = tblGet s.eth.pdcs k) ∧ t.eth = { s.eth with pdcs := t.eth.pdcs } ∧ t.seqs = s.seqs ∧ t.slots = s.slots
    let only (t : State) : Prop := t = { s with out := t.out, eth := t.eth }
    (∀ i, row i → (s.ethPort port).ready = false ∨ p.host = true ∨ forged → Runs i s fun t => t = s) ∧
    ((s.ethPort port).ready = true → p.host = false → ¬forged →
      (∀ i, row i → p.code ≠ 0 → Runs i s fun t => only t ∧ answers t 9 [] ctxOf) ∧
      (∀ i, row i → p.code = 0 → (p.tok, 0) ∈ ctxOf.seen → Runs i s fun t => only t ∧ answers t 0 [] ctxOf) ∧
      (p.code = 0 → (p.tok, 0) ∉ ctxOf.seen → p.gang = 0 → p.frag = false → p.rfrag = false → p.win < 256 → p.off < 2 ^ 44 → p.node < 4096 →
        (∀ i, row i → p.args = [] → tblGet s.ctxs p.tctx = none → Runs i s fun t => only t ∧ answers t 6 [] ctxOf) ∧
        (∀ i x, row i → p.args = [] → tblGet s.ctxs p.tctx = some x → x.resident = true → x.saving = false → tblGet x.windows p.win = none →
          Runs i s fun t => only t ∧ answers t 5 [] ctxOf) ∧
        (∀ va u, p.args = [] → (∀ i, i < p.data.length → later i = false) → OwnWindow s p.tctx true a p.data.length true va →
          s.pinnedWrite (p.data.length + 1) p.tctx va p.data = .ok u →
          Runs (.ethWritePacket port p) s fun t => t = { u with out := t.out, eth := t.eth } ∧ answers t 0 [] took) ∧
        (∀ va lo hi u w, p.args = [] → lo < hi → hi ≤ p.data.length → (∀ i, i < p.data.length → (later i = true ↔ lo ≤ i ∧ i < hi)) →
          OwnWindow s p.tctx true a p.data.length true va →
          (if lo = 0 then u = s else s.pinnedWrite (lo + 1) p.tctx va (p.data.take lo) = .ok u) →
          (if hi = p.data.length then w = u
           else u.pinnedWrite (p.data.length - hi + 1) p.tctx (va + BitVec.ofNat 64 hi) (p.data.drop hi) = .ok w) →
          Runs (.ethWritePacket port p) s fun t => t = { w with out := t.out, eth := t.eth } ∧ answers t 0 [] took) ∧
        (∀ x v k, p.args = [] → tblGet s.ctxs p.tctx = some x → x.resident = false ∨ x.saving = true → tblGet x.windows p.win = some v →
          v.revoking = false → s.stackAt x.stashBase.toNat = .ready →
          p.off + p.data.length ≤ v.span → v.net = true → v.wr = true → tblFree x.stash 8 = some k →
          let pa := x.stashBase.toNat + 4160 * k
          Runs (.ethWritePacket port p) s fun t => answers t 0 [] took ∧
            (∀ i, i < p.data.length → t.mem.hbm.read (pa + 64 + i) = (p.data[i]?).getD 0) ∧
            (∀ b, b / 64 < pa / 64 ∨ (pa + 63 + p.data.length) / 64 < b / 64 → t.mem.hbm.read b = s.mem.hbm.read b) ∧
            ∃ e, tblGet (t.ctx p.tctx).stash k = some e ∧ e.time = s.clk.time ∧ e.req.win = p.win ∧ e.req.off = p.off ∧ e.req.data = p.data) ∧
        (∀ va bs, OwnWindow s p.tctx true a p.len false va → s.pinnedRead (p.len + 1) p.tctx va p.len = .ok bs →
          (∀ r ∈ s.eth.resps, r.port = port → r.p.host = true ∨ r.p.node ≠ p.node) →
          let rate : Rate := (tblGet (s.ethPort port).rates p.node).getD { since := s.now }
          let touched (t : State) : Prop := only t ∧ t.eth = { s.eth with pdcs := t.eth.pdcs, ports := t.eth.ports, resps := t.eth.resps } ∧
            tblGet t.eth.pdcs key = some { ctxOf with lastUse := s.now } ∧ ∀ k, k ≠ key → tblGet t.eth.pdcs k = tblGet s.eth.pdcs k
          (rate.next.toNat ≤ s.now.toNat → Runs (.ethReadPacket port p) s fun t => touched t ∧ t.eth.resps = s.eth.resps ∧
            t.out = s.out ++ [.pktAck port p 0 bs] ∧ (∀ q, q ≠ port → t.ethPort q = s.ethPort q) ∧
            tblGet (t.ethPort port).rates p.node = some { rate with
              next := s.now + BitVec.ofNat 64 ((8 * max 64 bs.length + rate.rate - 1) / rate.rate), used := s.now }) ∧
          (s.now.toNat < rate.next.toNat → Runs (.ethReadPacket port p) s fun t => touched t ∧ t.out = s.out ∧ t.eth.ports = s.eth.ports ∧
            t.eth.resps = s.eth.resps ++ [{ port := port, p := p, data := bs }])))) ∧
    (∀ node, let k := if node < 4096 then port * 4096 + node else 2 ^ 20 + port * 16 + (node - 4096)
      (tblGet s.eth.pdcs k = none → Runs (.pdcExpiry port node) s fun t => t = s) ∧
      ∀ d, tblGet s.eth.pdcs k = some d → d.lastUse.toNat + 100000 < 2 ^ 64 →
        (s.now.toNat < d.lastUse.toNat + 100000 → Runs (.pdcExpiry port node) s fun t => t = s) ∧
        (d.lastUse.toNat + 100000 ≤ s.now.toNat → Runs (.pdcExpiry port node) s fun t =>
          t = { s with eth := { s.eth with pdcs := t.eth.pdcs } } ∧ ∀ j, tblGet t.eth.pdcs j = if j = k then none else tblGet s.eth.pdcs j))

/-- The packet `o` is answered: it is gone, its target has made progress, and its rate entry knows. -/
def Sys2Proof.Claim.PacketDone (s t : State) (port : Nat) (o : OutPkt) (echo : Bool) : Prop :=
  t.eth.pkts = [] ∧ t.mem = s.mem ∧ t.slots = s.slots ∧ t.out = s.out ∧ (∀ p, p ≠ port → t.ethPort p = s.ethPort p) ∧
  t.ethPort port = { s.ethPort port with rates := (t.ethPort port).rates } ∧
  (∀ d, tblGet (t.ethPort port).rates d = if d = o.p.node then (tblGet (s.ethPort port).rates d).map fun r => { r with acked := true, echo := r.echo || echo }
    else tblGet (s.ethPort port).rates d) ∧
  ∀ v, tblGet s.eth.nodes o.p.node = some v → tblGet t.eth.nodes o.p.node = some { v with
    failAt := s.now + BitVec.ofNat 64 s.preg.ethfail.toNat }

/-- The slot that runs the task `uid`, its sequencer `x` not stopped. -/
def Sys2Proof.Claim.HasTask (s : State) (uid : Nat) (x : Bool) (k : Nat) : Prop :=
  (s.slots.map (·.1)).Nodup ∧ (∃ tk, (s.slot k).task = some tk ∧ tk.uid = uid) ∧
  (∀ e ∈ s.slots, ∀ y : Task, e.2.task = some y → y.uid = uid → e.1 = k) ∧ (s.seq { slot := k, x := x }).stopped = false

/-- R236, R272, R297, R364 to R368, R378, R384: packets of this package to a node. One leaves its port when the destination's RATE allows
it, behind the data of reads that wait there, and one to an ENC node only under a key; one that has come for a host window after its
revocation is refused. An answer to none of them, or one that is not authentic, changes nothing; an acknowledgement ends a store and data a load; STASHFULL holds the packet, any
other refusal traps PROT at the task of the store; a lost packet is sent again; RATE falls by a quarter on an echo and else
rises by 16; a target that makes no progress in ETHFAIL is declared failed and its packets with it. The gap of a packet, with a read as 64 bytes, is the model's
(log 24). -/
def Sys2Proof.Claim.EthernetAtTheSender : Prop :=
  ∀ (s : State) (port : Nat) (p : Pkt) (o : OutPkt),
    let now := s.now
    let v := s.ethPort port
    let addr : Word := BitVec.ofNat 64 (o.p.node * 2 ^ 52 + o.p.win * 2 ^ 44 + o.p.off)
    let row (i : Instr) : Prop := (∃ echo, i = .ethAck port p echo) ∨ i = .ethReadResponse port p ∨ i = .ethNack port p
    let open_ (n : Nat) : Prop := ∀ d, tblGet s.eth.nodes n = some d → d.enc = true → d.key ≠ none
    let authentic := ∀ d, tblGet s.eth.nodes p.node = some d → d.enc = true → p.authOk = true ∧ d.key ≠ none
    let told (t : State) (k : SeqRef) (lost : List (Bool × Nat)) : Prop := (∀ r, r ≠ k → t.seq r = s.seq r) ∧
      let y := s.seq k
      t.seq k = { y with held := y.held ++ [{ code := 5, eval := addr }], failed := y.failed ++ lost.filter fun e => !y.failed.contains e }
    (∀ i, row i → (∀ y ∈ s.eth.pkts, y.p.tok ≠ p.tok ∨ y.sent = false) → Runs i s fun t => t = s) ∧
    (∀ i, row i → p.host = false → ¬authentic → Runs i s fun t => t = s) ∧
    (s.eth.pkts = [o] → o.p.host = false → o.p.node < 4096 → p.tok = o.p.tok → p.node = o.p.node → p.host = false → authentic → o.sent = true → o.retry = false →
      (∀ echo uid x at_, o.read = false → o.own = .store uid x at_ → Runs (.ethAck port p echo) s fun t => PacketDone s t port o echo ∧
        t.seqs = s.seqs ∧ t.ctxs = s.ctxs) ∧
      (∀ (w : Wait) (k : SeqRef) (g : Guard) (mo : MemOp), o.read = true → o.own = .load k w.tok → (s.seq k).wait = some w → w.ins = .ldn g mo →
        (s.seq k).held = [] ∨ (s.seq k).intrap = true →
        (s.seq k).deepest = none → Runs (.ethReadResponse port p) s fun t => PacketDone s t port o p.echo ∧ (∀ r, r ≠ k → t.seq r = s.seq r) ∧
          (t.seq k).pc = (s.seq k).pc + 8 ∧ (t.seq k).wait = none ∧
          (t.seq k).s mo.data = (if mo.data = 0 then 0 else BitVec.ofNat 64 (leOfBytes p.data)) ∧ ∀ r, r ≠ mo.data → (t.seq k).s r = (s.seq k).s r) ∧
      (p.code = 1 → Runs (.ethNack port p) s fun t => t.eth.pkts = [{ o with
          sent := false, retry := false, delay := 2000, hold := some (now + 2000) }] ∧ t.seqs = s.seqs ∧ t.mem = s.mem ∧ t.out = s.out) ∧
      (∀ uid x at_ k, p.code ≠ 1 → o.own = .store uid x at_ → HasTask s uid x k →
        Runs (.ethNack port p) s fun t => PacketDone s t port o p.echo ∧ told t { slot := k, x := x } [])) ∧
    -- sending
    (let n := o.p.node
     let reached := (∃ d, tblGet s.eth.nodes n = some d ∧ d.ports.getLsbD port = true) ∧ open_ n
     let rate : Rate := (tblGet v.rates n).getD { since := now }
     let bytes := if o.read then 64 else max 64 o.p.len
     let gap := (8 * bytes + rate.rate - 1) / rate.rate
     let leaves (t : State) (q : OutPkt) : Prop := t.eth.pkts = [q] ∧ t.out = s.out ++ [.packet port o.read o.p] ∧ t.mem = s.mem ∧ t.seqs = s.seqs ∧
       tblGet (t.ethPort port).rates n = some { rate with next := now + BitVec.ofNat 64 gap, used := now } ∧ ∀ r, r ≠ port → t.ethPort r = s.ethPort r
     let mine (r : Resp) : Prop := r.port = port ∧ r.p.host = false ∧ r.p.node = n
     -- data of a read first
     (∀ r more, s.eth.resps = r :: more → mine r → r.p.node < 4096 → (∀ x ∈ s.eth.pkts, x.late = false) →
       (v.ready = false ∨ ¬open_ n ∨ now.toNat < rate.next.toNat → Runs (.ethPacketSend port n) s fun t => t = s) ∧
       (v.ready = true → open_ n → rate.next.toNat ≤ now.toNat → Runs (.ethPacketSend port n) s fun t =>
         t = { s with out := t.out, eth := { s.eth with resps := more, ports := t.eth.ports } } ∧ t.out = s.out ++ [.pktAck port r.p 0 r.data] ∧
         (∀ q, q ≠ port → t.ethPort q = s.ethPort q) ∧ tblGet (t.ethPort port).rates n = some { rate with
           next := now + BitVec.ofNat 64 ((8 * max 64 r.data.length + rate.rate - 1) / rate.rate), used := now })) ∧
     (s.eth.pkts = [o] → o.p.host = true → o.late = true → ∀ uid x at_ k, o.own = .store uid x at_ → HasTask s uid x k →
       Runs (.ethPacketSend port (4096 + n)) s fun t => t.eth = { s.eth with pkts := [] } ∧ t.mem = s.mem ∧ t.slots = s.slots ∧ t.out = s.out ∧
         told t { slot := k, x := x } []) ∧
     (s.eth.pkts = [o] → o.p.host = false → o.late = false → n < 4096 → (∀ r ∈ s.eth.resps, ¬mine r) →
      (o.sent = true ∨ v.ready = false ∨ ¬reached ∨ now.toNat < rate.next.toNat → Runs (.ethPacketSend port n) s fun t => t = s) ∧
      (o.sent = false → v.ready = true → reached → rate.next.toNat ≤ now.toNat →
        (∀ uid x at_, o.hold = none → o.own = .store uid x at_ → Runs (.ethPacketSend port n) s fun t =>
          leaves t { o with sent := true, charged := true, again := false } ∧
          (t.ethPort port).sfretry.toNat = (if o.again then min (2 ^ 32 - 1) (v.sfretry.toNat + 1) else v.sfretry.toNat) ∧ (o.charged = true → t.ctxs = s.ctxs)) ∧
        (∀ due, o.hold = some due → o.retry = false → o.charged = true →
          (now.toNat < due.toNat → Runs (.ethPacketSend port n) s fun t => t = s) ∧
          (due.toNat ≤ now.toNat → Runs (.ethPacketSend port n) s fun t => leaves t { o with sent := true, retry := true, hold := none, again := false } ∧
            (t.ethPort port).sfretry.toNat = min (2 ^ 32 - 1) (v.sfretry.toNat + 1) ∧ t.ctxs = s.ctxs))) ∧
      (v.ready = true → Runs (.ethPacketResend port n o.p.tok) s fun t => t = { s with eth := { s.eth with pkts := [{ o with sent := false }] } }) ∧
      (v.ready = false → Runs (.ethPacketResend port n o.p.tok) s fun t => t = s))) ∧
    -- rates
    (∀ n, (tblGet v.rates n = none → Runs (.ethRateWindow port n) s fun t => t = s) ∧
      ∀ r, tblGet v.rates n = some r → r.since.toNat + 10000 < 2 ^ 64 →
        (now.toNat < r.since.toNat + 10000 → Runs (.ethRateWindow port n) s fun t => t = s) ∧
        (r.since.toNat + 10000 ≤ now.toNat → Runs (.ethRateWindow port n) s fun t =>
          t.ethPort port = { v with rates := (t.ethPort port).rates } ∧ (∀ q, q ≠ port → t.ethPort q = s.ethPort q) ∧
          t = { s with eth := { s.eth with ports := t.eth.ports } } ∧
          ∀ j, tblGet (t.ethPort port).rates j = if j = n then some { r with
            rate := (if r.echo then max (r.rate - r.rate / 4) 1 else if r.acked then min (r.rate + 16) 1600 else r.rate)
            echo := false, acked := false, since := r.since + 10000 } else tblGet v.rates j)) ∧
    -- a target that fails
    (∀ node, (s.eth.pkts = [] → Runs (.ethTargetFailed node false) s fun t => t = s) ∧
      ∀ d uid x at_ k, s.eth.pkts = [o] → o.p.node = node → o.p.host = false → tblGet s.eth.nodes node = some d → o.own = .store uid x at_ →
        HasTask s uid x k →
        (d.failed = true ∨ now.toNat < d.failAt.toNat → Runs (.ethTargetFailed node false) s fun t => t = s) ∧
        (d.failed = false → d.failAt.toNat ≤ now.toNat → s.coll.colls = [] → s.eth.ring = none → Runs (.ethTargetFailed node false) s fun t =>
          t.eth.pkts = [] ∧ tblGet t.eth.nodes node = some { d with failed := true } ∧ (∀ k, k ≠ node → tblGet t.eth.nodes k = tblGet s.eth.nodes k) ∧
          t.out = s.out ∧ t.preg.evdrop = (if s.preg.evdrop = 0xFFFFFFFF then s.preg.evdrop else s.preg.evdrop + 1) ∧
          t.mem = s.mem ∧ t.slots = s.slots ∧ told t { slot := k, x := x } [(true, node)])) ∧
    (∀ sess d, s.eth.pkts = [o] → o.p.node = sess → o.p.host = true → tblGet s.eth.sessions sess = some d → o.own = .none → d.failed = false →
      d.failAt.toNat ≤ now.toNat → s.coll.colls = [] → Runs (.ethTargetFailed sess true) s fun t => t.eth.pkts = [] ∧
        tblGet t.eth.sessions sess = some { d with failed := true } ∧ t.seqs = s.seqs ∧ t.mem = s.mem ∧ t.slots = s.slots)
/-- R19, R21 to R37, R44: whatever the operands that the encoding admits, the bytes of an instruction, with anything behind them, are
read back as that very instruction. -/
def Obligations.EncodingRoundTrip : Prop :=
  ∀ (i : Instr) (more : List Byte), i.isWord = true → i.wf = true → 72 ≤ (encode i ++ more).length →
    decodeBytes (encode i ++ more) = .ok i

/-- R19 to R37, R44, R52, R53: what decodes is an instruction of the sequencer whose operands the encoding admits, and its word is
the only one that it has: no other word is read as it, and no reserved bit is passed over. -/
def Obligations.DecodingIsCanonical : Prop :=
  ∀ (w : Word) (lits : BitVec 512) (i : Instr), decode w lits = .ok i →
    i.isWord = true ∧ i.wf = true ∧ encodeWord i = some w ∧ (i.size = 72 → encodeLits i = lits)

/-- Words that the specification writes out, by their instruction. -/
def Obligations.KnownWordsDecode : Prop :=
  let g : Guard := { neg := false, pred := 0 }
  decode 0x0100C10800000000 0 = .ok (.add g 3 1 2) ∧
  decode 0x0000000000000000 0 = .ok (.nop g) ∧
  decode 0x0801061640000000 0 = .ok (.ldsp g { width := .w32, data := 4, base := 6, index := 5, scale := 2, cache := 0, scope := 0, disp := 0 }) ∧
  decode 0x051000000000000B 0 = .ok (.br { neg := false, pred := 1 } 11) ∧
  decode 0x059000000000000B 0 = .ok (.br { neg := true, pred := 1 } 11) ∧
  decode 0x0200800800100021 0 = .ok (.li g 2 0x00100021) ∧
  decode 0x0000020900000004 0 = .ok (.csrw g 0 2 4) ∧
  decode 0x0205140000000008 0 = .ok (.addi g 20 20 8) ∧
  decode 0x0000000400000000 0 = .ok (.eret g) ∧
  decode 0x0A01010060000004 0 = .ok (.ldg g { width := .w64, data := 4, base := 1, index := 0, scale := 0, cache := 0, scope := 0, disp := 4 }) ∧
  decode 0x1A00000100000000 0 = .ok (.tend g) ∧
  decode 0x1901000000000000 5 = .ok (.enq g .vx 5) ∧
  decode 0x0500000400030004 0 = .ok (.loopi g 0 3 4) ∧
  decode 0x0B010A00E3000008 0 = .ok (.stf g { width := .w64, data := 4, base := 10, index := 0, scale := 0, cache := 0, scope := 3, disp := 8 }) ∧
  decode 0x1202400400800004 0 = .ok (.semtry g 9 0 4 128) ∧
  decode 0xFFFFFFFFFFFFFFFF 0 = .error .allOnes ∧
  decode 0x1E00000000000000 0 = .error .major

/-- The sequencer fetches: nothing of its boundary comes first (R305, R311, R314). -/
def Sys2Proof.Claim.Fetches (s : State) (q : SeqRef) : Prop :=
  (s.seq q).stopped = false ∧ (s.seq q).wait = none ∧ (s.seq q).held = [] ∧ (s.slot q.slot).stopReq = false ∧ (s.slot q.slot).preReq = false ∧
  (s.slot q.slot).haltReq = false ∧ ((s.slot q.slot).halted = false ∨ (s.slot q.slot).stepOne = some q.x)
/-- The bytes `bs` stand at the virtual address `a` for the sequencer that runs: they translate for a fetch, their stack is ready,
and no line of theirs holds an error or was written under another key (R87, R171, R172, R310, R381). -/
def Sys2Proof.Claim.FetchedAt (s : State) (a : Word) (bs : List Byte) : Prop :=
  ∃ l : Leaf, s.translate s.cx a .fetch = .ok l ∧ s.stackAt l.pa = .ready ∧ s.mem.hbm.readBytes l.pa bs.length = bs ∧
    ∀ n, l.pa / 64 ≤ n → n ≤ (l.pa + bs.length - 1) / 64 → UeLoc.hbmLine n ∉ s.mem.ue ∧ s.foreign n (s.keyVal l.key) = false

/-- R95, R294, R376: what only follows TIME has followed it to `t`: locked windows that it has reached are closed, and waits that spin
are counted; nothing else of the package is touched. -/
def Sys2Proof.Claim.Later (s : State) (t : Word) (v : State) : Prop :=
  v = { s with clk := v.clk, slots := v.slots, seqs := v.seqs, ctxs := v.ctxs } ∧ v.clk.time = t ∧
  (s.clk.slew = 0 → v.clk = { s.clk with time := t }) ∧
  (∀ k, v.slot k = { s.slot k with
    lockend := (if (s.slot k).lockend.toNat ≤ t.toNat then 0 else (s.slot k).lockend), spincnt := (v.slot k).spincnt, spinFrac := (v.slot k).spinFrac }) ∧
  (∀ r, v.seq r = { s.seq r with wait := (v.seq r).wait } ∧ ((s.seq r).wait = none → (v.seq r).wait = none) ∧
    ∀ w, (s.seq r).wait = some w → ∃ x, (v.seq r).wait = some x ∧ x = { w with seen := x.seen, upto := x.upto }) ∧
  ∀ c, v.ctx c = { s.ctx c with pen := (v.ctx c).pen }

/-- R19, R87, R89, R95, R289, R302: one step. Where the agenda's next move is a sequencer that fetches, and the bytes of a well-formed
instruction stand at its pc with no loop active, the step is `exec` of that instruction there, once TIME has reached the move, and after a
DBGSTEP the slot asks to halt again. A word that is no instruction traps, and so does a fetch that fails; a sequencer that waits takes the
row that can complete its wait. An event of the agenda is its own row. A period edge that comes before the move, or with it, is taken
first, at its own time. With nothing on the agenda and no sequencer that can run, time passes (log 2). -/
def Obligations.StepRunsDecodedInstruction : Prop :=
  ∀ (s : State) (at_ : Word) (rest : List Move),
    let time : Word := if s.clk.time.toNat < at_.toNat then at_ else s.clk.time
    let u (c : SeqRef) : State := { s.reach time with agenda := rest, cur := c }
    let ends (r : Host.Outcome State Fault Refusal) (q : SeqRef) : Host.Outcome State Fault Refusal :=
      match r with
      | .next t => .next (t.afterStep q)
      | r => r
    (s.clk.time.toNat ≤ time.toNat → Later s time (s.reach time)) ∧
    (∀ (t : State) (q : SeqRef), (t.slot q.slot).stepOne ≠ some q.x → t.afterStep q = t) ∧
    (time.toNat < s.shr.edge.toNat →
    (∀ (q : SeqRef) (i : Instr), s.agenda = { at_ := at_, what := .seq q } :: rest → Fetches s q →
      (s.seq q).deepest = none → (s.seq q).loopBuf = [] → (s.seqs.map (·.1)).Pairwise (· < ·) → (∃ v, tblGet s.seqs (keyOf q) = some v) →
      i.isWord = true → i.wf = true → (∀ k, 8 * k < i.size → FetchedAt (u q) ((s.seq q).pc + BitVec.ofNat 64 (8 * k)) (((encode i).drop (8 * k)).take 8)) →
      step s = ends (exec i (u q)) q) ∧
    (∀ (q : SeqRef) (w : Word) (e : Reject), s.agenda = { at_ := at_, what := .seq q } :: rest → Fetches s q →
      (s.seq q).deepest = none → (s.seq q).loopBuf = [] → (s.seqs.map (·.1)).Pairwise (· < ·) → (∃ v, tblGet s.seqs (keyOf q) = some v) →
      FetchedAt (u q) (s.seq q).pc (leBytes 8 w.toNat) → decode w 0 = .error e →
      step s = ends (exec (.unassignedEncoding w) (u q)) q) ∧
    (∀ (q : SeqRef) (t : Trp), s.agenda = { at_ := at_, what := .seq q } :: rest → Fetches s q → (s.seq q).loopBuf = [] →
      (u q).translate (u q).cx (s.seq q).pc .fetch = .trap t → step s = ends (exec (.instructionFetchFault q) (u q)) q) ∧
    (∀ (q : SeqRef) (w : Wait) (i : Instr), s.agenda = { at_ := at_, what := .seq q } :: rest → Fetches (s.setSeq q { s.seq q with wait := none }) q →
      (s.seq q).wait = some w → w.stalls = false → w.held = none → completion q w.ins = some i →
      step s = ends (exec i (u s.cur)) q) ∧
    (∀ i, s.agenda = { at_ := at_, what := .event i } :: rest → step s = exec i (u s.cur)) ∧
    (∀ q, s.agenda = { at_ := at_, what := .seq q } :: rest → (s.seq q).stopped = true → step s = .next (u s.cur))) ∧
    (∀ i, s.agenda = { at_ := at_, what := .event i } :: rest → s.clk.time.toNat ≤ s.shr.edge.toNat → s.shr.edge.toNat ≤ at_.toNat →
      ∃ v, exec .periodEdge (s.reach s.shr.edge) = .next v ∧
        (at_.toNat < v.shr.edge.toNat → step s = exec i { v.reach at_ with agenda := rest })) ∧
    (s.agenda = [] → (∀ e ∈ s.seqs, e.2.stopped = true) → s.clk.time.toNat + 1 < s.shr.edge.toNat →
      step s = .next (s.reach (s.clk.time + 1)))

/-- R8, R77, R118, R266, R281, R284, R289, R373, R376, R393 to R395, R399: the machine right after reset, where the specification gives the
value; it gives none for CECNT and EVDROP, whose 0 is the model's (log 5). -/
def Obligations.ResetState : Prop :=
  let s := State.reset
  s.mem.hbm.wf = true ∧ (∀ a, s.mem.hbm.read a = 0) ∧ s.clk.time = 0 ∧ s.clk.lock = false ∧ s.clk.ptpEn = false ∧ s.clk.stepped = false ∧
  s.preg.secReady = false ∧ s.preg.endptReady = false ∧ s.preg.cecnt = 0 ∧ s.preg.evdrop = 0 ∧
  s.preg.ethfail = 1000000 ∧ s.preg.fabresend = 200000 ∧ s.preg.fabdown = 1000000 ∧
  (∀ d, (s.die d).ready = false ∧ (s.die d).therm = .normal) ∧ (∀ k, tblGet s.mem.stk k = none) ∧
  (∀ p, (s.port p).ready = false ∧ (s.port p).slotcfg = 0x000001F400002710 ∧ (s.port p).sloterr = 0 ∧ (s.port p).event = 0 ∧
    (s.port p).replay = 0 ∧ (s.port p).sfretry = 0) ∧ (∀ p, (s.ethPort p).ready = false) ∧
  (∀ c, tblGet s.ctxs c = none ↔ c ≠ 0) ∧ (s.ctx 0).resident = true ∧ (s.ctx 0).keydom = 0 ∧ (s.ctx 0).spinlim = 25000 ∧ (s.ctx 0).lockmax = 50000 ∧
  s.shr.resmax = 255 ∧ s.shr.period = 100000 ∧ (∀ a, tblGet s.mem.roots a = none) ∧ (∀ k, tblGet s.mem.keys k = none) ∧
  (∀ k, (s.slot k).task = none) ∧ s.grps = [] ∧ s.eth.sessions = [] ∧ s.eth.ring = none

/-- R1, R6, R114: from every state, one step keeps HBM in its canonical form, and the package stays the one that it is. -/
def Obligations.StepKeepsMemoryForm : Prop :=
  ∀ s t : State, s.mem.hbm.wf = true → step s = .next t → t.mem.hbm.wf = true ∧ t.vond8 = s.vond8 ∧ t.pkgId = s.pkgId

/-- R83, R84: the immediate forms, comparisons, predicate logic and SEL. -/
def Obligations.ImmediatesComparesAndSelects : Prop := ImmediateResults ∧ CompareAndSelectResults

/-- R170 to R172, R178, R310, R381, R394 to R396: loads and stores of G, and the ways in which their translation fails. -/
def Obligations.GlobalMemory : Prop := GlobalAccess ∧ TranslationFailures

/-- R85, R86: the scalar floating-point group and its conversions. -/
def Obligations.ScalarFloats : Prop := ScalarFloatingPoint ∧ FloatIntegerConversions

/-- R88 to R90: LOOP and LOOPI open a loop, and the end of a body decides what comes next. -/
def Obligations.HardwareLoops : Prop := LoopsOpen ∧ EndOfBodyProcessing

/-- R77 to R79: CSR reads and writes, those with rows of their own among them. -/
def Obligations.CsrReadsAndWrites : Prop := CsrAccess ∧ CsrWritesOfTheirOwn

/-- R111, R112, R115: scalar loads and stores of SP and DS. -/
def Obligations.ScratchpadAndDieSram : Prop := ScratchpadAccess ∧ DieSramAccess

/-- R165 to R169, R180, R181: the handle instructions, and windows registered and revoked. -/
def Obligations.HandlesAndWindows : Prop := HandleInstructions ∧ WindowInstructions

/-- R222, R223: the architectural queues, and the waits that a transfer ends. -/
def Obligations.ArchitecturalQueueTransfers : Prop := ArchitecturalQueues ∧ QueueWaitsComplete

/-- R93 to R95, R238, R239: TIME, WAITT and its locked form, POLL and PAUSE. -/
def Obligations.TimeWaitsAndPolls : Prop := TimeAndLockedWindows ∧ PollAndPause

/-- R43, R44, R52, R173: the three forms of ENQ, and the waits for a place and for pins. -/
def Obligations.EnqueueOfRecords : Prop := RecordCapture ∧ EnqueueInstructions ∧ EnqueueWaitsComplete

/-- R257, R262, R270 to R272, R364 to R368: scalar loads and stores of F, N and H. Where the parts name logs 23 and 27, the clause is the model's. -/
def Obligations.RemoteLoadsAndStores : Prop := FabricLoadsAndStores ∧ EthernetLoadsAndStores

/-- R195 to R199, R207: tasks are spawned into their queues, and end. Where the parts name log 31, the clause is the model's. -/
def Obligations.TasksSpawnAndEnd : Prop := TaskSpawning ∧ TaskEnd

/-- R116 to R124: register scopes open and close, and their clusters change power. -/
def Obligations.RegisterScopesAndClusters : Prop := RegisterScopesOpen ∧ ClusterPower

/-- R317 to R321: the counters, and triggered operations armed on them. -/
def Obligations.CountersAndTriggers : Prop := CounterInstructions ∧ TriggeredOperationsArmed

/-- R349 to R361: PBIND, PUNBIND and PQUERY. -/
def Obligations.PipelineInstructions : Prop := PipelineBind ∧ PipelineSearch ∧ PipelineUnbindAndQuery

/-- R210, R213 to R217, R174: records start when their engine and their waits allow, and retire with their signal. -/
def Obligations.RecordsRun : Prop := RecordsStart ∧ RecordsRetire

/-- R145 to R163: one issue of each MX record. -/
def Obligations.MatrixEngine : Prop := MatrixWeightsAndClears ∧ MatrixMultiplication ∧ MatrixResults

/-- R129 to R139: one issue of each elementwise VX record, and of those that select, convert or move. -/
def Obligations.VectorElementsAndMoves : Prop := VectorElementwise ∧ VectorSelectAndMove

/-- R136 to R143: one issue of each VX record that reduces, and of those on the log path. Where the parts name log 19, the clause is the model's. -/
def Obligations.VectorReductionsAndLogPath : Prop := VectorReductions ∧ VectorLogPath

/-- R182 to R188: one issue of each CX record, local and remote. Where the parts name logs 18, 23, 27, the clause is the model's. -/
def Obligations.CopyEngine : Prop := LocalCopies ∧ RemoteCopies

/-- R189 to R209: launches are accepted and end; their groups are placed and their tasks start. -/
def Obligations.LaunchesAndGroups : Prop := LaunchAcceptAndEnd ∧ GroupsAndTasksStart

/-- R242 to R254: what an optical port does on control flits, on light and its loss, on timeouts, on flits and beats. Where the parts name logs 24, 31, the clause is the model's. -/
def Obligations.LinkLayer : Prop := LinkControl ∧ LinkFlits

/-- R236 to R238, R255 to R262, R296, R297, R323: requests at their target, and answers at their sender. Where the parts name log 23, the clause is the model's. -/
def Obligations.FabricMessages : Prop := RequestsAtTheTarget ∧ AnswersAtTheSender

/-- R363 to R368: packets that arrive, and packets of this package. Where the parts name logs 23, 24, the clause is the model's. -/
def Obligations.EthernetTransport : Prop := EthernetAtTheTarget ∧ EthernetAtTheSender

/-- R364, R371, R375: the commands that set one entry of a table, and the event ring. Where the parts name logs 22, 23, 30, the clause is the model's. -/
def Obligations.TablesAndEventRing : Prop := TableCommands ∧ EventRingRoom

end
end

