-- ==== Sys2Proof/Laws/Encoding.lean ====
section
/-! SUPPORT. The words of the encoder as numbers, the fields that the decoder reads from them, and which map of the decoder
each of them reaches. -/

namespace Sys2Proof

theorem toNat_append_add {n m : Nat} (x : BitVec n) (y : BitVec m) : (x ++ y).toNat = x.toNat * 2 ^ m + y.toNat := by
  rw [BitVec.toNat_append, ← Nat.shiftLeft_add_eq_or_of_lt y.isLt, Nat.shiftLeft_eq]

/-- A word whose major is not FFH is not the word of 64 ones (R52). -/
theorem ne_ones_of_major {w : Word} (h : fMajor w ≠ 0xFF) : (w == BitVec.allOnes 64) = false := by
  have : w ≠ BitVec.allOnes 64 := by
    intro e; subst e; exact h (by decide)
  simpa using this

section
variable (major : BitVec 8) (g : Guard) (d a b c : BitVec 6) (fnA : BitVec 12) (fnB : BitVec 8) (imm : BitVec 32)
  (sc : BitVec 2) (md : BitVec 8) (dsp : BitVec 24) (eng form : BitVec 4)

theorem encA_toNat : (encA major g d a b c fnA).toNat = major.toNat * 2 ^ 56 + g.neg.toNat * 2 ^ 55 + g.pred.toNat * 2 ^ 52 + d.toNat * 2 ^ 46 + a.toNat * 2 ^ 40 + b.toNat * 2 ^ 34 + c.toNat * 2 ^ 28 + fnA.toNat * 2 ^ 16 := by
  unfold encA encHead
  simp only [toNat_append_add, BitVec.toNat_ofBool]
  simp
  try omega
@[simp] theorem fMajor_encA : fMajor (encA major g d a b c fnA) = major := by
  apply BitVec.eq_of_toNat_eq
  have := major.isLt; have := g.pred.isLt; have := d.isLt; have := a.isLt; have := b.isLt; have := c.isLt; have := fnA.isLt
  simp only [fMajor, BitVec.extractLsb'_toNat, encA_toNat, Nat.shiftRight_eq_div_pow]
  cases g.neg <;> simp only [Bool.toNat_true, Bool.toNat_false] <;> omega
@[simp] theorem fD_encA : fD (encA major g d a b c fnA) = d := by
  apply BitVec.eq_of_toNat_eq
  have := major.isLt; have := g.pred.isLt; have := d.isLt; have := a.isLt; have := b.isLt; have := c.isLt; have := fnA.isLt
  simp only [fD, BitVec.extractLsb'_toNat, encA_toNat, Nat.shiftRight_eq_div_pow]
  cases g.neg <;> simp only [Bool.toNat_true, Bool.toNat_false] <;> omega
@[simp] theorem fA_encA : fA (encA major g d a b c fnA) = a := by
  apply BitVec.eq_of_toNat_eq
  have := major.isLt; have := g.pred.isLt; have := d.isLt; have := a.isLt; have := b.isLt; have := c.isLt; have := fnA.isLt
  simp only [fA, BitVec.extractLsb'_toNat, encA_toNat, Nat.shiftRight_eq_div_pow]
  cases g.neg <;> simp only [Bool.toNat_true, Bool.toNat_false] <;> omega
@[simp] theorem fB_encA : fB (encA major g d a b c fnA) = b := by
  apply BitVec.eq_of_toNat_eq
  have := major.isLt; have := g.pred.isLt; have := d.isLt; have := a.isLt; have := b.isLt; have := c.isLt; have := fnA.isLt
  simp only [fB, BitVec.extractLsb'_toNat, encA_toNat, Nat.shiftRight_eq_div_pow]
  cases g.neg <;> simp only [Bool.toNat_true, Bool.toNat_false] <;> omega
@[simp] theorem fC_encA : fC (encA major g d a b c fnA) = c := by
  apply BitVec.eq_of_toNat_eq
  have := major.isLt; have := g.pred.isLt; have := d.isLt; have := a.isLt; have := b.isLt; have := c.isLt; have := fnA.isLt
  simp only [fC, BitVec.extractLsb'_toNat, encA_toNat, Nat.shiftRight_eq_div_pow]
  cases g.neg <;> simp only [Bool.toNat_true, Bool.toNat_false] <;> omega
@[simp] theorem fFnA_encA : fFnA (encA major g d a b c fnA) = fnA := by
  apply BitVec.eq_of_toNat_eq
  have := major.isLt; have := g.pred.isLt; have := d.isLt; have := a.isLt; have := b.isLt; have := c.isLt; have := fnA.isLt
  simp only [fFnA, BitVec.extractLsb'_toNat, encA_toNat, Nat.shiftRight_eq_div_pow]
  cases g.neg <;> simp only [Bool.toNat_true, Bool.toNat_false] <;> omega
@[simp] theorem fLow_encA : fLow (encA major g d a b c fnA) = 0 := by
  apply BitVec.eq_of_toNat_eq
  have := major.isLt; have := g.pred.isLt; have := d.isLt; have := a.isLt; have := b.isLt; have := c.isLt; have := fnA.isLt; have z : BitVec.toNat (0 : BitVec 16) = 0 := rfl
  simp only [fLow, BitVec.extractLsb'_toNat, encA_toNat, Nat.shiftRight_eq_div_pow, Nat.pow_zero, Nat.div_one]
  cases g.neg <;> simp only [Bool.toNat_true, Bool.toNat_false] <;> omega
@[simp] theorem fGuard_encA : fGuard (encA major g d a b c fnA) = g := by
  have := major.isLt; have := g.pred.isLt; have := d.isLt; have := a.isLt; have := b.isLt; have := c.isLt; have := fnA.isLt
  obtain ⟨n, p⟩ := g
  simp only [fGuard, Guard.mk.injEq]
  constructor
  · rw [BitVec.getLsbD, Nat.testBit_eq_decide_div_mod_eq, encA_toNat]
    cases n <;> simp only [Bool.toNat_true, Bool.toNat_false, decide_eq_true_eq, decide_eq_false_iff_not] <;> omega
  · apply BitVec.eq_of_toNat_eq
    simp only [BitVec.extractLsb'_toNat, encA_toNat, Nat.shiftRight_eq_div_pow]
    cases n <;> simp only [Bool.toNat_true, Bool.toNat_false] <;> omega
theorem encB_toNat : (encB major g d a fnB imm).toNat = major.toNat * 2 ^ 56 + g.neg.toNat * 2 ^ 55 + g.pred.toNat * 2 ^ 52 + d.toNat * 2 ^ 46 + a.toNat * 2 ^ 40 + fnB.toNat * 2 ^ 32 + imm.toNat * 2 ^ 0 := by
  unfold encB encHead
  simp only [toNat_append_add, BitVec.toNat_ofBool]
  simp
  try omega
@[simp] theorem fMajor_encB : fMajor (encB major g d a fnB imm) = major := by
  apply BitVec.eq_of_toNat_eq
  have := major.isLt; have := g.pred.isLt; have := d.isLt; have := a.isLt; have := fnB.isLt; have := imm.isLt
  simp only [fMajor, BitVec.extractLsb'_toNat, encB_toNat, Nat.shiftRight_eq_div_pow]
  cases g.neg <;> simp only [Bool.toNat_true, Bool.toNat_false] <;> omega
@[simp] theorem fD_encB : fD (encB major g d a fnB imm) = d := by
  apply BitVec.eq_of_toNat_eq
  have := major.isLt; have := g.pred.isLt; have := d.isLt; have := a.isLt; have := fnB.isLt; have := imm.isLt
  simp only [fD, BitVec.extractLsb'_toNat, encB_toNat, Nat.shiftRight_eq_div_pow]
  cases g.neg <;> simp only [Bool.toNat_true, Bool.toNat_false] <;> omega
@[simp] theorem fA_encB : fA (encB major g d a fnB imm) = a := by
  apply BitVec.eq_of_toNat_eq
  have := major.isLt; have := g.pred.isLt; have := d.isLt; have := a.isLt; have := fnB.isLt; have := imm.isLt
  simp only [fA, BitVec.extractLsb'_toNat, encB_toNat, Nat.shiftRight_eq_div_pow]
  cases g.neg <;> simp only [Bool.toNat_true, Bool.toNat_false] <;> omega
@[simp] theorem fFnB_encB : fFnB (encB major g d a fnB imm) = fnB := by
  apply BitVec.eq_of_toNat_eq
  have := major.isLt; have := g.pred.isLt; have := d.isLt; have := a.isLt; have := fnB.isLt; have := imm.isLt
  simp only [fFnB, BitVec.extractLsb'_toNat, encB_toNat, Nat.shiftRight_eq_div_pow]
  cases g.neg <;> simp only [Bool.toNat_true, Bool.toNat_false] <;> omega
@[simp] theorem fImm_encB : fImm (encB major g d a fnB imm) = imm := by
  apply BitVec.eq_of_toNat_eq
  have := major.isLt; have := g.pred.isLt; have := d.isLt; have := a.isLt; have := fnB.isLt; have := imm.isLt
  simp only [fImm, BitVec.extractLsb'_toNat, encB_toNat, Nat.shiftRight_eq_div_pow, Nat.pow_zero, Nat.div_one]
  cases g.neg <;> simp only [Bool.toNat_true, Bool.toNat_false] <;> omega
@[simp] theorem fGuard_encB : fGuard (encB major g d a fnB imm) = g := by
  have := major.isLt; have := g.pred.isLt; have := d.isLt; have := a.isLt; have := fnB.isLt; have := imm.isLt
  obtain ⟨n, p⟩ := g
  simp only [fGuard, Guard.mk.injEq]
  constructor
  · rw [BitVec.getLsbD, Nat.testBit_eq_decide_div_mod_eq, encB_toNat]
    cases n <;> simp only [Bool.toNat_true, Bool.toNat_false, decide_eq_true_eq, decide_eq_false_iff_not] <;> omega
  · apply BitVec.eq_of_toNat_eq
    simp only [BitVec.extractLsb'_toNat, encB_toNat, Nat.shiftRight_eq_div_pow]
    cases n <;> simp only [Bool.toNat_true, Bool.toNat_false] <;> omega
theorem encM_toNat : (encM major g d a b sc md dsp).toNat = major.toNat * 2 ^ 56 + g.neg.toNat * 2 ^ 55 + g.pred.toNat * 2 ^ 52 + d.toNat * 2 ^ 46 + a.toNat * 2 ^ 40 + b.toNat * 2 ^ 34 + sc.toNat * 2 ^ 32 + md.toNat * 2 ^ 24 + dsp.toNat * 2 ^ 0 := by
  unfold encM encHead
  simp only [toNat_append_add, BitVec.toNat_ofBool]
  simp
  try omega
@[simp] theorem fMajor_encM : fMajor (encM major g d a b sc md dsp) = major := by
  apply BitVec.eq_of_toNat_eq
  have := major.isLt; have := g.pred.isLt; have := d.isLt; have := a.isLt; have := b.isLt; have := sc.isLt; have := md.isLt; have := dsp.isLt
  simp only [fMajor, BitVec.extractLsb'_toNat, encM_toNat, Nat.shiftRight_eq_div_pow]
  cases g.neg <;> simp only [Bool.toNat_true, Bool.toNat_false] <;> omega
@[simp] theorem fD_encM : fD (encM major g d a b sc md dsp) = d := by
  apply BitVec.eq_of_toNat_eq
  have := major.isLt; have := g.pred.isLt; have := d.isLt; have := a.isLt; have := b.isLt; have := sc.isLt; have := md.isLt; have := dsp.isLt
  simp only [fD, BitVec.extractLsb'_toNat, encM_toNat, Nat.shiftRight_eq_div_pow]
  cases g.neg <;> simp only [Bool.toNat_true, Bool.toNat_false] <;> omega
@[simp] theorem fA_encM : fA (encM major g d a b sc md dsp) = a := by
  apply BitVec.eq_of_toNat_eq
  have := major.isLt; have := g.pred.isLt; have := d.isLt; have := a.isLt; have := b.isLt; have := sc.isLt; have := md.isLt; have := dsp.isLt
  simp only [fA, BitVec.extractLsb'_toNat, encM_toNat, Nat.shiftRight_eq_div_pow]
  cases g.neg <;> simp only [Bool.toNat_true, Bool.toNat_false] <;> omega
@[simp] theorem fB_encM : fB (encM major g d a b sc md dsp) = b := by
  apply BitVec.eq_of_toNat_eq
  have := major.isLt; have := g.pred.isLt; have := d.isLt; have := a.isLt; have := b.isLt; have := sc.isLt; have := md.isLt; have := dsp.isLt
  simp only [fB, BitVec.extractLsb'_toNat, encM_toNat, Nat.shiftRight_eq_div_pow]
  cases g.neg <;> simp only [Bool.toNat_true, Bool.toNat_false] <;> omega
@[simp] theorem fScale_encM : fScale (encM major g d a b sc md dsp) = sc := by
  apply BitVec.eq_of_toNat_eq
  have := major.isLt; have := g.pred.isLt; have := d.isLt; have := a.isLt; have := b.isLt; have := sc.isLt; have := md.isLt; have := dsp.isLt
  simp only [fScale, BitVec.extractLsb'_toNat, encM_toNat, Nat.shiftRight_eq_div_pow]
  cases g.neg <;> simp only [Bool.toNat_true, Bool.toNat_false] <;> omega
@[simp] theorem fModif_encM : fModif (encM major g d a b sc md dsp) = md := by
  apply BitVec.eq_of_toNat_eq
  have := major.isLt; have := g.pred.isLt; have := d.isLt; have := a.isLt; have := b.isLt; have := sc.isLt; have := md.isLt; have := dsp.isLt
  simp only [fModif, BitVec.extractLsb'_toNat, encM_toNat, Nat.shiftRight_eq_div_pow]
  cases g.neg <;> simp only [Bool.toNat_true, Bool.toNat_false] <;> omega
@[simp] theorem fDisp_encM : fDisp (encM major g d a b sc md dsp) = dsp := by
  apply BitVec.eq_of_toNat_eq
  have := major.isLt; have := g.pred.isLt; have := d.isLt; have := a.isLt; have := b.isLt; have := sc.isLt; have := md.isLt; have := dsp.isLt
  simp only [fDisp, BitVec.extractLsb'_toNat, encM_toNat, Nat.shiftRight_eq_div_pow, Nat.pow_zero, Nat.div_one]
  cases g.neg <;> simp only [Bool.toNat_true, Bool.toNat_false] <;> omega
@[simp] theorem fGuard_encM : fGuard (encM major g d a b sc md dsp) = g := by
  have := major.isLt; have := g.pred.isLt; have := d.isLt; have := a.isLt; have := b.isLt; have := sc.isLt; have := md.isLt; have := dsp.isLt
  obtain ⟨n, p⟩ := g
  simp only [fGuard, Guard.mk.injEq]
  constructor
  · rw [BitVec.getLsbD, Nat.testBit_eq_decide_div_mod_eq, encM_toNat]
    cases n <;> simp only [Bool.toNat_true, Bool.toNat_false, decide_eq_true_eq, decide_eq_false_iff_not] <;> omega
  · apply BitVec.eq_of_toNat_eq
    simp only [BitVec.extractLsb'_toNat, encM_toNat, Nat.shiftRight_eq_div_pow]
    cases n <;> simp only [Bool.toNat_true, Bool.toNat_false] <;> omega
theorem encE_toNat : (encE g eng form a).toNat = 25 * 2 ^ 56 + g.neg.toNat * 2 ^ 55 + g.pred.toNat * 2 ^ 52 + eng.toNat * 2 ^ 48
    + form.toNat * 2 ^ 44 + a.toNat * 2 ^ 38 := by
  unfold encE encHead
  simp only [toNat_append_add, BitVec.toNat_ofBool]
  simp
  try omega
@[simp] theorem fMajor_encE : fMajor (encE g eng form a) = 0x19 := by
  apply BitVec.eq_of_toNat_eq
  have := g.pred.isLt; have := eng.isLt; have := form.isLt; have := a.isLt; have z : BitVec.toNat (0x19 : BitVec 8) = 0x19 := rfl
  simp only [fMajor, BitVec.extractLsb'_toNat, encE_toNat, Nat.shiftRight_eq_div_pow]
  cases g.neg <;> simp only [Bool.toNat_true, Bool.toNat_false] <;> omega
@[simp] theorem fEng_encE : fEng (encE g eng form a) = eng := by
  apply BitVec.eq_of_toNat_eq
  have := g.pred.isLt; have := eng.isLt; have := form.isLt; have := a.isLt
  simp only [fEng, BitVec.extractLsb'_toNat, encE_toNat, Nat.shiftRight_eq_div_pow]
  cases g.neg <;> simp only [Bool.toNat_true, Bool.toNat_false] <;> omega
@[simp] theorem fForm_encE : fForm (encE g eng form a) = form := by
  apply BitVec.eq_of_toNat_eq
  have := g.pred.isLt; have := eng.isLt; have := form.isLt; have := a.isLt
  simp only [fForm, BitVec.extractLsb'_toNat, encE_toNat, Nat.shiftRight_eq_div_pow]
  cases g.neg <;> simp only [Bool.toNat_true, Bool.toNat_false] <;> omega
@[simp] theorem fBase_encE : fBase (encE g eng form a) = a := by
  apply BitVec.eq_of_toNat_eq
  have := g.pred.isLt; have := eng.isLt; have := form.isLt; have := a.isLt
  simp only [fBase, BitVec.extractLsb'_toNat, encE_toNat, Nat.shiftRight_eq_div_pow]
  cases g.neg <;> simp only [Bool.toNat_true, Bool.toNat_false] <;> omega
@[simp] theorem fZeroE_encE : fZeroE (encE g eng form a) = 0 := by
  apply BitVec.eq_of_toNat_eq
  have := g.pred.isLt; have := eng.isLt; have := form.isLt; have := a.isLt; have z : BitVec.toNat (0 : BitVec 38) = 0 := rfl
  simp only [fZeroE, BitVec.extractLsb'_toNat, encE_toNat, Nat.shiftRight_eq_div_pow, Nat.pow_zero, Nat.div_one]
  cases g.neg <;> simp only [Bool.toNat_true, Bool.toNat_false] <;> omega
@[simp] theorem fGuard_encE : fGuard (encE g eng form a) = g := by
  have := g.pred.isLt; have := eng.isLt; have := form.isLt; have := a.isLt
  obtain ⟨n, p⟩ := g
  simp only [fGuard, Guard.mk.injEq]
  constructor
  · rw [BitVec.getLsbD, Nat.testBit_eq_decide_div_mod_eq, encE_toNat]
    cases n <;> simp only [Bool.toNat_true, Bool.toNat_false, decide_eq_true_eq, decide_eq_false_iff_not] <;> omega
  · apply BitVec.eq_of_toNat_eq
    simp only [BitVec.extractLsb'_toNat, encE_toNat, Nat.shiftRight_eq_div_pow]
    cases n <;> simp only [Bool.toNat_true, Bool.toNat_false] <;> omega
end

-- The map that each major reaches (R27).

theorem decode_major00 {w : Word} (l : BitVec 512) (h : fMajor w = 0x00) : decode w l = decodeSys w := by
  unfold decode
  rw [ne_ones_of_major (by rw [h]; decide), h]
  rfl
theorem decode_major01 {w : Word} (l : BitVec 512) (h : fMajor w = 0x01) : decode w l = decodeInt w := by
  unfold decode
  rw [ne_ones_of_major (by rw [h]; decide), h]
  rfl
theorem decode_major02 {w : Word} (l : BitVec 512) (h : fMajor w = 0x02) : decode w l = decodeImm w := by
  unfold decode
  rw [ne_ones_of_major (by rw [h]; decide), h]
  rfl
theorem decode_major03 {w : Word} (l : BitVec 512) (h : fMajor w = 0x03) : decode w l = decodeCmp w := by
  unfold decode
  rw [ne_ones_of_major (by rw [h]; decide), h]
  rfl
theorem decode_major04 {w : Word} (l : BitVec 512) (h : fMajor w = 0x04) : decode w l = decodeFp w := by
  unfold decode
  rw [ne_ones_of_major (by rw [h]; decide), h]
  rfl
theorem decode_major05 {w : Word} (l : BitVec 512) (h : fMajor w = 0x05) : decode w l = decodeCtl w := by
  unfold decode
  rw [ne_ones_of_major (by rw [h]; decide), h]
  rfl
theorem decode_major08 {w : Word} (l : BitVec 512) (h : fMajor w = 0x08) : decode w l = decodeMem w .ldsp .stsp := by
  unfold decode
  rw [ne_ones_of_major (by rw [h]; decide), h]
  rfl
theorem decode_major09 {w : Word} (l : BitVec 512) (h : fMajor w = 0x09) : decode w l = decodeMem w .ldds .stds := by
  unfold decode
  rw [ne_ones_of_major (by rw [h]; decide), h]
  rfl
theorem decode_major0A {w : Word} (l : BitVec 512) (h : fMajor w = 0x0A) : decode w l = decodeMem w .ldg .stg := by
  unfold decode
  rw [ne_ones_of_major (by rw [h]; decide), h]
  rfl
theorem decode_major0B {w : Word} (l : BitVec 512) (h : fMajor w = 0x0B) : decode w l = decodeMem w .ldf decodeStf := by
  unfold decode
  rw [ne_ones_of_major (by rw [h]; decide), h]
  rfl
theorem decode_major0C {w : Word} (l : BitVec 512) (h : fMajor w = 0x0C) : decode w l = decodeMem w .ldn .stn := by
  unfold decode
  rw [ne_ones_of_major (by rw [h]; decide), h]
  rfl
theorem decode_major0D {w : Word} (l : BitVec 512) (h : fMajor w = 0x0D) : decode w l = decodeMem w .ldh .sth := by
  unfold decode
  rw [ne_ones_of_major (by rw [h]; decide), h]
  rfl
theorem decode_major10 {w : Word} (l : BitVec 512) (h : fMajor w = 0x10) : decode w l = decodeAmo w := by
  unfold decode
  rw [ne_ones_of_major (by rw [h]; decide), h]
  rfl
theorem decode_major11 {w : Word} (l : BitVec 512) (h : fMajor w = 0x11) : decode w l = decodeFence w := by
  unfold decode
  rw [ne_ones_of_major (by rw [h]; decide), h]
  rfl
theorem decode_major12 {w : Word} (l : BitVec 512) (h : fMajor w = 0x12) : decode w l = decodeSem w := by
  unfold decode
  rw [ne_ones_of_major (by rw [h]; decide), h]
  rfl
theorem decode_major13 {w : Word} (l : BitVec 512) (h : fMajor w = 0x13) : decode w l = decodeAq w := by
  unfold decode
  rw [ne_ones_of_major (by rw [h]; decide), h]
  rfl
theorem decode_major14 {w : Word} (l : BitVec 512) (h : fMajor w = 0x14) : decode w l = decodeTime w := by
  unfold decode
  rw [ne_ones_of_major (by rw [h]; decide), h]
  rfl
theorem decode_major18 {w : Word} (l : BitVec 512) (h : fMajor w = 0x18) : decode w l = decodeHandle w := by
  unfold decode
  rw [ne_ones_of_major (by rw [h]; decide), h]
  rfl
theorem decode_major19 {w : Word} (l : BitVec 512) (h : fMajor w = 0x19) : decode w l = decodeEnq w l := by
  unfold decode
  rw [ne_ones_of_major (by rw [h]; decide), h]
  rfl
theorem decode_major1A {w : Word} (l : BitVec 512) (h : fMajor w = 0x1A) : decode w l = decodeTask w := by
  unfold decode
  rw [ne_ones_of_major (by rw [h]; decide), h]
  rfl
theorem decode_major1B {w : Word} (l : BitVec 512) (h : fMajor w = 0x1B) : decode w l = decodeWait w := by
  unfold decode
  rw [ne_ones_of_major (by rw [h]; decide), h]
  rfl
theorem decode_major1C {w : Word} (l : BitVec 512) (h : fMajor w = 0x1C) : decode w l = decodeColl w := by
  unfold decode
  rw [ne_ones_of_major (by rw [h]; decide), h]
  rfl
theorem decode_major1D {w : Word} (l : BitVec 512) (h : fMajor w = 0x1D) : decode w l = decodePipe w := by
  unfold decode
  rw [ne_ones_of_major (by rw [h]; decide), h]
  rfl

end Sys2Proof
end

