-- ==== Sys2Proof/Laws/Exec.lean ====
section
/-! SUPPORT. What `exec` calls for each instruction: cite these, and never unfold `exec`. -/

namespace Sys2Proof.Machine

@[simp] theorem exec_nop (g : Guard) (s : State) : exec (.nop g) s = execNop g s := (rfl)
@[simp] theorem exec_yield (g : Guard) (s : State) : exec (.yield g) s = execYield g s := (rfl)
@[simp] theorem exec_halt (g : Guard) (s : State) : exec (.halt g) s = execHalt g s := (rfl)
@[simp] theorem exec_trap (g : Guard) (code : BitVec 32) (s : State) : exec (.trap g code) s = execTrap g code s := (rfl)
@[simp] theorem exec_eret (g : Guard) (s : State) : exec (.eret g) s = execEret g s := (rfl)
@[simp] theorem exec_bkpt (g : Guard) (code : BitVec 32) (s : State) : exec (.bkpt g code) s = execBkpt g code s := (rfl)
@[simp] theorem exec_csrr (g : Guard) (d : SReg) (csr : BitVec 12) (s : State) : exec (.csrr g d csr) s = execCsrr g d csr s := (rfl)
@[simp] theorem exec_csrw (g : Guard) (d a : SReg) (csr : BitVec 12) (s : State) : exec (.csrw g d a csr) s = execCsrw g d a csr s := (rfl)
@[simp] theorem exec_csrs (g : Guard) (d a : SReg) (csr : BitVec 12) (s : State) : exec (.csrs g d a csr) s = execCsrs g d a csr s := (rfl)
@[simp] theorem exec_csrc (g : Guard) (d a : SReg) (csr : BitVec 12) (s : State) : exec (.csrc g d a csr) s = execCsrc g d a csr s := (rfl)
@[simp] theorem exec_bfmtWrite (g : Guard) (op : CsrOp) (d a : SReg) (n : BitVec 4) (s : State) : exec (.bfmtWrite g op d a n) s = execBfmtWrite g op d a n s := (rfl)
@[simp] theorem exec_vmodeCsrWrite (g : Guard) (op : CsrOp) (d a : SReg) (s : State) : exec (.vmodeCsrWrite g op d a) s = execVmodeCsrWrite g op d a s := (rfl)
@[simp] theorem exec_lceWrite (g : Guard) (op : CsrOp) (d a : SReg) (n : BitVec 2) (s : State) : exec (.lceWrite g op d a n) s = execLceWrite g op d a n s := (rfl)
@[simp] theorem exec_add (g : Guard) (d a b : SReg) (s : State) : exec (.add g d a b) s = execAdd g d a b s := (rfl)
@[simp] theorem exec_sub (g : Guard) (d a b : SReg) (s : State) : exec (.sub g d a b) s = execSub g d a b s := (rfl)
@[simp] theorem exec_mul (g : Guard) (d a b : SReg) (s : State) : exec (.mul g d a b) s = execMul g d a b s := (rfl)
@[simp] theorem exec_mulh (g : Guard) (d a b : SReg) (s : State) : exec (.mulh g d a b) s = execMulh g d a b s := (rfl)
@[simp] theorem exec_mulhu (g : Guard) (d a b : SReg) (s : State) : exec (.mulhu g d a b) s = execMulhu g d a b s := (rfl)
@[simp] theorem exec_madd (g : Guard) (d a b c : SReg) (s : State) : exec (.madd g d a b c) s = execMadd g d a b c s := (rfl)
@[simp] theorem exec_div (g : Guard) (d a b : SReg) (s : State) : exec (.div g d a b) s = execDiv g d a b s := (rfl)
@[simp] theorem exec_divu (g : Guard) (d a b : SReg) (s : State) : exec (.divu g d a b) s = execDivu g d a b s := (rfl)
@[simp] theorem exec_rem (g : Guard) (d a b : SReg) (s : State) : exec (.rem g d a b) s = execRem g d a b s := (rfl)
@[simp] theorem exec_remu (g : Guard) (d a b : SReg) (s : State) : exec (.remu g d a b) s = execRemu g d a b s := (rfl)
@[simp] theorem exec_and (g : Guard) (d a b : SReg) (s : State) : exec (.and g d a b) s = execAnd g d a b s := (rfl)
@[simp] theorem exec_or (g : Guard) (d a b : SReg) (s : State) : exec (.or g d a b) s = execOr g d a b s := (rfl)
@[simp] theorem exec_xor (g : Guard) (d a b : SReg) (s : State) : exec (.xor g d a b) s = execXor g d a b s := (rfl)
@[simp] theorem exec_andn (g : Guard) (d a b : SReg) (s : State) : exec (.andn g d a b) s = execAndn g d a b s := (rfl)
@[simp] theorem exec_sll (g : Guard) (d a b : SReg) (s : State) : exec (.sll g d a b) s = execSll g d a b s := (rfl)
@[simp] theorem exec_srl (g : Guard) (d a b : SReg) (s : State) : exec (.srl g d a b) s = execSrl g d a b s := (rfl)
@[simp] theorem exec_sra (g : Guard) (d a b : SReg) (s : State) : exec (.sra g d a b) s = execSra g d a b s := (rfl)
@[simp] theorem exec_rotr (g : Guard) (d a b : SReg) (s : State) : exec (.rotr g d a b) s = execRotr g d a b s := (rfl)
@[simp] theorem exec_min (g : Guard) (d a b : SReg) (s : State) : exec (.min g d a b) s = execMin g d a b s := (rfl)
@[simp] theorem exec_max (g : Guard) (d a b : SReg) (s : State) : exec (.max g d a b) s = execMax g d a b s := (rfl)
@[simp] theorem exec_minu (g : Guard) (d a b : SReg) (s : State) : exec (.minu g d a b) s = execMinu g d a b s := (rfl)
@[simp] theorem exec_maxu (g : Guard) (d a b : SReg) (s : State) : exec (.maxu g d a b) s = execMaxu g d a b s := (rfl)
@[simp] theorem exec_clz (g : Guard) (w : Width) (d a : SReg) (s : State) : exec (.clz g w d a) s = execClz g w d a s := (rfl)
@[simp] theorem exec_ctz (g : Guard) (w : Width) (d a : SReg) (s : State) : exec (.ctz g w d a) s = execCtz g w d a s := (rfl)
@[simp] theorem exec_popc (g : Guard) (w : Width) (d a : SReg) (s : State) : exec (.popc g w d a) s = execPopc g w d a s := (rfl)
@[simp] theorem exec_sext (g : Guard) (w : Width) (d a : SReg) (s : State) : exec (.sext g w d a) s = execSext g w d a s := (rfl)
@[simp] theorem exec_zext (g : Guard) (w : Width) (d a : SReg) (s : State) : exec (.zext g w d a) s = execZext g w d a s := (rfl)
@[simp] theorem exec_addi (g : Guard) (d a : SReg) (imm : BitVec 32) (s : State) : exec (.addi g d a imm) s = execAddi g d a imm s := (rfl)
@[simp] theorem exec_andi (g : Guard) (d a : SReg) (imm : BitVec 32) (s : State) : exec (.andi g d a imm) s = execAndi g d a imm s := (rfl)
@[simp] theorem exec_ori (g : Guard) (d a : SReg) (imm : BitVec 32) (s : State) : exec (.ori g d a imm) s = execOri g d a imm s := (rfl)
@[simp] theorem exec_xori (g : Guard) (d a : SReg) (imm : BitVec 32) (s : State) : exec (.xori g d a imm) s = execXori g d a imm s := (rfl)
@[simp] theorem exec_slli (g : Guard) (d a : SReg) (sh : BitVec 6) (s : State) : exec (.slli g d a sh) s = execSlli g d a sh s := (rfl)
@[simp] theorem exec_srli (g : Guard) (d a : SReg) (sh : BitVec 6) (s : State) : exec (.srli g d a sh) s = execSrli g d a sh s := (rfl)
@[simp] theorem exec_srai (g : Guard) (d a : SReg) (sh : BitVec 6) (s : State) : exec (.srai g d a sh) s = execSrai g d a sh s := (rfl)
@[simp] theorem exec_muli (g : Guard) (d a : SReg) (imm : BitVec 32) (s : State) : exec (.muli g d a imm) s = execMuli g d a imm s := (rfl)
@[simp] theorem exec_li (g : Guard) (d : SReg) (imm : BitVec 32) (s : State) : exec (.li g d imm) s = execLi g d imm s := (rfl)
@[simp] theorem exec_lih (g : Guard) (d : SReg) (imm : BitVec 32) (s : State) : exec (.lih g d imm) s = execLih g d imm s := (rfl)
@[simp] theorem exec_mini (g : Guard) (d a : SReg) (imm : BitVec 32) (s : State) : exec (.mini g d a imm) s = execMini g d a imm s := (rfl)
@[simp] theorem exec_maxi (g : Guard) (d a : SReg) (imm : BitVec 32) (s : State) : exec (.maxi g d a imm) s = execMaxi g d a imm s := (rfl)
@[simp] theorem exec_cmp (g : Guard) (cc : Cond) (d : PReg) (a b : SReg) (s : State) : exec (.cmp g cc d a b) s = execCmp g cc d a b s := (rfl)
@[simp] theorem exec_cmpi (g : Guard) (cc : Cond) (d : PReg) (a : SReg) (imm : BitVec 32) (s : State) : exec (.cmpi g cc d a imm) s = execCmpi g cc d a imm s := (rfl)
@[simp] theorem exec_pand (g : Guard) (d a b : PReg) (s : State) : exec (.pand g d a b) s = execPand g d a b s := (rfl)
@[simp] theorem exec_por (g : Guard) (d a b : PReg) (s : State) : exec (.por g d a b) s = execPor g d a b s := (rfl)
@[simp] theorem exec_pxor (g : Guard) (d a b : PReg) (s : State) : exec (.pxor g d a b) s = execPxor g d a b s := (rfl)
@[simp] theorem exec_pnot (g : Guard) (d a : PReg) (s : State) : exec (.pnot g d a) s = execPnot g d a s := (rfl)
@[simp] theorem exec_pset (g : Guard) (d : PReg) (a : SReg) (s : State) : exec (.pset g d a) s = execPset g d a s := (rfl)
@[simp] theorem exec_pget (g : Guard) (d : SReg) (a : PReg) (s : State) : exec (.pget g d a) s = execPget g d a s := (rfl)
@[simp] theorem exec_sel (g : Guard) (d a b : SReg) (c : PReg) (s : State) : exec (.sel g d a b c) s = execSel g d a b c s := (rfl)
@[simp] theorem exec_fadd (g : Guard) (rm : Rm) (d a b : SReg) (s : State) : exec (.fadd g rm d a b) s = execFadd g rm d a b s := (rfl)
@[simp] theorem exec_fsub (g : Guard) (rm : Rm) (d a b : SReg) (s : State) : exec (.fsub g rm d a b) s = execFsub g rm d a b s := (rfl)
@[simp] theorem exec_fmul (g : Guard) (rm : Rm) (d a b : SReg) (s : State) : exec (.fmul g rm d a b) s = execFmul g rm d a b s := (rfl)
@[simp] theorem exec_ffma (g : Guard) (rm : Rm) (d a b c : SReg) (s : State) : exec (.ffma g rm d a b c) s = execFfma g rm d a b c s := (rfl)
@[simp] theorem exec_fmin (g : Guard) (d a b : SReg) (s : State) : exec (.fmin g d a b) s = execFmin g d a b s := (rfl)
@[simp] theorem exec_fmax (g : Guard) (d a b : SReg) (s : State) : exec (.fmax g d a b) s = execFmax g d a b s := (rfl)
@[simp] theorem exec_fabs (g : Guard) (d a : SReg) (s : State) : exec (.fabs g d a) s = execFabs g d a s := (rfl)
@[simp] theorem exec_fneg (g : Guard) (d a : SReg) (s : State) : exec (.fneg g d a) s = execFneg g d a s := (rfl)
@[simp] theorem exec_fcmp (g : Guard) (cc : FCond) (d : PReg) (a b : SReg) (s : State) : exec (.fcmp g cc d a b) s = execFcmp g cc d a b s := (rfl)
@[simp] theorem exec_fcvtFi (g : Guard) (rm : Rm) (d a : SReg) (s : State) : exec (.fcvtFi g rm d a) s = execFcvtFi g rm d a s := (rfl)
@[simp] theorem exec_fcvtIf (g : Guard) (rm : Rm) (d a : SReg) (s : State) : exec (.fcvtIf g rm d a) s = execFcvtIf g rm d a s := (rfl)
@[simp] theorem exec_br (g : Guard) (off : BitVec 32) (s : State) : exec (.br g off) s = execBr g off s := (rfl)
@[simp] theorem exec_jal (g : Guard) (link : SReg) (off : BitVec 32) (s : State) : exec (.jal g link off) s = execJal g link off s := (rfl)
@[simp] theorem exec_jalr (g : Guard) (link a : SReg) (off : BitVec 32) (s : State) : exec (.jalr g link a off) s = execJalr g link a off s := (rfl)
@[simp] theorem exec_loop (g : Guard) (n : BitVec 2) (a : SReg) (fin : BitVec 16) (s : State) : exec (.loop g n a fin) s = execLoop g n a fin s := (rfl)
@[simp] theorem exec_loopi (g : Guard) (n : BitVec 2) (cnt fin : BitVec 16) (s : State) : exec (.loopi g n cnt fin) s = execLoopi g n cnt fin s := (rfl)
@[simp] theorem exec_ldsp (g : Guard) (m : MemOp) (s : State) : exec (.ldsp g m) s = execLdsp g m s := (rfl)
@[simp] theorem exec_stsp (g : Guard) (m : MemOp) (s : State) : exec (.stsp g m) s = execStsp g m s := (rfl)
@[simp] theorem exec_ldds (g : Guard) (m : MemOp) (s : State) : exec (.ldds g m) s = execLdds g m s := (rfl)
@[simp] theorem exec_stds (g : Guard) (m : MemOp) (s : State) : exec (.stds g m) s = execStds g m s := (rfl)
@[simp] theorem exec_ldg (g : Guard) (m : MemOp) (s : State) : exec (.ldg g m) s = execLdg g m s := (rfl)
@[simp] theorem exec_stg (g : Guard) (m : MemOp) (s : State) : exec (.stg g m) s = execStg g m s := (rfl)
@[simp] theorem exec_ldf (g : Guard) (m : MemOp) (s : State) : exec (.ldf g m) s = execLdf g m s := (rfl)
@[simp] theorem exec_stf (g : Guard) (m : MemOp) (s : State) : exec (.stf g m) s = execStf g m s := (rfl)
@[simp] theorem exec_stfFlag (g : Guard) (m : MemOp) (s : State) : exec (.stfFlag g m) s = execStfFlag g m s := (rfl)
@[simp] theorem exec_ldn (g : Guard) (m : MemOp) (s : State) : exec (.ldn g m) s = execLdn g m s := (rfl)
@[simp] theorem exec_stn (g : Guard) (m : MemOp) (s : State) : exec (.stn g m) s = execStn g m s := (rfl)
@[simp] theorem exec_ldh (g : Guard) (m : MemOp) (s : State) : exec (.ldh g m) s = execLdh g m s := (rfl)
@[simp] theorem exec_sth (g : Guard) (m : MemOp) (s : State) : exec (.sth g m) s = execSth g m s := (rfl)
@[simp] theorem exec_amo (g : Guard) (op : AmoOp) (f : AmoFields) (s : State) : exec (.amo g op f) s = execAmo g op f s := (rfl)
@[simp] theorem exec_amoCas (g : Guard) (f : AmoFields) (cmp : SReg) (s : State) : exec (.amoCas g f cmp) s = execAmoCas g f cmp s := (rfl)
@[simp] theorem exec_amoClaim (g : Guard) (f : AmoFields) (lim : SReg) (s : State) : exec (.amoClaim g f lim) s = execAmoClaim g f lim s := (rfl)
@[simp] theorem exec_fence (g : Guard) (d : SReg) (scope : BitVec 3) (s : State) : exec (.fence g d scope) s = execFence g d scope s := (rfl)
@[simp] theorem exec_fenceComplete (q : SeqRef) (s : State) : exec (.fenceComplete q) s = execFenceComplete q s := (rfl)
@[simp] theorem exec_fenceE (g : Guard) (d : SReg) (s : State) : exec (.fenceE g d) s = execFenceE g d s := (rfl)
@[simp] theorem exec_fenceEComplete (q : SeqRef) (s : State) : exec (.fenceEComplete q) s = execFenceEComplete q s := (rfl)
@[simp] theorem exec_seminit (g : Guard) (a : SReg) (k : BitVec 8) (v : BitVec 16) (s : State) : exec (.seminit g a k v) s = execSeminit g a k v s := (rfl)
@[simp] theorem exec_semsig (g : Guard) (a : SReg) (k : BitVec 8) (v : BitVec 16) (s : State) : exec (.semsig g a k v) s = execSemsig g a k v s := (rfl)
@[simp] theorem exec_semwait (g : Guard) (a : SReg) (k : BitVec 8) (v : BitVec 16) (s : State) : exec (.semwait g a k v) s = execSemwait g a k v s := (rfl)
@[simp] theorem exec_semwaitPass (q : SeqRef) (s : State) : exec (.semwaitPass q) s = execSemwaitPass q s := (rfl)
@[simp] theorem exec_semrd (g : Guard) (d : SReg) (k : BitVec 8) (s : State) : exec (.semrd g d k) s = execSemrd g d k s := (rfl)
@[simp] theorem exec_semtry (g : Guard) (d a : SReg) (k : BitVec 8) (v : BitVec 16) (s : State) : exec (.semtry g d a k v) s = execSemtry g d a k v s := (rfl)
@[simp] theorem exec_aqpush (g : Guard) (q : BitVec 2) (a : SReg) (s : State) : exec (.aqpush g q a) s = execAqpush g q a s := (rfl)
@[simp] theorem exec_aqpushRoom (q : SeqRef) (s : State) : exec (.aqpushRoom q) s = execAqpushRoom q s := (rfl)
@[simp] theorem exec_aqpop (g : Guard) (q : BitVec 2) (d : SReg) (s : State) : exec (.aqpop g q d) s = execAqpop g q d s := (rfl)
@[simp] theorem exec_aqpopData (q : SeqRef) (s : State) : exec (.aqpopData q) s = execAqpopData q s := (rfl)
@[simp] theorem exec_aqbr (g : Guard) (off : BitVec 32) (s : State) : exec (.aqbr g off) s = execAqbr g off s := (rfl)
@[simp] theorem exec_time (g : Guard) (d : SReg) (s : State) : exec (.time g d) s = execTime g d s := (rfl)
@[simp] theorem exec_waitt (g : Guard) (a : SReg) (s : State) : exec (.waitt g a) s = execWaitt g a s := (rfl)
@[simp] theorem exec_waittComplete (q : SeqRef) (s : State) : exec (.waittComplete q) s = execWaittComplete q s := (rfl)
@[simp] theorem exec_waittLock (g : Guard) (a : SReg) (len : BitVec 32) (s : State) : exec (.waittLock g a len) s = execWaittLock g a len s := (rfl)
@[simp] theorem exec_waittLockComplete (q : SeqRef) (s : State) : exec (.waittLockComplete q) s = execWaittLockComplete q s := (rfl)
@[simp] theorem exec_lockWindowClose (slot : Nat) (s : State) : exec (.lockWindowClose slot) s = execLockWindowClose slot s := (rfl)
@[simp] theorem exec_hld (g : Guard) (d : HReg) (a : SReg) (sp : HSpace) (s : State) : exec (.hld g d a sp) s = execHld g d a sp s := (rfl)
@[simp] theorem exec_hst (g : Guard) (d : HReg) (a : SReg) (sp : HSpace) (s : State) : exec (.hst g d a sp) s = execHst g d a sp s := (rfl)
@[simp] theorem exec_hset (g : Guard) (d : HReg) (a : SReg) (fld : BitVec 6) (s : State) : exec (.hset g d a fld) s = execHset g d a fld s := (rfl)
@[simp] theorem exec_hget (g : Guard) (d : SReg) (a : HReg) (fld : BitVec 6) (s : State) : exec (.hget g d a fld) s = execHget g d a fld s := (rfl)
@[simp] theorem exec_hoff (g : Guard) (d : HReg) (a : SReg) (s : State) : exec (.hoff g d a) s = execHoff g d a s := (rfl)
@[simp] theorem exec_hxl (g : Guard) (d : SReg) (a : HReg) (b : SReg) (s : State) : exec (.hxl g d a b) s = execHxl g d a b s := (rfl)
@[simp] theorem exec_winreg (g : Guard) (d : SReg) (a : HReg) (b : SReg) (s : State) : exec (.winreg g d a b) s = execWinreg g d a b s := (rfl)
@[simp] theorem exec_winrev (g : Guard) (d a : SReg) (s : State) : exec (.winrev g d a) s = execWinrev g d a s := (rfl)
@[simp] theorem exec_winrevDrain (q : SeqRef) (s : State) : exec (.winrevDrain q) s = execWinrevDrain q s := (rfl)
@[simp] theorem exec_enq (g : Guard) (eng : Eng) (record : BitVec 512) (s : State) : exec (.enq g eng record) s = execEnq g eng record s := (rfl)
@[simp] theorem exec_enqr (g : Guard) (eng : Eng) (k : BitVec 6) (s : State) : exec (.enqr g eng k) s = execEnqr g eng k s := (rfl)
@[simp] theorem exec_enqm (g : Guard) (eng : Eng) (a : SReg) (s : State) : exec (.enqm g eng a) s = execEnqm g eng a s := (rfl)
@[simp] theorem exec_enqQueuePlace (q : SeqRef) (s : State) : exec (.enqQueuePlace q) s = execEnqQueuePlace q s := (rfl)
@[simp] theorem exec_enqPinRoom (q : SeqRef) (s : State) : exec (.enqPinRoom q) s = execEnqPinRoom q s := (rfl)
@[simp] theorem exec_tspawn (g : Guard) (a : SReg) (q : BitVec 8) (s : State) : exec (.tspawn g a q) s = execTspawn g a q s := (rfl)
@[simp] theorem exec_tspawnRoom (q : SeqRef) (s : State) : exec (.tspawnRoom q) s = execTspawnRoom q s := (rfl)
@[simp] theorem exec_tend (g : Guard) (s : State) : exec (.tend g) s = execTend g s := (rfl)
@[simp] theorem exec_epush (g : Guard) (a : SReg) (e : BitVec 12) (s : State) : exec (.epush g a e) s = execEpush g a e s := (rfl)
@[simp] theorem exec_epushRoom (q : SeqRef) (s : State) : exec (.epushRoom q) s = execEpushRoom q s := (rfl)
@[simp] theorem exec_epop (g : Guard) (d : SReg) (e : BitVec 12) (s : State) : exec (.epop g d e) s = execEpop g d e s := (rfl)
@[simp] theorem exec_epopItem (q : SeqRef) (s : State) : exec (.epopItem q) s = execEpopItem q s := (rfl)
@[simp] theorem exec_etry (g : Guard) (d : SReg) (p : PReg) (e : BitVec 12) (s : State) : exec (.etry g d p e) s = execEtry g d p e s := (rfl)
@[simp] theorem exec_scopeo (g : Guard) (n : BitVec 7) (s : State) : exec (.scopeo g n) s = execScopeo g n s := (rfl)
@[simp] theorem exec_scopeoGrant (core : Nat) (s : State) : exec (.scopeoGrant core) s = execScopeoGrant core s := (rfl)
@[simp] theorem exec_scopec (g : Guard) (s : State) : exec (.scopec g) s = execScopec g s := (rfl)
@[simp] theorem exec_scopecDrain (q : SeqRef) (s : State) : exec (.scopecDrain q) s = execScopecDrain q s := (rfl)
@[simp] theorem exec_vmode (g : Guard) (use : BitVec 8) (gated : Bool) (s : State) : exec (.vmode g use gated) s = execVmode g use gated s := (rfl)
@[simp] theorem exec_poll (g : Guard) (cc : PCond) (sp : ASpace) (wide : Bool) (d a b : SReg) (s : State) : exec (.poll g cc sp wide d a b) s = execPoll g cc sp wide d a b s := (rfl)
@[simp] theorem exec_pollPass (q : SeqRef) (s : State) : exec (.pollPass q) s = execPollPass q s := (rfl)
@[simp] theorem exec_pause (g : Guard) (a : SReg) (s : State) : exec (.pause g a) s = execPause g a s := (rfl)
@[simp] theorem exec_pauseExpiry (q : SeqRef) (s : State) : exec (.pauseExpiry q) s = execPauseExpiry q s := (rfl)
@[simp] theorem exec_coll (g : Guard) (d a : SReg) (s : State) : exec (.coll g d a) s = execColl g d a s := (rfl)
@[simp] theorem exec_trig (g : Guard) (a b c : SReg) (s : State) : exec (.trig g a b c) s = execTrig g a b c s := (rfl)
@[simp] theorem exec_trigRoom (q : SeqRef) (s : State) : exec (.trigRoom q) s = execTrigRoom q s := (rfl)
@[simp] theorem exec_ctrset (g : Guard) (a b : SReg) (s : State) : exec (.ctrset g a b) s = execCtrset g a b s := (rfl)
@[simp] theorem exec_ctradd (g : Guard) (a b : SReg) (s : State) : exec (.ctradd g a b) s = execCtradd g a b s := (rfl)
@[simp] theorem exec_ctrrd (g : Guard) (d a : SReg) (s : State) : exec (.ctrrd g d a) s = execCtrrd g d a s := (rfl)
@[simp] theorem exec_pbind (g : Guard) (d a : SReg) (s : State) : exec (.pbind g d a) s = execPbind g d a s := (rfl)
@[simp] theorem exec_punbind (g : Guard) (d a : SReg) (s : State) : exec (.punbind g d a) s = execPunbind g d a s := (rfl)
@[simp] theorem exec_pquery (g : Guard) (d a b : SReg) (s : State) : exec (.pquery g d a b) s = execPquery g d a b s := (rfl)
@[simp] theorem exec_asyncTrapTaken (q : SeqRef) (s : State) : exec (.asyncTrapTaken q) s = execAsyncTrapTaken q s := (rfl)
@[simp] theorem exec_preemption (slot : Nat) (s : State) : exec (.preemption slot) s = execPreemption slot s := (rfl)
@[simp] theorem exec_contextRestore (ctx : Nat) (cores : List Nat) (s : State) : exec (.contextRestore ctx cores) s = execContextRestore ctx cores s := (rfl)
@[simp] theorem exec_recordStart (eng : Eng) (slot : Nat) (s : State) : exec (.recordStart eng slot) s = execRecordStart eng slot s := (rfl)
@[simp] theorem exec_operandFetch (slot : Nat) (s : State) : exec (.operandFetch slot) s = execOperandFetch slot s := (rfl)
@[simp] theorem exec_recordRetire (eng : Eng) (slot : Nat) (ch : Nat) (s : State) : exec (.recordRetire eng slot ch) s = execRecordRetire eng slot ch s := (rfl)
@[simp] theorem exec_mxLdw (slot : Nat) (s : State) : exec (.mxLdw slot) s = execMxLdw slot s := (rfl)
@[simp] theorem exec_mxMm (slot : Nat) (s : State) : exec (.mxMm slot) s = execMxMm slot s := (rfl)
@[simp] theorem exec_mxAcrd (slot : Nat) (s : State) : exec (.mxAcrd slot) s = execMxAcrd slot s := (rfl)
@[simp] theorem exec_mxAcclr (slot : Nat) (s : State) : exec (.mxAcclr slot) s = execMxAcclr slot s := (rfl)
@[simp] theorem exec_mxHad (slot : Nat) (s : State) : exec (.mxHad slot) s = execMxHad slot s := (rfl)
@[simp] theorem exec_mxBsw (slot : Nat) (s : State) : exec (.mxBsw slot) s = execMxBsw slot s := (rfl)
@[simp] theorem exec_vadd (slot : Nat) (s : State) : exec (.vadd slot) s = execVadd slot s := (rfl)
@[simp] theorem exec_vsub (slot : Nat) (s : State) : exec (.vsub slot) s = execVsub slot s := (rfl)
@[simp] theorem exec_vmul (slot : Nat) (s : State) : exec (.vmul slot) s = execVmul slot s := (rfl)
@[simp] theorem exec_vfma (slot : Nat) (s : State) : exec (.vfma slot) s = execVfma slot s := (rfl)
@[simp] theorem exec_vmin (slot : Nat) (s : State) : exec (.vmin slot) s = execVmin slot s := (rfl)
@[simp] theorem exec_vmax (slot : Nat) (s : State) : exec (.vmax slot) s = execVmax slot s := (rfl)
@[simp] theorem exec_vabs (slot : Nat) (s : State) : exec (.vabs slot) s = execVabs slot s := (rfl)
@[simp] theorem exec_vneg (slot : Nat) (s : State) : exec (.vneg slot) s = execVneg slot s := (rfl)
@[simp] theorem exec_vand (slot : Nat) (s : State) : exec (.vand slot) s = execVand slot s := (rfl)
@[simp] theorem exec_vor (slot : Nat) (s : State) : exec (.vor slot) s = execVor slot s := (rfl)
@[simp] theorem exec_vxor (slot : Nat) (s : State) : exec (.vxor slot) s = execVxor slot s := (rfl)
@[simp] theorem exec_vnot (slot : Nat) (s : State) : exec (.vnot slot) s = execVnot slot s := (rfl)
@[simp] theorem exec_vshl (slot : Nat) (s : State) : exec (.vshl slot) s = execVshl slot s := (rfl)
@[simp] theorem exec_vshr (slot : Nat) (s : State) : exec (.vshr slot) s = execVshr slot s := (rfl)
@[simp] theorem exec_vsra (slot : Nat) (s : State) : exec (.vsra slot) s = execVsra slot s := (rfl)
@[simp] theorem exec_vclz (slot : Nat) (s : State) : exec (.vclz slot) s = execVclz slot s := (rfl)
@[simp] theorem exec_vffs (slot : Nat) (s : State) : exec (.vffs slot) s = execVffs slot s := (rfl)
@[simp] theorem exec_vpopc (slot : Nat) (s : State) : exec (.vpopc slot) s = execVpopc slot s := (rfl)
@[simp] theorem exec_vcmp (slot : Nat) (s : State) : exec (.vcmp slot) s = execVcmp slot s := (rfl)
@[simp] theorem exec_vsel (slot : Nat) (s : State) : exec (.vsel slot) s = execVsel slot s := (rfl)
@[simp] theorem exec_vcvt (slot : Nat) (s : State) : exec (.vcvt slot) s = execVcvt slot s := (rfl)
@[simp] theorem exec_vql6 (slot : Nat) (s : State) : exec (.vql6 slot) s = execVql6 slot s := (rfl)
@[simp] theorem exec_vreds (slot : Nat) (s : State) : exec (.vreds slot) s = execVreds slot s := (rfl)
@[simp] theorem exec_vredx (slot : Nat) (s : State) : exec (.vredx slot) s = execVredx slot s := (rfl)
@[simp] theorem exec_vredn (slot : Nat) (s : State) : exec (.vredn slot) s = execVredn slot s := (rfl)
@[simp] theorem exec_vargx (slot : Nat) (s : State) : exec (.vargx slot) s = execVargx slot s := (rfl)
@[simp] theorem exec_vscan (slot : Nat) (s : State) : exec (.vscan slot) s = execVscan slot s := (rfl)
@[simp] theorem exec_vperm (slot : Nat) (s : State) : exec (.vperm slot) s = execVperm slot s := (rfl)
@[simp] theorem exec_vtrn (slot : Nat) (s : State) : exec (.vtrn slot) s = execVtrn slot s := (rfl)
@[simp] theorem exec_vbcast (slot : Nat) (s : State) : exec (.vbcast slot) s = execVbcast slot s := (rfl)
@[simp] theorem exec_vld (slot : Nat) (s : State) : exec (.vld slot) s = execVld slot s := (rfl)
@[simp] theorem exec_vst (slot : Nat) (s : State) : exec (.vst slot) s = execVst slot s := (rfl)
@[simp] theorem exec_vmov (slot : Nat) (s : State) : exec (.vmov slot) s = execVmov slot s := (rfl)
@[simp] theorem exec_vlog2 (slot : Nat) (s : State) : exec (.vlog2 slot) s = execVlog2 slot s := (rfl)
@[simp] theorem exec_vexp2 (slot : Nat) (s : State) : exec (.vexp2 slot) s = execVexp2 slot s := (rfl)
@[simp] theorem exec_vladd (slot : Nat) (s : State) : exec (.vladd slot) s = execVladd slot s := (rfl)
@[simp] theorem exec_vlsub (slot : Nat) (s : State) : exec (.vlsub slot) s = execVlsub slot s := (rfl)
@[simp] theorem exec_vlshr (slot : Nat) (s : State) : exec (.vlshr slot) s = execVlshr slot s := (rfl)
@[simp] theorem exec_vlpow (slot : Nat) (s : State) : exec (.vlpow slot) s = execVlpow slot s := (rfl)
@[simp] theorem exec_vexpe (slot : Nat) (s : State) : exec (.vexpe slot) s = execVexpe slot s := (rfl)
@[simp] theorem exec_vrcp (slot : Nat) (s : State) : exec (.vrcp slot) s = execVrcp slot s := (rfl)
@[simp] theorem exec_vrsqrt (slot : Nat) (s : State) : exec (.vrsqrt slot) s = execVrsqrt slot s := (rfl)
@[simp] theorem exec_vsigm (slot : Nat) (s : State) : exec (.vsigm slot) s = execVsigm slot s := (rfl)
@[simp] theorem exec_vtanh (slot : Nat) (s : State) : exec (.vtanh slot) s = execVtanh slot s := (rfl)
@[simp] theorem exec_vsilu (slot : Nat) (s : State) : exec (.vsilu slot) s = execVsilu slot s := (rfl)
@[simp] theorem exec_cxCpy (core ch : Nat) (s : State) : exec (.cxCpy core ch) s = execCxCpy core ch s := (rfl)
@[simp] theorem exec_cxFill (core ch : Nat) (s : State) : exec (.cxFill core ch) s = execCxFill core ch s := (rfl)
@[simp] theorem exec_cxGth (core ch : Nat) (s : State) : exec (.cxGth core ch) s = execCxGth core ch s := (rfl)
@[simp] theorem exec_cxSct (core ch : Nat) (s : State) : exec (.cxSct core ch) s = execCxSct core ch s := (rfl)
@[simp] theorem exec_cxPutf (core ch : Nat) (s : State) : exec (.cxPutf core ch) s = execCxPutf core ch s := (rfl)
@[simp] theorem exec_cxGetf (core ch : Nat) (s : State) : exec (.cxGetf core ch) s = execCxGetf core ch s := (rfl)
@[simp] theorem exec_cxPutn (core ch : Nat) (s : State) : exec (.cxPutn core ch) s = execCxPutn core ch s := (rfl)
@[simp] theorem exec_cxGetn (core ch : Nat) (s : State) : exec (.cxGetn core ch) s = execCxGetn core ch s := (rfl)
@[simp] theorem exec_cxMcst (core ch : Nat) (s : State) : exec (.cxMcst core ch) s = execCxMcst core ch s := (rfl)
@[simp] theorem exec_aeRun (slot : Nat) (s : State) : exec (.aeRun slot) s = execAeRun slot s := (rfl)
@[simp] theorem exec_aeCont (slot : Nat) (s : State) : exec (.aeCont slot) s = execAeCont slot s := (rfl)
@[simp] theorem exec_launchAccept (ctx : Nat) (s : State) : exec (.launchAccept ctx) s = execLaunchAccept ctx s := (rfl)
@[simp] theorem exec_groupPlace (ctx core : Nat) (s : State) : exec (.groupPlace ctx core) s = execGroupPlace ctx core s := (rfl)
@[simp] theorem exec_taskIssue (ctx : Nat) (src : IssueSrc) (slot : Nat) (s : State) : exec (.taskIssue ctx src slot) s = execTaskIssue ctx src slot s := (rfl)
@[simp] theorem exec_launchEnd (ctx : Nat) (s : State) : exec (.launchEnd ctx) s = execLaunchEnd ctx s := (rfl)
@[simp] theorem exec_gridStarvation (ctx : Nat) (s : State) : exec (.gridStarvation ctx) s = execGridStarvation ctx s := (rfl)
@[simp] theorem exec_coreGate (core : Nat) (s : State) : exec (.coreGate core) s = execCoreGate core s := (rfl)
@[simp] theorem exec_dieFence (die : Nat) (s : State) : exec (.dieFence die) s = execDieFence die s := (rfl)
@[simp] theorem exec_periodEdge (s : State) : exec (.periodEdge ) s = execPeriodEdge s := (rfl)
@[simp] theorem exec_spinLimit (slot : Nat) (s : State) : exec (.spinLimit slot) s = execSpinLimit slot s := (rfl)
@[simp] theorem exec_slotStart (port : Nat) (s : State) : exec (.slotStart port) s = execSlotStart port s := (rfl)
@[simp] theorem exec_guardEnd (port : Nat) (s : State) : exec (.guardEnd port) s = execGuardEnd port s := (rfl)
@[simp] theorem exec_slotEnd (port : Nat) (s : State) : exec (.slotEnd port) s = execSlotEnd port s := (rfl)
@[simp] theorem exec_slotcfgWrite (h : Cmd) (port : Nat) (v : Word) (s : State) : exec (.slotcfgWrite h port v) s = execSlotcfgWrite h port v s := (rfl)
@[simp] theorem exec_nak (port : Nat) (f : Flit) (s : State) : exec (.nak port f) s = execNak port f s := (rfl)
@[simp] theorem exec_lol (port : Nat) (f : Flit) (s : State) : exec (.lol port f) s = execLol port f s := (rfl)
@[simp] theorem exec_light (port : Nat) (f : Flit) (s : State) : exec (.light port f) s = execLight port f s := (rfl)
@[simp] theorem exec_credit (port : Nat) (f : Flit) (s : State) : exec (.credit port f) s = execCredit port f s := (rfl)
@[simp] theorem exec_restripeResume (port : Nat) (s : State) : exec (.restripeResume port) s = execRestripeResume port s := (rfl)
@[simp] theorem exec_replayTimeout (port : Nat) (s : State) : exec (.replayTimeout port) s = execReplayTimeout port s := (rfl)
@[simp] theorem exec_wavelengthDark (port w : Nat) (s : State) : exec (.wavelengthDark port w) s = execWavelengthDark port w s := (rfl)
@[simp] theorem exec_lolResend (port w : Nat) (s : State) : exec (.lolResend port w) s = execLolResend port w s := (rfl)
@[simp] theorem exec_lightReturn (port w : Nat) (s : State) : exec (.lightReturn port w) s = execLightReturn port w s := (rfl)
@[simp] theorem exec_write (port : Nat) (m : Msg) (s : State) : exec (.write port m) s = execWrite port m s := (rfl)
@[simp] theorem exec_read (port : Nat) (m : Msg) (s : State) : exec (.read port m) s = execRead port m s := (rfl)
@[simp] theorem exec_rdata (port : Nat) (m : Msg) (s : State) : exec (.rdata port m) s = execRdata port m s := (rfl)
@[simp] theorem exec_amoMessage (port : Nat) (m : Msg) (s : State) : exec (.amoMessage port m) s = execAmoMessage port m s := (rfl)
@[simp] theorem exec_pollMessage (port : Nat) (m : Msg) (s : State) : exec (.pollMessage port m) s = execPollMessage port m s := (rfl)
@[simp] theorem exec_ack (port : Nat) (m : Msg) (s : State) : exec (.ack port m) s = execAck port m s := (rfl)
@[simp] theorem exec_nack (port : Nat) (m : Msg) (s : State) : exec (.nack port m) s = execNack port m s := (rfl)
@[simp] theorem exec_frag (port : Nat) (m : Msg) (s : State) : exec (.frag port m) s = execFrag port m s := (rfl)
@[simp] theorem exec_rfrag (port : Nat) (m : Msg) (s : State) : exec (.rfrag port m) s = execRfrag port m s := (rfl)
@[simp] theorem exec_resendTimeout (peer msn : Nat) (s : State) : exec (.resendTimeout peer msn) s = execResendTimeout peer msn s := (rfl)
@[simp] theorem exec_connectionDown (peer : Nat) (s : State) : exec (.connectionDown peer) s = execConnectionDown peer s := (rfl)
@[simp] theorem exec_stashfullResend (peer ctx : Nat) (s : State) : exec (.stashfullResend peer ctx) s = execStashfullResend peer ctx s := (rfl)
@[simp] theorem exec_ethWritePacket (port : Nat) (p : Pkt) (s : State) : exec (.ethWritePacket port p) s = execEthWritePacket port p s := (rfl)
@[simp] theorem exec_ethReadPacket (port : Nat) (p : Pkt) (s : State) : exec (.ethReadPacket port p) s = execEthReadPacket port p s := (rfl)
@[simp] theorem exec_ethReadResponse (port : Nat) (p : Pkt) (s : State) : exec (.ethReadResponse port p) s = execEthReadResponse port p s := (rfl)
@[simp] theorem exec_ethAck (port : Nat) (p : Pkt) (echo : Bool) (s : State) : exec (.ethAck port p echo) s = execEthAck port p echo s := (rfl)
@[simp] theorem exec_ethNack (port : Nat) (p : Pkt) (s : State) : exec (.ethNack port p) s = execEthNack port p s := (rfl)
@[simp] theorem exec_ethRateWindow (port node : Nat) (s : State) : exec (.ethRateWindow port node) s = execEthRateWindow port node s := (rfl)
@[simp] theorem exec_pdcExpiry (port node : Nat) (s : State) : exec (.pdcExpiry port node) s = execPdcExpiry port node s := (rfl)
@[simp] theorem exec_ethTargetFailed (node : Nat) (host : Bool) (s : State) : exec (.ethTargetFailed node host) s = execEthTargetFailed node host s := (rfl)
@[simp] theorem exec_ptpSync (master : Nat) (offset : BitVec 32) (s : State) : exec (.ptpSync master offset) s = execPtpSync master offset s := (rfl)
@[simp] theorem exec_holdover (s : State) : exec (.holdover ) s = execHoldover s := (rfl)
@[simp] theorem exec_thermalStateChange (die temp : Nat) (s : State) : exec (.thermalStateChange die temp) s = execThermalStateChange die temp s := (rfl)
@[simp] theorem exec_bringUp (fw cfg : List Byte) (kerez : Nat) (sigs : Nat × Nat) (custKey puf : Nat) (s : State) : exec (.bringUp fw cfg kerez sigs custKey puf) s = execBringUp fw cfg kerez sigs custKey puf s := (rfl)
@[simp] theorem exec_functionReady (u : Unit') (s : State) : exec (.functionReady u) s = execFunctionReady u s := (rfl)
@[simp] theorem exec_functionFenced (u : Unit') (s : State) : exec (.functionFenced u) s = execFunctionFenced u s := (rfl)
@[simp] theorem exec_sessionOpen (sess : Nat) (ct : Nat) (sig : Nat) (s : State) : exec (.sessionOpen sess ct sig) s = execSessionOpen sess ct sig s := (rfl)
@[simp] theorem exec_regrd (h : Cmd) (addr : BitVec 32) (s : State) : exec (.regrd h addr) s = execRegrd h addr s := (rfl)
@[simp] theorem exec_regwr (h : Cmd) (addr : BitVec 32) (v : Word) (s : State) : exec (.regwr h addr v) s = execRegwr h addr v s := (rfl)
@[simp] theorem exec_asidset (h : Cmd) (asid : Nat) (root : Word) (s : State) : exec (.asidset h asid root) s = execAsidset h asid root s := (rfl)
@[simp] theorem exec_nodeset (h : Cmd) (node : Nat) (ip : BitVec 128) (ports : BitVec 8) (enc self : Bool) (s : State) : exec (.nodeset h node ip ports enc self) s = execNodeset h node ip ports enc self s := (rfl)
@[simp] theorem exec_hwin (h : Cmd) (win : Nat) (addr : Word) (len : Nat) (rd wr : Bool) (s : State) : exec (.hwin h win addr len rd wr) s = execHwin h win addr len rd wr s := (rfl)
@[simp] theorem exec_evqset (h : Cmd) (ring prod cons : Word) (nev : Nat) (s : State) : exec (.evqset h ring prod cons nev) s = execEvqset h ring prod cons nev s := (rfl)
@[simp] theorem exec_pageUnmap (h : Cmd) (asid : Nat) (va : Word) (count : Nat) (s : State) : exec (.pageUnmap h asid va count) s = execPageUnmap h asid va count s := (rfl)
@[simp] theorem exec_pageEvict (h : Cmd) (asid : Nat) (va : Word) (count : Nat) (s : State) : exec (.pageEvict h asid va count) s = execPageEvict h asid va count s := (rfl)
@[simp] theorem exec_deferred (asid : Nat) (va : Word) (s : State) : exec (.deferred asid va) s = execDeferred asid va s := (rfl)
@[simp] theorem exec_launch (h : Cmd) (ctx : Nat) (record : BitVec 2048) (s : State) : exec (.launch h ctx record) s = execLaunch h ctx record s := (rfl)
@[simp] theorem exec_tctxset (h : Cmd) (ctx peer target : Nat) (s : State) : exec (.tctxset h ctx peer target) s = execTctxset h ctx peer target s := (rfl)
@[simp] theorem exec_selvread (h : Cmd) (gang : Nat) (s : State) : exec (.selvread h gang) s = execSelvread h gang s := (rfl)
@[simp] theorem exec_ctxset (h : Cmd) (ctx asid keydom gang spinlim : Nat) (stash : Word) (s : State) : exec (.ctxset h ctx asid keydom gang spinlim stash) s = execCtxset h ctx asid keydom gang spinlim stash s := (rfl)
@[simp] theorem exec_ctxdel (h : Cmd) (ctx : Nat) (s : State) : exec (.ctxdel h ctx) s = execCtxdel h ctx s := (rfl)
@[simp] theorem exec_gaugeset (h : Cmd) (ctx : Nat) (gauge : BitVec 512) (s : State) : exec (.gaugeset h ctx gauge) s = execGaugeset h ctx gauge s := (rfl)
@[simp] theorem exec_rescfg (h : Cmd) (resmax period : Nat) (s : State) : exec (.rescfg h resmax period) s = execRescfg h resmax period s := (rfl)
@[simp] theorem exec_selvset (h : Cmd) (gang cap : Nat) (s : State) : exec (.selvset h gang cap) s = execSelvset h gang cap s := (rfl)
@[simp] theorem exec_ctxread (h : Cmd) (ctx : Nat) (s : State) : exec (.ctxread h ctx) s = execCtxread h ctx s := (rfl)
@[simp] theorem exec_lockset (h : Cmd) (ctx maxns : Nat) (s : State) : exec (.lockset h ctx maxns) s = execLockset h ctx maxns s := (rfl)
@[simp] theorem exec_grpset (h : Cmd) (gid ctx : Nat) (enc : Bool) (members : List Member) (s : State) : exec (.grpset h gid ctx enc members) s = execGrpset h gid ctx enc members s := (rfl)
@[simp] theorem exec_grpdel (h : Cmd) (gid : Nat) (s : State) : exec (.grpdel h gid) s = execGrpdel h gid s := (rfl)
@[simp] theorem exec_sharecls (h : Cmd) (keydom cls : Nat) (s : State) : exec (.sharecls h keydom cls) s = execSharecls h keydom cls s := (rfl)
@[simp] theorem exec_keyload (h : Cmd) (index keydom : Nat) (ct : Nat) (wrapped : BitVec 512) (tag : BitVec 128) (s : State) : exec (.keyload h index keydom ct wrapped tag) s = execKeyload h index keydom ct wrapped tag s := (rfl)
@[simp] theorem exec_keydel (h : Cmd) (index : Nat) (s : State) : exec (.keydel h index) s = execKeydel h index s := (rfl)
@[simp] theorem exec_nkeyload (h : Cmd) (node keydom : Nat) (ct : Nat) (wrapped : BitVec 512) (tag : BitVec 128) (s : State) : exec (.nkeyload h node keydom ct wrapped tag) s = execNkeyload h node keydom ct wrapped tag s := (rfl)
@[simp] theorem exec_idread (h : Cmd) (s : State) : exec (.idread h) s = execIdread h s := (rfl)
@[simp] theorem exec_logread (h : Cmd) (ctx index : Nat) (s : State) : exec (.logread h ctx index) s = execLogread h ctx index s := (rfl)
@[simp] theorem exec_logsign (h : Cmd) (ctx : Nat) (s : State) : exec (.logsign h ctx) s = execLogsign h ctx s := (rfl)
@[simp] theorem exec_quote (h : Cmd) (nonce : BitVec 256) (s : State) : exec (.quote h nonce) s = execQuote h nonce s := (rfl)
@[simp] theorem exec_dbgctl (h : Cmd) (ctx : Nat) (en bken halten : Bool) (s : State) : exec (.dbgctl h ctx en bken halten) s = execDbgctl h ctx en bken halten s := (rfl)
@[simp] theorem exec_dbghalt (h : Cmd) (ctx : Nat) (sel : DbgSel) (s : State) : exec (.dbghalt h ctx sel) s = execDbghalt h ctx sel s := (rfl)
@[simp] theorem exec_debugHalt (slot : Nat) (s : State) : exec (.debugHalt slot) s = execDebugHalt slot s := (rfl)
@[simp] theorem exec_dbgresume (h : Cmd) (ctx : Nat) (sel : DbgSel) (s : State) : exec (.dbgresume h ctx sel) s = execDbgresume h ctx sel s := (rfl)
@[simp] theorem exec_dbgstep (h : Cmd) (ctx slot : Nat) (x : Bool) (s : State) : exec (.dbgstep h ctx slot x) s = execDbgstep h ctx slot x s := (rfl)
@[simp] theorem exec_dbgread (h : Cmd) (ctx slot : Nat) (x : Bool) (cls : DbgClass) (index len : Nat) (s : State) : exec (.dbgread h ctx slot x cls index len) s = execDbgread h ctx slot x cls index len s := (rfl)
@[simp] theorem exec_dbgwrite (h : Cmd) (ctx slot : Nat) (x : Bool) (cls : DbgClass) (index : Nat) (data : List Byte) (s : State) : exec (.dbgwrite h ctx slot x cls index data) s = execDbgwrite h ctx slot x cls index data s := (rfl)
@[simp] theorem exec_triggeredOpFire (id : Nat) (s : State) : exec (.triggeredOpFire id) s = execTriggeredOpFire id s := (rfl)
@[simp] theorem exec_triggeredOpComplete (id : Nat) (s : State) : exec (.triggeredOpComplete id) s = execTriggeredOpComplete id s := (rfl)
@[simp] theorem exec_attach (bind : Nat) (s : State) : exec (.attach bind) s = execAttach bind s := (rfl)
@[simp] theorem exec_stageTaskStart (node item : Nat) (s : State) : exec (.stageTaskStart node item) s = execStageTaskStart node item s := (rfl)
@[simp] theorem exec_branchCopy (bind item : Nat) (s : State) : exec (.branchCopy bind item) s = execBranchCopy bind item s := (rfl)
@[simp] theorem exec_detachComplete (bind : Nat) (s : State) : exec (.detachComplete bind) s = execDetachComplete bind s := (rfl)
@[simp] theorem exec_unassignedEncoding (w : Word) (s : State) : exec (.unassignedEncoding w) s = execUnassignedEncoding w s := (rfl)
@[simp] theorem exec_instructionFetchFault (q : SeqRef) (s : State) : exec (.instructionFetchFault q) s = execInstructionFetchFault q s := (rfl)
@[simp] theorem exec_clusterWake (slot k : Nat) (s : State) : exec (.clusterWake slot k) s = execClusterWake slot k s := (rfl)
@[simp] theorem exec_coreWake (core : Nat) (s : State) : exec (.coreWake core) s = execCoreWake core s := (rfl)
@[simp] theorem exec_beat (port : Nat) (s : State) : exec (.beat port) s = execBeat port s := (rfl)
@[simp] theorem exec_flitArrival (port lane : Nat) (f : Flit) (s : State) : exec (.flitArrival port lane f) s = execFlitArrival port lane f s := (rfl)
@[simp] theorem exec_receivedPowerChange (port w : Nat) (above : Bool) (s : State) : exec (.receivedPowerChange port w above) s = execReceivedPowerChange port w above s := (rfl)
@[simp] theorem exec_ethPacketSend (port node : Nat) (s : State) : exec (.ethPacketSend port node) s = execEthPacketSend port node s := (rfl)
@[simp] theorem exec_ethPacketResend (port node tok : Nat) (s : State) : exec (.ethPacketResend port node tok) s = execEthPacketResend port node tok s := (rfl)
@[simp] theorem exec_uncorrectableError (loc : UeLoc) (s : State) : exec (.uncorrectableError loc) s = execUncorrectableError loc s := (rfl)
@[simp] theorem exec_eventRingRoom (cons : Nat) (s : State) : exec (.eventRingRoom cons) s = execEventRingRoom cons s := (rfl)

end Sys2Proof.Machine
end

