-- ==== Sys2Proof/Laws/Table.lean ====
section
/-! SUPPORT. The laws of tables and of byte memory: a read after a write, reads elsewhere, and the canonical form that every
write keeps. -/

namespace Sys2Proof.Machine

variable {α : Type}

@[simp] theorem tblGet_nil (k : Nat) : tblGet ([] : Tbl α) k = none := rfl
theorem tblGet_cons (e : Nat × α) (t : Tbl α) (k : Nat) : tblGet (e :: t) k = if e.1 = k then some e.2 else tblGet t k := rfl

@[simp] theorem tblGet_set_same (t : Tbl α) (k : Nat) (v : α) : tblGet (tblSet t k v) k = some v := by
  induction t with
  | nil => simp [tblSet, tblGet]
  | cons e r ih =>
    obtain ⟨k', v'⟩ := e
    by_cases h : k' = k
    · simp [tblSet, h, tblGet]
    · by_cases h2 : k < k' <;> simp [tblSet, h, h2, tblGet, ih]

theorem tblGet_set_ne (t : Tbl α) {k j : Nat} (v : α) (h : j ≠ k) : tblGet (tblSet t k v) j = tblGet t j := by
  induction t with
  | nil => simp [tblSet, tblGet, Ne.symm h]
  | cons e r ih =>
    obtain ⟨k', v'⟩ := e
    by_cases h1 : k' = k
    · subst h1; simp [tblSet, tblGet, Ne.symm h]
    · by_cases h2 : k < k'
      · simp [tblSet, h1, h2, tblGet, Ne.symm h]
      · simp [tblSet, h1, h2, tblGet, ih]

@[simp] theorem tblGet_erase_same (t : Tbl α) (k : Nat) : tblGet (tblErase t k) k = none := by
  induction t with
  | nil => rfl
  | cons e r ih =>
    by_cases h : e.1 = k
    · simpa [tblErase, h] using ih
    · simp only [tblErase] at ih; simp [tblErase, h, tblGet_cons, ih]

theorem tblGet_erase_ne (t : Tbl α) {k j : Nat} (h : j ≠ k) : tblGet (tblErase t k) j = tblGet t j := by
  induction t with
  | nil => rfl
  | cons e r ih =>
    simp only [tblErase] at ih
    by_cases h1 : e.1 = k
    · have : e.1 ≠ j := fun h2 => h (h2 ▸ h1)
      simp [tblErase, h1, tblGet_cons, ih, Ne.symm h]
    · simp [tblErase, h1, tblGet_cons, ih]

@[simp] theorem tblGetD_set_same (t : Tbl α) (k : Nat) (v d : α) : tblGetD (tblSet t k v) k d = v := by simp [tblGetD]
theorem tblGetD_set_ne (t : Tbl α) {k j : Nat} (v d : α) (h : j ≠ k) : tblGetD (tblSet t k v) j d = tblGetD t j d := by
  simp [tblGetD, tblGet_set_ne t v h]
@[simp] theorem tblGetD_put_same [DecidableEq α] (t : Tbl α) (k : Nat) (d v : α) : tblGetD (tblPut t k d v) k d = v := by
  unfold tblPut; split <;> simp_all [tblGetD]
theorem tblGetD_put_ne [DecidableEq α] (t : Tbl α) {k j : Nat} (d v : α) (h : j ≠ k) :
    tblGetD (tblPut t k d v) j d = tblGetD t j d := by
  unfold tblPut; split <;> simp [tblGetD, tblGet_set_ne t v h, tblGet_erase_ne t h]

-- Byte memory.

@[simp] theorem Memory.read_write_same (m : Memory) (a : Nat) (b : Byte) : (m.write a b).read a = b := by
  simp [Memory.read, Memory.write]
theorem Memory.read_write_ne (m : Memory) {a c : Nat} (b : Byte) (h : c ≠ a) : (m.write a b).read c = m.read c := by
  exact tblGetD_put_ne m 0 b h
theorem Memory.read_writeLE_below (m : Memory) (n a v c : Nat) (h : c < a) : (m.writeLE a n v).read c = m.read c := by
  induction n generalizing m a v with
  | zero => rfl
  | succ n ih => simp only [Memory.writeLE]; rw [ih _ _ _ (by omega), Memory.read_write_ne _ _ (by omega)]
theorem Memory.read_writeLE_above (m : Memory) (n a v c : Nat) (h : a + n ≤ c) : (m.writeLE a n v).read c = m.read c := by
  induction n generalizing m a v with
  | zero => rfl
  | succ n ih => simp only [Memory.writeLE]; rw [ih _ _ _ (by omega), Memory.read_write_ne _ _ (by omega)]
/-- What was written is read (R6). -/
theorem Memory.readLE_writeLE (m : Memory) (n a v : Nat) : (m.writeLE a n v).readLE a n = v % 256 ^ n := by
  induction n generalizing m a v with
  | zero => simp [Memory.readLE, Nat.mod_one]
  | succ n ih =>
    simp only [Memory.writeLE, Memory.readLE]
    have e : v % 256 ^ (n + 1) = v % 256 + 256 * (v / 256 % 256 ^ n) := by
      rw [Nat.pow_succ, Nat.mul_comm (256 ^ n) 256, Nat.mod_mul]
    rw [ih, Memory.read_writeLE_below _ _ _ _ _ (by omega), Memory.read_write_same, BitVec.toNat_ofNat, e]

-- The canonical form.

theorem Memory.wfFrom_mono {lo lo' : Nat} {m : Memory} (h : lo' ≤ lo) (w : Memory.wfFrom lo m = true) : Memory.wfFrom lo' m = true := by
  cases m with
  | nil => rfl
  | cons e r =>
    obtain ⟨a, b⟩ := e
    simp only [Memory.wfFrom, Bool.and_eq_true, decide_eq_true_eq] at w ⊢
    exact ⟨⟨by omega, w.1.2⟩, w.2⟩
theorem Memory.wfFrom_erase (lo a : Nat) (m : Memory) (w : Memory.wfFrom lo m = true) : Memory.wfFrom lo (tblErase m a) = true := by
  induction m generalizing lo with
  | nil => rfl
  | cons e r ih =>
    obtain ⟨k, b⟩ := e
    simp only [Memory.wfFrom, Bool.and_eq_true, decide_eq_true_eq] at w
    have hr := ih _ w.2
    by_cases h : k = a
    · simp only [tblErase, List.filter, h, bne_self_eq_false]
      exact Memory.wfFrom_mono (by omega) hr
    · have hb : (k != a) = true := by simp [h]
      simp only [tblErase, List.filter, hb, Memory.wfFrom, Bool.and_eq_true, decide_eq_true_eq]
      exact ⟨w.1, hr⟩
theorem Memory.wfFrom_set (lo a : Nat) (b : Byte) (m : Memory) (hb : b ≠ 0) (hlo : lo ≤ a) (w : Memory.wfFrom lo m = true) :
    Memory.wfFrom lo (tblSet m a b) = true := by
  induction m generalizing lo with
  | nil => simpa [tblSet, Memory.wfFrom, hlo] using hb
  | cons e r ih =>
    obtain ⟨k, c⟩ := e
    simp only [Memory.wfFrom, Bool.and_eq_true, decide_eq_true_eq] at w
    simp only [tblSet]
    split
    · subst k; simpa [Memory.wfFrom, hlo, w.2] using hb
    · split
      · simp only [Memory.wfFrom, Bool.and_eq_true, decide_eq_true_eq]
        exact ⟨⟨hlo, by simpa using hb⟩, ⟨by omega, w.1.2⟩, w.2⟩
      · simp only [Memory.wfFrom, Bool.and_eq_true, decide_eq_true_eq]
        exact ⟨w.1, ih _ (by omega) w.2⟩
theorem Memory.wf_write (m : Memory) (a : Nat) (b : Byte) (w : m.wf = true) : (m.write a b).wf = true := by
  unfold Memory.write tblPut Memory.wf at *
  split
  · exact Memory.wfFrom_erase _ _ _ w
  · exact Memory.wfFrom_set _ _ _ _ (by assumption) (by omega) w
theorem Memory.wf_writeLE (m : Memory) (a n v : Nat) (w : m.wf = true) : (m.writeLE a n v).wf = true := by
  induction n generalizing m a v with
  | zero => exact w
  | succ n ih => exact ih _ _ _ (Memory.wf_write _ _ _ w)
theorem Memory.wf_writeBytes (m : Memory) (a : Nat) (bs : List Byte) (w : m.wf = true) : (m.writeBytes a bs).wf = true := by
  induction bs generalizing m a with
  | nil => exact w
  | cons b r ih => exact ih _ _ (Memory.wf_write _ _ _ w)
/-- Dropping bytes keeps the form: what becomes of gated clusters, and of lines that are scrubbed. -/
theorem Memory.wfFrom_filter (lo : Nat) (m : Memory) (p : Host.Cell → Bool) (w : Memory.wfFrom lo m = true) :
    Memory.wfFrom lo (m.filter p) = true := by
  induction m generalizing lo with
  | nil => rfl
  | cons e r ih =>
    obtain ⟨k, b⟩ := e
    simp only [Memory.wfFrom, Bool.and_eq_true, decide_eq_true_eq] at w
    have hr := ih _ w.2
    by_cases h : p (k, b) = true
    · simp only [List.filter, h, Memory.wfFrom, Bool.and_eq_true, decide_eq_true_eq]; exact ⟨w.1, hr⟩
    · simp only [List.filter, h]; exact Memory.wfFrom_mono (by omega) hr
theorem Memory.wf_filter (m : Memory) (p : Host.Cell → Bool) (w : m.wf = true) : Memory.wf (m.filter p) = true :=
  Memory.wfFrom_filter _ _ _ w
/-- The memory after reset lists nothing. -/
theorem Memory.wf_nil : Memory.wf [] = true := rfl

end Sys2Proof.Machine
end

