-- ==== Sys2Proof/Laws/State.lean ====
section
/-! SUPPORT. What each update of the state leaves alone, field by field, and what it gives back where it wrote. -/

namespace Sys2Proof.Machine

@[simp] theorem State.setSeq_cur (s : State) (r : SeqRef) (q : Seq) : (s.setSeq r q).cur = s.cur := rfl
@[simp] theorem State.setSeq_agenda (s : State) (r : SeqRef) (q : Seq) : (s.setSeq r q).agenda = s.agenda := rfl
@[simp] theorem State.setSeq_freeCtr (s : State) (r : SeqRef) (q : Seq) : (s.setSeq r q).freeCtr = s.freeCtr := rfl
@[simp] theorem State.setSeq_serial (s : State) (r : SeqRef) (q : Seq) : (s.setSeq r q).serial = s.serial := rfl
@[simp] theorem State.setSeq_out (s : State) (r : SeqRef) (q : Seq) : (s.setSeq r q).out = s.out := rfl
@[simp] theorem State.setSeq_vond8 (s : State) (r : SeqRef) (q : Seq) : (s.setSeq r q).vond8 = s.vond8 := rfl
@[simp] theorem State.setSeq_pkgId (s : State) (r : SeqRef) (q : Seq) : (s.setSeq r q).pkgId = s.pkgId := rfl
@[simp] theorem State.setSeq_master (s : State) (r : SeqRef) (q : Seq) : (s.setSeq r q).master = s.master := rfl
@[simp] theorem State.setSeq_clk (s : State) (r : SeqRef) (q : Seq) : (s.setSeq r q).clk = s.clk := rfl
@[simp] theorem State.setSeq_slots (s : State) (r : SeqRef) (q : Seq) : (s.setSeq r q).slots = s.slots := rfl
@[simp] theorem State.setSeq_cores (s : State) (r : SeqRef) (q : Seq) : (s.setSeq r q).cores = s.cores := rfl
@[simp] theorem State.setSeq_dies (s : State) (r : SeqRef) (q : Seq) : (s.setSeq r q).dies = s.dies := rfl
@[simp] theorem State.setSeq_grps (s : State) (r : SeqRef) (q : Seq) : (s.setSeq r q).grps = s.grps := rfl
@[simp] theorem State.setSeq_ctxs (s : State) (r : SeqRef) (q : Seq) : (s.setSeq r q).ctxs = s.ctxs := rfl
@[simp] theorem State.setSeq_mem (s : State) (r : SeqRef) (q : Seq) : (s.setSeq r q).mem = s.mem := rfl
@[simp] theorem State.setSeq_shr (s : State) (r : SeqRef) (q : Seq) : (s.setSeq r q).shr = s.shr := rfl
@[simp] theorem State.setSeq_preg (s : State) (r : SeqRef) (q : Seq) : (s.setSeq r q).preg = s.preg := rfl
@[simp] theorem State.setSeq_fab (s : State) (r : SeqRef) (q : Seq) : (s.setSeq r q).fab = s.fab := rfl
@[simp] theorem State.setSeq_eth (s : State) (r : SeqRef) (q : Seq) : (s.setSeq r q).eth = s.eth := rfl
@[simp] theorem State.setSeq_coll (s : State) (r : SeqRef) (q : Seq) : (s.setSeq r q).coll = s.coll := rfl
@[simp] theorem State.setSeq_graft (s : State) (r : SeqRef) (q : Seq) : (s.setSeq r q).graft = s.graft := rfl
@[simp] theorem State.setSeq_sec (s : State) (r : SeqRef) (q : Seq) : (s.setSeq r q).sec = s.sec := rfl

@[simp] theorem State.setQ_cur (s : State) (q : Seq) : (s.setQ q).cur = s.cur := rfl
@[simp] theorem State.setQ_agenda (s : State) (q : Seq) : (s.setQ q).agenda = s.agenda := rfl
@[simp] theorem State.setQ_freeCtr (s : State) (q : Seq) : (s.setQ q).freeCtr = s.freeCtr := rfl
@[simp] theorem State.setQ_serial (s : State) (q : Seq) : (s.setQ q).serial = s.serial := rfl
@[simp] theorem State.setQ_out (s : State) (q : Seq) : (s.setQ q).out = s.out := rfl
@[simp] theorem State.setQ_vond8 (s : State) (q : Seq) : (s.setQ q).vond8 = s.vond8 := rfl
@[simp] theorem State.setQ_pkgId (s : State) (q : Seq) : (s.setQ q).pkgId = s.pkgId := rfl
@[simp] theorem State.setQ_master (s : State) (q : Seq) : (s.setQ q).master = s.master := rfl
@[simp] theorem State.setQ_clk (s : State) (q : Seq) : (s.setQ q).clk = s.clk := rfl
@[simp] theorem State.setQ_slots (s : State) (q : Seq) : (s.setQ q).slots = s.slots := rfl
@[simp] theorem State.setQ_cores (s : State) (q : Seq) : (s.setQ q).cores = s.cores := rfl
@[simp] theorem State.setQ_dies (s : State) (q : Seq) : (s.setQ q).dies = s.dies := rfl
@[simp] theorem State.setQ_grps (s : State) (q : Seq) : (s.setQ q).grps = s.grps := rfl
@[simp] theorem State.setQ_ctxs (s : State) (q : Seq) : (s.setQ q).ctxs = s.ctxs := rfl
@[simp] theorem State.setQ_mem (s : State) (q : Seq) : (s.setQ q).mem = s.mem := rfl
@[simp] theorem State.setQ_shr (s : State) (q : Seq) : (s.setQ q).shr = s.shr := rfl
@[simp] theorem State.setQ_preg (s : State) (q : Seq) : (s.setQ q).preg = s.preg := rfl
@[simp] theorem State.setQ_fab (s : State) (q : Seq) : (s.setQ q).fab = s.fab := rfl
@[simp] theorem State.setQ_eth (s : State) (q : Seq) : (s.setQ q).eth = s.eth := rfl
@[simp] theorem State.setQ_coll (s : State) (q : Seq) : (s.setQ q).coll = s.coll := rfl
@[simp] theorem State.setQ_graft (s : State) (q : Seq) : (s.setQ q).graft = s.graft := rfl
@[simp] theorem State.setQ_sec (s : State) (q : Seq) : (s.setQ q).sec = s.sec := rfl

@[simp] theorem State.setSlot_cur (s : State) (k : Nat) (t : Slot) : (s.setSlot k t).cur = s.cur := rfl
@[simp] theorem State.setSlot_agenda (s : State) (k : Nat) (t : Slot) : (s.setSlot k t).agenda = s.agenda := rfl
@[simp] theorem State.setSlot_freeCtr (s : State) (k : Nat) (t : Slot) : (s.setSlot k t).freeCtr = s.freeCtr := rfl
@[simp] theorem State.setSlot_serial (s : State) (k : Nat) (t : Slot) : (s.setSlot k t).serial = s.serial := rfl
@[simp] theorem State.setSlot_out (s : State) (k : Nat) (t : Slot) : (s.setSlot k t).out = s.out := rfl
@[simp] theorem State.setSlot_vond8 (s : State) (k : Nat) (t : Slot) : (s.setSlot k t).vond8 = s.vond8 := rfl
@[simp] theorem State.setSlot_pkgId (s : State) (k : Nat) (t : Slot) : (s.setSlot k t).pkgId = s.pkgId := rfl
@[simp] theorem State.setSlot_master (s : State) (k : Nat) (t : Slot) : (s.setSlot k t).master = s.master := rfl
@[simp] theorem State.setSlot_clk (s : State) (k : Nat) (t : Slot) : (s.setSlot k t).clk = s.clk := rfl
@[simp] theorem State.setSlot_seqs (s : State) (k : Nat) (t : Slot) : (s.setSlot k t).seqs = s.seqs := rfl
@[simp] theorem State.setSlot_cores (s : State) (k : Nat) (t : Slot) : (s.setSlot k t).cores = s.cores := rfl
@[simp] theorem State.setSlot_dies (s : State) (k : Nat) (t : Slot) : (s.setSlot k t).dies = s.dies := rfl
@[simp] theorem State.setSlot_grps (s : State) (k : Nat) (t : Slot) : (s.setSlot k t).grps = s.grps := rfl
@[simp] theorem State.setSlot_ctxs (s : State) (k : Nat) (t : Slot) : (s.setSlot k t).ctxs = s.ctxs := rfl
@[simp] theorem State.setSlot_mem (s : State) (k : Nat) (t : Slot) : (s.setSlot k t).mem = s.mem := rfl
@[simp] theorem State.setSlot_shr (s : State) (k : Nat) (t : Slot) : (s.setSlot k t).shr = s.shr := rfl
@[simp] theorem State.setSlot_preg (s : State) (k : Nat) (t : Slot) : (s.setSlot k t).preg = s.preg := rfl
@[simp] theorem State.setSlot_fab (s : State) (k : Nat) (t : Slot) : (s.setSlot k t).fab = s.fab := rfl
@[simp] theorem State.setSlot_eth (s : State) (k : Nat) (t : Slot) : (s.setSlot k t).eth = s.eth := rfl
@[simp] theorem State.setSlot_coll (s : State) (k : Nat) (t : Slot) : (s.setSlot k t).coll = s.coll := rfl
@[simp] theorem State.setSlot_graft (s : State) (k : Nat) (t : Slot) : (s.setSlot k t).graft = s.graft := rfl
@[simp] theorem State.setSlot_sec (s : State) (k : Nat) (t : Slot) : (s.setSlot k t).sec = s.sec := rfl

@[simp] theorem State.setSl_cur (s : State) (t : Slot) : (s.setSl t).cur = s.cur := rfl
@[simp] theorem State.setSl_agenda (s : State) (t : Slot) : (s.setSl t).agenda = s.agenda := rfl
@[simp] theorem State.setSl_freeCtr (s : State) (t : Slot) : (s.setSl t).freeCtr = s.freeCtr := rfl
@[simp] theorem State.setSl_serial (s : State) (t : Slot) : (s.setSl t).serial = s.serial := rfl
@[simp] theorem State.setSl_out (s : State) (t : Slot) : (s.setSl t).out = s.out := rfl
@[simp] theorem State.setSl_vond8 (s : State) (t : Slot) : (s.setSl t).vond8 = s.vond8 := rfl
@[simp] theorem State.setSl_pkgId (s : State) (t : Slot) : (s.setSl t).pkgId = s.pkgId := rfl
@[simp] theorem State.setSl_master (s : State) (t : Slot) : (s.setSl t).master = s.master := rfl
@[simp] theorem State.setSl_clk (s : State) (t : Slot) : (s.setSl t).clk = s.clk := rfl
@[simp] theorem State.setSl_seqs (s : State) (t : Slot) : (s.setSl t).seqs = s.seqs := rfl
@[simp] theorem State.setSl_cores (s : State) (t : Slot) : (s.setSl t).cores = s.cores := rfl
@[simp] theorem State.setSl_dies (s : State) (t : Slot) : (s.setSl t).dies = s.dies := rfl
@[simp] theorem State.setSl_grps (s : State) (t : Slot) : (s.setSl t).grps = s.grps := rfl
@[simp] theorem State.setSl_ctxs (s : State) (t : Slot) : (s.setSl t).ctxs = s.ctxs := rfl
@[simp] theorem State.setSl_mem (s : State) (t : Slot) : (s.setSl t).mem = s.mem := rfl
@[simp] theorem State.setSl_shr (s : State) (t : Slot) : (s.setSl t).shr = s.shr := rfl
@[simp] theorem State.setSl_preg (s : State) (t : Slot) : (s.setSl t).preg = s.preg := rfl
@[simp] theorem State.setSl_fab (s : State) (t : Slot) : (s.setSl t).fab = s.fab := rfl
@[simp] theorem State.setSl_eth (s : State) (t : Slot) : (s.setSl t).eth = s.eth := rfl
@[simp] theorem State.setSl_coll (s : State) (t : Slot) : (s.setSl t).coll = s.coll := rfl
@[simp] theorem State.setSl_graft (s : State) (t : Slot) : (s.setSl t).graft = s.graft := rfl
@[simp] theorem State.setSl_sec (s : State) (t : Slot) : (s.setSl t).sec = s.sec := rfl

@[simp] theorem State.setCore_cur (s : State) (c : Nat) (v : Core) : (s.setCore c v).cur = s.cur := rfl
@[simp] theorem State.setCore_agenda (s : State) (c : Nat) (v : Core) : (s.setCore c v).agenda = s.agenda := rfl
@[simp] theorem State.setCore_freeCtr (s : State) (c : Nat) (v : Core) : (s.setCore c v).freeCtr = s.freeCtr := rfl
@[simp] theorem State.setCore_serial (s : State) (c : Nat) (v : Core) : (s.setCore c v).serial = s.serial := rfl
@[simp] theorem State.setCore_out (s : State) (c : Nat) (v : Core) : (s.setCore c v).out = s.out := rfl
@[simp] theorem State.setCore_vond8 (s : State) (c : Nat) (v : Core) : (s.setCore c v).vond8 = s.vond8 := rfl
@[simp] theorem State.setCore_pkgId (s : State) (c : Nat) (v : Core) : (s.setCore c v).pkgId = s.pkgId := rfl
@[simp] theorem State.setCore_master (s : State) (c : Nat) (v : Core) : (s.setCore c v).master = s.master := rfl
@[simp] theorem State.setCore_clk (s : State) (c : Nat) (v : Core) : (s.setCore c v).clk = s.clk := rfl
@[simp] theorem State.setCore_seqs (s : State) (c : Nat) (v : Core) : (s.setCore c v).seqs = s.seqs := rfl
@[simp] theorem State.setCore_slots (s : State) (c : Nat) (v : Core) : (s.setCore c v).slots = s.slots := rfl
@[simp] theorem State.setCore_dies (s : State) (c : Nat) (v : Core) : (s.setCore c v).dies = s.dies := rfl
@[simp] theorem State.setCore_grps (s : State) (c : Nat) (v : Core) : (s.setCore c v).grps = s.grps := rfl
@[simp] theorem State.setCore_ctxs (s : State) (c : Nat) (v : Core) : (s.setCore c v).ctxs = s.ctxs := rfl
@[simp] theorem State.setCore_mem (s : State) (c : Nat) (v : Core) : (s.setCore c v).mem = s.mem := rfl
@[simp] theorem State.setCore_shr (s : State) (c : Nat) (v : Core) : (s.setCore c v).shr = s.shr := rfl
@[simp] theorem State.setCore_preg (s : State) (c : Nat) (v : Core) : (s.setCore c v).preg = s.preg := rfl
@[simp] theorem State.setCore_fab (s : State) (c : Nat) (v : Core) : (s.setCore c v).fab = s.fab := rfl
@[simp] theorem State.setCore_eth (s : State) (c : Nat) (v : Core) : (s.setCore c v).eth = s.eth := rfl
@[simp] theorem State.setCore_coll (s : State) (c : Nat) (v : Core) : (s.setCore c v).coll = s.coll := rfl
@[simp] theorem State.setCore_graft (s : State) (c : Nat) (v : Core) : (s.setCore c v).graft = s.graft := rfl
@[simp] theorem State.setCore_sec (s : State) (c : Nat) (v : Core) : (s.setCore c v).sec = s.sec := rfl

@[simp] theorem State.setDie_cur (s : State) (d : Nat) (v : Die) : (s.setDie d v).cur = s.cur := rfl
@[simp] theorem State.setDie_agenda (s : State) (d : Nat) (v : Die) : (s.setDie d v).agenda = s.agenda := rfl
@[simp] theorem State.setDie_freeCtr (s : State) (d : Nat) (v : Die) : (s.setDie d v).freeCtr = s.freeCtr := rfl
@[simp] theorem State.setDie_serial (s : State) (d : Nat) (v : Die) : (s.setDie d v).serial = s.serial := rfl
@[simp] theorem State.setDie_out (s : State) (d : Nat) (v : Die) : (s.setDie d v).out = s.out := rfl
@[simp] theorem State.setDie_vond8 (s : State) (d : Nat) (v : Die) : (s.setDie d v).vond8 = s.vond8 := rfl
@[simp] theorem State.setDie_pkgId (s : State) (d : Nat) (v : Die) : (s.setDie d v).pkgId = s.pkgId := rfl
@[simp] theorem State.setDie_master (s : State) (d : Nat) (v : Die) : (s.setDie d v).master = s.master := rfl
@[simp] theorem State.setDie_clk (s : State) (d : Nat) (v : Die) : (s.setDie d v).clk = s.clk := rfl
@[simp] theorem State.setDie_seqs (s : State) (d : Nat) (v : Die) : (s.setDie d v).seqs = s.seqs := rfl
@[simp] theorem State.setDie_slots (s : State) (d : Nat) (v : Die) : (s.setDie d v).slots = s.slots := rfl
@[simp] theorem State.setDie_cores (s : State) (d : Nat) (v : Die) : (s.setDie d v).cores = s.cores := rfl
@[simp] theorem State.setDie_grps (s : State) (d : Nat) (v : Die) : (s.setDie d v).grps = s.grps := rfl
@[simp] theorem State.setDie_ctxs (s : State) (d : Nat) (v : Die) : (s.setDie d v).ctxs = s.ctxs := rfl
@[simp] theorem State.setDie_mem (s : State) (d : Nat) (v : Die) : (s.setDie d v).mem = s.mem := rfl
@[simp] theorem State.setDie_shr (s : State) (d : Nat) (v : Die) : (s.setDie d v).shr = s.shr := rfl
@[simp] theorem State.setDie_preg (s : State) (d : Nat) (v : Die) : (s.setDie d v).preg = s.preg := rfl
@[simp] theorem State.setDie_fab (s : State) (d : Nat) (v : Die) : (s.setDie d v).fab = s.fab := rfl
@[simp] theorem State.setDie_eth (s : State) (d : Nat) (v : Die) : (s.setDie d v).eth = s.eth := rfl
@[simp] theorem State.setDie_coll (s : State) (d : Nat) (v : Die) : (s.setDie d v).coll = s.coll := rfl
@[simp] theorem State.setDie_graft (s : State) (d : Nat) (v : Die) : (s.setDie d v).graft = s.graft := rfl
@[simp] theorem State.setDie_sec (s : State) (d : Nat) (v : Die) : (s.setDie d v).sec = s.sec := rfl

@[simp] theorem State.setCtx_cur (s : State) (c : Nat) (v : Ctx) : (s.setCtx c v).cur = s.cur := rfl
@[simp] theorem State.setCtx_agenda (s : State) (c : Nat) (v : Ctx) : (s.setCtx c v).agenda = s.agenda := rfl
@[simp] theorem State.setCtx_freeCtr (s : State) (c : Nat) (v : Ctx) : (s.setCtx c v).freeCtr = s.freeCtr := rfl
@[simp] theorem State.setCtx_serial (s : State) (c : Nat) (v : Ctx) : (s.setCtx c v).serial = s.serial := rfl
@[simp] theorem State.setCtx_out (s : State) (c : Nat) (v : Ctx) : (s.setCtx c v).out = s.out := rfl
@[simp] theorem State.setCtx_vond8 (s : State) (c : Nat) (v : Ctx) : (s.setCtx c v).vond8 = s.vond8 := rfl
@[simp] theorem State.setCtx_pkgId (s : State) (c : Nat) (v : Ctx) : (s.setCtx c v).pkgId = s.pkgId := rfl
@[simp] theorem State.setCtx_master (s : State) (c : Nat) (v : Ctx) : (s.setCtx c v).master = s.master := rfl
@[simp] theorem State.setCtx_clk (s : State) (c : Nat) (v : Ctx) : (s.setCtx c v).clk = s.clk := rfl
@[simp] theorem State.setCtx_seqs (s : State) (c : Nat) (v : Ctx) : (s.setCtx c v).seqs = s.seqs := rfl
@[simp] theorem State.setCtx_slots (s : State) (c : Nat) (v : Ctx) : (s.setCtx c v).slots = s.slots := rfl
@[simp] theorem State.setCtx_cores (s : State) (c : Nat) (v : Ctx) : (s.setCtx c v).cores = s.cores := rfl
@[simp] theorem State.setCtx_dies (s : State) (c : Nat) (v : Ctx) : (s.setCtx c v).dies = s.dies := rfl
@[simp] theorem State.setCtx_grps (s : State) (c : Nat) (v : Ctx) : (s.setCtx c v).grps = s.grps := rfl
@[simp] theorem State.setCtx_mem (s : State) (c : Nat) (v : Ctx) : (s.setCtx c v).mem = s.mem := rfl
@[simp] theorem State.setCtx_shr (s : State) (c : Nat) (v : Ctx) : (s.setCtx c v).shr = s.shr := rfl
@[simp] theorem State.setCtx_preg (s : State) (c : Nat) (v : Ctx) : (s.setCtx c v).preg = s.preg := rfl
@[simp] theorem State.setCtx_fab (s : State) (c : Nat) (v : Ctx) : (s.setCtx c v).fab = s.fab := rfl
@[simp] theorem State.setCtx_eth (s : State) (c : Nat) (v : Ctx) : (s.setCtx c v).eth = s.eth := rfl
@[simp] theorem State.setCtx_coll (s : State) (c : Nat) (v : Ctx) : (s.setCtx c v).coll = s.coll := rfl
@[simp] theorem State.setCtx_graft (s : State) (c : Nat) (v : Ctx) : (s.setCtx c v).graft = s.graft := rfl
@[simp] theorem State.setCtx_sec (s : State) (c : Nat) (v : Ctx) : (s.setCtx c v).sec = s.sec := rfl

@[simp] theorem State.setGrp_cur (s : State) (g : Nat) (v : Grp) : (s.setGrp g v).cur = s.cur := rfl
@[simp] theorem State.setGrp_agenda (s : State) (g : Nat) (v : Grp) : (s.setGrp g v).agenda = s.agenda := rfl
@[simp] theorem State.setGrp_freeCtr (s : State) (g : Nat) (v : Grp) : (s.setGrp g v).freeCtr = s.freeCtr := rfl
@[simp] theorem State.setGrp_serial (s : State) (g : Nat) (v : Grp) : (s.setGrp g v).serial = s.serial := rfl
@[simp] theorem State.setGrp_out (s : State) (g : Nat) (v : Grp) : (s.setGrp g v).out = s.out := rfl
@[simp] theorem State.setGrp_vond8 (s : State) (g : Nat) (v : Grp) : (s.setGrp g v).vond8 = s.vond8 := rfl
@[simp] theorem State.setGrp_pkgId (s : State) (g : Nat) (v : Grp) : (s.setGrp g v).pkgId = s.pkgId := rfl
@[simp] theorem State.setGrp_master (s : State) (g : Nat) (v : Grp) : (s.setGrp g v).master = s.master := rfl
@[simp] theorem State.setGrp_clk (s : State) (g : Nat) (v : Grp) : (s.setGrp g v).clk = s.clk := rfl
@[simp] theorem State.setGrp_seqs (s : State) (g : Nat) (v : Grp) : (s.setGrp g v).seqs = s.seqs := rfl
@[simp] theorem State.setGrp_slots (s : State) (g : Nat) (v : Grp) : (s.setGrp g v).slots = s.slots := rfl
@[simp] theorem State.setGrp_cores (s : State) (g : Nat) (v : Grp) : (s.setGrp g v).cores = s.cores := rfl
@[simp] theorem State.setGrp_dies (s : State) (g : Nat) (v : Grp) : (s.setGrp g v).dies = s.dies := rfl
@[simp] theorem State.setGrp_ctxs (s : State) (g : Nat) (v : Grp) : (s.setGrp g v).ctxs = s.ctxs := rfl
@[simp] theorem State.setGrp_mem (s : State) (g : Nat) (v : Grp) : (s.setGrp g v).mem = s.mem := rfl
@[simp] theorem State.setGrp_shr (s : State) (g : Nat) (v : Grp) : (s.setGrp g v).shr = s.shr := rfl
@[simp] theorem State.setGrp_preg (s : State) (g : Nat) (v : Grp) : (s.setGrp g v).preg = s.preg := rfl
@[simp] theorem State.setGrp_fab (s : State) (g : Nat) (v : Grp) : (s.setGrp g v).fab = s.fab := rfl
@[simp] theorem State.setGrp_eth (s : State) (g : Nat) (v : Grp) : (s.setGrp g v).eth = s.eth := rfl
@[simp] theorem State.setGrp_coll (s : State) (g : Nat) (v : Grp) : (s.setGrp g v).coll = s.coll := rfl
@[simp] theorem State.setGrp_graft (s : State) (g : Nat) (v : Grp) : (s.setGrp g v).graft = s.graft := rfl
@[simp] theorem State.setGrp_sec (s : State) (g : Nat) (v : Grp) : (s.setGrp g v).sec = s.sec := rfl

@[simp] theorem State.setSem_cur (s : State) (c k : Nat) (m : Sem) : (s.setSem c k m).cur = s.cur := rfl
@[simp] theorem State.setSem_agenda (s : State) (c k : Nat) (m : Sem) : (s.setSem c k m).agenda = s.agenda := rfl
@[simp] theorem State.setSem_freeCtr (s : State) (c k : Nat) (m : Sem) : (s.setSem c k m).freeCtr = s.freeCtr := rfl
@[simp] theorem State.setSem_serial (s : State) (c k : Nat) (m : Sem) : (s.setSem c k m).serial = s.serial := rfl
@[simp] theorem State.setSem_out (s : State) (c k : Nat) (m : Sem) : (s.setSem c k m).out = s.out := rfl
@[simp] theorem State.setSem_vond8 (s : State) (c k : Nat) (m : Sem) : (s.setSem c k m).vond8 = s.vond8 := rfl
@[simp] theorem State.setSem_pkgId (s : State) (c k : Nat) (m : Sem) : (s.setSem c k m).pkgId = s.pkgId := rfl
@[simp] theorem State.setSem_master (s : State) (c k : Nat) (m : Sem) : (s.setSem c k m).master = s.master := rfl
@[simp] theorem State.setSem_clk (s : State) (c k : Nat) (m : Sem) : (s.setSem c k m).clk = s.clk := rfl
@[simp] theorem State.setSem_seqs (s : State) (c k : Nat) (m : Sem) : (s.setSem c k m).seqs = s.seqs := rfl
@[simp] theorem State.setSem_slots (s : State) (c k : Nat) (m : Sem) : (s.setSem c k m).slots = s.slots := rfl
@[simp] theorem State.setSem_cores (s : State) (c k : Nat) (m : Sem) : (s.setSem c k m).cores = s.cores := rfl
@[simp] theorem State.setSem_dies (s : State) (c k : Nat) (m : Sem) : (s.setSem c k m).dies = s.dies := rfl
@[simp] theorem State.setSem_grps (s : State) (c k : Nat) (m : Sem) : (s.setSem c k m).grps = s.grps := rfl
@[simp] theorem State.setSem_mem (s : State) (c k : Nat) (m : Sem) : (s.setSem c k m).mem = s.mem := rfl
@[simp] theorem State.setSem_shr (s : State) (c k : Nat) (m : Sem) : (s.setSem c k m).shr = s.shr := rfl
@[simp] theorem State.setSem_preg (s : State) (c k : Nat) (m : Sem) : (s.setSem c k m).preg = s.preg := rfl
@[simp] theorem State.setSem_fab (s : State) (c k : Nat) (m : Sem) : (s.setSem c k m).fab = s.fab := rfl
@[simp] theorem State.setSem_eth (s : State) (c k : Nat) (m : Sem) : (s.setSem c k m).eth = s.eth := rfl
@[simp] theorem State.setSem_coll (s : State) (c k : Nat) (m : Sem) : (s.setSem c k m).coll = s.coll := rfl
@[simp] theorem State.setSem_graft (s : State) (c k : Nat) (m : Sem) : (s.setSem c k m).graft = s.graft := rfl
@[simp] theorem State.setSem_sec (s : State) (c k : Nat) (m : Sem) : (s.setSem c k m).sec = s.sec := rfl

@[simp] theorem State.signal_cur (s : State) (c k : Nat) (inc : BitVec 16) : (s.signal c k inc).cur = s.cur := rfl
@[simp] theorem State.signal_agenda (s : State) (c k : Nat) (inc : BitVec 16) : (s.signal c k inc).agenda = s.agenda := rfl
@[simp] theorem State.signal_freeCtr (s : State) (c k : Nat) (inc : BitVec 16) : (s.signal c k inc).freeCtr = s.freeCtr := rfl
@[simp] theorem State.signal_serial (s : State) (c k : Nat) (inc : BitVec 16) : (s.signal c k inc).serial = s.serial := rfl
@[simp] theorem State.signal_out (s : State) (c k : Nat) (inc : BitVec 16) : (s.signal c k inc).out = s.out := rfl
@[simp] theorem State.signal_vond8 (s : State) (c k : Nat) (inc : BitVec 16) : (s.signal c k inc).vond8 = s.vond8 := rfl
@[simp] theorem State.signal_pkgId (s : State) (c k : Nat) (inc : BitVec 16) : (s.signal c k inc).pkgId = s.pkgId := rfl
@[simp] theorem State.signal_master (s : State) (c k : Nat) (inc : BitVec 16) : (s.signal c k inc).master = s.master := rfl
@[simp] theorem State.signal_clk (s : State) (c k : Nat) (inc : BitVec 16) : (s.signal c k inc).clk = s.clk := rfl
@[simp] theorem State.signal_seqs (s : State) (c k : Nat) (inc : BitVec 16) : (s.signal c k inc).seqs = s.seqs := rfl
@[simp] theorem State.signal_slots (s : State) (c k : Nat) (inc : BitVec 16) : (s.signal c k inc).slots = s.slots := rfl
@[simp] theorem State.signal_cores (s : State) (c k : Nat) (inc : BitVec 16) : (s.signal c k inc).cores = s.cores := rfl
@[simp] theorem State.signal_dies (s : State) (c k : Nat) (inc : BitVec 16) : (s.signal c k inc).dies = s.dies := rfl
@[simp] theorem State.signal_grps (s : State) (c k : Nat) (inc : BitVec 16) : (s.signal c k inc).grps = s.grps := rfl
@[simp] theorem State.signal_mem (s : State) (c k : Nat) (inc : BitVec 16) : (s.signal c k inc).mem = s.mem := rfl
@[simp] theorem State.signal_shr (s : State) (c k : Nat) (inc : BitVec 16) : (s.signal c k inc).shr = s.shr := rfl
@[simp] theorem State.signal_preg (s : State) (c k : Nat) (inc : BitVec 16) : (s.signal c k inc).preg = s.preg := rfl
@[simp] theorem State.signal_fab (s : State) (c k : Nat) (inc : BitVec 16) : (s.signal c k inc).fab = s.fab := rfl
@[simp] theorem State.signal_eth (s : State) (c k : Nat) (inc : BitVec 16) : (s.signal c k inc).eth = s.eth := rfl
@[simp] theorem State.signal_coll (s : State) (c k : Nat) (inc : BitVec 16) : (s.signal c k inc).coll = s.coll := rfl
@[simp] theorem State.signal_graft (s : State) (c k : Nat) (inc : BitVec 16) : (s.signal c k inc).graft = s.graft := rfl
@[simp] theorem State.signal_sec (s : State) (c k : Nat) (inc : BitVec 16) : (s.signal c k inc).sec = s.sec := rfl

@[simp] theorem State.answer_cur (s : State) (h : Cmd) (st : Nat) (d : List Byte) : (s.answer h st d).cur = s.cur := rfl
@[simp] theorem State.answer_agenda (s : State) (h : Cmd) (st : Nat) (d : List Byte) : (s.answer h st d).agenda = s.agenda := rfl
@[simp] theorem State.answer_freeCtr (s : State) (h : Cmd) (st : Nat) (d : List Byte) : (s.answer h st d).freeCtr = s.freeCtr := rfl
@[simp] theorem State.answer_serial (s : State) (h : Cmd) (st : Nat) (d : List Byte) : (s.answer h st d).serial = s.serial := rfl
@[simp] theorem State.answer_vond8 (s : State) (h : Cmd) (st : Nat) (d : List Byte) : (s.answer h st d).vond8 = s.vond8 := rfl
@[simp] theorem State.answer_pkgId (s : State) (h : Cmd) (st : Nat) (d : List Byte) : (s.answer h st d).pkgId = s.pkgId := rfl
@[simp] theorem State.answer_master (s : State) (h : Cmd) (st : Nat) (d : List Byte) : (s.answer h st d).master = s.master := rfl
@[simp] theorem State.answer_clk (s : State) (h : Cmd) (st : Nat) (d : List Byte) : (s.answer h st d).clk = s.clk := rfl
@[simp] theorem State.answer_seqs (s : State) (h : Cmd) (st : Nat) (d : List Byte) : (s.answer h st d).seqs = s.seqs := rfl
@[simp] theorem State.answer_slots (s : State) (h : Cmd) (st : Nat) (d : List Byte) : (s.answer h st d).slots = s.slots := rfl
@[simp] theorem State.answer_cores (s : State) (h : Cmd) (st : Nat) (d : List Byte) : (s.answer h st d).cores = s.cores := rfl
@[simp] theorem State.answer_dies (s : State) (h : Cmd) (st : Nat) (d : List Byte) : (s.answer h st d).dies = s.dies := rfl
@[simp] theorem State.answer_grps (s : State) (h : Cmd) (st : Nat) (d : List Byte) : (s.answer h st d).grps = s.grps := rfl
@[simp] theorem State.answer_ctxs (s : State) (h : Cmd) (st : Nat) (d : List Byte) : (s.answer h st d).ctxs = s.ctxs := rfl
@[simp] theorem State.answer_mem (s : State) (h : Cmd) (st : Nat) (d : List Byte) : (s.answer h st d).mem = s.mem := rfl
@[simp] theorem State.answer_shr (s : State) (h : Cmd) (st : Nat) (d : List Byte) : (s.answer h st d).shr = s.shr := rfl
@[simp] theorem State.answer_preg (s : State) (h : Cmd) (st : Nat) (d : List Byte) : (s.answer h st d).preg = s.preg := rfl
@[simp] theorem State.answer_fab (s : State) (h : Cmd) (st : Nat) (d : List Byte) : (s.answer h st d).fab = s.fab := rfl
@[simp] theorem State.answer_eth (s : State) (h : Cmd) (st : Nat) (d : List Byte) : (s.answer h st d).eth = s.eth := rfl
@[simp] theorem State.answer_coll (s : State) (h : Cmd) (st : Nat) (d : List Byte) : (s.answer h st d).coll = s.coll := rfl
@[simp] theorem State.answer_graft (s : State) (h : Cmd) (st : Nat) (d : List Byte) : (s.answer h st d).graft = s.graft := rfl
@[simp] theorem State.answer_sec (s : State) (h : Cmd) (st : Nat) (d : List Byte) : (s.answer h st d).sec = s.sec := rfl

/-- Before the next period edge, moving TIME on lets time pass and does nothing else (R291: the edges TIME passes are taken). -/
theorem State.at_early (s : State) (u : Word)
    (h : s.shr.edge.ule (if s.clk.time.ult u then u else s.clk.time) = false) :
    s.at u = s.reach (if s.clk.time.ult u then u else s.clk.time) := by
  simp only [State.at, State.edgesTo, h, Bool.false_eq_true, if_false]

@[simp] theorem State.setAgenda_cur (s : State) (a : List Move) : (s.setAgenda a).cur = s.cur := rfl
@[simp] theorem State.setAgenda_freeCtr (s : State) (a : List Move) : (s.setAgenda a).freeCtr = s.freeCtr := rfl
@[simp] theorem State.setAgenda_serial (s : State) (a : List Move) : (s.setAgenda a).serial = s.serial := rfl
@[simp] theorem State.setAgenda_out (s : State) (a : List Move) : (s.setAgenda a).out = s.out := rfl
@[simp] theorem State.setAgenda_vond8 (s : State) (a : List Move) : (s.setAgenda a).vond8 = s.vond8 := rfl
@[simp] theorem State.setAgenda_pkgId (s : State) (a : List Move) : (s.setAgenda a).pkgId = s.pkgId := rfl
@[simp] theorem State.setAgenda_master (s : State) (a : List Move) : (s.setAgenda a).master = s.master := rfl
@[simp] theorem State.setAgenda_clk (s : State) (a : List Move) : (s.setAgenda a).clk = s.clk := rfl
@[simp] theorem State.setAgenda_seqs (s : State) (a : List Move) : (s.setAgenda a).seqs = s.seqs := rfl
@[simp] theorem State.setAgenda_slots (s : State) (a : List Move) : (s.setAgenda a).slots = s.slots := rfl
@[simp] theorem State.setAgenda_cores (s : State) (a : List Move) : (s.setAgenda a).cores = s.cores := rfl
@[simp] theorem State.setAgenda_dies (s : State) (a : List Move) : (s.setAgenda a).dies = s.dies := rfl
@[simp] theorem State.setAgenda_grps (s : State) (a : List Move) : (s.setAgenda a).grps = s.grps := rfl
@[simp] theorem State.setAgenda_ctxs (s : State) (a : List Move) : (s.setAgenda a).ctxs = s.ctxs := rfl
@[simp] theorem State.setAgenda_mem (s : State) (a : List Move) : (s.setAgenda a).mem = s.mem := rfl
@[simp] theorem State.setAgenda_shr (s : State) (a : List Move) : (s.setAgenda a).shr = s.shr := rfl
@[simp] theorem State.setAgenda_preg (s : State) (a : List Move) : (s.setAgenda a).preg = s.preg := rfl
@[simp] theorem State.setAgenda_fab (s : State) (a : List Move) : (s.setAgenda a).fab = s.fab := rfl
@[simp] theorem State.setAgenda_eth (s : State) (a : List Move) : (s.setAgenda a).eth = s.eth := rfl
@[simp] theorem State.setAgenda_coll (s : State) (a : List Move) : (s.setAgenda a).coll = s.coll := rfl
@[simp] theorem State.setAgenda_graft (s : State) (a : List Move) : (s.setAgenda a).graft = s.graft := rfl
@[simp] theorem State.setAgenda_sec (s : State) (a : List Move) : (s.setAgenda a).sec = s.sec := rfl

@[simp] theorem State.asSeq_agenda (s : State) (r : SeqRef) : (s.asSeq r).agenda = s.agenda := rfl
@[simp] theorem State.asSeq_freeCtr (s : State) (r : SeqRef) : (s.asSeq r).freeCtr = s.freeCtr := rfl
@[simp] theorem State.asSeq_serial (s : State) (r : SeqRef) : (s.asSeq r).serial = s.serial := rfl
@[simp] theorem State.asSeq_out (s : State) (r : SeqRef) : (s.asSeq r).out = s.out := rfl
@[simp] theorem State.asSeq_vond8 (s : State) (r : SeqRef) : (s.asSeq r).vond8 = s.vond8 := rfl
@[simp] theorem State.asSeq_pkgId (s : State) (r : SeqRef) : (s.asSeq r).pkgId = s.pkgId := rfl
@[simp] theorem State.asSeq_master (s : State) (r : SeqRef) : (s.asSeq r).master = s.master := rfl
@[simp] theorem State.asSeq_clk (s : State) (r : SeqRef) : (s.asSeq r).clk = s.clk := rfl
@[simp] theorem State.asSeq_seqs (s : State) (r : SeqRef) : (s.asSeq r).seqs = s.seqs := rfl
@[simp] theorem State.asSeq_slots (s : State) (r : SeqRef) : (s.asSeq r).slots = s.slots := rfl
@[simp] theorem State.asSeq_cores (s : State) (r : SeqRef) : (s.asSeq r).cores = s.cores := rfl
@[simp] theorem State.asSeq_dies (s : State) (r : SeqRef) : (s.asSeq r).dies = s.dies := rfl
@[simp] theorem State.asSeq_grps (s : State) (r : SeqRef) : (s.asSeq r).grps = s.grps := rfl
@[simp] theorem State.asSeq_ctxs (s : State) (r : SeqRef) : (s.asSeq r).ctxs = s.ctxs := rfl
@[simp] theorem State.asSeq_mem (s : State) (r : SeqRef) : (s.asSeq r).mem = s.mem := rfl
@[simp] theorem State.asSeq_shr (s : State) (r : SeqRef) : (s.asSeq r).shr = s.shr := rfl
@[simp] theorem State.asSeq_preg (s : State) (r : SeqRef) : (s.asSeq r).preg = s.preg := rfl
@[simp] theorem State.asSeq_fab (s : State) (r : SeqRef) : (s.asSeq r).fab = s.fab := rfl
@[simp] theorem State.asSeq_eth (s : State) (r : SeqRef) : (s.asSeq r).eth = s.eth := rfl
@[simp] theorem State.asSeq_coll (s : State) (r : SeqRef) : (s.asSeq r).coll = s.coll := rfl
@[simp] theorem State.asSeq_graft (s : State) (r : SeqRef) : (s.asSeq r).graft = s.graft := rfl
@[simp] theorem State.asSeq_sec (s : State) (r : SeqRef) : (s.asSeq r).sec = s.sec := rfl

@[simp] theorem State.go_cur (s : State) (n : Nat) : (s.go n).cur = s.cur := rfl
@[simp] theorem State.go_agenda (s : State) (n : Nat) : (s.go n).agenda = s.agenda := rfl
@[simp] theorem State.go_freeCtr (s : State) (n : Nat) : (s.go n).freeCtr = s.freeCtr := rfl
@[simp] theorem State.go_serial (s : State) (n : Nat) : (s.go n).serial = s.serial := rfl
@[simp] theorem State.go_out (s : State) (n : Nat) : (s.go n).out = s.out := rfl
@[simp] theorem State.go_vond8 (s : State) (n : Nat) : (s.go n).vond8 = s.vond8 := rfl
@[simp] theorem State.go_pkgId (s : State) (n : Nat) : (s.go n).pkgId = s.pkgId := rfl
@[simp] theorem State.go_master (s : State) (n : Nat) : (s.go n).master = s.master := rfl
@[simp] theorem State.go_clk (s : State) (n : Nat) : (s.go n).clk = s.clk := rfl
@[simp] theorem State.go_slots (s : State) (n : Nat) : (s.go n).slots = s.slots := rfl
@[simp] theorem State.go_cores (s : State) (n : Nat) : (s.go n).cores = s.cores := rfl
@[simp] theorem State.go_dies (s : State) (n : Nat) : (s.go n).dies = s.dies := rfl
@[simp] theorem State.go_grps (s : State) (n : Nat) : (s.go n).grps = s.grps := rfl
@[simp] theorem State.go_ctxs (s : State) (n : Nat) : (s.go n).ctxs = s.ctxs := rfl
@[simp] theorem State.go_mem (s : State) (n : Nat) : (s.go n).mem = s.mem := rfl
@[simp] theorem State.go_shr (s : State) (n : Nat) : (s.go n).shr = s.shr := rfl
@[simp] theorem State.go_preg (s : State) (n : Nat) : (s.go n).preg = s.preg := rfl
@[simp] theorem State.go_fab (s : State) (n : Nat) : (s.go n).fab = s.fab := rfl
@[simp] theorem State.go_eth (s : State) (n : Nat) : (s.go n).eth = s.eth := rfl
@[simp] theorem State.go_coll (s : State) (n : Nat) : (s.go n).coll = s.coll := rfl
@[simp] theorem State.go_graft (s : State) (n : Nat) : (s.go n).graft = s.graft := rfl
@[simp] theorem State.go_sec (s : State) (n : Nat) : (s.go n).sec = s.sec := rfl

@[simp] theorem State.ret_cur (s : State) (d : SReg) (v : Word) : (s.ret d v).cur = s.cur := rfl
@[simp] theorem State.ret_agenda (s : State) (d : SReg) (v : Word) : (s.ret d v).agenda = s.agenda := rfl
@[simp] theorem State.ret_freeCtr (s : State) (d : SReg) (v : Word) : (s.ret d v).freeCtr = s.freeCtr := rfl
@[simp] theorem State.ret_serial (s : State) (d : SReg) (v : Word) : (s.ret d v).serial = s.serial := rfl
@[simp] theorem State.ret_out (s : State) (d : SReg) (v : Word) : (s.ret d v).out = s.out := rfl
@[simp] theorem State.ret_vond8 (s : State) (d : SReg) (v : Word) : (s.ret d v).vond8 = s.vond8 := rfl
@[simp] theorem State.ret_pkgId (s : State) (d : SReg) (v : Word) : (s.ret d v).pkgId = s.pkgId := rfl
@[simp] theorem State.ret_master (s : State) (d : SReg) (v : Word) : (s.ret d v).master = s.master := rfl
@[simp] theorem State.ret_clk (s : State) (d : SReg) (v : Word) : (s.ret d v).clk = s.clk := rfl
@[simp] theorem State.ret_slots (s : State) (d : SReg) (v : Word) : (s.ret d v).slots = s.slots := rfl
@[simp] theorem State.ret_cores (s : State) (d : SReg) (v : Word) : (s.ret d v).cores = s.cores := rfl
@[simp] theorem State.ret_dies (s : State) (d : SReg) (v : Word) : (s.ret d v).dies = s.dies := rfl
@[simp] theorem State.ret_grps (s : State) (d : SReg) (v : Word) : (s.ret d v).grps = s.grps := rfl
@[simp] theorem State.ret_ctxs (s : State) (d : SReg) (v : Word) : (s.ret d v).ctxs = s.ctxs := rfl
@[simp] theorem State.ret_mem (s : State) (d : SReg) (v : Word) : (s.ret d v).mem = s.mem := rfl
@[simp] theorem State.ret_shr (s : State) (d : SReg) (v : Word) : (s.ret d v).shr = s.shr := rfl
@[simp] theorem State.ret_preg (s : State) (d : SReg) (v : Word) : (s.ret d v).preg = s.preg := rfl
@[simp] theorem State.ret_fab (s : State) (d : SReg) (v : Word) : (s.ret d v).fab = s.fab := rfl
@[simp] theorem State.ret_eth (s : State) (d : SReg) (v : Word) : (s.ret d v).eth = s.eth := rfl
@[simp] theorem State.ret_coll (s : State) (d : SReg) (v : Word) : (s.ret d v).coll = s.coll := rfl
@[simp] theorem State.ret_graft (s : State) (d : SReg) (v : Word) : (s.ret d v).graft = s.graft := rfl
@[simp] theorem State.ret_sec (s : State) (d : SReg) (v : Word) : (s.ret d v).sec = s.sec := rfl

@[simp] theorem State.retP_cur (s : State) (d : PReg) (v : Bool) : (s.retP d v).cur = s.cur := rfl
@[simp] theorem State.retP_agenda (s : State) (d : PReg) (v : Bool) : (s.retP d v).agenda = s.agenda := rfl
@[simp] theorem State.retP_freeCtr (s : State) (d : PReg) (v : Bool) : (s.retP d v).freeCtr = s.freeCtr := rfl
@[simp] theorem State.retP_serial (s : State) (d : PReg) (v : Bool) : (s.retP d v).serial = s.serial := rfl
@[simp] theorem State.retP_out (s : State) (d : PReg) (v : Bool) : (s.retP d v).out = s.out := rfl
@[simp] theorem State.retP_vond8 (s : State) (d : PReg) (v : Bool) : (s.retP d v).vond8 = s.vond8 := rfl
@[simp] theorem State.retP_pkgId (s : State) (d : PReg) (v : Bool) : (s.retP d v).pkgId = s.pkgId := rfl
@[simp] theorem State.retP_master (s : State) (d : PReg) (v : Bool) : (s.retP d v).master = s.master := rfl
@[simp] theorem State.retP_clk (s : State) (d : PReg) (v : Bool) : (s.retP d v).clk = s.clk := rfl
@[simp] theorem State.retP_slots (s : State) (d : PReg) (v : Bool) : (s.retP d v).slots = s.slots := rfl
@[simp] theorem State.retP_cores (s : State) (d : PReg) (v : Bool) : (s.retP d v).cores = s.cores := rfl
@[simp] theorem State.retP_dies (s : State) (d : PReg) (v : Bool) : (s.retP d v).dies = s.dies := rfl
@[simp] theorem State.retP_grps (s : State) (d : PReg) (v : Bool) : (s.retP d v).grps = s.grps := rfl
@[simp] theorem State.retP_ctxs (s : State) (d : PReg) (v : Bool) : (s.retP d v).ctxs = s.ctxs := rfl
@[simp] theorem State.retP_mem (s : State) (d : PReg) (v : Bool) : (s.retP d v).mem = s.mem := rfl
@[simp] theorem State.retP_shr (s : State) (d : PReg) (v : Bool) : (s.retP d v).shr = s.shr := rfl
@[simp] theorem State.retP_preg (s : State) (d : PReg) (v : Bool) : (s.retP d v).preg = s.preg := rfl
@[simp] theorem State.retP_fab (s : State) (d : PReg) (v : Bool) : (s.retP d v).fab = s.fab := rfl
@[simp] theorem State.retP_eth (s : State) (d : PReg) (v : Bool) : (s.retP d v).eth = s.eth := rfl
@[simp] theorem State.retP_coll (s : State) (d : PReg) (v : Bool) : (s.retP d v).coll = s.coll := rfl
@[simp] theorem State.retP_graft (s : State) (d : PReg) (v : Bool) : (s.retP d v).graft = s.graft := rfl
@[simp] theorem State.retP_sec (s : State) (d : PReg) (v : Bool) : (s.retP d v).sec = s.sec := rfl

theorem keyOf_inj {r r' : SeqRef} (h : keyOf r = keyOf r') : r = r' := by
  obtain ⟨a, x⟩ := r; obtain ⟨b, y⟩ := r'
  cases x <;> cases y <;> simp [keyOf] at h ⊢ <;> omega
@[simp] theorem State.seq_setSeq_same (s : State) (r : SeqRef) (q : Seq) : (s.setSeq r q).seq r = q := by
  simp [State.seq, State.setSeq]
theorem State.seq_setSeq_ne (s : State) {r r' : SeqRef} (q : Seq) (h : r' ≠ r) : (s.setSeq r q).seq r' = s.seq r' := by
  unfold State.seq State.setSeq
  exact tblGetD_set_ne _ _ _ (fun e => h (keyOf_inj e))
@[simp] theorem State.q_setQ (s : State) (q : Seq) : (s.setQ q).q = q := by
  simp [State.q, State.setQ]
theorem State.seq_setQ_ne (s : State) {r : SeqRef} (q : Seq) (h : r ≠ s.cur) : (s.setQ q).seq r = s.seq r :=
  s.seq_setSeq_ne q h
@[simp] theorem State.slot_setSlot_same (s : State) (k : Nat) (t : Slot) : (s.setSlot k t).slot k = t := by
  simp [State.slot, State.setSlot]
theorem State.slot_setSlot_ne (s : State) {k j : Nat} (t : Slot) (h : j ≠ k) : (s.setSlot k t).slot j = s.slot j := by
  unfold State.slot State.setSlot; exact tblGetD_set_ne _ _ _ h
@[simp] theorem State.sl_setSl (s : State) (t : Slot) : (s.setSl t).sl = t := by
  simp [State.sl, State.setSl]
@[simp] theorem State.sl_setQ (s : State) (q : Seq) : (s.setQ q).sl = s.sl := rfl
@[simp] theorem State.q_setSl (s : State) (t : Slot) : (s.setSl t).q = s.q := rfl
@[simp] theorem State.slot_setSeq (s : State) (r : SeqRef) (q : Seq) (k : Nat) : (s.setSeq r q).slot k = s.slot k := rfl
@[simp] theorem State.seq_setSlot (s : State) (k : Nat) (t : Slot) (r : SeqRef) : (s.setSlot k t).seq r = s.seq r := rfl
@[simp] theorem State.ctx_setSeq (s : State) (r : SeqRef) (q : Seq) (c : Nat) : (s.setSeq r q).ctx c = s.ctx c := rfl
@[simp] theorem State.ctx_setSlot (s : State) (k : Nat) (t : Slot) (c : Nat) : (s.setSlot k t).ctx c = s.ctx c := rfl
@[simp] theorem State.ctx_setCtx_same (s : State) (c : Nat) (v : Ctx) : (s.setCtx c v).ctx c = v := by
  simp [State.ctx, State.setCtx]
theorem State.ctx_setCtx_ne (s : State) {c d : Nat} (v : Ctx) (h : d ≠ c) : (s.setCtx c v).ctx d = s.ctx d := by
  unfold State.ctx State.setCtx; exact tblGetD_set_ne _ _ _ h
@[simp] theorem State.core_setCore_same (s : State) (c : Nat) (v : Core) : (s.setCore c v).core c = v := by
  simp [State.core, State.setCore]
theorem State.core_setCore_ne (s : State) {c d : Nat} (v : Core) (h : d ≠ c) : (s.setCore c v).core d = s.core d := by
  unfold State.core State.setCore; exact tblGetD_set_ne _ _ _ h
@[simp] theorem State.die_setDie_same (s : State) (c : Nat) (v : Die) : (s.setDie c v).die c = v := by
  unfold State.die State.setDie; exact tblGetD_set_same _ _ _ _
theorem State.die_setDie_ne (s : State) {c d : Nat} (v : Die) (h : d ≠ c) : (s.setDie c v).die d = s.die d := by
  unfold State.die State.setDie; exact tblGetD_set_ne _ _ _ h
@[simp] theorem State.grp_setGrp_same (s : State) (g : Nat) (v : Grp) : (s.setGrp g v).grp g = some v := by
  simp [State.grp, State.setGrp]
theorem State.grp_setGrp_ne (s : State) {g j : Nat} (v : Grp) (h : j ≠ g) : (s.setGrp g v).grp j = s.grp j := by
  unfold State.grp State.setGrp; exact tblGet_set_ne _ _ h

-- Registers of a sequencer.

@[simp] theorem Seq.s_zero (q : Seq) : q.s 0 = 0 := rfl
theorem Seq.s_setS_same (q : Seq) {r : SReg} (v : Word) (h : r ≠ 0) : (q.setS r v).s r = v := by
  unfold Seq.s Seq.setS; rw [if_neg h, if_neg h]; exact tblGetD_put_same _ _ _ _
theorem Seq.s_setS_ne (q : Seq) {r r' : SReg} (v : Word) (h : r' ≠ r) : (q.setS r v).s r' = q.s r' := by
  unfold Seq.s Seq.setS
  split
  · rfl
  · split
    · rfl
    · exact tblGetD_put_ne _ _ _ (fun e => h (BitVec.eq_of_toNat_eq e))
theorem Seq.h_setH_same (q : Seq) (r : HReg) (v : BitVec 256) : (q.setH r v).h r = v := by
  unfold Seq.h Seq.setH; exact tblGetD_put_same _ _ _ _
theorem Seq.h_setH_ne (q : Seq) {r r' : HReg} (v : BitVec 256) (h : r' ≠ r) : (q.setH r v).h r' = q.h r' := by
  unfold Seq.h Seq.setH; exact tblGetD_put_ne _ _ _ (fun e => h (BitVec.eq_of_toNat_eq e))
@[simp] theorem Seq.p_zero (q : Seq) : q.p 0 = true := rfl
theorem Seq.p_setP_same (q : Seq) {r : PReg} (v : Bool) (h : r ≠ 0) : (q.setP r v).p r = v := by
  obtain ⟨r⟩ := r
  unfold Seq.p Seq.setP; rw [if_neg h, if_neg h]
  fin_cases r <;> cases v <;> simp at h ⊢
theorem Seq.p_setP_ne (q : Seq) {r r' : PReg} (v : Bool) (h : r' ≠ r) : (q.setP r v).p r' = q.p r' := by
  obtain ⟨r⟩ := r; obtain ⟨r'⟩ := r'
  unfold Seq.p Seq.setP
  split
  · rfl
  · split
    · rfl
    · fin_cases r <;> fin_cases r' <;> cases v <;> simp at h ⊢

@[simp] theorem Seq.setS_preds (q : Seq) (r : SReg) (v : Word) : (q.setS r v).preds = q.preds := by unfold Seq.setS; split <;> rfl
@[simp] theorem Seq.setS_handles (q : Seq) (r : SReg) (v : Word) : (q.setS r v).handles = q.handles := by unfold Seq.setS; split <;> rfl
@[simp] theorem Seq.setS_pc (q : Seq) (r : SReg) (v : Word) : (q.setS r v).pc = q.pc := by unfold Seq.setS; split <;> rfl
@[simp] theorem Seq.setS_loops (q : Seq) (r : SReg) (v : Word) : (q.setS r v).loops = q.loops := by unfold Seq.setS; split <;> rfl
@[simp] theorem Seq.setS_loopBuf (q : Seq) (r : SReg) (v : Word) : (q.setS r v).loopBuf = q.loopBuf := by unfold Seq.setS; split <;> rfl
@[simp] theorem Seq.setS_timecmp (q : Seq) (r : SReg) (v : Word) : (q.setS r v).timecmp = q.timecmp := by unfold Seq.setS; split <;> rfl
@[simp] theorem Seq.setS_strict (q : Seq) (r : SReg) (v : Word) : (q.setS r v).strict = q.strict := by unfold Seq.setS; split <;> rfl
@[simp] theorem Seq.setS_intrap (q : Seq) (r : SReg) (v : Word) : (q.setS r v).intrap = q.intrap := by unfold Seq.setS; split <;> rfl
@[simp] theorem Seq.setS_cause (q : Seq) (r : SReg) (v : Word) : (q.setS r v).cause = q.cause := by unfold Seq.setS; split <;> rfl
@[simp] theorem Seq.setS_epc (q : Seq) (r : SReg) (v : Word) : (q.setS r v).epc = q.epc := by unfold Seq.setS; split <;> rfl
@[simp] theorem Seq.setS_eval (q : Seq) (r : SReg) (v : Word) : (q.setS r v).eval = q.eval := by unfold Seq.setS; split <;> rfl
@[simp] theorem Seq.setS_tvec (q : Seq) (r : SReg) (v : Word) : (q.setS r v).tvec = q.tvec := by unfold Seq.setS; split <;> rfl
@[simp] theorem Seq.setS_stopped (q : Seq) (r : SReg) (v : Word) : (q.setS r v).stopped = q.stopped := by unfold Seq.setS; split <;> rfl
@[simp] theorem Seq.setS_tendPc (q : Seq) (r : SReg) (v : Word) : (q.setS r v).tendPc = q.tendPc := by unfold Seq.setS; split <;> rfl
@[simp] theorem Seq.setS_wait (q : Seq) (r : SReg) (v : Word) : (q.setS r v).wait = q.wait := by unfold Seq.setS; split <;> rfl
@[simp] theorem Seq.setS_held (q : Seq) (r : SReg) (v : Word) : (q.setS r v).held = q.held := by unfold Seq.setS; split <;> rfl
@[simp] theorem Seq.setS_failed (q : Seq) (r : SReg) (v : Word) : (q.setS r v).failed = q.failed := by unfold Seq.setS; split <;> rfl
@[simp] theorem Seq.setS_recFault (q : Seq) (r : SReg) (v : Word) : (q.setS r v).recFault = q.recFault := by unfold Seq.setS; split <;> rfl
@[simp] theorem Seq.setP_regs (q : Seq) (r : PReg) (v : Bool) : (q.setP r v).regs = q.regs := by unfold Seq.setP; split <;> rfl
@[simp] theorem Seq.setP_handles (q : Seq) (r : PReg) (v : Bool) : (q.setP r v).handles = q.handles := by unfold Seq.setP; split <;> rfl
@[simp] theorem Seq.setP_pc (q : Seq) (r : PReg) (v : Bool) : (q.setP r v).pc = q.pc := by unfold Seq.setP; split <;> rfl
@[simp] theorem Seq.setP_loops (q : Seq) (r : PReg) (v : Bool) : (q.setP r v).loops = q.loops := by unfold Seq.setP; split <;> rfl
@[simp] theorem Seq.setP_loopBuf (q : Seq) (r : PReg) (v : Bool) : (q.setP r v).loopBuf = q.loopBuf := by unfold Seq.setP; split <;> rfl
@[simp] theorem Seq.setP_timecmp (q : Seq) (r : PReg) (v : Bool) : (q.setP r v).timecmp = q.timecmp := by unfold Seq.setP; split <;> rfl
@[simp] theorem Seq.setP_strict (q : Seq) (r : PReg) (v : Bool) : (q.setP r v).strict = q.strict := by unfold Seq.setP; split <;> rfl
@[simp] theorem Seq.setP_intrap (q : Seq) (r : PReg) (v : Bool) : (q.setP r v).intrap = q.intrap := by unfold Seq.setP; split <;> rfl
@[simp] theorem Seq.setP_cause (q : Seq) (r : PReg) (v : Bool) : (q.setP r v).cause = q.cause := by unfold Seq.setP; split <;> rfl
@[simp] theorem Seq.setP_epc (q : Seq) (r : PReg) (v : Bool) : (q.setP r v).epc = q.epc := by unfold Seq.setP; split <;> rfl
@[simp] theorem Seq.setP_eval (q : Seq) (r : PReg) (v : Bool) : (q.setP r v).eval = q.eval := by unfold Seq.setP; split <;> rfl
@[simp] theorem Seq.setP_tvec (q : Seq) (r : PReg) (v : Bool) : (q.setP r v).tvec = q.tvec := by unfold Seq.setP; split <;> rfl
@[simp] theorem Seq.setP_stopped (q : Seq) (r : PReg) (v : Bool) : (q.setP r v).stopped = q.stopped := by unfold Seq.setP; split <;> rfl
@[simp] theorem Seq.setP_tendPc (q : Seq) (r : PReg) (v : Bool) : (q.setP r v).tendPc = q.tendPc := by unfold Seq.setP; split <;> rfl
@[simp] theorem Seq.setP_wait (q : Seq) (r : PReg) (v : Bool) : (q.setP r v).wait = q.wait := by unfold Seq.setP; split <;> rfl
@[simp] theorem Seq.setP_held (q : Seq) (r : PReg) (v : Bool) : (q.setP r v).held = q.held := by unfold Seq.setP; split <;> rfl
@[simp] theorem Seq.setP_failed (q : Seq) (r : PReg) (v : Bool) : (q.setP r v).failed = q.failed := by unfold Seq.setP; split <;> rfl
@[simp] theorem Seq.setP_recFault (q : Seq) (r : PReg) (v : Bool) : (q.setP r v).recFault = q.recFault := by unfold Seq.setP; split <;> rfl
@[simp] theorem Seq.setH_regs (q : Seq) (r : HReg) (v : BitVec 256) : (q.setH r v).regs = q.regs := rfl
@[simp] theorem Seq.setH_preds (q : Seq) (r : HReg) (v : BitVec 256) : (q.setH r v).preds = q.preds := rfl
@[simp] theorem Seq.setH_pc (q : Seq) (r : HReg) (v : BitVec 256) : (q.setH r v).pc = q.pc := rfl
@[simp] theorem Seq.setH_loops (q : Seq) (r : HReg) (v : BitVec 256) : (q.setH r v).loops = q.loops := rfl
@[simp] theorem Seq.setH_loopBuf (q : Seq) (r : HReg) (v : BitVec 256) : (q.setH r v).loopBuf = q.loopBuf := rfl
@[simp] theorem Seq.setH_timecmp (q : Seq) (r : HReg) (v : BitVec 256) : (q.setH r v).timecmp = q.timecmp := rfl
@[simp] theorem Seq.setH_strict (q : Seq) (r : HReg) (v : BitVec 256) : (q.setH r v).strict = q.strict := rfl
@[simp] theorem Seq.setH_intrap (q : Seq) (r : HReg) (v : BitVec 256) : (q.setH r v).intrap = q.intrap := rfl
@[simp] theorem Seq.setH_cause (q : Seq) (r : HReg) (v : BitVec 256) : (q.setH r v).cause = q.cause := rfl
@[simp] theorem Seq.setH_epc (q : Seq) (r : HReg) (v : BitVec 256) : (q.setH r v).epc = q.epc := rfl
@[simp] theorem Seq.setH_eval (q : Seq) (r : HReg) (v : BitVec 256) : (q.setH r v).eval = q.eval := rfl
@[simp] theorem Seq.setH_tvec (q : Seq) (r : HReg) (v : BitVec 256) : (q.setH r v).tvec = q.tvec := rfl
@[simp] theorem Seq.setH_stopped (q : Seq) (r : HReg) (v : BitVec 256) : (q.setH r v).stopped = q.stopped := rfl
@[simp] theorem Seq.setH_tendPc (q : Seq) (r : HReg) (v : BitVec 256) : (q.setH r v).tendPc = q.tendPc := rfl
@[simp] theorem Seq.setH_wait (q : Seq) (r : HReg) (v : BitVec 256) : (q.setH r v).wait = q.wait := rfl
@[simp] theorem Seq.setH_held (q : Seq) (r : HReg) (v : BitVec 256) : (q.setH r v).held = q.held := rfl
@[simp] theorem Seq.setH_failed (q : Seq) (r : HReg) (v : BitVec 256) : (q.setH r v).failed = q.failed := rfl
@[simp] theorem Seq.setH_recFault (q : Seq) (r : HReg) (v : BitVec 256) : (q.setH r v).recFault = q.recFault := rfl
@[simp] theorem Seq.setLoop_regs (q : Seq) (n : Nat) (l : Loop) : (q.setLoop n l).regs = q.regs := rfl
@[simp] theorem Seq.setLoop_preds (q : Seq) (n : Nat) (l : Loop) : (q.setLoop n l).preds = q.preds := rfl
@[simp] theorem Seq.setLoop_handles (q : Seq) (n : Nat) (l : Loop) : (q.setLoop n l).handles = q.handles := rfl
@[simp] theorem Seq.setLoop_pc (q : Seq) (n : Nat) (l : Loop) : (q.setLoop n l).pc = q.pc := rfl
@[simp] theorem Seq.setLoop_loopBuf (q : Seq) (n : Nat) (l : Loop) : (q.setLoop n l).loopBuf = q.loopBuf := rfl
@[simp] theorem Seq.setLoop_timecmp (q : Seq) (n : Nat) (l : Loop) : (q.setLoop n l).timecmp = q.timecmp := rfl
@[simp] theorem Seq.setLoop_strict (q : Seq) (n : Nat) (l : Loop) : (q.setLoop n l).strict = q.strict := rfl
@[simp] theorem Seq.setLoop_intrap (q : Seq) (n : Nat) (l : Loop) : (q.setLoop n l).intrap = q.intrap := rfl
@[simp] theorem Seq.setLoop_cause (q : Seq) (n : Nat) (l : Loop) : (q.setLoop n l).cause = q.cause := rfl
@[simp] theorem Seq.setLoop_epc (q : Seq) (n : Nat) (l : Loop) : (q.setLoop n l).epc = q.epc := rfl
@[simp] theorem Seq.setLoop_eval (q : Seq) (n : Nat) (l : Loop) : (q.setLoop n l).eval = q.eval := rfl
@[simp] theorem Seq.setLoop_tvec (q : Seq) (n : Nat) (l : Loop) : (q.setLoop n l).tvec = q.tvec := rfl
@[simp] theorem Seq.setLoop_stopped (q : Seq) (n : Nat) (l : Loop) : (q.setLoop n l).stopped = q.stopped := rfl
@[simp] theorem Seq.setLoop_tendPc (q : Seq) (n : Nat) (l : Loop) : (q.setLoop n l).tendPc = q.tendPc := rfl
@[simp] theorem Seq.setLoop_wait (q : Seq) (n : Nat) (l : Loop) : (q.setLoop n l).wait = q.wait := rfl
@[simp] theorem Seq.setLoop_held (q : Seq) (n : Nat) (l : Loop) : (q.setLoop n l).held = q.held := rfl
@[simp] theorem Seq.setLoop_failed (q : Seq) (n : Nat) (l : Loop) : (q.setLoop n l).failed = q.failed := rfl
@[simp] theorem Seq.setLoop_recFault (q : Seq) (n : Nat) (l : Loop) : (q.setLoop n l).recFault = q.recFault := rfl
@[simp] theorem Seq.prune_regs (q : Seq)  : (q.prune ).regs = q.regs := rfl
@[simp] theorem Seq.prune_preds (q : Seq)  : (q.prune ).preds = q.preds := rfl
@[simp] theorem Seq.prune_handles (q : Seq)  : (q.prune ).handles = q.handles := rfl
@[simp] theorem Seq.prune_pc (q : Seq)  : (q.prune ).pc = q.pc := rfl
@[simp] theorem Seq.prune_loops (q : Seq)  : (q.prune ).loops = q.loops := rfl
@[simp] theorem Seq.prune_timecmp (q : Seq)  : (q.prune ).timecmp = q.timecmp := rfl
@[simp] theorem Seq.prune_strict (q : Seq)  : (q.prune ).strict = q.strict := rfl
@[simp] theorem Seq.prune_intrap (q : Seq)  : (q.prune ).intrap = q.intrap := rfl
@[simp] theorem Seq.prune_cause (q : Seq)  : (q.prune ).cause = q.cause := rfl
@[simp] theorem Seq.prune_epc (q : Seq)  : (q.prune ).epc = q.epc := rfl
@[simp] theorem Seq.prune_eval (q : Seq)  : (q.prune ).eval = q.eval := rfl
@[simp] theorem Seq.prune_tvec (q : Seq)  : (q.prune ).tvec = q.tvec := rfl
@[simp] theorem Seq.prune_stopped (q : Seq)  : (q.prune ).stopped = q.stopped := rfl
@[simp] theorem Seq.prune_tendPc (q : Seq)  : (q.prune ).tendPc = q.tendPc := rfl
@[simp] theorem Seq.prune_wait (q : Seq)  : (q.prune ).wait = q.wait := rfl
@[simp] theorem Seq.prune_held (q : Seq)  : (q.prune ).held = q.held := rfl
@[simp] theorem Seq.prune_failed (q : Seq)  : (q.prune ).failed = q.failed := rfl
@[simp] theorem Seq.prune_recFault (q : Seq)  : (q.prune ).recFault = q.recFault := rfl

/-- The same sequencer but for where it stands: its pc, its loops and the words captured for them. -/
def Seq.FlowOnly (q q' : Seq) : Prop := q' = { q with pc := q'.pc, loops := q'.loops, loopBuf := q'.loopBuf }
theorem Seq.FlowOnly.trans {a b c : Seq} (h : a.FlowOnly b) (k : b.FlowOnly c) : a.FlowOnly c := by
  unfold Seq.FlowOnly at *; rw [h] at k; exact k
theorem Seq.flow_only (k : Nat) (q : Seq) (a : Word) : q.FlowOnly (Seq.flow k q a) := by
  induction k generalizing q with
  | zero => rfl
  | succ k ih =>
    simp only [Seq.flow]
    split
    · rfl
    · split
      · rfl
      · split
        · rfl
        · exact (ih _)
/-- Sequential flow moves the sequencer and changes nothing else of it (R89, R90). -/
theorem Seq.advance_only (q : Seq) (n : Nat) : q.FlowOnly (q.advance n) := by
  unfold Seq.advance
  simp only []
  split
  · rfl
  · exact Seq.flow_only _ _ _
theorem Seq.foldl_only {f : Seq → Nat → Seq} (h : ∀ (q : Seq) (n : Nat), q.FlowOnly (f q n)) (l : List Nat) (q : Seq) : q.FlowOnly (l.foldl f q) := by
  induction l generalizing q with
  | nil => rfl
  | cons n r ih => exact Seq.FlowOnly.trans (h q n) (ih _)
/-- A jump moves the sequencer and changes nothing else of it (R90). -/
theorem Seq.jump_only (q : Seq) (a : Word) : q.FlowOnly (q.jump a) := by
  unfold Seq.jump
  refine Seq.FlowOnly.trans (Seq.foldl_only (fun q n => ?_) _ q) rfl
  simp only []
  split <;> rfl
@[simp] theorem Seq.jump_pc (q : Seq) (a : Word) : (q.jump a).pc = a := rfl
@[simp] theorem Seq.advance_regs (q : Seq) (n : Nat) : (q.advance n).regs = q.regs := by rw [Seq.advance_only q n]
@[simp] theorem Seq.jump_regs (q : Seq) (a : Word) : (q.jump a).regs = q.regs := by rw [Seq.jump_only q a]
@[simp] theorem Seq.advance_preds (q : Seq) (n : Nat) : (q.advance n).preds = q.preds := by rw [Seq.advance_only q n]
@[simp] theorem Seq.jump_preds (q : Seq) (a : Word) : (q.jump a).preds = q.preds := by rw [Seq.jump_only q a]
@[simp] theorem Seq.advance_handles (q : Seq) (n : Nat) : (q.advance n).handles = q.handles := by rw [Seq.advance_only q n]
@[simp] theorem Seq.jump_handles (q : Seq) (a : Word) : (q.jump a).handles = q.handles := by rw [Seq.jump_only q a]
@[simp] theorem Seq.advance_timecmp (q : Seq) (n : Nat) : (q.advance n).timecmp = q.timecmp := by rw [Seq.advance_only q n]
@[simp] theorem Seq.jump_timecmp (q : Seq) (a : Word) : (q.jump a).timecmp = q.timecmp := by rw [Seq.jump_only q a]
@[simp] theorem Seq.advance_strict (q : Seq) (n : Nat) : (q.advance n).strict = q.strict := by rw [Seq.advance_only q n]
@[simp] theorem Seq.jump_strict (q : Seq) (a : Word) : (q.jump a).strict = q.strict := by rw [Seq.jump_only q a]
@[simp] theorem Seq.advance_intrap (q : Seq) (n : Nat) : (q.advance n).intrap = q.intrap := by rw [Seq.advance_only q n]
@[simp] theorem Seq.jump_intrap (q : Seq) (a : Word) : (q.jump a).intrap = q.intrap := by rw [Seq.jump_only q a]
@[simp] theorem Seq.advance_cause (q : Seq) (n : Nat) : (q.advance n).cause = q.cause := by rw [Seq.advance_only q n]
@[simp] theorem Seq.jump_cause (q : Seq) (a : Word) : (q.jump a).cause = q.cause := by rw [Seq.jump_only q a]
@[simp] theorem Seq.advance_epc (q : Seq) (n : Nat) : (q.advance n).epc = q.epc := by rw [Seq.advance_only q n]
@[simp] theorem Seq.jump_epc (q : Seq) (a : Word) : (q.jump a).epc = q.epc := by rw [Seq.jump_only q a]
@[simp] theorem Seq.advance_eval (q : Seq) (n : Nat) : (q.advance n).eval = q.eval := by rw [Seq.advance_only q n]
@[simp] theorem Seq.jump_eval (q : Seq) (a : Word) : (q.jump a).eval = q.eval := by rw [Seq.jump_only q a]
@[simp] theorem Seq.advance_tvec (q : Seq) (n : Nat) : (q.advance n).tvec = q.tvec := by rw [Seq.advance_only q n]
@[simp] theorem Seq.jump_tvec (q : Seq) (a : Word) : (q.jump a).tvec = q.tvec := by rw [Seq.jump_only q a]
@[simp] theorem Seq.advance_stopped (q : Seq) (n : Nat) : (q.advance n).stopped = q.stopped := by rw [Seq.advance_only q n]
@[simp] theorem Seq.jump_stopped (q : Seq) (a : Word) : (q.jump a).stopped = q.stopped := by rw [Seq.jump_only q a]
@[simp] theorem Seq.advance_tendPc (q : Seq) (n : Nat) : (q.advance n).tendPc = q.tendPc := by rw [Seq.advance_only q n]
@[simp] theorem Seq.jump_tendPc (q : Seq) (a : Word) : (q.jump a).tendPc = q.tendPc := by rw [Seq.jump_only q a]
@[simp] theorem Seq.advance_wait (q : Seq) (n : Nat) : (q.advance n).wait = q.wait := by rw [Seq.advance_only q n]
@[simp] theorem Seq.jump_wait (q : Seq) (a : Word) : (q.jump a).wait = q.wait := by rw [Seq.jump_only q a]
@[simp] theorem Seq.advance_held (q : Seq) (n : Nat) : (q.advance n).held = q.held := by rw [Seq.advance_only q n]
@[simp] theorem Seq.jump_held (q : Seq) (a : Word) : (q.jump a).held = q.held := by rw [Seq.jump_only q a]
@[simp] theorem Seq.advance_failed (q : Seq) (n : Nat) : (q.advance n).failed = q.failed := by rw [Seq.advance_only q n]
@[simp] theorem Seq.jump_failed (q : Seq) (a : Word) : (q.jump a).failed = q.failed := by rw [Seq.jump_only q a]
@[simp] theorem Seq.advance_recFault (q : Seq) (n : Nat) : (q.advance n).recFault = q.recFault := by rw [Seq.advance_only q n]
@[simp] theorem Seq.jump_recFault (q : Seq) (a : Word) : (q.jump a).recFault = q.recFault := by rw [Seq.jump_only q a]

end Sys2Proof.Machine
end

