-- ==== Sys2Proof/Laws/Ops.lean ====
section
/-! SUPPORT. What each shared operation does, once: guards, sequential flow, results, traps, charges, event records. -/

namespace Sys2Proof.Machine

/-- With a true guard the instruction does what it says (R23). -/
theorem State.guarded_true {s : State} {g : Guard} (h : s.q.guard g = true) (f : State → State) (n : Nat) :
    s.guarded g f n = .next (f s) := by
  unfold State.guarded; rw [h]; rfl
/-- With a false guard it only flows on (R23). -/
theorem State.guarded_false {s : State} {g : Guard} (h : s.q.guard g = false) (f : State → State) (n : Nat) :
    s.guarded g f n = .next (s.go n) := by
  unfold State.guarded; rw [h]; rfl

theorem State.go_q (s : State) (n : Nat) : (s.go n).q = ({ s.q with wait := none } : Seq).advance n := by simp [State.go]
theorem State.go_seq_ne (s : State) (n : Nat) {r : SeqRef} (h : r ≠ s.cur) : (s.go n).seq r = s.seq r :=
  s.seq_setQ_ne _ h
theorem State.ret_q (s : State) (d : SReg) (v : Word) :
    (s.ret d v).q = ({ s.q.setS d v with wait := none } : Seq).advance 8 := by simp [State.ret, State.go]
theorem State.retP_q (s : State) (d : PReg) (v : Bool) :
    (s.retP d v).q = ({ s.q.setP d v with wait := none } : Seq).advance 8 := by simp [State.retP, State.go]
theorem State.ret_seq_ne (s : State) (d : SReg) (v : Word) {r : SeqRef} (h : r ≠ s.cur) : (s.ret d v).seq r = s.seq r := by
  unfold State.ret State.go
  rw [State.seq_setQ_ne _ _ (by simpa using h), State.seq_setQ_ne _ _ h]
theorem State.retP_seq_ne (s : State) (d : PReg) (v : Bool) {r : SeqRef} (h : r ≠ s.cur) : (s.retP d v).seq r = s.seq r := by
  unfold State.retP State.go
  rw [State.seq_setQ_ne _ _ (by simpa using h), State.seq_setQ_ne _ _ h]

/-- Where sequential flow leads depends on the pc, the loops and INTRAP alone (R89). -/
theorem Seq.flow_congr (k : Nat) {q q' : Seq} (a : Word) (h2 : q'.loops = q.loops) (h3 : q'.loopBuf = q.loopBuf) :
    (Seq.flow k q' a).pc = (Seq.flow k q a).pc ∧ (Seq.flow k q' a).loops = (Seq.flow k q a).loops ∧
    (Seq.flow k q' a).loopBuf = (Seq.flow k q a).loopBuf := by
  induction k generalizing q q' with
  | zero => simp [Seq.flow, h2, h3]
  | succ k ih =>
    have hd : q'.deepest = q.deepest := by unfold Seq.deepest Seq.loopAt; rw [h2]
    have hl : ∀ n, q'.loopAt n = q.loopAt n := by intro n; unfold Seq.loopAt; rw [h2]
    simp only [Seq.flow, hd]
    split
    · simp [h2, h3]
    · simp only [hl]
      split
      · simp [h2, h3]
      · split
        · simp [Seq.setLoop, h2, h3]
        · apply ih
          · simp [Seq.setLoop, h2]
          · simp [Seq.setLoop, Seq.prune, h2, h3, Seq.loopAt]
theorem Seq.advance_congr {q q' : Seq} (n : Nat) (h1 : q'.pc = q.pc) (h2 : q'.loops = q.loops) (h3 : q'.loopBuf = q.loopBuf)
    (h4 : q'.intrap = q.intrap) :
    (q'.advance n).pc = (q.advance n).pc ∧ (q'.advance n).loops = (q.advance n).loops ∧
    (q'.advance n).loopBuf = (q.advance n).loopBuf := by
  unfold Seq.advance
  simp only [h1, h4]
  split
  · simp [h2, h3]
  · exact Seq.flow_congr _ _ h2 h3
/-- Without an active loop, or in a handler, sequential flow is to the next word (R89, R303). -/
theorem Seq.advance_straight {q : Seq} (n : Nat) (h : q.intrap = true ∨ q.deepest = none) :
    (q.advance n).pc = q.pc + BitVec.ofNat 64 n ∧ (q.advance n).loops = q.loops ∧ (q.advance n).loopBuf = q.loopBuf := by
  unfold Seq.advance
  simp only []
  rcases h with h | h
  · simp [h]
  · split
    · simp
    · simp [Seq.flow, h]

/-- Taking a trap with a handler (R303), where no machine check came due meanwhile. -/
theorem State.takeTrap_handled {s : State} {r : SeqRef} (code : Nat) (async : Bool) (epc eval : Word)
    (h1 : (s.seq r).intrap = false) (h2 : (s.seq r).tvec.getLsbD 0 = true)
    (h3 : ∀ h ∈ (s.seq r).held, h.code ≠ 0x20) :
    s.takeTrap r code async epc eval = (s.setSeq r { s.seq r with
      epc := epc &&& ~~~7, cause := BitVec.ofNat 9 (code + (if async then 256 else 0)), eval := eval,
      intrap := true, wait := none, timecmp := 0, pc := (s.seq r).tvec &&& ~~~7 }).closeLock r.slot := by
  have h4 : (s.seq r).held.find? (fun h => h.code == 0x20) = none := by simpa [List.find?_eq_none] using h3
  unfold State.takeTrap
  simp only [h1, h2, h4]
  simp
/-- Without a handler, or inside one, the task ends unhandled (R304). -/
theorem State.takeTrap_unhandled {s : State} {r : SeqRef} (code : Nat) (async : Bool) (epc eval : Word)
    (h : (s.seq r).intrap = true ∨ (s.seq r).tvec.getLsbD 0 = false) :
    s.takeTrap r code async epc eval = s.endUnhandled r code async epc eval := by
  unfold State.takeTrap
  rcases h with h | h <;> simp only [h] <;> simp
/-- A fatal machine check is never handled (R310). -/
theorem State.takeTrap_fatal (s : State) (r : SeqRef) (code : Nat) (async : Bool) (epc eval : Word) :
    s.takeTrap r code async epc eval true = s.endUnhandled r code async epc eval := by
  unfold State.takeTrap; simp
theorem State.closeLock_q (s : State) (k : Nat) : (s.closeLock k).q = s.q := by unfold State.closeLock; simp only []; split <;> rfl
theorem State.closeLock_slot (s : State) (k : Nat) : (s.closeLock k).slot k = { s.slot k with lockend := 0 } := by
  unfold State.closeLock
  simp only []
  split
  · next h => rw [← h]
  · simp
theorem State.closeLock_slot_ne (s : State) {k j : Nat} (h : j ≠ k) : (s.closeLock k).slot j = s.slot j := by
  unfold State.closeLock
  simp only []
  split
  · rfl
  · exact State.slot_setSlot_ne _ _ h
theorem State.closeLock_only (s : State) (k : Nat) : s.closeLock k = { s with slots := (s.closeLock k).slots } := by
  unfold State.closeLock; simp only []; split <;> rfl
/-- A return from a handler (R306). -/
theorem State.eretDo_handler {s : State} (h : s.q.intrap = true) :
    s.eretDo = s.setQ { s.q with intrap := false, pc := s.q.epc &&& ~~~7 } := by
  unfold State.eretDo; simp [h]

/-- A charge moves one account and nothing else (R290). -/
theorem State.charge_only (s : State) (ctx res k n : Nat) : s.charge ctx res k n = { s with ctxs := (s.charge ctx res k n).ctxs } := by
  unfold State.charge; split <;> rfl
theorem State.chargeT_only (s : State) (slot ctx res k n : Nat) :
    s.chargeT slot ctx res k n = { s with ctxs := (s.chargeT slot ctx res k n).ctxs } := by
  unfold State.chargeT
  generalize s.payers slot ctx n = l
  induction l generalizing s with
  | nil => rfl
  | cons e r ih =>
    simp only [List.foldl_cons]
    rw [ih, State.charge_only]
/-- An event record goes to the host, waits, or is counted as dropped; nothing else moves (R375). -/
theorem State.emit_only (s : State) (typ ctx : Nat) (p : List Byte) : s.emit typ ctx p =
    { s with out := (s.emit typ ctx p).out, eth := (s.emit typ ctx p).eth, preg := (s.emit typ ctx p).preg } := by
  unfold State.emit
  simp only []
  repeat' split
  all_goals rfl

/-- MULH is the high half of the signed 128-bit product (R80). -/
theorem mulHigh_eq (x y : Word) : mulHigh x y = (x.signExtend 128 * y.signExtend 128).extractLsb' 64 64 := by
  have h : (x.signExtend 128 * y.signExtend 128).toNat = (x.toInt * y.toInt % 2 ^ 128).toNat := by
    have e := BitVec.toNat_ofInt (n := 128) (x.toInt * y.toInt)
    rw [BitVec.ofInt_mul] at e
    have a : ∀ z : Word, BitVec.ofInt 128 z.toInt = z.signExtend 128 := by
      intro z; apply BitVec.eq_of_toInt_eq; rw [BitVec.toInt_ofInt, BitVec.toInt_signExtend_of_le (by decide)]
      have l := BitVec.toInt_lt (x := z); have k := BitVec.le_toInt (x := z)
      rw [Int.bmod_eq_of_le] <;> simp at * <;> omega
    rw [a, a] at e
    rw [e]; rfl
  unfold mulHigh
  apply BitVec.eq_of_toNat_eq
  rw [BitVec.toNat_ofInt, BitVec.extractLsb'_toNat, h, Nat.shiftRight_eq_div_pow]
  generalize x.toInt * y.toInt = p
  have h1 : 0 ≤ p % 2 ^ 128 := Int.emod_nonneg _ (by decide)
  have h2 : 0 ≤ p / 2 ^ 64 % 2 ^ 64 := Int.emod_nonneg _ (by decide)
  zify
  rw [Int.toNat_of_nonneg h1, Int.toNat_of_nonneg h2]
  omega

end Sys2Proof.Machine
end

