-- ==== Sys2Proof/Laws/PerInstr.lean ====
section
/-! SUPPORT. For every instruction: where it is a word of the sequencer and its operands are those that the encoding admits,
the encoder gives it a word, and the decoder reads that very instruction from it. -/

namespace Sys2Proof.Laws.Encoding

/-- The word of a well-formed instruction decodes to it. -/
def Statement (i : Instr) : Prop :=
  i.isWord = true → i.wf = true → ∃ w, encodeWord i = some w ∧ decode w (encodeLits i) = .ok i


section
variable (x6 y6 : BitVec 6) (x3 : BitVec 3) (x12 e : BitVec 12) (x8 k8 : BitVec 8) (x7 : BitVec 7) (h v : BitVec 16) (x5 : BitVec 5) (n4 : BitVec 4) (n2 q2 : BitVec 2)

@[simp] theorem imm6_field : BitVec.extractLsb' 0 6 (0#26 ++ x6 : BitVec 32) = x6 := by
  apply BitVec.eq_of_toNat_eq
  have := x6.isLt
  simp only [BitVec.extractLsb'_toNat, toNat_append_add, Nat.shiftRight_eq_div_pow, BitVec.toNat_ofNat, BitVec.toNat_ofBool]
  omega
@[simp] theorem imm6_toNat : (0#26 ++ x6 : BitVec 32).toNat = x6.toNat := by
  simp only [toNat_append_add, BitVec.toNat_ofNat]; omega
@[simp] theorem imm3_field : BitVec.extractLsb' 0 3 (0#29 ++ x3 : BitVec 32) = x3 := by
  apply BitVec.eq_of_toNat_eq
  have := x3.isLt
  simp only [BitVec.extractLsb'_toNat, toNat_append_add, Nat.shiftRight_eq_div_pow, BitVec.toNat_ofNat, BitVec.toNat_ofBool]
  omega
@[simp] theorem imm3_toNat : (0#29 ++ x3 : BitVec 32).toNat = x3.toNat := by
  simp only [toNat_append_add, BitVec.toNat_ofNat]; omega
@[simp] theorem imm12_field : BitVec.extractLsb' 0 12 (0#20 ++ x12 : BitVec 32) = x12 := by
  apply BitVec.eq_of_toNat_eq
  have := x12.isLt
  simp only [BitVec.extractLsb'_toNat, toNat_append_add, Nat.shiftRight_eq_div_pow, BitVec.toNat_ofNat, BitVec.toNat_ofBool]
  omega
@[simp] theorem imm12_toNat : (0#20 ++ x12 : BitVec 32).toNat = x12.toNat := by
  simp only [toNat_append_add, BitVec.toNat_ofNat]; omega
@[simp] theorem imm8_field : BitVec.extractLsb' 0 8 (0#24 ++ x8 : BitVec 32) = x8 := by
  apply BitVec.eq_of_toNat_eq
  have := x8.isLt
  simp only [BitVec.extractLsb'_toNat, toNat_append_add, Nat.shiftRight_eq_div_pow, BitVec.toNat_ofNat, BitVec.toNat_ofBool]
  omega
@[simp] theorem imm8_toNat : (0#24 ++ x8 : BitVec 32).toNat = x8.toNat := by
  simp only [toNat_append_add, BitVec.toNat_ofNat]; omega
@[simp] theorem imm7_field : BitVec.extractLsb' 0 7 (0#25 ++ x7 : BitVec 32) = x7 := by
  apply BitVec.eq_of_toNat_eq
  have := x7.isLt
  simp only [BitVec.extractLsb'_toNat, toNat_append_add, Nat.shiftRight_eq_div_pow, BitVec.toNat_ofNat, BitVec.toNat_ofBool]
  omega
@[simp] theorem imm7_toNat : (0#25 ++ x7 : BitVec 32).toNat = x7.toNat := by
  simp only [toNat_append_add, BitVec.toNat_ofNat]; omega
@[simp] theorem imm16_lo : BitVec.extractLsb' 0 16 (v ++ h : BitVec 32) = h := by
  apply BitVec.eq_of_toNat_eq
  have := h.isLt; have := v.isLt
  simp only [BitVec.extractLsb'_toNat, toNat_append_add, Nat.shiftRight_eq_div_pow, BitVec.toNat_ofNat, BitVec.toNat_ofBool]
  omega
@[simp] theorem imm16_hi : BitVec.extractLsb' 16 16 (v ++ h : BitVec 32) = v := by
  apply BitVec.eq_of_toNat_eq
  have := h.isLt; have := v.isLt
  simp only [BitVec.extractLsb'_toNat, toNat_append_add, Nat.shiftRight_eq_div_pow, BitVec.toNat_ofNat, BitVec.toNat_ofBool]
  omega
@[simp] theorem sem_k : BitVec.extractLsb' 0 8 (v ++ 0#8 ++ k8 : BitVec 32) = k8 := by
  apply BitVec.eq_of_toNat_eq
  have := k8.isLt; have := v.isLt
  simp only [BitVec.extractLsb'_toNat, toNat_append_add, Nat.shiftRight_eq_div_pow, BitVec.toNat_ofNat, BitVec.toNat_ofBool]
  omega
@[simp] theorem sem_mid : BitVec.extractLsb' 8 8 (v ++ 0#8 ++ k8 : BitVec 32) = 0#8 := by
  apply BitVec.eq_of_toNat_eq
  have := k8.isLt; have := v.isLt
  simp only [BitVec.extractLsb'_toNat, toNat_append_add, Nat.shiftRight_eq_div_pow, BitVec.toNat_ofNat, BitVec.toNat_ofBool]
  omega
@[simp] theorem sem_v : BitVec.extractLsb' 16 16 (v ++ 0#8 ++ k8 : BitVec 32) = v := by
  apply BitVec.eq_of_toNat_eq
  have := k8.isLt; have := v.isLt
  simp only [BitVec.extractLsb'_toNat, toNat_append_add, Nat.shiftRight_eq_div_pow, BitVec.toNat_ofNat, BitVec.toNat_ofBool]
  omega
@[simp] theorem sel_b : BitVec.extractLsb' 0 6 (0#21 ++ x3 ++ 0#2 ++ x6 : BitVec 32) = x6 := by
  apply BitVec.eq_of_toNat_eq
  have := x3.isLt; have := x6.isLt
  simp only [BitVec.extractLsb'_toNat, toNat_append_add, Nat.shiftRight_eq_div_pow, BitVec.toNat_ofNat, BitVec.toNat_ofBool]
  omega
@[simp] theorem sel_z : BitVec.extractLsb' 6 2 (0#21 ++ x3 ++ 0#2 ++ x6 : BitVec 32) = 0#2 := by
  apply BitVec.eq_of_toNat_eq
  have := x3.isLt; have := x6.isLt
  simp only [BitVec.extractLsb'_toNat, toNat_append_add, Nat.shiftRight_eq_div_pow, BitVec.toNat_ofNat, BitVec.toNat_ofBool]
  omega
@[simp] theorem sel_c : BitVec.extractLsb' 8 3 (0#21 ++ x3 ++ 0#2 ++ x6 : BitVec 32) = x3 := by
  apply BitVec.eq_of_toNat_eq
  have := x3.isLt; have := x6.isLt
  simp only [BitVec.extractLsb'_toNat, toNat_append_add, Nat.shiftRight_eq_div_pow, BitVec.toNat_ofNat, BitVec.toNat_ofBool]
  omega
@[simp] theorem sel_y : BitVec.extractLsb' 11 21 (0#21 ++ x3 ++ 0#2 ++ x6 : BitVec 32) = 0#21 := by
  apply BitVec.eq_of_toNat_eq
  have := x3.isLt; have := x6.isLt
  simp only [BitVec.extractLsb'_toNat, toNat_append_add, Nat.shiftRight_eq_div_pow, BitVec.toNat_ofNat, BitVec.toNat_ofBool]
  omega
@[simp] theorem pIx_encP : pIx (encP x3) = x3 := by
  apply BitVec.eq_of_toNat_eq
  have := x3.isLt
  simp only [BitVec.extractLsb'_toNat, toNat_append_add, Nat.shiftRight_eq_div_pow, BitVec.toNat_ofNat, BitVec.toNat_ofBool, pIx, encP]
  omega
@[simp] theorem hIx_encH : hIx (encH x5) = x5 := by
  apply BitVec.eq_of_toNat_eq
  have := x5.isLt
  simp only [BitVec.extractLsb'_toNat, toNat_append_add, Nat.shiftRight_eq_div_pow, BitVec.toNat_ofNat, BitVec.toNat_ofBool, hIx, encH]
  omega
@[simp] theorem pOk_encP : pOk (encP x3) = true := by revert x3; decide
@[simp] theorem hOk_encH : hOk (encH x5) = true := by revert x5; decide
@[simp] theorem lt3 : x3.toNat < 8 := x3.isLt
@[simp] theorem lt6 : x6.toNat < 64 := x6.isLt
@[simp] theorem lt2 : n2.toNat < 4 := n2.isLt
@[simp] theorem lt8 : x8.toNat < 256 := x8.isLt
@[simp] theorem lt12 : x12.toNat < 4096 := x12.isLt
theorem bfmt_csr : ∀ n : BitVec 4, n.toNat < 12 → (decide (0x110 ≤ (0x11#8 ++ n : BitVec 12).toNat) && decide ((0x11#8 ++ n : BitVec 12).toNat ≤ 0x11B)) = true
    ∧ BitVec.ofNat 4 ((0x11#8 ++ n : BitVec 12).toNat - 0x110) = n := by decide
@[simp] theorem csr_bfmt (hn : n4.toNat < 12) (g : Guard) (d a : SReg) (op : CsrOp) :
    decodeCsrWrite op g d a (0x11#8 ++ n4) = .bfmtWrite g op d a n4 := by
  obtain ⟨h1, h2⟩ := bfmt_csr n4 hn
  unfold decodeCsrWrite
  simp only [h1, h2, if_true]
theorem lce_csr : ∀ n : BitVec 2, n.toNat < 3 → (decide (0x110 ≤ (0x081#10 ++ n : BitVec 12).toNat) && decide ((0x081#10 ++ n : BitVec 12).toNat ≤ 0x11B)) = false
    ∧ ((0x081#10 ++ n : BitVec 12).toNat == 0x101) = false
    ∧ (decide (0x204 ≤ (0x081#10 ++ n : BitVec 12).toNat) && decide ((0x081#10 ++ n : BitVec 12).toNat ≤ 0x206)) = true
    ∧ BitVec.ofNat 2 ((0x081#10 ++ n : BitVec 12).toNat - 0x204) = n := by decide
@[simp] theorem csr_lce (hn : n2.toNat < 3) (g : Guard) (d a : SReg) (op : CsrOp) :
    decodeCsrWrite op g d a (0x081#10 ++ n2) = .lceWrite g op d a n2 := by
  obtain ⟨h1, h2, h3, h4⟩ := lce_csr n2 hn
  unfold decodeCsrWrite
  simp only [h1, h2, h3, h4, if_true, Bool.false_eq_true, if_false]
theorem csr_plain (hc : csrOwnRow x12 = false) (g : Guard) (d a : SReg) (op : CsrOp) :
    decodeCsrWrite op g d a x12 = (match op with | .w => .csrw g d a x12 | .s => .csrs g d a x12 | .c => .csrc g d a x12) := by
  simp only [csrOwnRow, Bool.or_eq_false_iff] at hc
  unfold decodeCsrWrite
  simp only [hc.1.1, hc.1.2, hc.2]
  rfl
@[simp] theorem known_bfmt (hn : n4.toNat < 12) : csrKnown (0x11#8 ++ n4) = true := by revert n4; decide
@[simp] theorem known_lce (hn : n2.toNat < 3) : csrKnown (0x081#10 ++ n2) = true := by revert n2; decide
@[simp] theorem aq_q : BitVec.extractLsb' 0 2 (0#4 ++ 0#2 ++ q2 : BitVec 8) = q2 := by revert q2; decide
@[simp] theorem loop_n : BitVec.extractLsb' 0 2 (0#4 ++ n2 : BitVec 6) = n2 := by
  apply BitVec.eq_of_toNat_eq
  have := n2.isLt
  simp only [BitVec.extractLsb'_toNat, toNat_append_add, Nat.shiftRight_eq_div_pow, BitVec.toNat_ofNat]; omega
@[simp] theorem loop_n_toNat : (0#4 ++ n2 : BitVec 6).toNat = n2.toNat := by
  simp only [toNat_append_add, BitVec.toNat_ofNat]; omega
@[simp] theorem vmode_use (r : Bool) : BitVec.extractLsb' 0 8 (0#23 ++ BitVec.ofBool r ++ x8 : BitVec 32) = x8 := by
  apply BitVec.eq_of_toNat_eq
  have := x8.isLt
  cases r <;> simp only [BitVec.extractLsb'_toNat, toNat_append_add, Nat.shiftRight_eq_div_pow, BitVec.toNat_ofNat, BitVec.toNat_ofBool, Bool.toNat_true, Bool.toNat_false] <;> omega
theorem vmode_toNat (r : Bool) : (0#23 ++ BitVec.ofBool r ++ x8 : BitVec 32).toNat = r.toNat * 256 + x8.toNat := by
  simp only [toNat_append_add, BitVec.toNat_ofNat, BitVec.toNat_ofBool]; omega
@[simp] theorem vmode_lt (r : Bool) : (0#23 ++ BitVec.ofBool r ++ x8 : BitVec 32).toNat < 512 := by
  have := x8.isLt
  rw [vmode_toNat]; cases r <;> simp <;> omega
@[simp] theorem vmode_gated (r : Bool) : BitVec.getLsbD (0#23 ++ BitVec.ofBool r ++ x8 : BitVec 32) 8 = r := by
  have := x8.isLt
  rw [BitVec.getLsbD, Nat.testBit_eq_decide_div_mod_eq, vmode_toNat]
  cases r <;> simp <;> omega
@[simp] theorem vmode_gated' (r : Bool) : (0#23 ++ BitVec.ofBool r ++ x8 : BitVec 32)[8] = r := vmode_gated x8 r
theorem decWidth_enc (w : Width) : decWidth (encWidth w) = w := by cases w <;> rfl
end

section
variable (w : Width) (c2 : BitVec 2) (s3 : BitVec 3) (dir : Bool) (g : Guard) (m : MemOp)
theorem modif_toNat : (BitVec.ofBool dir ++ encWidth w ++ c2 ++ s3 : BitVec 8).toNat = dir.toNat * 128 + (encWidth w).toNat * 32 + c2.toNat * 8 + s3.toNat := by
  simp only [toNat_append_add, BitVec.toNat_ofBool]; omega
theorem modif_dir : BitVec.getLsbD (BitVec.ofBool dir ++ encWidth w ++ c2 ++ s3 : BitVec 8) 7 = dir := by
  have := c2.isLt; have := s3.isLt; have := (encWidth w).isLt
  rw [BitVec.getLsbD, Nat.testBit_eq_decide_div_mod_eq, modif_toNat]
  cases dir <;> simp only [Bool.toNat_true, Bool.toNat_false, decide_eq_true_eq, decide_eq_false_iff_not] <;> omega
theorem modif_width : BitVec.extractLsb' 5 2 (BitVec.ofBool dir ++ encWidth w ++ c2 ++ s3 : BitVec 8) = encWidth w := by
  apply BitVec.eq_of_toNat_eq
  have := c2.isLt; have := s3.isLt; have := (encWidth w).isLt
  rw [BitVec.extractLsb'_toNat, modif_toNat, Nat.shiftRight_eq_div_pow]
  cases dir <;> simp only [Bool.toNat_true, Bool.toNat_false] <;> omega
theorem modif_cache : BitVec.extractLsb' 3 2 (BitVec.ofBool dir ++ encWidth w ++ c2 ++ s3 : BitVec 8) = c2 := by
  apply BitVec.eq_of_toNat_eq
  have := c2.isLt; have := s3.isLt; have := (encWidth w).isLt
  rw [BitVec.extractLsb'_toNat, modif_toNat, Nat.shiftRight_eq_div_pow]
  cases dir <;> simp only [Bool.toNat_true, Bool.toNat_false] <;> omega
theorem modif_scope : BitVec.extractLsb' 0 3 (BitVec.ofBool dir ++ encWidth w ++ c2 ++ s3 : BitVec 8) = s3 := by
  apply BitVec.eq_of_toNat_eq
  have := c2.isLt; have := s3.isLt; have := (encWidth w).isLt
  rw [BitVec.extractLsb'_toNat, modif_toNat, Nat.shiftRight_eq_div_pow]
  cases dir <;> simp only [Bool.toNat_true, Bool.toNat_false] <;> omega
/-- The fields of an access are read back (R25). -/
theorem decMem_encMem (major : BitVec 8) : decMem (encMem major dir g m) = m := by
  obtain ⟨w, d, b, ix, sc, ca, s, dp⟩ := m
  simp only [decMem, encMem, fModif_encM, fD_encM, fA_encM, fB_encM, fScale_encM, fDisp_encM, modif_width, modif_cache, modif_scope, decWidth_enc]
theorem dir_encMem (major : BitVec 8) : (fModif (encMem major dir g m)).getLsbD 7 = dir := by
  rw [encMem, fModif_encM, modif_dir]
theorem major_encMem (major : BitVec 8) : fMajor (encMem major dir g m) = major := by rw [encMem, fMajor_encM]
theorem guard_encMem (major : BitVec 8) : fGuard (encMem major dir g m) = g := by rw [encMem, fGuard_encM]
/-- An access is read back (R25, R34). -/
theorem decodeMem_encMem (major : BitVec 8) (ld st : Guard → MemOp → Instr) (i : Instr) (hi : (if dir then st g m else ld g m) = i)
    (hw : i.wf = true) : decodeMem (encMem major dir g m) ld st = .ok i := by
  simp only [decodeMem, decMem_encMem, dir_encMem, guard_encMem, checked, hi, hw]
  rfl
end

section
variable (op : BitVec 4) (sp : ASpace) (acq rel : Bool)
theorem amo_toNat : (op ++ encASpace sp ++ BitVec.ofBool acq ++ BitVec.ofBool rel : BitVec 8).toNat
    = op.toNat * 16 + (encASpace sp).toNat * 4 + acq.toNat * 2 + rel.toNat := by
  simp only [toNat_append_add, BitVec.toNat_ofBool]; omega
theorem amo_op : BitVec.extractLsb' 4 4 (op ++ encASpace sp ++ BitVec.ofBool acq ++ BitVec.ofBool rel : BitVec 8) = op := by
  apply BitVec.eq_of_toNat_eq
  have := op.isLt; have := (encASpace sp).isLt
  rw [BitVec.extractLsb'_toNat, amo_toNat, Nat.shiftRight_eq_div_pow]
  cases acq <;> cases rel <;> simp only [Bool.toNat_true, Bool.toNat_false] <;> omega
theorem amo_sp : BitVec.extractLsb' 2 2 (op ++ encASpace sp ++ BitVec.ofBool acq ++ BitVec.ofBool rel : BitVec 8) = encASpace sp := by
  apply BitVec.eq_of_toNat_eq
  have := op.isLt; have := (encASpace sp).isLt
  rw [BitVec.extractLsb'_toNat, amo_toNat, Nat.shiftRight_eq_div_pow]
  cases acq <;> cases rel <;> simp only [Bool.toNat_true, Bool.toNat_false] <;> omega
theorem amo_acq : BitVec.getLsbD (op ++ encASpace sp ++ BitVec.ofBool acq ++ BitVec.ofBool rel : BitVec 8) 1 = acq := by
  have := op.isLt; have := (encASpace sp).isLt
  rw [BitVec.getLsbD, Nat.testBit_eq_decide_div_mod_eq, amo_toNat]
  cases acq <;> cases rel <;> simp only [Bool.toNat_true, Bool.toNat_false, decide_eq_true_eq, decide_eq_false_iff_not] <;> omega
theorem amo_rel : BitVec.getLsbD (op ++ encASpace sp ++ BitVec.ofBool acq ++ BitVec.ofBool rel : BitVec 8) 0 = rel := by
  have := op.isLt; have := (encASpace sp).isLt
  rw [BitVec.getLsbD, Nat.testBit_eq_decide_div_mod_eq, amo_toNat]
  cases acq <;> cases rel <;> simp only [Bool.toNat_true, Bool.toNat_false, decide_eq_true_eq, decide_eq_false_iff_not] <;> omega
/-- The modifier, flags and fields of an AMO are read back (R26). -/
theorem decodeAmo_enc (g : Guard) (f : AmoFields) (ix : BitVec 6) :
    decodeAmo (encAmo g op f ix) = match op.toNat with
      | 0 => checked (ix == 0) true (.amo g .add f) | 1 => checked (ix == 0) true (.amo g .and f)
      | 2 => checked (ix == 0) true (.amo g .or f) | 3 => checked (ix == 0) true (.amo g .xor f)
      | 4 => checked (ix == 0) true (.amo g .min f) | 5 => checked (ix == 0) true (.amo g .max f)
      | 6 => checked (ix == 0) true (.amo g .minu f) | 7 => checked (ix == 0) true (.amo g .maxu f)
      | 8 => checked (ix == 0) true (.amo g .swap f) | 9 => checked true true (.amoCas g f ix)
      | 10 => checked true true (.amoClaim g f ix) | _ => .error .fn := by
  obtain ⟨wide, s, aq, rl, d, b, dp⟩ := f
  unfold decodeAmo encAmo
  simp only [fGuard_encM, fModif_encM, fB_encM, fD_encM, fA_encM, fScale_encM, fDisp_encM, amo_op, amo_sp, amo_acq, amo_rel]
  cases wide <;> cases s <;> rfl
end
section
variable (wide : Bool) (sp : ASpace) (cc : PCond)
theorem poll_toNat : (0#3 ++ BitVec.ofBool wide ++ encASpace sp ++ encPCond cc ++ 0#4 : BitVec 12).toNat
    = wide.toNat * 256 + (encASpace sp).toNat * 64 + (encPCond cc).toNat * 16 := by
  simp only [toNat_append_add, BitVec.toNat_ofBool, BitVec.toNat_ofNat]; omega
end

theorem nop (g : Guard) : Statement (.nop g) := by
  refine fun _ hw => ⟨_, rfl, ?_⟩
  rw [decode_major00 _ (by simp)]
  simp_all [decodeSys, checked]
theorem yield (g : Guard) : Statement (.yield g) := by
  refine fun _ hw => ⟨_, rfl, ?_⟩
  rw [decode_major00 _ (by simp)]
  simp_all [decodeSys, checked]
theorem halt (g : Guard) : Statement (.halt g) := by
  refine fun _ hw => ⟨_, rfl, ?_⟩
  rw [decode_major00 _ (by simp)]
  simp_all [decodeSys, checked]
theorem trap (g : Guard) (code : BitVec 32) : Statement (.trap g code) := by
  refine fun _ hw => ⟨_, rfl, ?_⟩
  rw [decode_major00 _ (by simp)]
  simp_all [decodeSys, checked]
theorem eret (g : Guard) : Statement (.eret g) := by
  refine fun _ hw => ⟨_, rfl, ?_⟩
  rw [decode_major00 _ (by simp)]
  simp_all [decodeSys, checked]
theorem bkpt (g : Guard) (code : BitVec 32) : Statement (.bkpt g code) := by
  refine fun _ hw => ⟨_, rfl, ?_⟩
  rw [decode_major00 _ (by simp)]
  simp_all [decodeSys, checked]
theorem csrr (g : Guard) (d : SReg) (csr : BitVec 12) : Statement (.csrr g d csr) := by
  refine fun _ hw => ⟨_, rfl, ?_⟩
  rw [decode_major00 _ (by rw [encCsr, fMajor_encB])]
  simp [Instr.wf] at hw
  simp_all [decodeSys, checked, encCsr]
theorem csrw (g : Guard) (d a : SReg) (csr : BitVec 12) : Statement (.csrw g d a csr) := by
  refine fun _ hw => ⟨_, rfl, ?_⟩
  rw [decode_major00 _ (by rw [encCsr, fMajor_encB])]
  simp [Instr.wf] at hw
  simp_all [decodeSys, checked, encCsr, csr_plain]
theorem csrs (g : Guard) (d a : SReg) (csr : BitVec 12) : Statement (.csrs g d a csr) := by
  refine fun _ hw => ⟨_, rfl, ?_⟩
  rw [decode_major00 _ (by rw [encCsr, fMajor_encB])]
  simp [Instr.wf] at hw
  simp_all [decodeSys, checked, encCsr, csr_plain]
theorem csrc (g : Guard) (d a : SReg) (csr : BitVec 12) : Statement (.csrc g d a csr) := by
  refine fun _ hw => ⟨_, rfl, ?_⟩
  rw [decode_major00 _ (by rw [encCsr, fMajor_encB])]
  simp [Instr.wf] at hw
  simp_all [decodeSys, checked, encCsr, csr_plain]
theorem bfmtWrite (g : Guard) (op : CsrOp) (d a : SReg) (n : BitVec 4) : Statement (.bfmtWrite g op d a n) := by
  refine fun _ hw => ⟨_, rfl, ?_⟩
  rw [decode_major00 _ (by rw [encCsr, fMajor_encB])]
  simp [Instr.wf] at hw
  cases op <;> simp_all [decodeSys, checked, encCsr, encCsrOp]
theorem vmodeCsrWrite (g : Guard) (op : CsrOp) (d a : SReg) : Statement (.vmodeCsrWrite g op d a) := by
  refine fun _ hw => ⟨_, rfl, ?_⟩
  rw [decode_major00 _ (by rw [encCsr, fMajor_encB])]
  cases op <;> simp_all [decodeSys, checked, encCsr, encCsrOp] <;> rfl
theorem lceWrite (g : Guard) (op : CsrOp) (d a : SReg) (n : BitVec 2) : Statement (.lceWrite g op d a n) := by
  refine fun _ hw => ⟨_, rfl, ?_⟩
  rw [decode_major00 _ (by rw [encCsr, fMajor_encB])]
  simp [Instr.wf] at hw
  cases op <;> simp_all [decodeSys, checked, encCsr, encCsrOp]
theorem add (g : Guard) (d a b : SReg) : Statement (.add g d a b) := by
  refine fun _ hw => ⟨_, rfl, ?_⟩
  rw [decode_major01 _ (by simp)]
  simp_all [decodeInt, checked]
theorem sub (g : Guard) (d a b : SReg) : Statement (.sub g d a b) := by
  refine fun _ hw => ⟨_, rfl, ?_⟩
  rw [decode_major01 _ (by simp)]
  simp_all [decodeInt, checked]
theorem mul (g : Guard) (d a b : SReg) : Statement (.mul g d a b) := by
  refine fun _ hw => ⟨_, rfl, ?_⟩
  rw [decode_major01 _ (by simp)]
  simp_all [decodeInt, checked]
theorem mulh (g : Guard) (d a b : SReg) : Statement (.mulh g d a b) := by
  refine fun _ hw => ⟨_, rfl, ?_⟩
  rw [decode_major01 _ (by simp)]
  simp_all [decodeInt, checked]
theorem mulhu (g : Guard) (d a b : SReg) : Statement (.mulhu g d a b) := by
  refine fun _ hw => ⟨_, rfl, ?_⟩
  rw [decode_major01 _ (by simp)]
  simp_all [decodeInt, checked]
theorem madd (g : Guard) (d a b c : SReg) : Statement (.madd g d a b c) := by
  refine fun _ hw => ⟨_, rfl, ?_⟩
  rw [decode_major01 _ (by simp)]
  simp_all [decodeInt, checked]
theorem div (g : Guard) (d a b : SReg) : Statement (.div g d a b) := by
  refine fun _ hw => ⟨_, rfl, ?_⟩
  rw [decode_major01 _ (by simp)]
  simp_all [decodeInt, checked]
theorem divu (g : Guard) (d a b : SReg) : Statement (.divu g d a b) := by
  refine fun _ hw => ⟨_, rfl, ?_⟩
  rw [decode_major01 _ (by simp)]
  simp_all [decodeInt, checked]
theorem rem (g : Guard) (d a b : SReg) : Statement (.rem g d a b) := by
  refine fun _ hw => ⟨_, rfl, ?_⟩
  rw [decode_major01 _ (by simp)]
  simp_all [decodeInt, checked]
theorem remu (g : Guard) (d a b : SReg) : Statement (.remu g d a b) := by
  refine fun _ hw => ⟨_, rfl, ?_⟩
  rw [decode_major01 _ (by simp)]
  simp_all [decodeInt, checked]
theorem and (g : Guard) (d a b : SReg) : Statement (.and g d a b) := by
  refine fun _ hw => ⟨_, rfl, ?_⟩
  rw [decode_major01 _ (by simp)]
  simp_all [decodeInt, checked]
theorem or (g : Guard) (d a b : SReg) : Statement (.or g d a b) := by
  refine fun _ hw => ⟨_, rfl, ?_⟩
  rw [decode_major01 _ (by simp)]
  simp_all [decodeInt, checked]
theorem xor (g : Guard) (d a b : SReg) : Statement (.xor g d a b) := by
  refine fun _ hw => ⟨_, rfl, ?_⟩
  rw [decode_major01 _ (by simp)]
  simp_all [decodeInt, checked]
theorem andn (g : Guard) (d a b : SReg) : Statement (.andn g d a b) := by
  refine fun _ hw => ⟨_, rfl, ?_⟩
  rw [decode_major01 _ (by simp)]
  simp_all [decodeInt, checked]
theorem sll (g : Guard) (d a b : SReg) : Statement (.sll g d a b) := by
  refine fun _ hw => ⟨_, rfl, ?_⟩
  rw [decode_major01 _ (by simp)]
  simp_all [decodeInt, checked]
theorem srl (g : Guard) (d a b : SReg) : Statement (.srl g d a b) := by
  refine fun _ hw => ⟨_, rfl, ?_⟩
  rw [decode_major01 _ (by simp)]
  simp_all [decodeInt, checked]
theorem sra (g : Guard) (d a b : SReg) : Statement (.sra g d a b) := by
  refine fun _ hw => ⟨_, rfl, ?_⟩
  rw [decode_major01 _ (by simp)]
  simp_all [decodeInt, checked]
theorem rotr (g : Guard) (d a b : SReg) : Statement (.rotr g d a b) := by
  refine fun _ hw => ⟨_, rfl, ?_⟩
  rw [decode_major01 _ (by simp)]
  simp_all [decodeInt, checked]
theorem min (g : Guard) (d a b : SReg) : Statement (.min g d a b) := by
  refine fun _ hw => ⟨_, rfl, ?_⟩
  rw [decode_major01 _ (by simp)]
  simp_all [decodeInt, checked]
theorem max (g : Guard) (d a b : SReg) : Statement (.max g d a b) := by
  refine fun _ hw => ⟨_, rfl, ?_⟩
  rw [decode_major01 _ (by simp)]
  simp_all [decodeInt, checked]
theorem minu (g : Guard) (d a b : SReg) : Statement (.minu g d a b) := by
  refine fun _ hw => ⟨_, rfl, ?_⟩
  rw [decode_major01 _ (by simp)]
  simp_all [decodeInt, checked]
theorem maxu (g : Guard) (d a b : SReg) : Statement (.maxu g d a b) := by
  refine fun _ hw => ⟨_, rfl, ?_⟩
  rw [decode_major01 _ (by simp)]
  simp_all [decodeInt, checked]
theorem clz (g : Guard) (w : Width) (d a : SReg) : Statement (.clz g w d a) := by
  refine fun _ hw => ⟨_, rfl, ?_⟩
  rw [decode_major01 _ (by simp)]
  cases w <;> simp_all [decodeInt, checked, encWidth]
theorem ctz (g : Guard) (w : Width) (d a : SReg) : Statement (.ctz g w d a) := by
  refine fun _ hw => ⟨_, rfl, ?_⟩
  rw [decode_major01 _ (by simp)]
  cases w <;> simp_all [decodeInt, checked, encWidth]
theorem popc (g : Guard) (w : Width) (d a : SReg) : Statement (.popc g w d a) := by
  refine fun _ hw => ⟨_, rfl, ?_⟩
  rw [decode_major01 _ (by simp)]
  cases w <;> simp_all [decodeInt, checked, encWidth]
theorem sext (g : Guard) (w : Width) (d a : SReg) : Statement (.sext g w d a) := by
  refine fun _ hw => ⟨_, rfl, ?_⟩
  rw [decode_major01 _ (by simp)]
  simp [Instr.wf] at hw
  cases w <;> simp_all [decodeInt, checked, encWidth]
theorem zext (g : Guard) (w : Width) (d a : SReg) : Statement (.zext g w d a) := by
  refine fun _ hw => ⟨_, rfl, ?_⟩
  rw [decode_major01 _ (by simp)]
  simp [Instr.wf] at hw
  cases w <;> simp_all [decodeInt, checked, encWidth]
theorem addi (g : Guard) (d a : SReg) (imm : BitVec 32) : Statement (.addi g d a imm) := by
  refine fun _ hw => ⟨_, rfl, ?_⟩
  rw [decode_major02 _ (by simp)]
  simp_all [decodeImm, checked]
theorem andi (g : Guard) (d a : SReg) (imm : BitVec 32) : Statement (.andi g d a imm) := by
  refine fun _ hw => ⟨_, rfl, ?_⟩
  rw [decode_major02 _ (by simp)]
  simp_all [decodeImm, checked]
theorem ori (g : Guard) (d a : SReg) (imm : BitVec 32) : Statement (.ori g d a imm) := by
  refine fun _ hw => ⟨_, rfl, ?_⟩
  rw [decode_major02 _ (by simp)]
  simp_all [decodeImm, checked]
theorem xori (g : Guard) (d a : SReg) (imm : BitVec 32) : Statement (.xori g d a imm) := by
  refine fun _ hw => ⟨_, rfl, ?_⟩
  rw [decode_major02 _ (by simp)]
  simp_all [decodeImm, checked]
theorem slli (g : Guard) (d a : SReg) (sh : BitVec 6) : Statement (.slli g d a sh) := by
  refine fun _ hw => ⟨_, rfl, ?_⟩
  rw [decode_major02 _ (by simp)]
  simp_all [decodeImm, checked]
theorem srli (g : Guard) (d a : SReg) (sh : BitVec 6) : Statement (.srli g d a sh) := by
  refine fun _ hw => ⟨_, rfl, ?_⟩
  rw [decode_major02 _ (by simp)]
  simp_all [decodeImm, checked]
theorem srai (g : Guard) (d a : SReg) (sh : BitVec 6) : Statement (.srai g d a sh) := by
  refine fun _ hw => ⟨_, rfl, ?_⟩
  rw [decode_major02 _ (by simp)]
  simp_all [decodeImm, checked]
theorem muli (g : Guard) (d a : SReg) (imm : BitVec 32) : Statement (.muli g d a imm) := by
  refine fun _ hw => ⟨_, rfl, ?_⟩
  rw [decode_major02 _ (by simp)]
  simp_all [decodeImm, checked]
theorem li (g : Guard) (d : SReg) (imm : BitVec 32) : Statement (.li g d imm) := by
  refine fun _ hw => ⟨_, rfl, ?_⟩
  rw [decode_major02 _ (by simp)]
  simp_all [decodeImm, checked]
theorem lih (g : Guard) (d : SReg) (imm : BitVec 32) : Statement (.lih g d imm) := by
  refine fun _ hw => ⟨_, rfl, ?_⟩
  rw [decode_major02 _ (by simp)]
  simp_all [decodeImm, checked]
theorem mini (g : Guard) (d a : SReg) (imm : BitVec 32) : Statement (.mini g d a imm) := by
  refine fun _ hw => ⟨_, rfl, ?_⟩
  rw [decode_major02 _ (by simp)]
  simp_all [decodeImm, checked]
theorem maxi (g : Guard) (d a : SReg) (imm : BitVec 32) : Statement (.maxi g d a imm) := by
  refine fun _ hw => ⟨_, rfl, ?_⟩
  rw [decode_major02 _ (by simp)]
  simp_all [decodeImm, checked]
theorem cmp (g : Guard) (cc : Cond) (d : PReg) (a b : SReg) : Statement (.cmp g cc d a b) := by
  refine fun _ hw => ⟨_, rfl, ?_⟩
  rw [decode_major03 _ (by simp)]
  cases cc <;> simp_all [decodeCmp, checked, encCond, decCond]
theorem cmpi (g : Guard) (cc : Cond) (d : PReg) (a : SReg) (imm : BitVec 32) : Statement (.cmpi g cc d a imm) := by
  refine fun _ hw => ⟨_, rfl, ?_⟩
  rw [decode_major03 _ (by simp)]
  cases cc <;> simp_all [decodeCmp, checked, encCond, decCond]
theorem pand (g : Guard) (d a b : PReg) : Statement (.pand g d a b) := by
  refine fun _ hw => ⟨_, rfl, ?_⟩
  rw [decode_major03 _ (by simp)]
  simp_all [decodeCmp, checked]
theorem por (g : Guard) (d a b : PReg) : Statement (.por g d a b) := by
  refine fun _ hw => ⟨_, rfl, ?_⟩
  rw [decode_major03 _ (by simp)]
  simp_all [decodeCmp, checked]
theorem pxor (g : Guard) (d a b : PReg) : Statement (.pxor g d a b) := by
  refine fun _ hw => ⟨_, rfl, ?_⟩
  rw [decode_major03 _ (by simp)]
  simp_all [decodeCmp, checked]
theorem pnot (g : Guard) (d a : PReg) : Statement (.pnot g d a) := by
  refine fun _ hw => ⟨_, rfl, ?_⟩
  rw [decode_major03 _ (by simp)]
  simp_all [decodeCmp, checked]
theorem pset (g : Guard) (d : PReg) (a : SReg) : Statement (.pset g d a) := by
  refine fun _ hw => ⟨_, rfl, ?_⟩
  rw [decode_major03 _ (by simp)]
  simp_all [decodeCmp, checked]
theorem pget (g : Guard) (d : SReg) (a : PReg) : Statement (.pget g d a) := by
  refine fun _ hw => ⟨_, rfl, ?_⟩
  rw [decode_major03 _ (by simp)]
  simp_all [decodeCmp, checked]
theorem sel (g : Guard) (d a b : SReg) (c : PReg) : Statement (.sel g d a b c) := by
  refine fun _ hw => ⟨_, rfl, ?_⟩
  rw [decode_major03 _ (by simp)]
  simp_all [decodeCmp, checked]
theorem fadd (g : Guard) (rm : Rm) (d a b : SReg) : Statement (.fadd g rm d a b) := by
  refine fun _ hw => ⟨_, rfl, ?_⟩
  rw [decode_major04 _ (by simp)]
  cases rm <;> simp_all [decodeFp, checked, encFpFn, encRm, decRm]
theorem fsub (g : Guard) (rm : Rm) (d a b : SReg) : Statement (.fsub g rm d a b) := by
  refine fun _ hw => ⟨_, rfl, ?_⟩
  rw [decode_major04 _ (by simp)]
  cases rm <;> simp_all [decodeFp, checked, encFpFn, encRm, decRm]
theorem fmul (g : Guard) (rm : Rm) (d a b : SReg) : Statement (.fmul g rm d a b) := by
  refine fun _ hw => ⟨_, rfl, ?_⟩
  rw [decode_major04 _ (by simp)]
  cases rm <;> simp_all [decodeFp, checked, encFpFn, encRm, decRm]
theorem ffma (g : Guard) (rm : Rm) (d a b c : SReg) : Statement (.ffma g rm d a b c) := by
  refine fun _ hw => ⟨_, rfl, ?_⟩
  rw [decode_major04 _ (by simp)]
  cases rm <;> simp_all [decodeFp, checked, encFpFn, encRm, decRm]
theorem fmin (g : Guard) (d a b : SReg) : Statement (.fmin g d a b) := by
  refine fun _ hw => ⟨_, rfl, ?_⟩
  rw [decode_major04 _ (by simp)]
  simp_all [decodeFp, checked]
theorem fmax (g : Guard) (d a b : SReg) : Statement (.fmax g d a b) := by
  refine fun _ hw => ⟨_, rfl, ?_⟩
  rw [decode_major04 _ (by simp)]
  simp_all [decodeFp, checked]
theorem fabs (g : Guard) (d a : SReg) : Statement (.fabs g d a) := by
  refine fun _ hw => ⟨_, rfl, ?_⟩
  rw [decode_major04 _ (by simp)]
  simp_all [decodeFp, checked]
theorem fneg (g : Guard) (d a : SReg) : Statement (.fneg g d a) := by
  refine fun _ hw => ⟨_, rfl, ?_⟩
  rw [decode_major04 _ (by simp)]
  simp_all [decodeFp, checked]
theorem fcmp (g : Guard) (cc : FCond) (d : PReg) (a b : SReg) : Statement (.fcmp g cc d a b) := by
  refine fun _ hw => ⟨_, rfl, ?_⟩
  rw [decode_major04 _ (by simp)]
  cases cc <;> simp_all [decodeFp, checked, encFCond]
theorem fcvtFi (g : Guard) (rm : Rm) (d a : SReg) : Statement (.fcvtFi g rm d a) := by
  refine fun _ hw => ⟨_, rfl, ?_⟩
  rw [decode_major04 _ (by simp)]
  cases rm <;> simp_all [decodeFp, checked, encFpFn, encRm, decRm]
theorem fcvtIf (g : Guard) (rm : Rm) (d a : SReg) : Statement (.fcvtIf g rm d a) := by
  refine fun _ hw => ⟨_, rfl, ?_⟩
  rw [decode_major04 _ (by simp)]
  cases rm <;> simp_all [decodeFp, checked, encFpFn, encRm, decRm]
theorem br (g : Guard) (off : BitVec 32) : Statement (.br g off) := by
  refine fun _ hw => ⟨_, rfl, ?_⟩
  rw [decode_major05 _ (by simp)]
  simp_all [decodeCtl, checked]
theorem jal (g : Guard) (link : SReg) (off : BitVec 32) : Statement (.jal g link off) := by
  refine fun _ hw => ⟨_, rfl, ?_⟩
  rw [decode_major05 _ (by simp)]
  simp_all [decodeCtl, checked]
theorem jalr (g : Guard) (link a : SReg) (off : BitVec 32) : Statement (.jalr g link a off) := by
  refine fun _ hw => ⟨_, rfl, ?_⟩
  rw [decode_major05 _ (by simp)]
  simp_all [decodeCtl, checked]
theorem loop (g : Guard) (n : BitVec 2) (a : SReg) (fin : BitVec 16) : Statement (.loop g n a fin) := by
  refine fun _ hw => ⟨_, rfl, ?_⟩
  rw [decode_major05 _ (by simp)]
  simp [Instr.wf] at hw
  simp_all [decodeCtl, checked]
theorem loopi (g : Guard) (n : BitVec 2) (cnt fin : BitVec 16) : Statement (.loopi g n cnt fin) := by
  refine fun _ hw => ⟨_, rfl, ?_⟩
  rw [decode_major05 _ (by simp)]
  simp [Instr.wf] at hw
  simp_all [decodeCtl, checked]
theorem ldsp (g : Guard) (m : MemOp) : Statement (.ldsp g m) := by
  refine fun _ hw => ⟨_, rfl, ?_⟩
  rw [decode_major08 _ (by exact major_encMem ..)]
  exact decodeMem_encMem _ _ _ _ _ _ _ rfl hw
theorem stsp (g : Guard) (m : MemOp) : Statement (.stsp g m) := by
  refine fun _ hw => ⟨_, rfl, ?_⟩
  rw [decode_major08 _ (by exact major_encMem ..)]
  exact decodeMem_encMem _ _ _ _ _ _ _ rfl hw
theorem ldds (g : Guard) (m : MemOp) : Statement (.ldds g m) := by
  refine fun _ hw => ⟨_, rfl, ?_⟩
  rw [decode_major09 _ (by exact major_encMem ..)]
  exact decodeMem_encMem _ _ _ _ _ _ _ rfl hw
theorem stds (g : Guard) (m : MemOp) : Statement (.stds g m) := by
  refine fun _ hw => ⟨_, rfl, ?_⟩
  rw [decode_major09 _ (by exact major_encMem ..)]
  exact decodeMem_encMem _ _ _ _ _ _ _ rfl hw
theorem ldg (g : Guard) (m : MemOp) : Statement (.ldg g m) := by
  refine fun _ hw => ⟨_, rfl, ?_⟩
  rw [decode_major0A _ (by exact major_encMem ..)]
  exact decodeMem_encMem _ _ _ _ _ _ _ rfl hw
theorem stg (g : Guard) (m : MemOp) : Statement (.stg g m) := by
  refine fun _ hw => ⟨_, rfl, ?_⟩
  rw [decode_major0A _ (by exact major_encMem ..)]
  exact decodeMem_encMem _ _ _ _ _ _ _ rfl hw
theorem ldf (g : Guard) (m : MemOp) : Statement (.ldf g m) := by
  refine fun _ hw => ⟨_, rfl, ?_⟩
  rw [decode_major0B _ (by exact major_encMem ..)]
  exact decodeMem_encMem _ _ _ _ _ _ _ rfl hw
theorem stf (g : Guard) (m : MemOp) : Statement (.stf g m) := by
  refine fun _ hw => ⟨_, rfl, ?_⟩
  rw [decode_major0B _ (by exact major_encMem ..)]
  exact decodeMem_encMem _ _ _ _ _ _ _ (by simp [Instr.wf, memOk] at hw; have e : m.cache = 0 := BitVec.eq_of_toNat_eq hw.2; simp [decodeStf, e]) hw
theorem stfFlag (g : Guard) (m : MemOp) : Statement (.stfFlag g m) := by
  refine fun _ hw => ⟨_, rfl, ?_⟩
  rw [decode_major0B _ (by exact major_encMem ..)]
  exact decodeMem_encMem _ _ _ _ _ _ _ (by simp [Instr.wf, memOk] at hw; have e : m.cache = 1 := BitVec.eq_of_toNat_eq (by simp; omega); simp [decodeStf, e]) hw
theorem ldn (g : Guard) (m : MemOp) : Statement (.ldn g m) := by
  refine fun _ hw => ⟨_, rfl, ?_⟩
  rw [decode_major0C _ (by exact major_encMem ..)]
  exact decodeMem_encMem _ _ _ _ _ _ _ rfl hw
theorem stn (g : Guard) (m : MemOp) : Statement (.stn g m) := by
  refine fun _ hw => ⟨_, rfl, ?_⟩
  rw [decode_major0C _ (by exact major_encMem ..)]
  exact decodeMem_encMem _ _ _ _ _ _ _ rfl hw
theorem ldh (g : Guard) (m : MemOp) : Statement (.ldh g m) := by
  refine fun _ hw => ⟨_, rfl, ?_⟩
  rw [decode_major0D _ (by exact major_encMem ..)]
  exact decodeMem_encMem _ _ _ _ _ _ _ rfl hw
theorem sth (g : Guard) (m : MemOp) : Statement (.sth g m) := by
  refine fun _ hw => ⟨_, rfl, ?_⟩
  rw [decode_major0D _ (by exact major_encMem ..)]
  exact decodeMem_encMem _ _ _ _ _ _ _ rfl hw
theorem amo (g : Guard) (op : AmoOp) (f : AmoFields) : Statement (.amo g op f) := by
  refine fun _ hw => ⟨_, rfl, ?_⟩
  rw [decode_major10 _ (by rw [encAmo, fMajor_encM]; try rfl)]
  rw [decodeAmo_enc]; first | rfl | (cases op <;> rfl)
theorem amoCas (g : Guard) (f : AmoFields) (cmp : SReg) : Statement (.amoCas g f cmp) := by
  refine fun _ hw => ⟨_, rfl, ?_⟩
  rw [decode_major10 _ (by rw [encAmo, fMajor_encM]; try rfl)]
  rw [decodeAmo_enc]; first | rfl | (cases op <;> rfl)
theorem amoClaim (g : Guard) (f : AmoFields) (lim : SReg) : Statement (.amoClaim g f lim) := by
  refine fun _ hw => ⟨_, rfl, ?_⟩
  rw [decode_major10 _ (by rw [encAmo, fMajor_encM]; try rfl)]
  rw [decodeAmo_enc]; first | rfl | (cases op <;> rfl)
theorem fence (g : Guard) (d : SReg) (scope : BitVec 3) : Statement (.fence g d scope) := by
  refine fun _ hw => ⟨_, rfl, ?_⟩
  rw [decode_major11 _ (by simp)]
  simp [Instr.wf] at hw
  simp_all [decodeFence, checked]
theorem fenceComplete (q : SeqRef) : Statement (.fenceComplete q) := fun h => nomatch h
theorem fenceE (g : Guard) (d : SReg) : Statement (.fenceE g d) := by
  refine fun _ hw => ⟨_, rfl, ?_⟩
  rw [decode_major11 _ (by simp)]
  simp_all [decodeFence, checked]
theorem fenceEComplete (q : SeqRef) : Statement (.fenceEComplete q) := fun h => nomatch h
theorem seminit (g : Guard) (a : SReg) (k : BitVec 8) (v : BitVec 16) : Statement (.seminit g a k v) := by
  refine fun _ hw => ⟨_, rfl, ?_⟩
  rw [decode_major12 _ (by rw [encSem, fMajor_encB])]
  simp_all [decodeSem, checked, encSem]
theorem semsig (g : Guard) (a : SReg) (k : BitVec 8) (v : BitVec 16) : Statement (.semsig g a k v) := by
  refine fun _ hw => ⟨_, rfl, ?_⟩
  rw [decode_major12 _ (by rw [encSem, fMajor_encB])]
  simp_all [decodeSem, checked, encSem]
theorem semwait (g : Guard) (a : SReg) (k : BitVec 8) (v : BitVec 16) : Statement (.semwait g a k v) := by
  refine fun _ hw => ⟨_, rfl, ?_⟩
  rw [decode_major12 _ (by rw [encSem, fMajor_encB])]
  simp_all [decodeSem, checked, encSem]
theorem semwaitPass (q : SeqRef) : Statement (.semwaitPass q) := fun h => nomatch h
theorem semrd (g : Guard) (d : SReg) (k : BitVec 8) : Statement (.semrd g d k) := by
  refine fun _ hw => ⟨_, rfl, ?_⟩
  rw [decode_major12 _ (by rw [encSem, fMajor_encB])]
  simp_all [decodeSem, checked, encSem]
theorem semtry (g : Guard) (d a : SReg) (k : BitVec 8) (v : BitVec 16) : Statement (.semtry g d a k v) := by
  refine fun _ hw => ⟨_, rfl, ?_⟩
  rw [decode_major12 _ (by rw [encSem, fMajor_encB])]
  simp_all [decodeSem, checked, encSem]
theorem aqpush (g : Guard) (q : BitVec 2) (a : SReg) : Statement (.aqpush g q a) := by
  refine fun _ hw => ⟨_, rfl, ?_⟩
  rw [decode_major13 _ (by rw [encAq, fMajor_encB])]
  simp [Instr.wf] at hw
  obtain ⟨q⟩ := q
  fin_cases q <;> simp_all [decodeAq, checked, encAq, pOk]
theorem aqpushRoom (q : SeqRef) : Statement (.aqpushRoom q) := fun h => nomatch h
theorem aqpop (g : Guard) (q : BitVec 2) (d : SReg) : Statement (.aqpop g q d) := by
  refine fun _ hw => ⟨_, rfl, ?_⟩
  rw [decode_major13 _ (by rw [encAq, fMajor_encB])]
  simp [Instr.wf] at hw
  obtain ⟨q⟩ := q
  fin_cases q <;> simp_all [decodeAq, checked, encAq, pOk]
theorem aqpopData (q : SeqRef) : Statement (.aqpopData q) := fun h => nomatch h
theorem aqbr (g : Guard) (off : BitVec 32) : Statement (.aqbr g off) := by
  refine fun _ hw => ⟨_, rfl, ?_⟩
  rw [decode_major13 _ (by rw [encAq, fMajor_encB])]
  simp_all [decodeAq, checked, encAq]
theorem time (g : Guard) (d : SReg) : Statement (.time g d) := by
  refine fun _ hw => ⟨_, rfl, ?_⟩
  rw [decode_major14 _ (by simp)]
  simp_all [decodeTime, checked]
theorem waitt (g : Guard) (a : SReg) : Statement (.waitt g a) := by
  refine fun _ hw => ⟨_, rfl, ?_⟩
  rw [decode_major14 _ (by simp)]
  simp_all [decodeTime, checked]
theorem waittComplete (q : SeqRef) : Statement (.waittComplete q) := fun h => nomatch h
theorem waittLock (g : Guard) (a : SReg) (len : BitVec 32) : Statement (.waittLock g a len) := by
  refine fun _ hw => ⟨_, rfl, ?_⟩
  rw [decode_major14 _ (by simp)]
  simp [Instr.wf] at hw
  simp_all [decodeTime, checked]
theorem waittLockComplete (q : SeqRef) : Statement (.waittLockComplete q) := fun h => nomatch h
theorem lockWindowClose (slot : Nat) : Statement (.lockWindowClose slot) := fun h => nomatch h
theorem hld (g : Guard) (d : HReg) (a : SReg) (sp : HSpace) : Statement (.hld g d a sp) := by
  refine fun _ hw => ⟨_, rfl, ?_⟩
  rw [decode_major18 _ (by simp)]
  cases sp <;> simp_all [decodeHandle, checked, encHSpace]
theorem hst (g : Guard) (d : HReg) (a : SReg) (sp : HSpace) : Statement (.hst g d a sp) := by
  refine fun _ hw => ⟨_, rfl, ?_⟩
  rw [decode_major18 _ (by simp)]
  cases sp <;> simp_all [decodeHandle, checked, encHSpace]
theorem hset (g : Guard) (d : HReg) (a : SReg) (fld : BitVec 6) : Statement (.hset g d a fld) := by
  refine fun _ hw => ⟨_, rfl, ?_⟩
  rw [decode_major18 _ (by simp)]
  simp [Instr.wf] at hw
  simp_all [decodeHandle, checked]
theorem hget (g : Guard) (d : SReg) (a : HReg) (fld : BitVec 6) : Statement (.hget g d a fld) := by
  refine fun _ hw => ⟨_, rfl, ?_⟩
  rw [decode_major18 _ (by simp)]
  simp [Instr.wf] at hw
  simp_all [decodeHandle, checked]
theorem hoff (g : Guard) (d : HReg) (a : SReg) : Statement (.hoff g d a) := by
  refine fun _ hw => ⟨_, rfl, ?_⟩
  rw [decode_major18 _ (by simp)]
  simp_all [decodeHandle, checked]
theorem hxl (g : Guard) (d : SReg) (a : HReg) (b : SReg) : Statement (.hxl g d a b) := by
  refine fun _ hw => ⟨_, rfl, ?_⟩
  rw [decode_major18 _ (by simp)]
  simp_all [decodeHandle, checked]
theorem winreg (g : Guard) (d : SReg) (a : HReg) (b : SReg) : Statement (.winreg g d a b) := by
  refine fun _ hw => ⟨_, rfl, ?_⟩
  rw [decode_major18 _ (by simp)]
  simp_all [decodeHandle, checked]
theorem winrev (g : Guard) (d a : SReg) : Statement (.winrev g d a) := by
  refine fun _ hw => ⟨_, rfl, ?_⟩
  rw [decode_major18 _ (by simp)]
  simp_all [decodeHandle, checked]
theorem winrevDrain (q : SeqRef) : Statement (.winrevDrain q) := fun h => nomatch h
theorem enq (g : Guard) (eng : Eng) (record : BitVec 512) : Statement (.enq g eng record) := by
  refine fun _ hw => ⟨_, rfl, ?_⟩
  rw [decode_major19 _ (by simp)]
  cases eng <;> simp_all [decodeEnq, checked, encEng, encodeLits]
theorem enqr (g : Guard) (eng : Eng) (k : BitVec 6) : Statement (.enqr g eng k) := by
  refine fun _ hw => ⟨_, rfl, ?_⟩
  rw [decode_major19 _ (by simp)]
  simp [Instr.wf] at hw
  cases eng <;> simp_all [decodeEnq, checked, encEng]
theorem enqm (g : Guard) (eng : Eng) (a : SReg) : Statement (.enqm g eng a) := by
  refine fun _ hw => ⟨_, rfl, ?_⟩
  rw [decode_major19 _ (by simp)]
  cases eng <;> simp_all [decodeEnq, checked, encEng]
theorem enqQueuePlace (q : SeqRef) : Statement (.enqQueuePlace q) := fun h => nomatch h
theorem enqPinRoom (q : SeqRef) : Statement (.enqPinRoom q) := fun h => nomatch h
theorem tspawn (g : Guard) (a : SReg) (q : BitVec 8) : Statement (.tspawn g a q) := by
  refine fun _ hw => ⟨_, rfl, ?_⟩
  rw [decode_major1A _ (by simp)]
  simp_all [decodeTask, checked]
theorem tspawnRoom (q : SeqRef) : Statement (.tspawnRoom q) := fun h => nomatch h
theorem tend (g : Guard) : Statement (.tend g) := by
  refine fun _ hw => ⟨_, rfl, ?_⟩
  rw [decode_major1A _ (by simp)]
  simp_all [decodeTask, checked]
theorem epush (g : Guard) (a : SReg) (e : BitVec 12) : Statement (.epush g a e) := by
  refine fun _ hw => ⟨_, rfl, ?_⟩
  rw [decode_major1A _ (by simp)]
  simp_all [decodeTask, checked]
theorem epushRoom (q : SeqRef) : Statement (.epushRoom q) := fun h => nomatch h
theorem epop (g : Guard) (d : SReg) (e : BitVec 12) : Statement (.epop g d e) := by
  refine fun _ hw => ⟨_, rfl, ?_⟩
  rw [decode_major1A _ (by simp)]
  simp_all [decodeTask, checked]
theorem epopItem (q : SeqRef) : Statement (.epopItem q) := fun h => nomatch h
theorem etry (g : Guard) (d : SReg) (p : PReg) (e : BitVec 12) : Statement (.etry g d p e) := by
  refine fun _ hw => ⟨_, rfl, ?_⟩
  rw [decode_major1A _ (by simp)]
  simp_all [decodeTask, checked]
theorem scopeo (g : Guard) (n : BitVec 7) : Statement (.scopeo g n) := by
  refine fun _ hw => ⟨_, rfl, ?_⟩
  rw [decode_major1A _ (by simp)]
  simp [Instr.wf] at hw
  simp_all [decodeTask, checked]
theorem scopeoGrant (core : Nat) : Statement (.scopeoGrant core) := fun h => nomatch h
theorem scopec (g : Guard) : Statement (.scopec g) := by
  refine fun _ hw => ⟨_, rfl, ?_⟩
  rw [decode_major1A _ (by simp)]
  simp_all [decodeTask, checked]
theorem scopecDrain (q : SeqRef) : Statement (.scopecDrain q) := fun h => nomatch h
theorem vmode (g : Guard) (use : BitVec 8) (gated : Bool) : Statement (.vmode g use gated) := by
  refine fun _ hw => ⟨_, rfl, ?_⟩
  rw [decode_major1A _ (by simp)]
  simp_all [decodeTask, checked]
theorem poll (g : Guard) (cc : PCond) (sp : ASpace) (wide : Bool) (d a b : SReg) : Statement (.poll g cc sp wide d a b) := by
  refine fun _ hw => ⟨_, rfl, ?_⟩
  rw [decode_major1B _ (by simp)]
  cases cc <;> cases sp <;> cases wide <;> simp_all [decodeWait, checked, encPCond, encASpace]
theorem pollPass (q : SeqRef) : Statement (.pollPass q) := fun h => nomatch h
theorem pause (g : Guard) (a : SReg) : Statement (.pause g a) := by
  refine fun _ hw => ⟨_, rfl, ?_⟩
  rw [decode_major1B _ (by simp)]
  simp_all [decodeWait, checked]
theorem pauseExpiry (q : SeqRef) : Statement (.pauseExpiry q) := fun h => nomatch h
theorem coll (g : Guard) (d a : SReg) : Statement (.coll g d a) := by
  refine fun _ hw => ⟨_, rfl, ?_⟩
  rw [decode_major1C _ (by simp)]
  simp_all [decodeColl, checked]
theorem trig (g : Guard) (a b c : SReg) : Statement (.trig g a b c) := by
  refine fun _ hw => ⟨_, rfl, ?_⟩
  rw [decode_major1C _ (by simp)]
  simp_all [decodeColl, checked]
theorem trigRoom (q : SeqRef) : Statement (.trigRoom q) := fun h => nomatch h
theorem ctrset (g : Guard) (a b : SReg) : Statement (.ctrset g a b) := by
  refine fun _ hw => ⟨_, rfl, ?_⟩
  rw [decode_major1C _ (by simp)]
  simp_all [decodeColl, checked]
theorem ctradd (g : Guard) (a b : SReg) : Statement (.ctradd g a b) := by
  refine fun _ hw => ⟨_, rfl, ?_⟩
  rw [decode_major1C _ (by simp)]
  simp_all [decodeColl, checked]
theorem ctrrd (g : Guard) (d a : SReg) : Statement (.ctrrd g d a) := by
  refine fun _ hw => ⟨_, rfl, ?_⟩
  rw [decode_major1C _ (by simp)]
  simp_all [decodeColl, checked]
theorem pbind (g : Guard) (d a : SReg) : Statement (.pbind g d a) := by
  refine fun _ hw => ⟨_, rfl, ?_⟩
  rw [decode_major1D _ (by simp)]
  simp_all [decodePipe, checked]
theorem punbind (g : Guard) (d a : SReg) : Statement (.punbind g d a) := by
  refine fun _ hw => ⟨_, rfl, ?_⟩
  rw [decode_major1D _ (by simp)]
  simp_all [decodePipe, checked]
theorem pquery (g : Guard) (d a b : SReg) : Statement (.pquery g d a b) := by
  refine fun _ hw => ⟨_, rfl, ?_⟩
  rw [decode_major1D _ (by simp)]
  simp_all [decodePipe, checked]
theorem asyncTrapTaken (q : SeqRef) : Statement (.asyncTrapTaken q) := fun h => nomatch h
theorem preemption (slot : Nat) : Statement (.preemption slot) := fun h => nomatch h
theorem contextRestore (ctx : Nat) (cores : List Nat) : Statement (.contextRestore ctx cores) := fun h => nomatch h
theorem recordStart (eng : Eng) (slot : Nat) : Statement (.recordStart eng slot) := fun h => nomatch h
theorem operandFetch (slot : Nat) : Statement (.operandFetch slot) := fun h => nomatch h
theorem recordRetire (eng : Eng) (slot : Nat) (ch : Nat) : Statement (.recordRetire eng slot ch) := fun h => nomatch h
theorem mxLdw (slot : Nat) : Statement (.mxLdw slot) := fun h => nomatch h
theorem mxMm (slot : Nat) : Statement (.mxMm slot) := fun h => nomatch h
theorem mxAcrd (slot : Nat) : Statement (.mxAcrd slot) := fun h => nomatch h
theorem mxAcclr (slot : Nat) : Statement (.mxAcclr slot) := fun h => nomatch h
theorem mxHad (slot : Nat) : Statement (.mxHad slot) := fun h => nomatch h
theorem mxBsw (slot : Nat) : Statement (.mxBsw slot) := fun h => nomatch h
theorem vadd (slot : Nat) : Statement (.vadd slot) := fun h => nomatch h
theorem vsub (slot : Nat) : Statement (.vsub slot) := fun h => nomatch h
theorem vmul (slot : Nat) : Statement (.vmul slot) := fun h => nomatch h
theorem vfma (slot : Nat) : Statement (.vfma slot) := fun h => nomatch h
theorem vmin (slot : Nat) : Statement (.vmin slot) := fun h => nomatch h
theorem vmax (slot : Nat) : Statement (.vmax slot) := fun h => nomatch h
theorem vabs (slot : Nat) : Statement (.vabs slot) := fun h => nomatch h
theorem vneg (slot : Nat) : Statement (.vneg slot) := fun h => nomatch h
theorem vand (slot : Nat) : Statement (.vand slot) := fun h => nomatch h
theorem vor (slot : Nat) : Statement (.vor slot) := fun h => nomatch h
theorem vxor (slot : Nat) : Statement (.vxor slot) := fun h => nomatch h
theorem vnot (slot : Nat) : Statement (.vnot slot) := fun h => nomatch h
theorem vshl (slot : Nat) : Statement (.vshl slot) := fun h => nomatch h
theorem vshr (slot : Nat) : Statement (.vshr slot) := fun h => nomatch h
theorem vsra (slot : Nat) : Statement (.vsra slot) := fun h => nomatch h
theorem vclz (slot : Nat) : Statement (.vclz slot) := fun h => nomatch h
theorem vffs (slot : Nat) : Statement (.vffs slot) := fun h => nomatch h
theorem vpopc (slot : Nat) : Statement (.vpopc slot) := fun h => nomatch h
theorem vcmp (slot : Nat) : Statement (.vcmp slot) := fun h => nomatch h
theorem vsel (slot : Nat) : Statement (.vsel slot) := fun h => nomatch h
theorem vcvt (slot : Nat) : Statement (.vcvt slot) := fun h => nomatch h
theorem vql6 (slot : Nat) : Statement (.vql6 slot) := fun h => nomatch h
theorem vreds (slot : Nat) : Statement (.vreds slot) := fun h => nomatch h
theorem vredx (slot : Nat) : Statement (.vredx slot) := fun h => nomatch h
theorem vredn (slot : Nat) : Statement (.vredn slot) := fun h => nomatch h
theorem vargx (slot : Nat) : Statement (.vargx slot) := fun h => nomatch h
theorem vscan (slot : Nat) : Statement (.vscan slot) := fun h => nomatch h
theorem vperm (slot : Nat) : Statement (.vperm slot) := fun h => nomatch h
theorem vtrn (slot : Nat) : Statement (.vtrn slot) := fun h => nomatch h
theorem vbcast (slot : Nat) : Statement (.vbcast slot) := fun h => nomatch h
theorem vld (slot : Nat) : Statement (.vld slot) := fun h => nomatch h
theorem vst (slot : Nat) : Statement (.vst slot) := fun h => nomatch h
theorem vmov (slot : Nat) : Statement (.vmov slot) := fun h => nomatch h
theorem vlog2 (slot : Nat) : Statement (.vlog2 slot) := fun h => nomatch h
theorem vexp2 (slot : Nat) : Statement (.vexp2 slot) := fun h => nomatch h
theorem vladd (slot : Nat) : Statement (.vladd slot) := fun h => nomatch h
theorem vlsub (slot : Nat) : Statement (.vlsub slot) := fun h => nomatch h
theorem vlshr (slot : Nat) : Statement (.vlshr slot) := fun h => nomatch h
theorem vlpow (slot : Nat) : Statement (.vlpow slot) := fun h => nomatch h
theorem vexpe (slot : Nat) : Statement (.vexpe slot) := fun h => nomatch h
theorem vrcp (slot : Nat) : Statement (.vrcp slot) := fun h => nomatch h
theorem vrsqrt (slot : Nat) : Statement (.vrsqrt slot) := fun h => nomatch h
theorem vsigm (slot : Nat) : Statement (.vsigm slot) := fun h => nomatch h
theorem vtanh (slot : Nat) : Statement (.vtanh slot) := fun h => nomatch h
theorem vsilu (slot : Nat) : Statement (.vsilu slot) := fun h => nomatch h
theorem cxCpy (core ch : Nat) : Statement (.cxCpy core ch) := fun h => nomatch h
theorem cxFill (core ch : Nat) : Statement (.cxFill core ch) := fun h => nomatch h
theorem cxGth (core ch : Nat) : Statement (.cxGth core ch) := fun h => nomatch h
theorem cxSct (core ch : Nat) : Statement (.cxSct core ch) := fun h => nomatch h
theorem cxPutf (core ch : Nat) : Statement (.cxPutf core ch) := fun h => nomatch h
theorem cxGetf (core ch : Nat) : Statement (.cxGetf core ch) := fun h => nomatch h
theorem cxPutn (core ch : Nat) : Statement (.cxPutn core ch) := fun h => nomatch h
theorem cxGetn (core ch : Nat) : Statement (.cxGetn core ch) := fun h => nomatch h
theorem cxMcst (core ch : Nat) : Statement (.cxMcst core ch) := fun h => nomatch h
theorem aeRun (slot : Nat) : Statement (.aeRun slot) := fun h => nomatch h
theorem aeCont (slot : Nat) : Statement (.aeCont slot) := fun h => nomatch h
theorem launchAccept (ctx : Nat) : Statement (.launchAccept ctx) := fun h => nomatch h
theorem groupPlace (ctx core : Nat) : Statement (.groupPlace ctx core) := fun h => nomatch h
theorem taskIssue (ctx : Nat) (src : IssueSrc) (slot : Nat) : Statement (.taskIssue ctx src slot) := fun h => nomatch h
theorem launchEnd (ctx : Nat) : Statement (.launchEnd ctx) := fun h => nomatch h
theorem gridStarvation (ctx : Nat) : Statement (.gridStarvation ctx) := fun h => nomatch h
theorem coreGate (core : Nat) : Statement (.coreGate core) := fun h => nomatch h
theorem dieFence (die : Nat) : Statement (.dieFence die) := fun h => nomatch h
theorem periodEdge  : Statement (.periodEdge ) := fun h => nomatch h
theorem spinLimit (slot : Nat) : Statement (.spinLimit slot) := fun h => nomatch h
theorem slotStart (port : Nat) : Statement (.slotStart port) := fun h => nomatch h
theorem guardEnd (port : Nat) : Statement (.guardEnd port) := fun h => nomatch h
theorem slotEnd (port : Nat) : Statement (.slotEnd port) := fun h => nomatch h
theorem slotcfgWrite (h : Cmd) (port : Nat) (v : Word) : Statement (.slotcfgWrite h port v) := fun h => nomatch h
theorem nak (port : Nat) (f : Flit) : Statement (.nak port f) := fun h => nomatch h
theorem lol (port : Nat) (f : Flit) : Statement (.lol port f) := fun h => nomatch h
theorem light (port : Nat) (f : Flit) : Statement (.light port f) := fun h => nomatch h
theorem credit (port : Nat) (f : Flit) : Statement (.credit port f) := fun h => nomatch h
theorem restripeResume (port : Nat) : Statement (.restripeResume port) := fun h => nomatch h
theorem replayTimeout (port : Nat) : Statement (.replayTimeout port) := fun h => nomatch h
theorem wavelengthDark (port w : Nat) : Statement (.wavelengthDark port w) := fun h => nomatch h
theorem lolResend (port w : Nat) : Statement (.lolResend port w) := fun h => nomatch h
theorem lightReturn (port w : Nat) : Statement (.lightReturn port w) := fun h => nomatch h
theorem write (port : Nat) (m : Msg) : Statement (.write port m) := fun h => nomatch h
theorem read (port : Nat) (m : Msg) : Statement (.read port m) := fun h => nomatch h
theorem rdata (port : Nat) (m : Msg) : Statement (.rdata port m) := fun h => nomatch h
theorem amoMessage (port : Nat) (m : Msg) : Statement (.amoMessage port m) := fun h => nomatch h
theorem pollMessage (port : Nat) (m : Msg) : Statement (.pollMessage port m) := fun h => nomatch h
theorem ack (port : Nat) (m : Msg) : Statement (.ack port m) := fun h => nomatch h
theorem nack (port : Nat) (m : Msg) : Statement (.nack port m) := fun h => nomatch h
theorem frag (port : Nat) (m : Msg) : Statement (.frag port m) := fun h => nomatch h
theorem rfrag (port : Nat) (m : Msg) : Statement (.rfrag port m) := fun h => nomatch h
theorem resendTimeout (peer msn : Nat) : Statement (.resendTimeout peer msn) := fun h => nomatch h
theorem connectionDown (peer : Nat) : Statement (.connectionDown peer) := fun h => nomatch h
theorem stashfullResend (peer ctx : Nat) : Statement (.stashfullResend peer ctx) := fun h => nomatch h
theorem ethWritePacket (port : Nat) (p : Pkt) : Statement (.ethWritePacket port p) := fun h => nomatch h
theorem ethReadPacket (port : Nat) (p : Pkt) : Statement (.ethReadPacket port p) := fun h => nomatch h
theorem ethReadResponse (port : Nat) (p : Pkt) : Statement (.ethReadResponse port p) := fun h => nomatch h
theorem ethAck (port : Nat) (p : Pkt) (echo : Bool) : Statement (.ethAck port p echo) := fun h => nomatch h
theorem ethNack (port : Nat) (p : Pkt) : Statement (.ethNack port p) := fun h => nomatch h
theorem ethRateWindow (port node : Nat) : Statement (.ethRateWindow port node) := fun h => nomatch h
theorem pdcExpiry (port node : Nat) : Statement (.pdcExpiry port node) := fun h => nomatch h
theorem ethTargetFailed (node : Nat) (host : Bool) : Statement (.ethTargetFailed node host) := fun h => nomatch h
theorem ptpSync (master : Nat) (offset : BitVec 32) : Statement (.ptpSync master offset) := fun h => nomatch h
theorem holdover  : Statement (.holdover ) := fun h => nomatch h
theorem thermalStateChange (die temp : Nat) : Statement (.thermalStateChange die temp) := fun h => nomatch h
theorem bringUp (fw cfg : List Byte) (kerez : Nat) (sigs : Nat × Nat) (custKey puf : Nat) : Statement (.bringUp fw cfg kerez sigs custKey puf) := fun h => nomatch h
theorem functionReady (u : Unit') : Statement (.functionReady u) := fun h => nomatch h
theorem functionFenced (u : Unit') : Statement (.functionFenced u) := fun h => nomatch h
theorem sessionOpen (sess : Nat) (ct : Nat) (sig : Nat) : Statement (.sessionOpen sess ct sig) := fun h => nomatch h
theorem regrd (h : Cmd) (addr : BitVec 32) : Statement (.regrd h addr) := fun h => nomatch h
theorem regwr (h : Cmd) (addr : BitVec 32) (v : Word) : Statement (.regwr h addr v) := fun h => nomatch h
theorem asidset (h : Cmd) (asid : Nat) (root : Word) : Statement (.asidset h asid root) := fun h => nomatch h
theorem nodeset (h : Cmd) (node : Nat) (ip : BitVec 128) (ports : BitVec 8) (enc self : Bool) : Statement (.nodeset h node ip ports enc self) := fun h => nomatch h
theorem hwin (h : Cmd) (win : Nat) (addr : Word) (len : Nat) (rd wr : Bool) : Statement (.hwin h win addr len rd wr) := fun h => nomatch h
theorem evqset (h : Cmd) (ring prod cons : Word) (nev : Nat) : Statement (.evqset h ring prod cons nev) := fun h => nomatch h
theorem pageUnmap (h : Cmd) (asid : Nat) (va : Word) (count : Nat) : Statement (.pageUnmap h asid va count) := fun h => nomatch h
theorem pageEvict (h : Cmd) (asid : Nat) (va : Word) (count : Nat) : Statement (.pageEvict h asid va count) := fun h => nomatch h
theorem deferred (asid : Nat) (va : Word) : Statement (.deferred asid va) := fun h => nomatch h
theorem launch (h : Cmd) (ctx : Nat) (record : BitVec 2048) : Statement (.launch h ctx record) := fun h => nomatch h
theorem tctxset (h : Cmd) (ctx peer target : Nat) : Statement (.tctxset h ctx peer target) := fun h => nomatch h
theorem selvread (h : Cmd) (gang : Nat) : Statement (.selvread h gang) := fun h => nomatch h
theorem ctxset (h : Cmd) (ctx asid keydom gang spinlim : Nat) (stash : Word) : Statement (.ctxset h ctx asid keydom gang spinlim stash) := fun h => nomatch h
theorem ctxdel (h : Cmd) (ctx : Nat) : Statement (.ctxdel h ctx) := fun h => nomatch h
theorem gaugeset (h : Cmd) (ctx : Nat) (gauge : BitVec 512) : Statement (.gaugeset h ctx gauge) := fun h => nomatch h
theorem rescfg (h : Cmd) (resmax period : Nat) : Statement (.rescfg h resmax period) := fun h => nomatch h
theorem selvset (h : Cmd) (gang cap : Nat) : Statement (.selvset h gang cap) := fun h => nomatch h
theorem ctxread (h : Cmd) (ctx : Nat) : Statement (.ctxread h ctx) := fun h => nomatch h
theorem lockset (h : Cmd) (ctx maxns : Nat) : Statement (.lockset h ctx maxns) := fun h => nomatch h
theorem grpset (h : Cmd) (gid ctx : Nat) (enc : Bool) (members : List Member) : Statement (.grpset h gid ctx enc members) := fun h => nomatch h
theorem grpdel (h : Cmd) (gid : Nat) : Statement (.grpdel h gid) := fun h => nomatch h
theorem sharecls (h : Cmd) (keydom cls : Nat) : Statement (.sharecls h keydom cls) := fun h => nomatch h
theorem keyload (h : Cmd) (index keydom : Nat) (ct : Nat) (wrapped : BitVec 512) (tag : BitVec 128) : Statement (.keyload h index keydom ct wrapped tag) := fun h => nomatch h
theorem keydel (h : Cmd) (index : Nat) : Statement (.keydel h index) := fun h => nomatch h
theorem nkeyload (h : Cmd) (node keydom : Nat) (ct : Nat) (wrapped : BitVec 512) (tag : BitVec 128) : Statement (.nkeyload h node keydom ct wrapped tag) := fun h => nomatch h
theorem idread (h : Cmd) : Statement (.idread h) := fun h => nomatch h
theorem logread (h : Cmd) (ctx index : Nat) : Statement (.logread h ctx index) := fun h => nomatch h
theorem logsign (h : Cmd) (ctx : Nat) : Statement (.logsign h ctx) := fun h => nomatch h
theorem quote (h : Cmd) (nonce : BitVec 256) : Statement (.quote h nonce) := fun h => nomatch h
theorem dbgctl (h : Cmd) (ctx : Nat) (en bken halten : Bool) : Statement (.dbgctl h ctx en bken halten) := fun h => nomatch h
theorem dbghalt (h : Cmd) (ctx : Nat) (sel : DbgSel) : Statement (.dbghalt h ctx sel) := fun h => nomatch h
theorem debugHalt (slot : Nat) : Statement (.debugHalt slot) := fun h => nomatch h
theorem dbgresume (h : Cmd) (ctx : Nat) (sel : DbgSel) : Statement (.dbgresume h ctx sel) := fun h => nomatch h
theorem dbgstep (h : Cmd) (ctx slot : Nat) (x : Bool) : Statement (.dbgstep h ctx slot x) := fun h => nomatch h
theorem dbgread (h : Cmd) (ctx slot : Nat) (x : Bool) (cls : DbgClass) (index len : Nat) : Statement (.dbgread h ctx slot x cls index len) := fun h => nomatch h
theorem dbgwrite (h : Cmd) (ctx slot : Nat) (x : Bool) (cls : DbgClass) (index : Nat) (data : List Byte) : Statement (.dbgwrite h ctx slot x cls index data) := fun h => nomatch h
theorem triggeredOpFire (id : Nat) : Statement (.triggeredOpFire id) := fun h => nomatch h
theorem triggeredOpComplete (id : Nat) : Statement (.triggeredOpComplete id) := fun h => nomatch h
theorem attach (bind : Nat) : Statement (.attach bind) := fun h => nomatch h
theorem stageTaskStart (node item : Nat) : Statement (.stageTaskStart node item) := fun h => nomatch h
theorem branchCopy (bind item : Nat) : Statement (.branchCopy bind item) := fun h => nomatch h
theorem detachComplete (bind : Nat) : Statement (.detachComplete bind) := fun h => nomatch h
theorem unassignedEncoding (w : Word) : Statement (.unassignedEncoding w) := fun h => nomatch h
theorem instructionFetchFault (q : SeqRef) : Statement (.instructionFetchFault q) := fun h => nomatch h
theorem clusterWake (slot k : Nat) : Statement (.clusterWake slot k) := fun h => nomatch h
theorem coreWake (core : Nat) : Statement (.coreWake core) := fun h => nomatch h
theorem beat (port : Nat) : Statement (.beat port) := fun h => nomatch h
theorem flitArrival (port lane : Nat) (f : Flit) : Statement (.flitArrival port lane f) := fun h => nomatch h
theorem receivedPowerChange (port w : Nat) (above : Bool) : Statement (.receivedPowerChange port w above) := fun h => nomatch h
theorem ethPacketSend (port node : Nat) : Statement (.ethPacketSend port node) := fun h => nomatch h
theorem ethPacketResend (port node tok : Nat) : Statement (.ethPacketResend port node tok) := fun h => nomatch h
theorem uncorrectableError (loc : UeLoc) : Statement (.uncorrectableError loc) := fun h => nomatch h
theorem eventRingRoom (cons : Nat) : Statement (.eventRingRoom cons) := fun h => nomatch h

end Sys2Proof.Laws.Encoding
end

