-- ==== Sys2Proof/Tests/Slice0.lean ====
section
/-! SUPPORT. Small tests. Words that the specification prints, or that its encodings give bit by bit, decode to their
instructions; WellFormed refuses an ill-formed term of each of its checks; and for every statement states and operands that meet
its hypotheses. -/

namespace Sys2Proof.Tests

-- One theorem after another: checked side by side they would need more threads than the memory limit leaves room for.
set_option Elab.async false

open Sys2Proof Sys2Proof.Machine Sys2Proof.Claim

/-- No guard: p0, not inverted. -/
def tGuard : Guard := { neg := false, pred := 0 }

-- Ill-formed terms, one for each check of WellFormed (R22, R24, R25, R28, R33, R36, R44, R111, R178, R262, R368).

theorem test_wf_csrr : (Instr.csrr tGuard 1 0x005).wf = false := by decide
theorem test_wf_csrw : (Instr.csrw tGuard 1 2 0x101).wf = false := by decide
theorem test_wf_bfmt : (Instr.bfmtWrite tGuard .w 1 2 12).wf = false := by decide
theorem test_wf_lce : (Instr.lceWrite tGuard .w 1 2 3).wf = false := by decide
theorem test_wf_sext : (Instr.sext tGuard .w64 1 2).wf = false := by decide
theorem test_wf_loop : (Instr.loop tGuard 3 1 4).wf = false := by decide
theorem test_wf_loop_end : (Instr.loop tGuard 0 1 1).wf = false := by decide
theorem test_wf_loopi : (Instr.loopi tGuard 0 0 4).wf = false := by decide
theorem test_wf_sp : (Instr.ldsp tGuard { width := .w32, data := 4, base := 6, index := 5, scale := 2, cache := 0, scope := 1, disp := 0 }).wf = false := by decide
theorem test_wf_ds : (Instr.stds tGuard { width := .w32, data := 4, base := 6, index := 5, scale := 2, cache := 0, scope := 2, disp := 0 }).wf = false := by decide
theorem test_wf_g : (Instr.ldg tGuard { width := .w32, data := 4, base := 6, index := 5, scale := 2, cache := 2, scope := 0, disp := 0 }).wf = false := by decide
theorem test_wf_f : (Instr.ldf tGuard { width := .w32, data := 4, base := 6, index := 5, scale := 2, cache := 0, scope := 2, disp := 0 }).wf = false := by decide
theorem test_wf_flag : (Instr.stfFlag tGuard { width := .w64, data := 4, base := 6, index := 5, scale := 1, cache := 1, scope := 3, disp := 0 }).wf = false := by decide
theorem test_wf_n : (Instr.stn tGuard { width := .w64, data := 4, base := 6, index := 5, scale := 1, cache := 0, scope := 3, disp := 0 }).wf = false := by decide
theorem test_wf_fence : (Instr.fence tGuard 1 5).wf = false := by decide
theorem test_wf_aq : (Instr.aqpush tGuard 2 8).wf = false := by decide
theorem test_wf_waitt : (Instr.waittLock tGuard 1 0).wf = false := by decide
theorem test_wf_hset : (Instr.hset tGuard 1 2 12).wf = false := by decide
theorem test_wf_enqr : (Instr.enqr tGuard .mx 9).wf = false := by decide
theorem test_wf_scopeo : (Instr.scopeo tGuard 65).wf = false := by decide

-- Words printed in the specification (R75, R80, R83, R85, R91, R178, R180, R198 and the tables of their chapters).

theorem test_word_csrr : decode 0x0002400800000F00 0 = .ok (.csrr tGuard 9 0xF00) := by decide
theorem test_word_mul : decode 0x01028B3000020000 0 = .ok (.mul tGuard 10 11 12) := by decide
theorem test_word_li : decode 0x0201C00839800000 0 = .ok (.li tGuard 7 0x39800000) := by decide
theorem test_word_fcmp : decode 0x0400420000080000 0 = .ok (.fcmp tGuard .eq 1 2 0) := by decide
theorem test_word_loopi : decode 0x0500400400020002 0 = .ok (.loopi tGuard 1 2 2) := by decide
theorem test_word_ldsp : decode 0x0801061640000000 0 =
    .ok (.ldsp tGuard { width := .w32, data := 4, base := 6, index := 5, scale := 2, cache := 0, scope := 0, disp := 0 }) := by decide
theorem test_word_ldg : decode 0x0A01C30062000008 0 =
    .ok (.ldg tGuard { width := .w64, data := 7, base := 3, index := 0, scale := 0, cache := 0, scope := 2, disp := 8 }) := by decide
theorem test_word_ldf : decode 0x0B014C0043000000 0 =
    .ok (.ldf tGuard { width := .w32, data := 5, base := 12, index := 0, scale := 0, cache := 0, scope := 3, disp := 0 }) := by decide
theorem test_word_stf_flag : decode 0x0B010A2CEB000000 0 =
    .ok (.stfFlag tGuard { width := .w64, data := 4, base := 10, index := 11, scale := 0, cache := 1, scope := 3, disp := 0 }) := by decide
theorem test_word_stn : decode 0x0C010A00E4000008 0 =
    .ok (.stn tGuard { width := .w64, data := 4, base := 10, index := 0, scale := 0, cache := 0, scope := 4, disp := 8 }) := by decide
theorem test_word_ldh : decode 0x0D014C0044000000 0 =
    .ok (.ldh tGuard { width := .w32, data := 5, base := 12, index := 0, scale := 0, cache := 0, scope := 4, disp := 0 }) := by decide
theorem test_word_amo : decode 0x1001430306000010 0 =
    .ok (.amo tGuard .add { wide := true, space := .g, acq := true, rel := false, data := 5, base := 3, disp := 16 }) := by decide
theorem test_word_claim : decode 0x1001D426A4000000 0 =
    .ok (.amoClaim tGuard { wide := false, space := .g, acq := false, rel := false, data := 7, base := 20, disp := 0 } 9) := by decide
theorem test_word_fence : decode 0x1100C00000000003 0 = .ok (.fence tGuard 3 3) := by decide
theorem test_word_semtry : decode 0x1202400400800004 0 = .ok (.semtry tGuard 9 0 4 128) := by decide
theorem test_word_aqbr : decode 0x130000220000000B 0 = .ok (.aqbr tGuard 11) := by decide
theorem test_word_waitt_lock : decode 0x14001402000007D0 0 = .ok (.waittLock tGuard 20 2000) := by decide
theorem test_word_hset : decode 0x1800C91800020000 0 = .ok (.hset tGuard 3 9 6) := by decide
theorem test_word_enqr : decode 0x1902120000000000 0 = .ok (.enqr tGuard .cx 8) := by decide
theorem test_word_tspawn : decode 0x1A00040000000003 0 = .ok (.tspawn tGuard 4 3) := by decide
theorem test_word_epush : decode 0x1A00050200000007 0 = .ok (.epush tGuard 5 7) := by decide
theorem test_word_etry : decode 0x1A01820400000007 0 = .ok (.etry tGuard 6 2 7) := by decide
theorem test_word_scopeo : decode 0x1A00000500000010 0 = .ok (.scopeo tGuard 16) := by decide
theorem test_word_vmode : decode 0x1A00000700000103 0 = .ok (.vmode tGuard 3 true) := by decide
theorem test_word_poll : decode 0x1B01082401600000 0 = .ok (.poll tGuard .geu .g true 4 8 9) := by decide
theorem test_word_coll : decode 0x1C00C40000000000 0 = .ok (.coll tGuard 3 4) := by decide
theorem test_word_trig : decode 0x1C00051870010000 0 = .ok (.trig tGuard 5 6 7) := by decide
theorem test_word_ctrset : decode 0x1C00082400020000 0 = .ok (.ctrset tGuard 8 9) := by decide
theorem test_word_pbind : decode 0x1D00C40000000000 0 = .ok (.pbind tGuard 3 4) := by decide
theorem test_word_punbind : decode 0x1D01460000010000 0 = .ok (.punbind tGuard 5 6) := by decide
theorem test_word_pquery : decode 0x1D01C82400020000 0 = .ok (.pquery tGuard 7 8 9) := by decide
/-- A reserved bit set in NOP's word: ILL, RESERVED (R28, R52). -/
theorem test_word_reserved : decode 0x0000000000000001 0 = .error .reserved := by decide
/-- Scope 5 in a load of G: ILL, OPERAND (R24, R52). -/
theorem test_word_operand : decode 0x0A01C30065000008 0 = .error .operand := by decide

/-- The digest of no bytes that FIPS 202 gives for SHA3-256. -/
theorem test_sha3_of_nothing : sha3 [] = 0x4A43F8804B0AD882FA493BE44DFF80F562D661A05647C15166D71EBFF8C6FFA7 := by decide +kernel

-- A small machine: context 0 is resident on core 0, its launch has one group of banks 0 and 2 and 65,536 bytes of DS; slot 0 runs
-- a task of it, sequencer A at 0x1000, X at 0x3000, both with a handler at 0x2000. The addresses below 2 MiB are mapped to
-- 2 MiB for everything, the next 2 MiB to 4 MiB for reading, both under key 0.

def tGrp : Grp := { ctx := 0, level := 0, lin := 0, idx := [], core := 0, vdie := 0, mask := 5, mxUse := false, nTasks := 4,
                    nextTask := 1, live := 1 }
def tLaunch : Launch := { hdr := BitVec.ofNat 2048 (2 ^ 32), serial := 1, nextGrp := 1 }
def tSeq : Machine.Seq := { stopped := false, pc := 0x1000, tvec := 0x2001, regs := [(1, 7), (2, 0xFFFFFFFFFFFFFFFD), (3, 64)] }
def tMem : MemSt := { hbm := [(0x1000, 0x01), (0x1001, 0x20), (0x2000, 0x01), (0x2001, 0x30), (0x3000, 0x1F), (0x3002, 0x20),
                              (0x3008, 0x07), (0x300A, 0x40), (0x200040, 0x2A)],
                      stk := [(0, true)], roots := [(0, 0x1000)], keys := [(0, { keydom := 0 })] }
def tS : State :=
  { State.reset with
    seqs := [(0, tSeq), (1, { tSeq with pc := 0x3000 })]
    slots := [(0, { task := some { ctx := 0, grp := 1 } })]
    grps := [(1, tGrp)]
    ctxs := [(0, { resident := true, launch := some tLaunch })]
    mem := tMem }
/-- The same with sequencer X at work. -/
def tX : State := { tS with cur := { slot := 0, x := true } }
/-- The machine with scalars of A as given. -/
def tR (l : Tbl Word) : State := tS.setQ { tSeq with regs := l }
/-- The machine with a blocked instruction of A. -/
def tWt (w : Wait) : State := tS.setQ { tSeq with wait := some w }
/-- The same, of X. -/
def tXt (w : Wait) : State := tX.setQ { tSeq with wait := some w }
/-- The machine with its context as given. -/
def tC (f : Ctx → Ctx) : State := tS.setCtx 0 (f (tS.ctx 0))
/-- The machine with slot 0 as given. -/
def tSl (f : Slot → Slot) : State := tS.setSl (f tS.sl)
def tM : MemOp := { width := .w64, data := 4, base := 5, index := 0, scale := 0, cache := 0, scope := 0, disp := 0 }

-- Instructions of one sequencer (FalseGuardHasNoEffect to GlobalMemory).

/-- The hypothesis of IntegerResults and of ImmediatesComparesAndSelects, and those of DivisionAndRemainder. -/
theorem test_w_scalar : tS.q.guard tGuard = true ∧
    (let s := tR [(1, 0x8000000000000000), (2, 0xFFFFFFFFFFFFFFFF)]
     s.q.guard tGuard = true ∧ s.q.s 1 = BitVec.intMin 64 ∧ s.q.s 2 = BitVec.allOnes 64) := by decide

theorem test_w_FalseGuardHasNoEffect :
    (encodeWord (.nop { neg := true, pred := 0 }) = some 0x0080000000000000 ∧
      inItsStream (.nop { neg := true, pred := 0 }) tS.cur.x = true ∧ tS.q.guard (fGuard 0x0080000000000000) = false) ∧
    encodeWord (.aqbr tGuard 11) = some 0x130000220000000B ∧ inItsStream (.aqbr tGuard 11) tS.cur.x = false ∧
      Handled tS := by decide

/-- The lowest and the highest bit of a width, and no bit of it. -/
theorem test_w_CountsAndExtensions : tS.q.guard tGuard = true ∧
    (let x := (tR [(1, 0x180)]).q.s 1; x = 0x180 ∧ Highest (bitsOf .w8) x 7 ∧ Lowest (bitsOf .w8) x 7) ∧
    (let x := (tR [(1, 0x8001)]).q.s 1; Highest (bitsOf .w16) x 15 ∧ Lowest (bitsOf .w16) x 0) ∧
    (∀ k, k < bitsOf .w8 → ((tR [(1, 0x100)]).q.s 1).getLsbD k = false) := by decide +kernel

theorem test_w_ScalarFloats : tS.q.guard tGuard = true ∧
    isNan32 0x7F800001 = true ∧ isNan32 0x7F800000 = false ∧
    (let x (v : Word) : Nat := ((tR [(1, v)]).q.s 1).toNat % 2 ^ 32
     isNan32 (x 0xFFC00000) = true ∧ x 0x7F800000 = 0x7F800000 ∧ x 0xFF800000 = 0xFF800000 ∧
     toNum fp32 (x 0xC0A00000) = .fin true 10485760 (-21)) := by decide +kernel

theorem test_w_ControlTransfers : tS.q.guard tGuard = true ∧
    (tS.q.s 3 + 8 * (1 : BitVec 32).signExtend 64).toNat % 8 = 0 ∧
    (tS.q.s 1 + 8 * (1 : BitVec 32).signExtend 64).toNat % 8 ≠ 0 ∧ Handled tS := by decide

/-- A sequencer with two loops open, both up to 0x1010: loop 0 outside, loop 1 at 0x1008 inside. -/
def tLp (pc c : Word) : State := tS.setQ { tSeq with
  pc := pc, loops := [(0, { start := 0x1000, fin := 0x1010, depth := 1, count := 5 }), (1, { start := 0x1008, fin := 0x1010, depth := 2, count := c })] }

theorem test_w_HardwareLoops :
    -- a loop opens; within an enclosing one, up to its end; over a count of 0; past the enclosing one
    (tS.q.guard tGuard = true ∧ loopOk 2 2 = true ∧ tS.q.s 1 ≠ 0 ∧ tS.splitsEnq tS.q 258 0x1008 0x1010 = false ∧
      ∀ k, k < 3 → (tS.q.loopAt k).depth = 0) ∧
    (let s := tLp 0x1000 9; loopOk 2 2 = true ∧ s.splitsEnq s.q 258 0x1008 0x1010 = false ∧
      ∀ k, k < 3 → (s.q.loopAt k).depth != 0 → (0x1010 : Word).toNat ≤ (s.q.loopAt k).fin.toNat) ∧
    (tS.q.s 4 = 0) ∧
    (let s := tLp 0x1008 9; loopOk 2 2 = true ∧ s.splitsEnq s.q 258 0x1010 0x1018 = false ∧ s.q.s 1 ≠ 0 ∧ Handled s ∧
      (s.q.loopAt 1).depth != 0 ∧ (s.q.loopAt 0).depth.toNat < (s.q.loopAt 1).depth.toNat ∧
      (s.q.loopAt 1).fin.toNat < (0x1018 : Word).toNat) ∧
    -- the end of a body: not reached, reached before the last pass, on the last pass inside another loop that ends there
    (let s := tLp 0x1000 9; s.q.intrap = false ∧ s.q.pc + 8 ≠ (s.q.loopAt 1).fin) ∧
    (let s := tLp 0x1008 2; s.q.intrap = false ∧ s.q.pc + 8 = (s.q.loopAt 1).fin ∧ (s.q.loopAt 1).count ≠ 1) ∧
    (let s := tLp 0x1008 1; s.q.intrap = false ∧ s.q.pc + 8 = (s.q.loopAt 1).fin ∧ (s.q.loopAt 1).count = 1 ∧
      (s.q.loopAt 0).depth ≠ 0 ∧ (s.q.loopAt 0).depth.toNat < (s.q.loopAt 1).depth.toNat ∧
      (s.q.loopAt 2).depth = 0 ∧ (s.q.loopAt 0).fin = s.q.pc + 8 ∧ (s.q.loopAt 0).count ≠ 1) ∧
    -- on the last pass of the only loop
    (let s := tS.setQ { tSeq with pc := 0x1008, loops := [(2, { start := 0x1008, fin := 0x1010, depth := 1, count := 1 })] }
     s.q.pc + 8 = (s.q.loopAt 2).fin ∧ (s.q.loopAt 2).count = 1 ∧ ∀ j, j < 3 → j ≠ 2 → (s.q.loopAt j).depth = 0) := by decide

theorem test_w_SystemInstructions : tS.q.guard tGuard = true ∧ Handled tS ∧
    ((tS.setQ { tSeq with tvec := 0x2000 }).q.tvec.getLsbD 0 = false ∧ (tS.setQ { tSeq with tvec := 0x2000 }).q.guard tGuard = true) ∧
    tS.cxv.bken = false ∧ tS.cxv.halten = false ∧
    -- while BKEN and HALTEN are set: the other sequencer awaits a remote load, or it runs
    (let s := (tC fun c => { c with bken := true, halten := true }).setSeq { slot := 0, x := true }
       { tSeq with wait := some { ins := .ldf tGuard tM, tok := 7 } }
     s.cxv.bken = true ∧ s.cxv.halten = true ∧ (s.seq { s.cur with x := !s.cur.x }).atBoundary = false ∧ s.q.wait = none ∧
     s.sl.halted = false) ∧
    (let s := tC fun c => { c with bken := true }
     s.cxv.bken = true ∧ (s.seq { s.cur with x := !s.cur.x }).wait = none ∧ s.sl.halted = false ∧
      s.q.held = [] ∧ (s.seq { s.cur with x := !s.cur.x }).held = []) ∧
    (tS.setQ { tSeq with intrap := true }).q.intrap = true := by decide

theorem test_w_TrapEntry :
    ((tS.seq tS.cur).intrap = false ∧ (tS.seq tS.cur).tvec.getLsbD 0 = true ∧ ∀ h ∈ (tS.seq tS.cur).held, h.code ≠ 0x20) ∧
    (∃ h ∈ ((tS.setQ { tSeq with held := [{ code := 0x20, eval := 0 }] }).seq tS.cur).held, h.code = 0x20) ∧
    ((tS.setQ { tSeq with intrap := true }).seq tS.cur).intrap = true ∧
    ((tS.setQ { tSeq with tvec := 0x2000 }).seq tS.cur).tvec.getLsbD 0 = false := by decide

theorem test_w_CsrReadsAndWrites : tS.q.guard tGuard = true ∧ Handled tS ∧
    tS.csrReach 0xF00 = true ∧ tS.csrReach 0x112 = true ∧ tS.csrReach 0x11B = false ∧
    (tR [(1, 4)]).q.s 1 = 4 ∧ (tR [(1, 4)]).q.guard tGuard = true ∧ (tR [(1, 4)]).q.s 2 = 0 ∧
    (tS.grp tS.sl.grpOf = some tGrp ∧ tGrp.mask.getLsbD 0 = true ∧ tS.hasBank 0 11 = false) ∧
    (tS.setQ { tSeq with intrap := true }).q.intrap = true ∧
    -- VMODE's fields unchanged, and changed
    (let s := tR [(1, tS.sl.vmodeCsr)]
     (csrNew .w s.sl.vmodeCsr (s.q.s 1)).extractLsb' 0 8 = s.sl.vmodeCsr.extractLsb' 0 8 ∧
     (csrNew .w s.sl.vmodeCsr (s.q.s 1)).getLsbD 24 = s.sl.vmodeCsr.getLsbD 24) ∧
    (csrNew .w tS.sl.vmodeCsr (2 ^ 24)).getLsbD 24 ≠ tS.sl.vmodeCsr.getLsbD 24 ∧ tS.vmodeStall 0 true 0 = none := by decide

theorem test_w_ScratchpadAndDieSram : tS.q.guard tGuard = true ∧ Handled tS ∧ tS.mem.ue = [] ∧
    -- misaligned; banks 1 and 12, which are not the group's; the last 8 bytes of bank 2
    (effAddr (tR [(5, 4)]).q tM).toNat % 8 ≠ 0 ∧ Handled (tR [(5, 4)]) ∧
    (effAddr (tR [(5, 0x40000)]).q tM).toNat % 8 = 0 ∧ tS.hasBank 0 1 = false ∧ ¬(0x300000 < 12 * 2 ^ 18) ∧
    (let a := effAddr (tR [(5, 0xBFFF8)]).q tM
     a.toNat % 8 = 0 ∧ a.toNat < 12 * 2 ^ 18 ∧ (tR [(5, 0xBFFF8)]).hasBank 0 (a.extractLsb' 18 4).toNat = true ∧
     (tR [(5, 0xBFFF8)]).meets 0 [(2, 0x3FFF8, 8)] = false) ∧ tX.cur.x = true ∧
    -- DS: the last 8 bytes, and past the end
    tS.grp tS.sl.grpOf = some tGrp ∧ tS.launchOf tS.cx = some tLaunch ∧ hdrN tLaunch.hdr 4 4 * 65536 = 0x10000 ∧
    (effAddr (tR [(5, 0xFFF8)]).q tM).toNat = 0xFFF8 ∧ (effAddr (tR [(5, 0x10000)]).q tM).toNat = 0x10000 := by decide +kernel

/-- The page of 2 MiB at 0 and the one at 2 MiB. -/
def tLeaf : Leaf := { pa := 0x200040, page := 0, size := 2 ^ 21, key := 0, r := true, w := true, x := true }
def tLeafR : Leaf := { pa := 0x400000, page := 2 ^ 21, size := 2 ^ 21, key := 0, r := true, w := false, x := false }

theorem test_w_GlobalMemory : tS.q.guard tGuard = true ∧ Handled tS ∧
    (effAddr (tR [(5, 4)]).q tM).toNat % 8 ≠ 0 ∧ (effAddr (tR [(5, 0x40)]).q tM).toNat % 8 = 0 ∧
    Reachable tS 0x40 .read 8 tLeaf ∧ Reachable tS 0x40 .write 8 tLeaf ∧
    tS.translate 0 0x200000 .write = .trap { code := 5, eval := 0x200000 } ∧
    tS.translate 0 0x400000 .read = .trap { code := 4, eval := 0x400000 } ∧
    -- a table on a stack that is not ready, or fenced, at the first entry read
    (tS.mem.ue = [] ∧ tS.walkReads 0 0x40 = [] ++ 0x1000 :: [0x2000, 0x3000] ∧ (∀ a ∈ tS.walkReads 0 0x40, tS.stackAt a = .ready) ∧
      ({ tS with mem := { tMem with stk := [] } } : State).stackAt 0x1000 = .absent ∧
      ({ tS with mem := { tMem with stk := [(0, false)] } } : State).stackAt 0x1000 = .fenced) ∧
    -- no such address, no translation, a dying page, no permission, another domain's key, and success
    (2 ^ 48) / 2 ^ 48 ≠ 0 ∧ tS.walk 0 0x400000 = none ∧
    (let s := { tS with mem := { tMem with dying := [{ sess := 0, tag := 0, asid := 0, va := 0, leaf := 0, evict := true }] } }
     s.walk 0 0x40 = some tLeaf ∧ s.isDying 0 0 = true) ∧
    tS.walk 0 0x200000 = some tLeafR ∧ tS.isDying 0 (2 ^ 21) = false ∧ tLeafR.w = false ∧ tLeafR.r = true ∧
    tS.keyOk 0 1 = false ∧ tS.keyOk 0 0 = true ∧ (tC fun c => { c with keydom := 1 }).walk 0 0x40 = some tLeaf := by decide +kernel

-- Memory, queues, waits, handles, windows and records (AtomicOperations to TimeWaitsAndPolls).

theorem test_w_AtomicOperations : tS.q.guard tGuard = true ∧ Handled tS ∧
    (tS.q.s 1 + (0 : BitVec 24).signExtend 64).toNat % 4 ≠ 0 ∧
    (tS.mem.ue = [] ∧ tS.grp tS.sl.grpOf = some tGrp ∧ tS.launchOf tS.cx = some tLaunch ∧
      (tS.q.s 3 + (0xFFB8 : BitVec 24).signExtend 64).toNat = 0xFFF8 ∧ (0xFFF8 : Nat) < hdrN tLaunch.hdr 4 4 * 65536) ∧
    (tS.q.s 3).toNat % 8 = 0 ∧ Reachable tS 64 .rw 8 tLeaf := by decide +kernel

/-- A FENCE of A that stands, with its own remote store at port 0 or in no port. -/
def tPut : OutMsg := { m := { src := 0, dst := 1, msn := 0, op := 1, flag := false, tctx := 0, gang := 0, addr := 0x0010000000000000,
                              flagAddr := 0, len := 8, args := [], data := [] }, ctx := 0, own := .store 0 false 0x0010000000000000 }
def tFb : State := { tS with fab := { ports := [(0, { ready := true, queues := [(1, [tPut])] })] } }
def tPkt : Pkt := { node := 1, host := false, tok := 1, win := 0, off := 0, tctx := 0, gang := 0, len := 8, code := 0, frag := false,
                    rfrag := false, args := [], data := List.replicate 8 1, authOk := true }
def tEp : State := { tS with eth := { pkts := [{ p := tPkt, ctx := 0, own := .store 0 false 0, read := false, cost := 64 }] } }
/-- The opcode, the trips T0 and T1, the descriptors and MOD of a record; no wait, no signal of a semaphore. -/
def tRec (opc t0 t1 : Nat) (d a b c : BitVec 88) (mod : Nat) : BitVec 512 :=
  BitVec.ofNat 512 (opc + 2 ^ 64 * (t0 + 2 ^ 16 * t1 + 2 ^ 32 + 2 ^ 48 + 2 ^ 64 * d.toNat + 2 ^ 152 * a.toNat + 2 ^ 240 * b.toNat
    + 2 ^ 328 * c.toNat + 2 ^ 416 * mod))
/-- A handle of one dimension. -/
def tHnd (base space fmt n : Nat) : BitVec 256 :=
  BitVec.ofNat 256 (base + 2 ^ 64 * space + 2 ^ 68 * fmt + 2 ^ 72 + 2 ^ 96 * n + 2 ^ 112 + 2 ^ 128 + 2 ^ 144 + (2 ^ 160 + 2 ^ 192 + 2 ^ 224) * n)
/-- Descriptors: offset `o` of bank `b`, handle `h`, an immediate. -/
def dBank (b o : Nat) : BitVec 88 := BitVec.ofNat 88 (o + 2 ^ 20 * b)
def dHnd (h : Nat) : BitVec 88 := BitVec.ofNat 88 (0xD00000 + 2 ^ 15 * h)
def dImm (v : Nat) : BitVec 88 := BitVec.ofNat 88 (0xE00000 + 2 ^ 24 * v)
/-- A CX COPY of 16 elements of a bank to handle 1. -/
def tCopy : BitVec 512 := tRec 0x2010 1 1 (dHnd 1) (dBank 0 0) dNone dNone (3 + 2 ^ 11 * 15)
def tQr : QRec := { r := tCopy, who := { slot := 0, x := false }, serial := 1, ctx := 0, grp := 1, hD := tHnd 0x100 0 6 16 }
def tH (h : BitVec 256) : State := tS.setQ { tSeq with handles := [(1, h)] }

theorem test_w_Fences : tS.q.guard tGuard = true ∧ tS.q.wait = none ∧
    -- scopes below 3, 3 and 4, nothing pending; a store pending in the fabric, in Ethernet; records none and one
    (2 : BitVec 3).toNat < 3 ∧ (tS.fabPending tS.uid false = false ∧ tS.ethPending tS.uid false = false) ∧
    tFb.fabPending tFb.uid tFb.cur.x = true ∧ tEp.ethPending tEp.uid tEp.cur.x = true ∧
    ((tS.openRecords 0).any (fun r => r.who == tS.cur)) = false ∧
    ((tSl fun t => { t with qcx := [tQr] }).openRecords 0).any (fun r => r.who == tS.cur) = true ∧
    -- standing fences
    (tWt { ins := .fence tGuard 1 4 }).q.wait = some { ins := .fence tGuard 1 4 } ∧
    (tFb.setQ { tSeq with wait := some { ins := .fence tGuard 1 3 } }).fabPending tFb.uid false = true ∧
    (tWt { ins := .fenceE tGuard 1 }).q.wait = some { ins := .fenceE tGuard 1 } ∧ Calm (tWt { ins := .fenceE tGuard 1 }) ∧
    -- a failed package is told at any scope from PKG, a failed node at SYS
    told 3 (false, 1) = true ∧ told 3 (true, 1) = false ∧ told 4 (true, 1) = true := by decide

/-- Semaphore 0 at 7, at 7 + 32,767 and at 6; the threshold is s1, 7. -/
def tSem (m : Sem) : State := tC fun c => c.setSem 0 m
theorem test_w_SemaphoreInstructions : tS.q.guard tGuard = true ∧ Handled tS ∧
    ((tSem { poison := true }).sem (tSem { poison := true }).cx 0).poison = true ∧
    (∀ n, n = 7 ∨ n = 32774 ∨ n = 6 ∨ n = 32775 → (tSem { count := n }).sem 0 0 = { count := n }) ∧
    (let pass (n : Nat) : Prop := (n + 2 ^ 16 - (BitVec.ofNat 16 (0 + (tS.q.s 1).toNat)).toNat) % 2 ^ 16 < 2 ^ 15
     pass 7 ∧ pass 32774 ∧ ¬pass 6 ∧ ¬pass 32775) ∧
    (tWt { ins := .semwait tGuard 1 0 0 }).q.wait = some { ins := .semwait tGuard 1 0 0 } ∧ Calm (tWt { ins := .semwait tGuard 1 0 0 }) := by
  refine ⟨by decide, by decide, by decide, ?_, by decide, by decide, by decide⟩
  rintro n (rfl | rfl | rfl | rfl) <;> decide

theorem test_w_ArchitecturalQueueTransfers : tS.q.guard tGuard = true ∧ tS.q.wait = none ∧
    -- A pushes aq0 to aq2 and pops aq3; X the others
    (tS.cur.x = ((2 : BitVec 2) == 3) ∧ tX.cur.x = ((3 : BitVec 2) == 3) ∧ tS.cur.x = ((3 : BitVec 2) != 3) ∧ tX.cur.x = ((0 : BitVec 2) != 3)) ∧
    (tS.setSeq { slot := 0, x := true } {}).other.stopped = true ∧ tS.other.stopped = false ∧
    entries (tSl fun t => { t with aq0 := List.replicate 31 5 }).sl 0 = List.replicate 31 5 ∧
    (entries (tSl fun t => { t with aq0 := List.replicate 32 5 }).sl 0).length = 32 ∧
    entries (tSl fun t => { t with aq2 := [true, false] }).sl 2 = [1, 0] ∧ entries (tSl fun t => { t with aq2 := [false] }).sl 2 = [0] ∧
    entries tS.sl 2 = [] ∧ entries (tSl fun t => { t with aq3 := [9] }).sl 3 = [9] ∧
    -- standing transfers
    (tWt { ins := .aqpush tGuard 0 1 }).q.wait = some { ins := .aqpush tGuard 0 1 } ∧
    (tWt { ins := .aqpush tGuard 0 1 }).other.stopped = false ∧ (entries (tWt { ins := .aqpush tGuard 0 1 }).sl 0).length < 32 ∧
    (tXt { ins := .aqpop tGuard 2 1 }).q.wait = some { ins := .aqpop tGuard 2 1 } ∧
    ((tXt { ins := .aqpop tGuard 0 1 }).setSeq { slot := 0, x := false } {}).other.stopped = true ∧
    Calm (tWt { ins := .aqpush tGuard 0 1 }) ∧ Calm (tXt { ins := .aqpop tGuard 2 1 }) := by decide

theorem test_w_TimeAndLockedWindows : tS.q.guard tGuard = true ∧ tS.q.wait = none ∧ Handled tS ∧
    -- the time has come, to the nanosecond, and has not
    (tS.q.s 0).toNat ≤ tS.clk.time.toNat ∧ tS.clk.time.toNat < (tS.q.s 1).toNat ∧
    -- LOCKMAX + 1 and LOCKMAX
    tS.cxv.lockmax.toNat < (50001 : BitVec 32).toNat ∧ (50000 : BitVec 32).toNat ≤ tS.cxv.lockmax.toNat ∧
    (tS.sl.task = some { ctx := 0, grp := 1 } ∧ ({ ctx := 0, grp := 1 } : Task).stage = none ∧ tS.cxv.gauge.lo = false) ∧
    (tWt { ins := .waitt tGuard 1 }).q.wait = some { ins := .waitt tGuard 1 } ∧
    (tWt { ins := .waittLock tGuard 0 50000 }).q.wait = some { ins := .waittLock tGuard 0 50000 } ∧
    Calm (tWt { ins := .waitt tGuard 1 }) ∧ Calm (tWt { ins := .waittLock tGuard 0 50000 }) ∧
    (tS.slot 0).lockend.toNat ≤ tS.clk.time.toNat ∧
    tS.clk.time.toNat < ((tSl fun t => { t with lockend := 1 }).slot 0).lockend.toNat := by decide

theorem test_w_HandlesAndWindows_handles : tS.q.guard tGuard = true ∧ Handled tS ∧ (11 : BitVec 6).toNat < 12 ∧
    10 < hFmt (tHnd 0 0 11 1) ∧ hFmt (tHnd 0 0 7 32) = 7 ∧ (tS.q.s 1).toInt % 32 ≠ 0 ∧ (tS.q.s 3).toInt % 32 = 0 ∧
    hFmt (tHnd 0 0 10 8) ≤ 10 ∧ hFmt (tHnd 0 0 10 8) ≠ 7 ∧ handleOk (tHnd 0 6 0 1) = false ∧
    (let h := tHnd 0x100 0 6 8; handleOk h = true ∧ (tS.q.s 1).toNat < hExt h 0 * hExt h 1 * hExt h 2 * hExt h 3) ∧
    (let h := tHnd 0x100 0 6 7; handleOk h = true ∧ hExt h 0 * hExt h 1 * hExt h 2 * hExt h 3 ≤ (tS.q.s 1).toNat) ∧
    (tS.q.s 1).toNat % 32 ≠ 0 ∧ (tS.q.s 3).toNat % 32 = 0 ∧ Reachable tS 64 .read 32 tLeaf ∧ Reachable tS 64 .write 32 tLeaf ∧
    (tS.q.s 3).toNat < 12 * 2 ^ 18 ∧ tS.hasBank 0 0 = true ∧ tS.mem.ue = [] ∧
    -- SP outside its banks; DS inside and outside the launch's part; G without a translation, and not to be written
    ¬((2 ^ 22 : Word).toNat < 12 * 2 ^ 18 ∧ tS.hasBank 0 ((2 ^ 22 : Word).toNat / 2 ^ 18) = true) ∧
    (tS.grp tS.sl.grpOf = some tGrp ∧ tS.launchOf tS.cx = some tLaunch ∧ (0xFFE0 : Nat) < 2 ^ 26 ∧ 0xFFE0 < hdrN tLaunch.hdr 4 4 * 65536 ∧
      ¬(0x10000 < hdrN tLaunch.hdr 4 4 * 65536)) ∧
    tS.translate 0 0x200000 .write = .trap { code := 5, eval := 0x200000 } ∧
    tS.translate 0 0x400000 .read = .trap { code := 4, eval := 0x400000 } := by decide +kernel

/-- A pin table without room. -/
def tFull : Tbl Nat := List.replicate 262144 (1, 1)
theorem tFull_get (n k : Nat) (h : k ≠ 1) : tblGet (List.replicate n ((1 : Nat), 1)) k = none := by
  induction n with
  | zero => rfl
  | succ n ih => simp [List.replicate_succ, tblGet, ih, Ne.symm h]
theorem tFull_room (s : State) (p : Nat) (h : p ≠ 1) : ({ s with mem := { s.mem with pins := tFull } } : State).pinRoom [p] = false := by
  have hn : tblGet tFull p = none := tFull_get _ _ h
  have hl : tFull.length = 262144 := List.length_replicate
  simp only [State.pinRoom, hn, hl, List.filter, Option.isNone_none, List.length_singleton]
  rfl

/-- One window, and all 256 of them. -/
def tWin : Win := { base := 0, span := 64, rd := true, wr := true, fab := true, net := false, pins := [0] }
def tWs (n : Nat) : Tbl Win := (List.range n).map fun k => (k, tWin)

theorem test_w_HandlesAndWindows_windows : tS.q.guard tGuard = true ∧ Handled tS ∧
    -- flags 3, which enable nothing; an RO handle to write through; the most that a window spans, and more
    ¬(4 ≤ (3 : Word).toNat) ∧ (let h := tHnd 0x100 0 6 16 ||| 2 ^ 76; WindowOk h 6 ∧ hRo h = true) ∧
    WindowOk (tHnd 0x100 0 6 16) 7 ∧ (hRo (tHnd 0x100 0 6 16) = false) ∧ ¬WindowOk (tHnd 0x100 0 6 16) 16 ∧
    tblFree (tWs 256) 256 = none ∧ tblFree (tWs 255) 256 = some 255 ∧
    tS.spanPages (spanFuel (hSpan (tHnd 0x100 0 6 16))) 0 .rw 0x100 (hSpan (tHnd 0x100 0 6 16)) = .ok [0] ∧ tS.pinRoom (dedup [0]) = true ∧
    -- a table on a stack that is not ready
    (let h := tHnd 0x100 0 6 16; ({ tS with mem := { tMem with stk := [] } } : State).spanPages (spanFuel (hSpan h)) 0 .rw 0x100 (hSpan h) = .stall) ∧
    -- a span on pages that are not to be written; a dense handle of more than 2 ^ 44 bytes
    (let h := tHnd 0x200000 0 6 16; WindowOk h 6 ∧ hRo h = false ∧
      tS.spanPages (spanFuel (hSpan h)) 0 .write (hBase h) (hSpan h) = .trap { code := 5, eval := 0x200000 }) ∧
    (let h : BitVec 256 := BitVec.ofNat 256 (2 ^ 68 * 6 + 3 * 2 ^ 72 + (2 ^ 96 + 2 ^ 112 + 2 ^ 128) * 65535 + 2 ^ 144 + 2 ^ 160 * 1 + 2 ^ 192 * 65535 + 2 ^ 224 * (65535 * 65535))
     handleOk h = true ∧ hSpace h = 0 ∧ hRo h = false) ∧
    -- WINREV
    tblGet tS.cxv.windows 0 = none ∧ (let s := tC fun c => { c with windows := tWs 1 };
      tblGet s.cxv.windows 0 = some tWin ∧ s.windowBusy s.cx 0 = false) ∧
    (let s := tC fun c => { c with windows := tWs 1, stash := [(0, { time := 0, req := { src := 1, ctx := 0, gang := 0, win := 0, off := 0, data := [1] } })] };
      tblGet s.cxv.windows 0 = some tWin ∧ s.windowBusy s.cx 0 = true ∧ s.q.wait = none) ∧
    (let s := (tC fun c => { c with windows := [(0, { tWin with revoking := true })] }).setQ { tSeq with wait := some { ins := .winrev tGuard 1 4 } };
      s.q.wait = some { ins := .winrev tGuard 1 4 } ∧ s.windowBusy s.cx 0 = false ∧ (s.q.s 4).toNat = 0) ∧
    ({ tWin with revoking := true } : Win).revoking = true ∧ tWin.revoking = false := by decide +kernel
theorem test_w_HandlesAndWindows_pins : tS.q.wait = none ∧ ({ tS with mem := { tMem with pins := tFull } } : State).pinRoom [0] = false :=
  ⟨by decide, tFull_room tS 0 (by decide)⟩

theorem test_w_EnqueueOfRecords :
    (let s := tH (tHnd 0x100 0 6 16)
     s.q.guard tGuard = true ∧ s.cur.x = (Eng.cx != .cx) ∧ Handled s ∧ (s.q.s 1).toNat % 64 ≠ 0 ∧
     -- 64 bytes of a bank that the group has
     ((2 ^ 22 : Word).toNat % 64 = 0 ∧ ¬((2 ^ 22 : Word).toNat < 12 * 2 ^ 18 ∧ s.hasBank 0 ((2 ^ 22 : Word).toNat / 2 ^ 18) = true)) ∧
     (s.q.s 3).toNat % 64 = 0 ∧ (s.q.s 3).toNat < 12 * 2 ^ 18 ∧ s.hasBank 0 ((s.q.s 3).toNat / 2 ^ 18) = true ∧ s.mem.ue = [] ∧
     -- a record that fails, one that is accepted, and its pages
     s.checkRecord .cx 0 = .error { code := 1, eval := 7 } ∧ s.checkRecord .cx tCopy = .ok tQr ∧
     s.recordPages tQr = .ok [0] ∧ s.pinRoom [0] = true ∧ (s.sl.queue .cx).length < 16) ∧
    (tH (tHnd 0x200000 0 6 16)).recordPages { tQr with hD := tHnd 0x200000 0 6 16 } = .trap { code := 5, eval := 0x200000 } ∧
    ({ tH (tHnd 0x100 0 6 16) with mem := { tMem with stk := [] } } : State).recordPages tQr = .stall ∧ tS.q.wait = none ∧
    (tSl fun t => { t with qcx := List.replicate 16 tQr }).sl.queue .cx = List.replicate 16 tQr ∧ tX.cur.x = (Eng.mx != .cx) ∧
    -- those that wait
    (tWt { ins := .enq tGuard .cx tCopy, tok := 2, held := some tQr }).q.wait = some { ins := .enq tGuard .cx tCopy, tok := 2, held := some tQr } ∧
    (tWt { ins := .enq tGuard .cx tCopy, tok := 1, held := some tQr }).recordPages tQr = .ok [0] ∧ Calm (tWt { ins := .enq tGuard .cx tCopy, tok := 1, held := some tQr }) := by decide +kernel
/-- An op that is not assigned, one of another engine, and a record that is taken with its handle. -/
theorem test_w_EnqueueOfRecords_capture : opAssigned (tRec 0x0FF0 1 1 dNone dNone dNone dNone 0) = false ∧
    (opAssigned tCopy = true ∧ rEng tCopy ≠ codeOf .vx ∧ rEng tCopy = codeOf .cx) ∧ dSpace (descD tCopy) = 0xD ∧
    (tH (tHnd 0x100 0 6 16)).q.h (dHandle (descD tCopy)) = tHnd 0x100 0 6 16 ∧ tQr.writesTo 0 = true := by decide +kernel
/-- A WINREG and an ENQ that wait for pins. -/
theorem test_w_EnqueueOfRecords_waits : (let w : Wait := { ins := .winreg tGuard 1 2 3 }; (tWt w).q.wait = some w ∧ Calm (tWt w)) ∧
    (let s := tWt { ins := .enq tGuard .cx tCopy, tok := 1, held := some { tQr with hD := tHnd 0x200000 0 6 16 } }
     s.recordPages { tQr with hD := tHnd 0x200000 0 6 16 } = .trap { code := 5, eval := 0x200000 }) :=
  ⟨by decide, by decide +kernel⟩
theorem test_w_EnqueueOfRecords_kind (g : Guard) (d : SReg) (a : HReg) (b : SReg) : Instr.enq tGuard .cx tCopy ≠ .winreg g d a b := by
  intro h; cases h
theorem test_w_EnqueueOfRecords_pins : ({ tS with mem := { tMem with pins := tFull } } : State).pinRoom [0] = false := tFull_room tS 0 (by decide)

theorem test_w_PollAndPause : tS.q.guard tGuard = true ∧ tS.q.wait = none ∧ Handled tS ∧
    (tS.q.s 1).toNat % 8 ≠ 0 ∧
    (tS.grp tS.sl.grpOf = some tGrp ∧ tS.launchOf tS.cx = some tLaunch ∧ tS.mem.ue = [] ∧ (tS.q.s 3).toNat < hdrN tLaunch.hdr 4 4 * 65536) ∧
    Reachable tS 64 .read 8 tLeaf ∧ tS.mem.hbm.readLE 0x200040 8 = 0x2A ∧
    -- at the value, and beside it
    (pollTrue .eq 4 0x2A 0x10000002A ∧ ¬pollTrue .eq 8 0x2A 0x10000002A ∧ ¬pollTrue .ne 4 0x2A 0x2A ∧ pollTrue .geu 4 0x2A 0x2A ∧
      ¬pollTrue .geu 4 0x2A 0x2B ∧ ¬pollTrue .ltu 4 0x2A 0x2A ∧ pollTrue .ltu 4 0x2A 0x2B) ∧
    min (tS.q.s 0).toNat 1048576 = 0 ∧ min (tS.q.s 1).toNat 1048576 ≠ 0 ∧
    (let w : Wait := { ins := .poll tGuard .geu .g true 4 3 1 }; (tWt w).q.wait = some w ∧ w.tok = 0 ∧ Calm (tWt w)) ∧
    -- s1 is 7: 28 quarters of a cycle, all of them counted, and none
    (let gone (s : State) (w : Wait) : Nat :=
       w.seen + (if (s.die (s.cur.slot / 128)).therm = .throttle then 5 else 10) * (s.now - w.upto.getD w.since).toNat
     (let w : Wait := { ins := .pause tGuard 1, seen := 28 }; (tWt w).q.wait = some w ∧ 4 * min (tS.q.s 1).toNat 1048576 ≤ gone (tWt w) w) ∧
     (let w : Wait := { ins := .pause tGuard 1 }; (tWt w).q.wait = some w ∧ gone (tWt w) w < 4 * min (tS.q.s 1).toNat 1048576)) := by decide +kernel

-- Remote accesses, tasks, edges, scopes, counters, collectives (RemoteLoadsAndStores to TriggeredOperationsFire).

/-- The machine with a port that meets package 1, a node 1 and the SELF node 2, a host session 1 with one window, and a window of
its own at 0. -/
def tF : State := { tC (fun c => { c with windows := [(0, { tWin with span := 0x1000, net := true })] }) with
  fab := { routes := [(1, 0x8000)], ports := [(0, { ready := true })] }
  eth := { nodes := [(1, { ip := 0, ports := 1, enc := false, self := false }), (2, { ip := 0, ports := 1, enc := false, self := true })]
           sessions := [(1, { windows := [(0, { addr := 0, len := 4096, rd := true, wr := true })] })] } }
/-- It with scalars of A as given. -/
def tFr (l : Tbl Word) : State := tF.setQ { tSeq with regs := l }
/-- The connection with package 1 down; its queue full. -/
def tDown : State := { tF with fab := { tF.fab with conns := [(1, { down := true })] } }
def tQfull (n : Nat) : State := { tF with fab := { tF.fab with ports := [(0, { ready := true, queues := [(1, List.replicate n tPut)] })] } }
theorem tOwn : OwnWindow tF (tF.tctx 0 0) false 0x40 8 false 0x40 :=
  ⟨_, { tWin with span := 0x1000, net := true }, rfl, by decide, by decide, by decide, by decide, by decide, by decide, by decide, by decide⟩
theorem tOwn_write : OwnWindow tF (tF.tctx 0 0) false 0x40 8 true 0x40 :=
  ⟨_, { tWin with span := 0x1000, net := true }, rfl, by decide, by decide, by decide, by decide, by decide, by decide, by decide, by decide⟩

theorem test_w_RemoteLoadsAndStores_fabric : tF.q.guard tGuard = true ∧ tF.q.wait = none ∧ Handled tF ∧
    (effAddr (tFr [(5, 4)]).q tM).toNat % 8 ≠ 0 ∧ (effAddr (tFr [(5, 0x0010000000000040)]).q tM).toNat % 8 = 0 ∧
    -- a flag that is misaligned, on another peer, on the same peer
    ((0x0010000000000044 : Word).toNat % 8 ≠ 0 ∧ (0x0020000000000040 : Word).toNat / 2 ^ 52 ≠ (0x0010000000000040 : Word).toNat / 2 ^ 52) ∧
    Sendable tF 0x0010000000000040 0 ∧ (tDown.conn 1).down = true ∧ tF.homePort 2 = none ∧ (tF.conn 2).down = false ∧ (tF.ctx 0).resident = true ∧ (tF.ctx 0).saving = false ∧ tF.q.stopped = false ∧ (2 : Nat) ≠ tF.pkgId ∧
    ((tQfull 511).port 0).room 1 = 1 ∧ ((tQfull 512).port 0).room 1 = 0 ∧ (tQfull 512).homePort 1 = some 0 ∧
    (0x40 : Word).toNat / 2 ^ 52 = tF.pkgId ∧ tF.pinnedRead 9 (tF.tctx 0 0) 0x40 8 = .ok [0x2A, 0, 0, 0, 0, 0, 0, 0] ∧
    (tF.pinnedWrite 9 (tF.tctx 0 0) 0x40 (bytesOfLE 8 7)).toOption.isSome = true ∧
    tblGet tF.ctxs (tF.tctx 0 0) = some (tF.ctx 0) ∧ tblGet (tF.ctx 0).windows (0x100000000040 / 2 ^ 44 % 256) = none := by decide +kernel

theorem test_w_RemoteLoadsAndStores_ethernet :
    -- no node 3, a failed node, no session 3, no window 1
    tblGet tF.eth.nodes 3 = none ∧ tblGet tF.eth.sessions 3 = none ∧
    (let d : Node := { ip := 0, ports := 1, enc := false, self := false, failed := true }; d.self = false ∧ d.failed = true) ∧
    (tblGet tF.eth.sessions 1).map (fun d => (tblGet d.windows 1, d.failed)) = some (none, false) ∧
    (tblGet tF.eth.nodes 1).map (fun d => (d.self, d.failed, d.enc)) = some (false, false, false) ∧
    ((tblGet tF.eth.sessions 1).map (fun d => tblGet d.windows 0)) = some (some { addr := 0, len := 4096, rd := true, wr := true }) ∧
    (tblGet tF.eth.nodes 2).map Node.self = some true ∧ tF.pinnedRead 9 tF.cx 0x40 8 = .ok [0x2A, 0, 0, 0, 0, 0, 0, 0] := by decide +kernel
theorem test_w_RemoteLoadsAndStores_self : OwnWindow tF tF.cx true 0x0020000000000040 8 true 0x40 :=
  ⟨_, { tWin with span := 0x1000, net := true }, rfl, by decide, by decide, by decide, by decide, by decide, by decide, by decide, by decide⟩

theorem test_w_RemoteAtomicsAndPolls : tF.q.guard tGuard = true ∧ tF.q.wait = none ∧
    ({ wide := true, space := .f, acq := false, rel := false, data := 1, base := 5, disp := 0 } : AmoFields).space = .f ∧
    Sendable tF 0x0010000000000040 0 ∧ tF.pinnedRead 9 (tF.tctx 0 0) 0x40 8 = .ok [0x2A, 0, 0, 0, 0, 0, 0, 0] ∧
    (tF.pinnedWrite 9 (tF.tctx 0 0) 0x40 (bytesOfLE 8 7)).toOption.isSome = true ∧
    pollTrue .eq 8 (leOfBytes [0x2A, 0, 0, 0, 0, 0, 0, 0]) 0x2A ∧ ¬pollTrue .eq 8 (leOfBytes [0x2A, 0, 0, 0, 0, 0, 0, 0]) 0x2B := by decide +kernel

/-- A launch record of some of its fields: DS 1, one level, queues of two records at 0x8000, two queues, two edges. -/
def tHdr : BitVec 2048 :=
  BitVec.ofNat 2048 (2 ^ 32 + 2 ^ 16 + 2 ^ (8 * 56) * 0x8000 + 2 ^ (8 * 73) + 2 ^ (8 * 74) * 2 + 2 ^ (8 * 76) * 2)
/-- Edge 0 in G at 0x800 with one item and one free place, edge 1 in DS, empty. -/
def tEdge (items free : Nat) (ds : Bool) : Edge := { ring := 0x800, ds := ds, scope := 0, vdie := 0, cap := 2, items := items, free := free }
def tL : Launch := { hdr := tHdr, serial := 1, nextGrp := 1, edges := [(0, tEdge 1 1 false), (1, tEdge 0 2 true)] }
/-- The machine with this launch, and `n` bytes more at an address of its page. -/
def tT (va n v : Nat) : State :=
  let s := tC fun c => { c with launch := some tL }
  { s with mem := { s.mem with hbm := s.mem.hbm.writeLE (0x200000 + va) n v } }
def tLeafAt (va : Nat) : Leaf := { tLeaf with pa := 0x200000 + va }
def tSpawn : Spawn := { bytes := List.replicate 64 0, level := 0, idx := [], s8 := [] }

theorem test_w_TasksSpawnAndEnd_spawn :
    (let s := tT 0x400 0 0
     s.launchOf s.cx = some tL ∧ s.grp s.sl.grpOf = some tGrp ∧ s.q.guard tGuard = true ∧ Handled s ∧ s.q.wait = none ∧
     hdrN tL.hdr 74 2 = 2 ∧ (s.q.s 1).toNat % 64 ≠ 0 ∧ (s.q.s 3).toNat % 64 = 0 ∧
     Reachable s 0x400 .read 64 (tLeafAt 0x400) ∧ Reachable s (hdrW tL.hdr 56) .write 64 (tLeafAt 0x8000) ∧ (hdrW tL.hdr 56).toNat % 64 = 0 ∧
     firstBad (s.mem.hbm.readBytes 0x200400 64) (hdrN tL.hdr 2 1 % 16) (hdrN tL.hdr 76 2) = none ∧
     (tblGetD tL.tqs 1 {}).items.length < 2 ^ hdrN tL.hdr 73 1) ∧
    -- LEVEL 1 of one level, and edge 2 of two
    firstBad ((tT 0x430 1 1).mem.hbm.readBytes 0x200400 64) (hdrN tL.hdr 2 1 % 16) (hdrN tL.hdr 76 2) = some 48 ∧
    firstBad ((tT 0x428 2 0x1002).mem.hbm.readBytes 0x200400 64) (hdrN tL.hdr 2 1 % 16) (hdrN tL.hdr 76 2) = some 40 ∧
    2 ^ hdrN tL.hdr 73 1 ≤ ({ tail := 2, items := [tSpawn, tSpawn] } : TaskQ).items.length ∧
    (let w : Wait := { ins := .tspawn tGuard 3 1, read := List.replicate 64 0 }; (tWt w).q.wait = some w ∧ w.read.length = 64) := by decide +kernel

/-- A slot with a scope of eight registers, and a record that names a tile register. -/
def tScope : Scope := { n := 8, cl := [.on], mem := [] }
def tTile : QRec := { tQr with r := tRec 0x1110 1 1 0xC00000 0xC00000 dNone dNone 3, who := { slot := 0, x := true } }
theorem test_w_TasksSpawnAndEnd_end : tS.q.guard tGuard = true ∧ tS.sl.scope = none ∧ tS.other.stopped = false ∧ tS.q.wait = none ∧
    (tS.sl.task = some { ctx := 0, grp := 1 } ∧ ({ ctx := 0, grp := 1 } : Machine.Task).ended = false ∧ tS.recordsOf 0 = [] ∧ tS.takenOf 0 = []) ∧
    (tSl fun t => { t with qcx := [tQr] }).recordsOf 0 ≠ [] ∧
    (let s := tSl fun t => { t with scope := some tScope, qvx := [tTile] }
     s.sl.scope ≠ none ∧ (s.takenOf 0).any (fun q => [descD q.r, descA q.r, descB q.r, descC q.r].any (fun d => d.extractLsb' 20 4 == 0xC)) = true) ∧
    (let w : Wait := { ins := .tend tGuard }; (tWt w).q.wait = some w ∧ (tWt w).sl.scope = none ∧ (tWt w).q.held = []) ∧
    tS.q.held = [] ∧ firstHeld [{ code := 0x0A, eval := 5 }, { code := 4, eval := 1 }] = some { code := 4, eval := 1 } ∧
    (let h : Trp := { code := 0x0A, eval := 5 }
     let s := tS.setQ { tS.q with held := [h] }
     firstHeld s.q.held = some h ∧ s.q.guard tGuard = true ∧ s.sl.scope = none) := by decide +kernel

theorem test_w_EdgeInstructions :
    (let s := tT 0x800 8 9
     s.launchOf s.cx = some tL ∧ s.sl.task = some { ctx := 0, grp := 1 } ∧ s.grp s.sl.grpOf = some tGrp ∧ s.q.guard tGuard = true ∧
     Handled s ∧ s.q.wait = none ∧ hdrN tL.hdr 76 2 = 2 ∧ tblGet tL.edges 0 = some (tEdge 1 1 false) ∧
     tblGet tL.edges 1 = some (tEdge 0 2 true) ∧ (tEdge 0 2 true).vdie = tGrp.vdie) ∧
    -- a free place, and an item; neither; an edge of another die
    (tEdge 1 1 false).resF < (tEdge 1 1 false).free ∧ (tEdge 1 1 false).resI < (tEdge 1 1 false).items ∧
    (tEdge 2 0 false).free ≤ (tEdge 2 0 false).resF ∧ (tEdge 0 2 true).items ≤ (tEdge 0 2 true).resI ∧
    ({ tEdge 0 2 true with vdie := 1 } : Edge).vdie ≠ tGrp.vdie ∧
    (let w : Wait := { ins := .epush tGuard 1 0 }; (tWt w).q.wait = some w) ∧
    (let w : Wait := { ins := .epop tGuard 1 0 }; (tWt w).q.wait = some w) := by decide +kernel
theorem test_w_EdgeInstructions_item : RingItem (tT 0x800 8 9) tL (tEdge 1 1 false) 0 9 :=
  .inl ⟨rfl, tLeafAt 0x800, by decide +kernel, by decide, by decide +kernel⟩
theorem test_w_EdgeInstructions_room : RingRoom (tT 0x800 8 9) tL (tEdge 1 1 false) 1 ∧ RingRoom (tT 0x800 8 9) tL (tEdge 0 2 true) 1 :=
  ⟨.inl ⟨rfl, tLeafAt 0x808, by decide +kernel, by decide⟩, .inr ⟨rfl, rfl, by decide, by decide +kernel⟩⟩

/-- A context with one task saved, from slot 0. -/
def tBack0 : State := { State.reset with
  ctxs := [(0, { resident := true }), (2, { savedSlots := [{ grp := 9, slot := {}, a := tSeq, x := tSeq }] })] }
theorem test_w_RegisterScopesAndClusters : tS.q.guard tGuard = true ∧ tS.q.wait = none ∧ Handled tS ∧
    (tSl fun t => { t with scope := some tScope }).sl.scope ≠ none ∧
    -- the whole file of 64 registers, and one cluster too many
    (tS.sl.scope = none ∧ (tS.core 0).scopeQ = [] ∧ (64 + 7) / 8 ≤ freeOf tS 0) ∧
    (let s := tS.setSlot 1 { scope := some tScope }; s.sl.scope = none ∧ freeOf s 0 < (57 + 7) / 8 ∧ (56 + 7) / 8 ≤ freeOf s 0) ∧
    (let s := tS.setCore 0 { scopeQ := [(.seq { slot := 0, x := false }, 8)] }
     (s.core 0).scopeQ = [(.seq { slot := 0, x := false }, 8)] ∧ (s.slot 0).scope = none ∧ (8 + 7) / 8 ≤ freeOf s 0) ∧
    -- a restore at the head, whose task is saved, and is not
    (let s := { tBack0 with cores := [(0, { scopeQ := [(.back 2 9 0, 8)] })] }
     (s.core 0).scopeQ = [(.back 2 9 0, 8)] ∧ (∃ v ∈ (s.ctx 2).savedSlots, v.grp = 9 ∧ v.from_ = 0) ∧
     ¬(∃ v ∈ (s.ctx 2).savedSlots, v.grp = 9 ∧ v.from_ = 1)) ∧
    -- VMODE and SCOPEC: no record in the way, and one
    (let s := tSl fun t => { t with scope := some tScope }; s.sl.scope = some tScope ∧ s.clusterNamed 0 0 = false ∧ s.vmodeStall 0 true 0 = none ∧
      (s.takenOf 0).any (fun q => [descD q.r, descA q.r, descB q.r, descC q.r].any (fun d => d.extractLsb' 20 4 == 0xC)) = false) ∧
    (let s := tSl fun t => { t with scope := some tScope, qvx := [tTile] }; s.clusterNamed 0 0 = true ∧ tScope.cl[0]? ≠ some .gated ∧ s.vmodeStall 0 true 0 = some 0 ∧ s.q.wait = none ∧
      (s.takenOf 0).any (fun q => [descD q.r, descA q.r, descB q.r, descC q.r].any (fun d => d.extractLsb' 20 4 == 0xC)) = true) ∧
    (let w : Wait := { ins := .vmode tGuard 1 false }; (tWt w).q.wait = some w) ∧
    (let w : Wait := { ins := .scopec tGuard }; (tWt w).q.wait = some w) ∧
    -- a SCOPEO at the head of its queue with an asynchronous cause due
    (let s := (tWt { ins := .scopeo tGuard 8 }).setCore 0 { scopeQ := [(.seq { slot := 0, x := false }, 8)] }
     let u := s.setQ { s.q with held := [{ code := 0x0A, eval := 0 }] }
     u.q.held ≠ [] ∧ u.q.intrap = false ∧ u.q.wait.map (·.ins) = some (.scopeo tGuard 8) ∧ (s.q.held = [] ∨ s.q.intrap = true)) ∧
    (let s := tSl fun t => { t with scope := some { n := 8, cl := [.waking true true], mem := [] } }
     (s.slot 0).scope = some { n := 8, cl := [.waking true true], mem := [] }) := by decide +kernel

/-- An operation armed by this machine; a table that holds `n` of them. -/
def tArm : Armed := { ctx := 0, ctr := 0, thr := 1, op := 1, dtype := 2 }
def tArms (s : State) (n : Nat) : State := { s with coll := { armed := List.replicate n (0, tArm) } }
theorem tArms_count (s : State) (n : Nat) : armedCount (tArms s n) = n := by simp [armedCount, tArms, tArm]

theorem test_w_CountersAndTriggers : tS.q.guard tGuard = true ∧ Handled tS ∧
    -- counters 4,096 and 4,095
    4096 ≤ ((tR [(1, 4096)]).q.s 1).toNat ∧ ((tR [(1, 4095)]).q.s 1).toNat < 4096 ∧ tS.coll.colls = [] ∧
    -- a descriptor of COPY for 0 bytes of format 2; MODE 6
    (let s := tT 0x440 8 0x20001; Reachable s 0x440 .read 64 (tLeafAt 0x440) ∧ DescriptorOk (s.mem.hbm.readBytes 0x200440 64)) ∧
    ¬DescriptorOk ((tT 0x440 8 0x20006).mem.hbm.readBytes 0x200440 64) ∧ (0x440 : Word).toNat % 64 = 0 ∧ (tS.q.s 1).toNat % 64 ≠ 0 ∧
    -- a threshold reached, at most 2^47 − 1 beyond, and not reached
    hasPassed 5 5 ∧ hasPassed (5 + 0x7FFFFFFFFFFF) 5 ∧ ¬hasPassed (5 + 0x800000000000) 5 ∧ ¬hasPassed 4 5 ∧
    (let w : Wait := { ins := .trig tGuard 1 2 3, held := some tQr }; (tWt w).q.wait = some w ∧ w.held = some tQr ∧ Calm (tWt w)) := by decide +kernel
theorem test_w_CountersAndTriggers_room : armedCount (tArms tS 16383) < 16384 ∧ 16384 ≤ armedCount (tArms tS 16384) := by
  simp only [tArms_count]; decide

/-- A parameter block at 0x480, of ALLREDUCE on the ring over 16 elements of FP32 in group 3, on counters from 0; group 3 is this package and
package 1, or others. -/
def tBlk : Nat := 1 + 2 ^ 16 * 6 + 2 ^ 24 + 2 ^ 32 * 3 + 2 ^ 64 * 16 + 2 ^ 128 * (tHnd 0x100 0 6 16).toNat + 2 ^ 384 * (tHnd 0x200 0 6 16).toNat + 2 ^ 704 * 0x600
def tCg (ms : List Member) : State := { tT 0x480 128 tBlk with coll := { groups := [(3, { owner := 0, enc := false, members := ms })] } }
def tMs : List Member := [{ addr := 0, kind := 0 }, { addr := 0x0010000000000000, kind := 0 }]
def tCo : State :=
  let s := tCg tMs
  { s with ctxs := [(0, { s.ctx 0 with windows := [(0, { tWin with span := 0x1000, net := true })] })], fab := tF.fab }

theorem test_w_CollectivesStart : tCo.q.guard tGuard = true ∧ Handled tCo ∧ (tCo.q.s 1).toNat % 64 ≠ 0 ∧
    ((0x480 : Word).toNat % 64 = 0 ∧ (0x480 : Word).toNat % 65536 ≤ 65408 ∧ Reachable tCo 0x480 .read 128 (tLeafAt 0x480)) ∧
    (let b := tCo.mem.hbm.readBytes 0x200480 128
     BlockOk b ∧ le b 4 2 = 3 ∧ tblGet tCo.coll.groups 3 = some { owner := 0, enc := false, members := tMs } ∧ tblGet tCo.coll.groups 4 = none ∧
     le b 8 8 % 2 = 0 ∧ (le b 8 8 % 3 ≠ 0) ∧ ¬4 ≤ le b 0 1) ∧ ¬BlockOk (tS.mem.hbm.readBytes 0x200480 128) ∧
    (∀ m ∈ [({ addr := 0x0010000000000000, kind := 0 } : Member)], m.net = false → m.addr.toNat / 2 ^ 52 ≠ tCo.pkgId) ∧
    -- no window
    (match (tCg tMs).collPlan (tCo.mem.hbm.readBytes 0x200480 128) with | .error e => e == 4 | .ok _ => false) = true ∧
    (match tCo.collPlan (tCo.mem.hbm.readBytes 0x200480 128) with
     | .error _ => false
     | .ok (v, ops) => v.status == 0x600 && decide (Reachable tCo v.status .write 8 (tLeafAt 0x600)) && !ops.isEmpty &&
         (List.range 20).all (fun j => !(tCo.ctr 0 (0 + j)).poison) && v.peers.all (fun m => !tCo.memberLost m)) = true ∧
    tCo.coll.colls = [] ∧ tCo.coll.armed = [] := by decide +kernel

theorem test_w_RingAllreduceSteps :
    (match tCo.collPlan (tCo.mem.hbm.readBytes 0x200480 128) with
     | .error _ => false
     | .ok (v, ops) => v.alg == 1 && ops.length == 2) = true ∧
    (let c : CollCtx := { k := blkOf (tCo.mem.hbm.readBytes 0x200480 128), ms := tMs, r := 1, win := 0, one := { tArm with lctr := 1, linc := 1 } }
     c.k.op = 1 ∧ c.ms.length = 1 + 1 ∧ c.r < 1 + 1 ∧ c.one.lctr = c.k.base + 1 ∧ c.one.linc = 1 ∧ c.ms[(c.r + 1) % (1 + 1)]? = tMs[0]?) := by decide +kernel

/-- One operation in the table, due and under number 5, with HBM and fabric to spend. -/
def tOp (a : Armed) : State := { tF with
  ctxs := [(0, { tF.ctx 0 with gauge := { lo := true }, accts := [(4 * 65536, { avail := 100 }), (5 * 65536, { avail := 100 })] })]
  coll := { armed := [(5, a)] } }
def tDue : Armed := { tArm with due := some 1, len := 64, src := 0x40, dst := 0x80 }
/-- An access that is made, and what it answers. -/
def accOk {α : Type} : Acc α → Bool | .ok _ => true | _ => false
theorem test_w_TriggeredOperationsFire :
    (tblGet (tOp tDue).coll.armed 5 = some tDue ∧ tDue.fired = false ∧ tDue.spent = false ∧ tDue.cause = 0 ∧
      (tOp tDue).canFire 5 tDue = true ∧ ((tOp tDue).ctr 0 0).poison = false ∧ 0 < (((tOp tDue).ctx 0).acct 4 0).avail ∧
      accOk ((tOp tDue).readG (tDue.len / 64 + 2) 0 tDue.src tDue.len) = true ∧
      accOk ((tOp tDue).writeG (tDue.len / 64 + 2) 0 tDue.dst (List.replicate 64 1)) = true) ∧
    (tOp { tDue with op := 5 }).canFire 5 { tDue with op := 5 } = true ∧
    (let a : Armed := { tDue with op := 2, dst := 0x0010000000000040 }
     (tOp a).canFire 5 a = true ∧ a.net = false ∧ a.off = 0 ∧ a.len ≤ (tOp a).cutLen 0 1 ∧ (1 : Nat) ≠ (tOp a).pkgId ∧ ((tOp a).conn 1).down = false ∧
     (tOp a).homePort 1 = some 0 ∧ 0 < ((tOp a).port 0).room 1) ∧
    (let s := { tOp tDue with ctxs := [(0, { (tOp tDue).ctx 0 with ctrs := [(0, { poison := true })] })] }
     s.canFire 5 tDue = true ∧ (s.ctr 0 0).poison = true) ∧
    -- not due, fired, and ended
    (tOp tArm).canFire 5 tArm = false ∧ ({ tDue with fired := true } : Armed).fired = true ∧
    (let a : Armed := { tDue with fired := true, spent := true, lctr := 4095 }
     a.pend = 0 ∧ a.coll = none ∧ a.lctr < 4096 ∧ a.cause = 0 ∧ (tOp a).coll.colls = [] ∧ tblGet (tOp a).coll.armed 5 = some a) ∧
    4096 ≤ tDue.lctr := by decide +kernel

-- Pipelines, asynchronous causes, pre-emption, errors (PipelineInstructions to FetchFaultsAndMachineChecks).

/-- A pipeline of one stage: four items of 64 bytes from 0x100, two ring slots at 0x900, X code of 8 bytes at 0x300. -/
def tDescN : Nat := 2 ^ 128 * 4 + 2 ^ 256 * (tHnd 0x100 0 6 64).toNat + 2 ^ 512 * (0x300 + 2 ^ 256 * 0x900 + 2 ^ 320 * 64 + 2 ^ 352 * 2 + 2 ^ 384 * 8)
def tDesc : List Byte := bytesOfLE 128 tDescN
def tP : State := tT 0x500 128 tDescN
/-- Its binding under number 0, attached, and the node it hosts. -/
def tBind : Bind := { ctx := 0, launch := 1, born := 2, inst := 2, bytes := tDesc, idx := [], isrc := 5, ids := [6], nodes := [0],
                      shared := 0, j0 := 0, last := 3, pins := [0], attached := true }
def tNode : StageNode := { ident := 6, inst := 2, k := 0, parent := none, owners := [0], host := 0, first := 0, next := 0, fin := 0 }
def tG (b : Bind) (v : StageNode) : State := { tP with graft := { binds := [(0, b)], stages := [(0, v)] } }
def exOk {α : Type} (x : Except Trp α) (p : α → Bool) : Bool := match x with | .ok a => p a | .error _ => false
def accP {α : Type} (x : Acc α) (p : α → Bool) : Bool := match x with | .ok a => p a | _ => false

theorem test_w_PipelineInstructions_bind : tP.q.guard tGuard = true ∧ Handled tP ∧ (tP.q.s 1).toNat % 64 ≠ 0 ∧ (0x500 : Word).toNat % 64 = 0 ∧
    tP.launchOf tP.cx = some tL ∧ (tDesc.take 64).length = 64 ∧
    accP (tP.readG 2 tP.cx 0x500 64 (some 0)) (fun (h, s0) => h == tDesc.take 64 &&
      accP (s0.readG 17 s0.cx 0x540 64 (some 0)) (fun (e, s1) => e == tDesc.drop 64 &&
        accP (s1.stageReads s1.cx tDesc (List.range 1)) (fun (rs, s2) => rs.all (fun r => r.hs.isEmpty) &&
          accP (s2.bindPages s2.cx tDesc rs) (fun pins => pins == [0] && s2.pinRoom pins)))) = true ∧
    tblFree tP.graft.binds 64 = some 0 ∧ tblFree ((List.range 64).map fun k => (k, tBind)) 64 = none ∧
    -- the search finds nothing, or the instance of the binding
    (tP.searchInst 5 [6] 0 false).isNone = true ∧ tP.graft.stages.length + 1 ≤ 1024 ∧
    ((tG tBind tNode).searchInst 5 [6] 0 false).isSome = true ∧ (tblFree (tG tBind tNode).coll.groups 1024).isSome = true := by
  decide +kernel
theorem test_w_PipelineInstructions_descriptor : PipelineOk tDesc tL ∧ ¬PipelineOk (bytesOfLE 128 0) tL := by
  refine ⟨?_, fun h => absurd h.2.2.2.2.2.2.2.2.1 (by decide +kernel)⟩
  unfold PipelineOk
  and_intros
  all_goals decide +kernel
theorem test_w_PipelineInstructions_nodes (s : State) :
    1024 < ({ s with graft := { stages := List.replicate 1024 (0, tNode) } } : State).graft.stages.length + 1 := by
  show 1024 < (List.replicate 1024 (0, tNode)).length + 1
  rw [List.length_replicate]; decide

theorem test_w_PipelineInstructions_query : (tG tBind tNode).q.guard tGuard = true ∧ tblGet (tG tBind tNode).graft.binds 7 = none ∧
    (tG { tBind with ctx := 1 } tNode).cx ≠ ({ tBind with ctx := 1 } : Bind).ctx ∧
    (tblGet (tG tBind tNode).graft.binds 0 = some tBind ∧ tBind.ctx = (tG tBind tNode).cx ∧ tBind.detaching = false) ∧
    ({ tBind with detaching := true } : Bind).detaching = true ∧ tBind.nodes = [0] ∧ tblGet (tG tBind tNode).graft.stages 0 = some tNode ∧
    -- queries 255 and 256, the last of the identities, and the one after it
    (256 : Nat) < 256 + (le tBind.bytes 0 1 % 16 + 1) ∧ tBind.ids[256 - 256]? = some 6 ∧ 256 + (le tBind.bytes 0 1 % 16 + 1) ≤ 257 ∧
    (tG tBind tNode).launchOf (tG tBind tNode).cx = some tL ∧ tBind.faulted = false ∧ tL.serial = tBind.launch ∧ tL.ending = none ∧
    tBind.j0 + tBind.pushed ≤ tBind.last ∧ ({ tBind with pushed := 4 } : Bind).last < tBind.j0 + 4 ∧
    -- its launch has ended, or another runs
    ({ tL with ending := some (5, {}) } : Launch).ending ≠ none ∧ ({ tL with serial := 2 } : Launch).serial ≠ tBind.launch ∧
    State.reset.launchOf 0 = none := by decide +kernel

theorem test_w_GraftEngine :
    -- to be attached
    (let b := { tBind with attached := false }; let s := tG b { tNode with owners := [] }
     tblGet s.graft.binds 0 = some b ∧ b.attached = false ∧ s.bindGone b = false ∧ s.firstChange b = true ∧
     s.quiesced b.inst (if b.shared = 0 then none else b.nodes[b.shared - 1]?) = true ∧ b.nodes.Nodup) ∧
    -- the first item is started
    (let s := tG tBind tNode
     tNode.host = 0 ∧ tNode.owners ≠ [] ∧ s.launchOf tBind.ctx = some tL ∧ tL.serial = tBind.launch ∧ tL.ending = none ∧ tBind.detaching = false ∧
     tNode.started 0 = false ∧ tNode.first ≤ 0 ∧ 0 ≤ s.lastOf tNode ∧ s.changing tNode.inst = false ∧ s.inputAt tNode tBind 0 = true ∧
     s.slotFree 0 tBind tNode.k 0 = true ∧ (tblGetD tL.tqs 0 {}).items.length < 2 ^ hdrN tL.hdr 73 1 ∧
     s.translate 0 0x8000 .write = .ok (tLeafAt 0x8000) ∧ s.stackAt 0x208000 = .ready) ∧
    -- and pushed once it is done
    (let v := { tNode with next := 1, fin := 1 }; let s := tG tBind v
     tBind.attached = true ∧ s.bindGone tBind = false ∧ tBind.faulted = false ∧ tBind.j0 + tBind.pushed ≤ tBind.last ∧ s.produced 0 tBind 0 = true ∧
     tblGet tL.edges (le tBind.bytes 2 2 % 4096) = some (tEdge 1 1 false) ∧ (tEdge 1 1 false).resF < (tEdge 1 1 false).free ∧
     s.translate 0 0x800 .write = .ok (tLeafAt 0x800)) ∧
    -- detached
    (let b := { tBind with detaching := true, left := true }; let v := { tNode with owners := [], next := 4 }; let s := tG b v
     s.bindGone b = true ∧ b.left = true ∧ s.keptFor 0 = false ∧ v.owners = [] ∧ s.nodeLive 0 = false ∧ s.mem.keys.all (fun e => !e.2.dying) = true) := by
  decide +kernel
/-- The ring of the binding takes no copies: it hosts its node itself. -/
theorem test_w_GraftEngine_copies (j : Nat) : (tG tBind { tNode with next := 1, fin := 1 }).copiesAt 0 tBind j = false := by
  match j with
  | 0 => decide +kernel
  | _ + 1 => rfl

/-- A slot to be saved, with a stop asked for, and one with a pre-emption asked for. -/
def tPre : State := tSl fun t => { t with preReq := true }
def tHeld (h : List Trp) : State := tS.setQ { tSeq with held := h }
/-- A context chosen to come back with one group and one task. -/
def tSaved : Ctx :=
  { launch := some tL, admitted := true, savedGrps := [{ key := 9, grp := tGrp }]
    savedSlots := [{ grp := 9, slot := { task := some { ctx := 2, grp := 9 } }, a := tSeq, x := tSeq }] }
def tBack : State := { State.reset with
  ctxs := [(0, { resident := true }), (2, tSaved)], cores := [(0, { power := .on })], dies := [(0, { ready := true })] }

theorem test_w_AsynchronousCausesAndPreemption :
    (let s := tHeld [{ code := 0x12, eval := 0 }, { code := 0x20, eval := 1 }]
     (s.seq s.cur).held ≠ [] ∧ (s.seq s.cur).stopped = false ∧ (s.seq s.cur).intrap = false ∧ (s.seq s.cur).tvec.getLsbD 0 = true ∧
     (s.slot 0).halted = false ∧ (s.seq s.cur).wait = none ∧ (s.core 0).scopeQ = [] ∧
     ((s.seq s.cur).held.filter (fun h => h.code == 0x20)).length ≤ 1) ∧
    (tS.seq tS.cur).held = [] ∧
    -- a cause that is due where an instruction stands, of each kind
    (∀ i ∈ [Instr.semwait tGuard 1 2 3, .waitt tGuard 1, .waittLock tGuard 1 5, .aqpush tGuard 0 1, .aqpop tGuard 3 1, .fence tGuard 1 3, .fenceE tGuard 1,
        .poll tGuard .geu .g true 4 3 1], let s := tS.setQ { tSeq with wait := some { ins := i }, held := [{ code := 0x12, eval := 0 }] }
      s.q.held ≠ [] ∧ s.q.intrap = false ∧ s.q.wait = some { ins := i }) ∧
    (tSl fun t => { t with lockend := 5 }).sl.lockend ≠ 0 ∧ (tS.slot 0).preReq = false ∧
    (tPre.slot 0).task = some { ctx := 0, grp := 1 } ∧ (tPre.slot 0).lockend = 0 ∧ (tPre.slot 0).preReq = true ∧ tPre.quiet 0 = true ∧
    ((tPre.seq { slot := 0, x := false }).wait = none ∧ (tPre.seq { slot := 0, x := true }).wait = none) ∧
    (tSl fun t => { t with stopReq := true }).sl.stopReq = true ∧
    (tS.ctx 0).admitted = false ∧ (tBack.ctx 2).admitted = true ∧ (tBack.ctx 2).resident = false ∧ (tBack.ctx 2).stash = [] ∧
    (tBack.ctxs.filter (fun e => e.1 != 0 && e.2.resident)).length < tBack.shr.resmax ∧ (tBack.ctx 2).launch = some tL ∧
    tBack.canTake 0 tGrp.mask tGrp.mxUse = true ∧ tBack.freeSlots 0 = 0 :: [1, 2, 3] ∧
    (tBack.grps.any (fun e => e.2.ctx == 2)) = false ∧ tL.dsUnits ≤ tBack.dsFree 0 := by decide +kernel

theorem test_w_FetchFaultsAndMachineChecks : decode 0xFFFFFFFFFFFFFFFF 0 = .error .allOnes ∧ Handled tS ∧
    (let s := tS.setQ { tSeq with pc := 0x200000 }
     tblGet s.q.loopBuf s.q.pc.toNat = none ∧ s.translate s.cx s.q.pc .fetch = .trap { code := 5, eval := 0x200000 }) ∧
    ((tS.slot 0).task = some { ctx := 0, grp := 1 } ∧ (tS.ctx 0).launch = some tLaunch ∧ tLaunch.ending = none) ∧
    (tS.mem.keys.all (fun e => !e.2.dying) = true ∧ (tS.die (0 / 128)).fenced = false ∧ 0 / 128 < 4 ∧ (tS.slot 1).task = none) ∧
    (tSl fun t => { t with qcx := [tQr] }).sl.queue .cx = tQr :: [] ∧ tQr.who = tS.cur ∧
    tS.grp 1 ≠ none ∧ tS.launchOf 0 ≠ none ∧ (tSl fun t => { t with scope := some tScope }).sl.scope ≠ none ∧
    UeLoc.hbmLine 5 ∉ tS.mem.ue := by decide +kernel

-- Records and engines (RecordsRun to AuctionRounds).

/-- The VADD of one issue over bank 0 at elements 0, 4 and 8, of two rows of two, with MOD as given, by X of slot 0. -/
def tVrec (op mod : Nat) (d a b : BitVec 88) : QRec :=
  { r := tRec (0x1000 + 16 * op) 1 1 d a b dNone mod, who := { slot := 0, x := true }, serial := 7, ctx := 0, grp := 1, vshape := 0x00020002
    bfmt := [(0, 2)] }
def tVq (mod : Nat) : QRec := tVrec 1 mod (dBank 0 0) (dBank 0 4) (dBank 0 8)
/-- It in the VX queue of slot 0; running. -/
def tVs (mod : Nat) (r : Option Run) (f : Slot → Slot) : State := tSl fun t => f { t with qvx := [tVq mod], rvx := r }
def tCh (n : Nat) : State := (tSl fun t => { t with qcx := [tQr] }).setCore 0 { power := .on, ch := (List.range n).map fun c => (c, begun tQr) }

theorem test_w_RecordsRun_start :
    (let s := tVs 1 none id; (s.slot 0).queue .vx = tVq 1 :: [] ∧ (s.slot 0).run .vx = none) ∧
    (let r : Run := { begun (tVq 1) with done := true }; let s := tVs 1 (some r) id; (s.slot 0).run .vx = some r ∧ r.done = true) ∧
    (let r : Run := begun (tVq 1); let s := tVs 1 (some r) id; (s.slot 0).run .vx = some r ∧ r.done = false) ∧
    -- with an operand staged ahead
    (let a : Run := { q := tVq 1, staged := 1 }; let s := tVs 1 none fun t => { t with ahead := [(7, a)] }
     tblGet (s.slot 0).ahead (tVq 1).serial = some a) ∧
    -- a CX record, with channel 3 free and with none
    ((tCh 3).slot 0).queue .cx = tQr :: [] ∧ tblFree ((tCh 3).core (0 / 4)).ch 4 = some 3 ∧
    (tCh 3).cxChosen (0 / 4) = some 0 ∧ (∀ c, c < 4 → tblGet ((tCh 4).core (0 / 4)).ch c ≠ none) ∧
    -- halted; to be pre-empted; not reached; poison
    ((tVs 1 none fun t => { t with halted := true }).slot 0).halted = true ∧
    (let s := tVs 1 none fun t => { t with preReq := true }; (s.slot 0).preReq = true ∧ (s.slot 0).lockend = 0) ∧
    (let s := (tVs 0 none id).setCtx 0 ((tS.ctx 0).setSem 0 { count := 0xFFFF })
     let m := s.sem (tVq 0).ctx (rWsem (tVq 0).r)
     rNw (tVq 0).r = false ∧ m.poison = false ∧ ¬(m.count.toNat + 2 ^ 16 - (rWthr (tVq 0).r).toNat) % 2 ^ 16 < 2 ^ 15) ∧
    (let s := (tVs 0 none id).setCtx 0 ((tS.ctx 0).setSem 0 { poison := true, cause := 9 })
     (s.slot 0).halted = false ∧ (s.slot 0).preReq = false ∧ rNw (tVq 0).r = false ∧ (s.sem (tVq 0).ctx (rWsem (tVq 0).r)).poison = true ∧
     (tVq 0).pins = [] ∧ (tVq 0).who.slot = 0 ∧ tblGet (s.slot 0).ahead (tVq 0).serial = none ∧ (s.seq (tVq 0).who).stopped = false ∧ rNs (tVq 0).r = false) := by decide +kernel
/-- No wait; semaphore 0 reached; a CX record. -/
theorem test_w_RecordsRun_begin : MayBegin (tVs 1 none id) 0 (tVq 1) ∧ MayBegin (tVs 0 none id) 0 (tVq 0) ∧ MayBegin (tCh 3) 0 tQr ∧
    MayBegin (tCh 4) 0 tQr := by
  unfold MayBegin
  and_intros
  all_goals decide +kernel
theorem test_w_RecordsRun_alive : Alive (tVs 0 none id) 0 := ⟨{ ctx := 0, grp := 1 }, rfl, rfl⟩

theorem test_w_RecordsRun_retire :
    (let r : Run := { begun (tVq 1) with done := true }; let s := tVs 1 (some r) id
     r.done = true ∧ r.q.who.slot = 0 ∧ r.q.pins = [] ∧ (Eng.vx ≠ .cx ∧ (s.slot 0).landing = [] ∧ (s.slot 0).run .vx = some r) ∧ rEng r.q.r ≠ 0 ∧
     r.fault = none ∧ r.sigDone = false ∧ rNs r.q.r = false) ∧
    (let r : Run := { begun tQr with done := true }; let s := (tCh 0).setCore 0 { power := .on, ch := [(2, r)] }
     r.done = true ∧ r.q.who.slot = 0 ∧ r.q.pins = [] ∧ tblGet (s.core (0 / 4)).ch 2 = some r ∧ rEng r.q.r ≠ 0 ∧ rNs r.q.r = true) ∧
    ({ begun (tVq 1) with done := true, fault := some (0x0A, 5) } : Run).fault = some (0x0A, 5) ∧
    -- a page that failed at a restore, with NS set
    ({ begun tQr with done := true, fault := some (4, 0x40) } : Run).fault = some (4, 0x40) ∧ rNs tQr.r = true ∧
    (tS.seq { slot := 0, x := false }).stopped = false ∧ rOp (tRec 0x0010 1 1 dNone dNone dNone dNone 0) ≠ 6 := by decide +kernel

/-- The machine with slot 0 as given and accounts of every resource. -/
def tEng (f : Slot → Slot) : State :=
  (tSl f).setCtx 0 { tS.ctx 0 with accts := (List.range 7).map fun r => (65536 * r, { avail := 100 }) }
/-- An MX record of X: handle A of 4,096 elements of I8 in DS, banks in the formats given. -/
def tMx (op var mod : Nat) (d a b : BitVec 88) (bf : Tbl Word) : QRec :=
  { r := tRec (16 * op + var) 1 1 d a b dNone mod, who := { slot := 0, x := true }, serial := 7, ctx := 0, grp := 1, hA := tHnd 0 4 0 4096, bfmt := bf }
def tRn (q : QRec) : Run := { q := q, staged := 1 }
def tMrun (r : Run) : State := tEng fun t => { t with rmx := some r }
/-- The formats of banks 0 to 2: of D, A and B. -/
def tBf (d a b : Nat) : Tbl Word := [(0, BitVec.ofNat 64 d), (1, BitVec.ofNat 64 a), (2, BitVec.ofNat 64 b)]
def engOk {α : Type} [DecidableEq α] (x : Eng' α) (v : α) : Bool := match x with | .ok a => a == v | .error _ => false
theorem engOk_eq {α : Type} [DecidableEq α] {x : Eng' α} {v : α} (h : engOk x v = true) : x = .ok v := by
  cases x with
  | ok a => rw [eq_of_beq (show (a == v) = true from h)]
  | error e => cases h
/-- MX.LDW of bank 1 in I8, and of a handle, staged or to be. -/
def tLdw : QRec := tMx 1 1 0 dNone (dBank 1 0) dNone (tBf 2 0 0)
def tLdwH (st : Tbl (Nat × List Nat)) (n : Nat) : Run := { q := tMx 1 1 0 dNone (dHnd 0) dNone [], staged := n, stage := st }

theorem test_w_MatrixEngine_ready : MxReady (tMrun (tRn tLdw)) 0 1 (tRn tLdw) ∧
    (∀ op ∈ [2, 3, 4, 5, 6], let r := tRn (tMx op 0 0 dNone dNone dNone []); MxReady (tMrun r) 0 op r) := by
  unfold MxReady; decide +kernel
theorem test_w_MatrixEngine_read (i : Nat) (h : i < 4096) :
    (mxStart (tMrun (tRn tLdw)) 0 (tRn tLdw)).mxRead tLdw tLdw.opA
      (mBase tLdw tLdw.opA (descA tLdw.r) 0 + ((i / 64 * mApitch tLdw + i % 64 : Nat) : Int)) = .ok (0, 0) :=
  engOk_eq (List.all_eq_true.mp (show ((List.range 4096).all fun i => engOk ((mxStart (tMrun (tRn tLdw)) 0 (tRn tLdw)).mxRead tLdw tLdw.opA
      (mBase tLdw tLdw.opA (descA tLdw.r) 0 + ((i / 64 * mApitch tLdw + i % 64 : Nat) : Int))) (0, 0)) = true by decide +kernel) i
    (List.mem_range.mpr h))

theorem test_w_MatrixEngine_weights : mFmt tLdw.opA ≠ 7 ∧ mFetches tLdw = false ∧ (tEng id).sl.rmx = none ∧
    (let r := tLdwH [] 1; (tMrun r).sl.rmx = some r ∧ rIssues r.q.r ≤ r.staged ∧ rOp r.q.r ≠ 6 ∧ (tMrun r).sl.qmx = [] ∧ (tMrun r).sl.ahead = []) ∧
    (let r := tLdwH [] 0; let s := tMrun r; let q := r.q
     s.sl.rmx = some r ∧ s.sl.landing = [] ∧ r.done = false ∧ mFetches q = true ∧ rOp q.r = 1 ∧ mFmt q.opA ≠ 7 ∧ q.who.slot = 0 ∧ r.staged < rIssues q.r ∧
     s.staging (0 / 4) + 4096 * fmtSize (mFmt q.opA) ≤ 262144 ∧ 0 < ((s.ctx q.ctx).acct 3 (0 / 4)).avail ∧ 0 < ((s.ctx q.ctx).acct 4 0).avail) := by
  decide +kernel
/-- The same ahead of the start of a queued record. -/
def tLdwA : QRec := tMx 1 1 1 dNone (dHnd 0) dNone []
theorem test_w_MatrixEngine_ahead : let q := tLdwA; let s := tEng fun t => { t with qmx := [q] }
    s.sl.rmx = none ∧ s.sl.landing = [] ∧ s.sl.qmx = q :: [] ∧ rNw q.r = true ∧ tblGet s.sl.ahead q.serial = none ∧ mFetches q = true ∧ rOp q.r = 1 ∧
    mFmt q.opA ≠ 7 ∧ q.who.slot = 0 ∧ 0 < rIssues q.r ∧ s.staging (0 / 4) + 4096 * fmtSize (mFmt q.opA) ≤ 262144 ∧
    0 < ((s.ctx q.ctx).acct 3 (0 / 4)).avail ∧ 0 < ((s.ctx q.ctx).acct 4 0).avail ∧
    ((List.range 4096).all fun i => engOk (s.mxRead q q.opA (mBase q q.opA (descA q.r) 0 + ((i / 64 * mApitch q + i % 64 : Nat) : Int))) (0, 0)) = true := by
  decide +kernel
/-- Operand A staged by the fetcher. -/
theorem test_w_MatrixEngine_staged : let r := tLdwH [(0, (0, (List.range 4096).map fun _ => 0))] 1
    AReads (mxStart (tMrun r) 0 r) r 4096 (fun i => (i : Int)) (fun _ => 0) := .inr ⟨by decide +kernel, rfl⟩
theorem test_w_MatrixEngine_fetch (i : Nat) (h : i < 4096) : let r := tLdwH [] 0
    (tMrun r).mxRead r.q r.q.opA (mBase r.q r.q.opA (descA r.q.r) 0 + ((i / 64 * mApitch r.q + i % 64 : Nat) : Int)) = .ok (0, 0) :=
  engOk_eq (List.all_eq_true.mp (show ((List.range 4096).all fun i => engOk ((tMrun (tLdwH [] 0)).mxRead (tLdwH [] 0).q (tLdwH [] 0).q.opA
      (mBase (tLdwH [] 0).q (tLdwH [] 0).q.opA (descA (tLdwH [] 0).q.r) 0 + ((i / 64 * mApitch (tLdwH [] 0).q + i % 64 : Nat) : Int))) (0, 0)) = true by decide +kernel) i
    (List.mem_range.mpr h))

/-- MX.MM of a staged panel; the plane that is active. -/
def tMm : Run := { q := tMx 2 0 0 dNone (dHnd 0) dNone [], staged := 1, stage := [(0, (0, (List.range 2048).map fun _ => 0))] }
def tMmS (p : Plane) : State := (tMrun tMm).setCore 0 { (tMrun tMm).core 0 with power := .on, plane0 := p, acc := [(5, 7)] }
theorem test_w_MatrixEngine_mm : MxReady (tMmS {}) 0 2 tMm ∧ mFmt tMm.q.opA < 2 ∧ mAcb tMm.q + (if mAci tMm.q then (rIndex tMm.q.r tMm.next).2.1 else 0) < 4 ∧
    (((tMmS {}).core (0 / 4)).acc.map (·.1)).Nodup ∧
    (let p : Plane := { loaded := true, cells := [(3, 1)] }; (p.cells.map (·.1)).Nodup ∧ p.loaded = true ∧ p.fmt < 2) ∧
    ({} : Plane).loaded = false ∧ (2 : Nat) ≤ ({ loaded := true, fmt := 6 } : Plane).fmt := by
  unfold MxReady; refine ⟨⟨rfl, ?_⟩, ?_⟩ <;> decide +kernel
theorem test_w_MatrixEngine_panel : AReads (mxStart (tMmS {}) 0 tMm) tMm 2048 (fun i => (i : Int)) (fun _ => 0) := .inr ⟨by decide +kernel, rfl⟩

/-- MX.BSW with the entry `e` at the head of bank 2, and the block staged that handle 0 of the table holds. -/
def tBsw (e : Nat) : Run :=
  { q := { tMx 6 0 0 dNone (dBank 1 0) (dBank 2 0) (tBf 2 0 0) with bsw := [tHnd 0 4 0 4096] }, staged := 1
    stage := [(0, (e, (List.range 2048).map fun _ => 1))] }
def tBswS (e : Nat) : State := { tMrun (tBsw e) with grps := [(1, { tGrp with banks := [(2, Memory.writeLE [] 0 8 e)] })] }
theorem test_w_MatrixEngine_bsw :
    (∀ e ∈ [2 ^ 50, 2 ^ 31, 0, 2 ^ 63, 2 ^ 64 - 1], engOk ((mxStart (tBswS e) 0 (tBsw e)).bswEntry (tBsw e).q (tBsw e).next) e = true ∧ e < 2 ^ 64) ∧
    2 ^ 50 / 2 ^ 50 % 2 ^ 13 ≠ 0 ∧ 2 ^ 31 / 2 ^ 21 % 2 ^ 11 ≠ 0 ∧ 0 / 2 ^ 50 % 2 ^ 13 = 0 ∧ 0 / 2 ^ 21 % 2 ^ 11 = 0 ∧ 0 < 2 ^ 63 ∧
    2 ^ 63 / 2 ^ 50 % 2 ^ 13 = 0 ∧ 2 ^ 63 / 2 ^ 21 % 2 ^ 11 = 0 ∧ (tBsw (2 ^ 63)).q.bsw[2 ^ 63 / 2 ^ 16 % 32]? = some (tHnd 0 4 0 4096) ∧
    (2 ^ 63 / 2 ^ 32 % 2 ^ 16 + 1) * 2048 ≤ hCount (tHnd 0 4 0 4096) ∧ hFmt (tHnd 0 4 0 4096) < 2 ∧ mFmt (tBsw 0).q.opA < 2 := by decide +kernel
theorem test_w_MatrixEngine_bsw_ready : MxReady (tBswS (2 ^ 63)) 0 6 (tBsw (2 ^ 63)) := by
  unfold MxReady; refine ⟨rfl, ?_⟩; decide +kernel
theorem test_w_MatrixEngine_bsw_stage : tblGet (tBsw (2 ^ 63)).stage (tBsw (2 ^ 63)).next = some (2 ^ 63, (List.range 2048).map fun _ => 1) := rfl
theorem test_w_MatrixEngine_bsw_read (i : Nat) (h : i < 2048) : let q := (tBsw (2 ^ 63)).q
    (mxStart (tBswS (2 ^ 63)) 0 (tBsw (2 ^ 63))).mxRead q q.opA (mBase q q.opA (descA q.r) 0 + ((2 ^ 63 % 2 ^ 16 * 2048 : Nat) : Int) + (i : Int)) = .ok (0, 0) :=
  engOk_eq (List.all_eq_true.mp (show ((List.range 2048).all fun i => engOk ((mxStart (tBswS (2 ^ 63)) 0 (tBsw (2 ^ 63))).mxRead (tBsw (2 ^ 63)).q (tBsw (2 ^ 63)).q.opA
      (mBase (tBsw (2 ^ 63)).q (tBsw (2 ^ 63)).q.opA (descA (tBsw (2 ^ 63)).q.r) 0 + ((2 ^ 63 % 2 ^ 16 * 2048 : Nat) : Int) + (i : Int))) (0, 0)) = true
    by decide +kernel) i (List.mem_range.mpr h))

/-- MX.ACRD of block 0 into bank 0 in FP32; MX.HAD of a staged tile of FP32. -/
def tAcrd (mod w : Nat) : Run := tRn (tMx 3 0 mod (dBank 0 0) dNone dNone (tBf w 0 0))
def tHad : Run := { q := { tMx 5 2 0 (dBank 0 0) (dHnd 0) dNone (tBf 6 0 0) with hA := tHnd 0 4 6 4096 }, staged := 1
                    stage := [(0, (0, (List.range 4096).map fun _ => 0))] }
theorem test_w_MatrixEngine_results :
    (∀ e ∈ [(0, 6), (2 ^ 15, 2)], let r := tAcrd e.1 e.2; let s := tMrun r
      r.q.opD = .bank 0 (BitVec.ofNat 64 e.2) 0 ∧ s.grp r.q.grp = some tGrp ∧ s.mem.ue = [] ∧ mBase r.q r.q.opD (descD r.q.r) r.next = ((0 : Nat) : Int) ∧
      e.2 = (if mIacc r.q then 2 else 6) ∧ bfFmt (BitVec.ofNat 64 e.2) = e.2 ∧ mAcb r.q + mNb r.q ≤ 4 ∧ 64 * mNb r.q ≤ mDpitch r.q ∧
      (0 + 63 * mDpitch r.q + 64 * mNb r.q) * 4 ≤ 262144 ∧ ((s.core (0 / 4)).acc.map (·.1)).Nodup) ∧
    (let r := tHad; let s := tMrun r; let w : Word := BitVec.ofNat 64 6
     r.q.opD = .bank 0 w 0 ∧ s.grp r.q.grp = some tGrp ∧ mBase r.q r.q.opD (descD r.q.r) r.next = ((0 : Nat) : Int) ∧ isFlt (bfFmt w) = true ∧
     isFlt (mFmt r.q.opA) = true ∧ rVar r.q.r < 3 ∧ 64 ≤ mHpitch r.q ∧ (0 + 63 * mHpitch r.q + 64) * fmtSize (bfFmt w) ≤ 262144) := by decide +kernel
theorem test_w_MatrixEngine_results_ready : MxReady (tMrun (tAcrd 0 6)) 0 3 (tAcrd 0 6) ∧ MxReady (tMrun tHad) 0 5 tHad := by
  unfold MxReady; refine ⟨?_, rfl, ?_⟩ <;> decide +kernel
theorem test_w_MatrixEngine_results_read : AReads (mxStart (tMrun tHad) 0 tHad) tHad 4096 (fun i => (i : Int)) (fun _ => 0) := .inr ⟨by decide +kernel, rfl⟩

/-- A VX record of two rows of two over banks 0 to 3, of one format; slot 0 runs it. -/
def tVo (op mod f : Nat) : QRec :=
  { r := tRec (0x1000 + 16 * op) 1 1 (dBank 0 0) (dBank 1 0) (dBank 2 0) (dBank 3 0) mod, who := { slot := 0, x := true }, serial := 7, ctx := 0
    grp := 1, vshape := 0x00020002, bfmt := (List.range 4).map fun b => (b, BitVec.ofNat 64 f) }
def tVst (q : QRec) : State := tEng fun t => { t with rvx := some (tRn q) }
theorem tVready (q : QRec) {op : Nat} (h : rOp q.r = op ∧ (tVst q).serves .vx 0 = true ∧ q.who.slot = 0 ∧ q.freeScales = false) : VxReady (tVst q) 0 op (tRn q) :=
  ⟨rfl, rfl, Nat.zero_lt_one, h.2.1, h.1, h.2.2.1, h.2.2.2, rfl, rfl, fun _ h => by cases h⟩
def vOk (x : Eng' (Nat × List Nat)) (v : Nat) : Bool := match x with | .ok (a, _) => a == v | .error _ => false
theorem vOk_ev {x : Eng' (Nat × List Nat)} {v : Nat} (h : vOk x v = true) : ∃ ev, x = .ok (v, ev) := by
  cases x with
  | ok a => exact ⟨a.2, by rw [← eq_of_beq (show (a.1 == v) = true from h)]⟩
  | error e => cases h
theorem tVreads (u : State) (q : QRec) (l : List (Nat × Int)) (h : (l.all fun p => vOk (u.vGet q p.1 p.2) 0) = true) :
    List.Forall₂ (fun p v => v < 2 ^ (8 * fmtSize (vOpFmt q p.1)) ∧ ∃ ev, u.vGet q p.1 p.2 = .ok (v, ev)) l (l.map fun _ => 0) := by
  induction l with
  | nil => exact .nil
  | cons p l ih =>
    rw [List.all_cons, Bool.and_eq_true] at h
    exact .cons ⟨Nat.two_pow_pos _, vOk_ev h.1⟩ (ih h.2)
/-- The elements of D in bank 0, four of `z` bytes each from its first byte. -/
theorem tVdest (s : State) (q : QRec) (f n z o : Nat) (w : Word) (pos : Nat → Int) (hD : q.opD = .bank 0 w o)
    (h : z = destSize q f ∧ 0 < z ∧ (∀ e, e < n → destAt q f (pos e) = some (z * e)) ∧ s.grp q.grp ≠ none) :
    DestOk s q f n pos fun e => z * e := by
  obtain ⟨rfl, h0, h1, h2⟩ := h
  refine ⟨h0, h1, fun e d _ _ hne => ?_, fun _ _ _ _ => h2, fun _ _ h => ?_, fun _ h => ?_⟩
  · rcases Nat.lt_or_gt_of_ne hne with hl | hl
    · exact .inl (by nlinarith [Nat.mul_le_mul_left (destSize q f) hl])
    · exact .inr (by nlinarith [Nat.mul_le_mul_left (destSize q f) hl])
  · rw [hD] at h; cases h
  · rw [hD] at h; cases h

/-- Ops, MOD and format: the element-wise ones, those of the log path, and the moves between banks. -/
def tVops : List (Nat × Nat × Nat) :=
  [(0x01, 0, 2), (0x02, 0, 6), (0x03, 0, 0), (0x04, 0, 6), (0x05, 0, 3), (0x06, 0, 4), (0x07, 0, 5), (0x08, 0, 1), (0x11, 0, 2), (0x12, 0, 3),
   (0x13, 0, 0), (0x14, 0, 1), (0x15, 0, 2), (0x16, 0, 2), (0x17, 0, 0), (0x18, 0, 2), (0x19, 0, 3), (0x1A, 0, 1), (0x22, 0, 2), (0x23, 0, 6),
   (0x42, 0, 2), (0x43, 0, 2), (0x44, 0, 2), (0x45, 0, 2), (0x46, 0, 2), (0x51, 0, 6), (0x52, 0, 6), (0x53, 0, 2), (0x54, 0, 2), (0x55, 0, 2),
   (0x56, 0, 2), (0x61, 0, 6), (0x62, 0, 6), (0x63, 0, 6), (0x64, 0, 6), (0x65, 0, 6), (0x66, 0, 6), (0x31, 0, 2), (0x32, 0, 2), (0x33, 0, 3),
   (0x34, 0, 3), (0x35, 2 ^ 23, 6), (0x41, 0, 10), (0x01, 2 ^ 15 + 2 ^ 19, 2)]
theorem tVops_ok : ∀ e ∈ tVops, let q := tVo e.1 e.2.1 e.2.2; let u := vxStart (tVst q) 0 (tRn q); let s := tVst q
    rOp q.r = e.1 ∧ (s.serves .vx 0 = true ∧ q.who.slot = 0 ∧ q.freeScales = false) ∧
    (∀ k, k < 4 → ([1, 2, 3].map fun i => (i, vAt q i 0 (k / vLanes q) (k % vLanes q))).all (fun p => vOk (u.vGet q p.1 p.2) 0) = true) ∧
    q.opD = .bank 0 (BitVec.ofNat 64 e.2.2) 0 ∧ vE q = 4 ∧
    (fmtSize e.2.2 = destSize q (vF q) ∧ 0 < fmtSize e.2.2 ∧ (∀ k, k < 4 → destAt q (vF q) (vAt q 0 0 (k / vLanes q) (k % vLanes q)) = some (fmtSize e.2.2 * k)) ∧
      s.grp q.grp ≠ none) := by decide +kernel
/-- Every one of them is ready, its sources read, and its destination is there. -/
theorem test_w_VectorElementsAndMoves (e : Nat × Nat × Nat) (h : e ∈ tVops) :
    let q := tVo e.1 e.2.1 e.2.2; let u := vxStart (tVst q) 0 (tRn q); let s := tVst q
    VxReady s 0 e.1 (tRn q) ∧ (∀ k, k < 4 → ∃ x, List.Forall₂ (fun p v => v < 2 ^ (8 * fmtSize (vOpFmt q p.1)) ∧
      ∃ ev, u.vGet q p.1 p.2 = .ok (v, ev)) (opsFrom [1, 2, 3] q 0 (k / vLanes q) (k % vLanes q)) x) ∧
    DestOk s q (vF q) 4 (fun k => vAt q 0 0 (k / vLanes q) (k % vLanes q)) fun k => fmtSize e.2.2 * k := by
  have t := tVops_ok e h
  refine ⟨tVready _ ⟨t.1, t.2.1⟩, fun k hk => ⟨_, tVreads _ _ _ (t.2.2.1 k hk)⟩, tVdest _ _ _ _ _ _ _ _ t.2.2.2.1 t.2.2.2.2.2⟩

/-- VLD and VST read the bytes of their elements; VCVT to a bank of another format. -/
theorem test_w_VectorElementsAndMoves_raw :
    (∀ op ∈ [0x44, 0x45], let q := tVo op 0 2; let u := vxStart (tVst q) 0 (tRn q)
      ∀ e : Nat, e < vE q → engOk ((q.opd 1).place (vF q) (vAt q 1 0 (e / vLanes q) (e % vLanes q))) (.bytes (.bank 1 (4 * e)) 4) = true ∧
        engOk (u.readRaw q (vF q) (.bytes (.bank 1 (4 * e)) 4)) 0 = true) ∧
    (let q := { tVo 0x23 0 6 with bfmt := [(0, 2), (1, 6), (2, 6), (3, 6)] }; vF q = 6 ∧ (q.opD.ownFmt).any (· != vF q) = true) ∧ ((tVo 0x23 0 2).opD.ownFmt).any (· != vF (tVo 0x23 0 2)) = false := by decide +kernel

theorem tTwo {n : Nat} {P : Nat → Nat → Prop} (h : ∀ e, e < n → ∀ d, d < n → e ≠ d → P e d) : ∀ e d, e < n → d < n → e ≠ d → P e d :=
  fun e d a b => h e a d b
/-- VCVT, VLOG2 and VTRN place D by formats and positions of their own. -/
theorem test_w_VectorElementsAndMoves_places :
    DestOk (tVst (tVo 0x23 0 6)) (tVo 0x23 0 6) (vOpFmt (tVo 0x23 0 6) 0) 4 (fun k => vAt (tVo 0x23 0 6) 0 0 (k / 2) (k % 2)) (fun k => 4 * k) ∧
    DestOk (tVst (tVo 0x51 0 6)) (tVo 0x51 0 6) 2 4 (fun k => vAt (tVo 0x51 0 6) 0 0 (k / 2) (k % 2)) (fun k => 4 * k) ∧
    DestOk (tVst (tVo 0x42 0 2)) (tVo 0x42 0 2) 2 4 (fun k => vBase (tVo 0x42 0 2) 0 0 + ((k / 2 + k % 2 * 2 : Nat) : Int)) (fun k => 4 * (k / 2 + k % 2 * 2)) := by
  refine ⟨tVdest _ _ _ _ _ 0 6 _ (by decide +kernel) (by decide +kernel), tVdest _ _ _ _ _ 0 6 _ (by decide +kernel) (by decide +kernel), by decide +kernel, by decide +kernel, tTwo (by decide +kernel), fun _ _ _ _ => by decide +kernel, ?_, ?_⟩
  · intro _ _ h; cases h
  · intro _ h; cases h
/-- A tile destination and a handle in DS. -/
def tVtile (op mod : Nat) (d a : BitVec 88) : QRec :=
  { r := tRec (0x1000 + 16 * op) 1 1 d a dNone dNone mod, who := { slot := 0, x := true }, serial := 7, ctx := 0, grp := 1, vshape := 0x00020002
    bfmt := [(1, 2)], hD := tHnd 0x40 4 2 16 }
def dTile (o : Nat) : BitVec 88 := BitVec.ofNat 88 (0xC00000 + o)
def tVts (q : QRec) : State := tEng fun t => { t with rvx := some (tRn q), scope := some tScope }
theorem test_w_VectorElementsAndMoves_tile : let q := tVtile 0x44 0 (dTile 0x80) (dBank 1 0)
    VxReady (tVts q) 0 0x44 (tRn q) ∧ DestOk (tVts q) q (vF q) 4 (fun k => vAt q 0 0 (k / 2) (k % 2)) (fun k => 0x80 + 4 * k) := by
  refine ⟨⟨rfl, rfl, Nat.zero_lt_one, by decide +kernel, by decide +kernel, rfl, by decide +kernel, rfl, rfl, ?_⟩, by decide +kernel, by decide +kernel, tTwo (by decide +kernel), ?_, ?_, ?_⟩
  · intro sc h; cases h; decide +revert
  · intro _ _ _ h; cases h
  · intro _ _ h; cases h
  · intro _ _; decide +kernel
theorem test_w_VectorElementsAndMoves_handle : let q := tVtile 0x46 0 (dHnd 0) (dBank 1 0)
    DestOk (tVts q) q (vF q) 4 (fun k => vAt q 0 0 (k / 2) (k % 2)) (fun k => 0x40 + 4 * k) := by
  refine ⟨by decide +kernel, by decide +kernel, tTwo (by decide +kernel), ?_, ?_, ?_⟩
  · intro _ _ _ h; cases h
  · intro _ _ _; decide +kernel
  · intro _ h; cases h

theorem test_w_VectorElementsAndMoves_masks :
    (let q := tVo 0x21 (2 ^ 15) 6; let s := tVst q; let u := vxStart s 0 (tRn q)
     vE q ≤ 1024 ∧ ∀ e, e < vE q → vOk (u.vGet q 1 (vAt q 1 0 (e / vLanes q) (e % vLanes q))) 0 = true ∧
       vOk (u.vGet q 2 (vAt q 2 0 (e / vLanes q) (e % vLanes q))) 0 = true) ∧
    -- VMOV of a mask to the last bytes of the tile registers, and from the first
    (let q := tVtile 0x46 (2 ^ 23) (dTile 8064) dNone; (tVts q).sl.scope ≠ none ∧ q.opD = .tile 8064 ∧ vOpx q % 4 = 1 ∧
      dElem (descD q.r) (dOff (descD q.r)) (rIndex q.r 0) = ((8064 : Nat) : Int)) ∧
    (let q := tVtile 0x46 (2 ^ 24) dNone (dTile 0); (tVts q).sl.scope ≠ none ∧ q.opA = .tile 0 ∧ 2 ≤ vOpx q % 4 ∧
      dElem (descA q.r) (dOff (descA q.r)) (rIndex q.r 0) = ((0 : Nat) : Int)) := by decide +kernel
theorem test_w_VectorElementsAndMoves_compare : VxReady (tVst (tVo 0x21 (2 ^ 15) 6)) 0 0x21 (tRn (tVo 0x21 (2 ^ 15) 6)) :=
  tVready _ (by decide +kernel)

/-- Reductions of rows; VSCAN stands among the ops above. -/
theorem test_w_VectorReductionsAndLogPath : ∀ op ∈ [0x31, 0x32, 0x33, 0x34], let q := tVo op 0 3; let s := tVst q; let u := vxStart s 0 (tRn q)
    (if vOpx q % 2 = 1 then vLanes q else vRows q) = 2 ∧ isInt (vF q) = true ∧
    (∀ e, e < vE q → vOk (u.vGet q 1 (vAt q 1 0 (e / vLanes q) (e % vLanes q))) 0 = true) ∧
    (∀ f ∈ [vF q, vOpFmt q 0], (4 : Nat) = destSize q f ∧ 0 < 4 ∧ (∀ j : Nat, j < 2 → destAt q f (vBase q 0 0 + ((j : Nat) : Int)) = some (4 * j)) ∧ s.grp q.grp ≠ none) := by
  decide +kernel
/-- The same for floats. -/
theorem test_w_VectorReductionsAndLogPath_floats : ∀ op ∈ [0x32, 0x33, 0x34], let q := { tVo op 0 6 with bfmt := [(0, if op = 0x34 then 3 else 6), (1, 6)] }
    let s := tVst q; let u := vxStart s 0 (tRn q)
    isFlt (vF q) = true ∧ (∀ e, e < vE q → vOk (u.vGet q 1 (vAt q 1 0 (e / vLanes q) (e % vLanes q))) 0 = true) := by decide +kernel
theorem test_w_VectorReductionsAndLogPath_ready : VxReady (tVst (tVo 0x31 0 3)) 0 0x31 (tRn (tVo 0x31 0 3)) ∧
    DestOk (tVst (tVo 0x31 0 3)) (tVo 0x31 0 3) 3 2 (fun j => vBase (tVo 0x31 0 3) 0 0 + (j : Int)) (fun j => 4 * j) :=
  ⟨tVready _ (by decide +kernel), tVdest _ _ _ _ _ 0 3 _ (by decide +kernel) (by decide +kernel)⟩
/-- VQL6 of eight rows of four into LOG6, the scales at 24,000. -/
def tQl : QRec := { tVrec 0x24 0 (dBank 0 24) (dBank 1 0) dNone with vshape := 0x00040008, bfmt := [(0, 0x177000007), (1, 6)] }
theorem test_w_VectorReductionsAndLogPath_log6 : let q := tQl; let u := vxStart (tVst q) 0 (tRn q)
    isFlt (vF q) = true ∧ q.opD = .bank 0 0x177000007 24 ∧ bfFmt 0x177000007 = 7 ∧ bfScoff 0x177000007 = 24000 ∧ q.opB = .absent ∧
    (tVst q).grp q.grp ≠ none ∧ vE q = 32 ∧ vBase q 0 0 = ((32 * 1 : Nat) : Int) ∧ 1 + vE q / 32 ≤ bfBlocks 0x177000007 ∧
    ∀ e, e < vE q → vOk (u.vGet q 1 (vAt q 1 0 (e / vLanes q) (e % vLanes q))) 0 = true := by decide +kernel
/-- Its scales to bank 2; its blocks to a handle in DS. -/
def tQlB : QRec := { tVrec 0x24 0 (dBank 0 24) (dBank 1 0) (dBank 2 0) with vshape := 0x00040008, bfmt := [(0, 0x177000007), (1, 6), (2, 8)] }
def tQlH : QRec := { tVrec 0x24 0 (dHnd 0) (dBank 1 0) dNone with vshape := 0x00040008, bfmt := [(1, 6)], hD := tHnd 0x40 4 7 32 }
theorem test_w_VectorReductionsAndLogPath_log6_more :
    (let q := tQlB; q.opB = .bank 2 8 0 ∧ bfFmt 8 = 8 ∧ vBase q 2 0 = ((0 : Nat) : Int) ∧ (0 + vE q / 32) * 2 ≤ 262144) ∧
    (let q := tQlH; q.opD = .hnd (tHnd 0x40 4 7 32) 0 ∧ hFmt (tHnd 0x40 4 7 32) = 7 ∧ q.opB = .absent ∧ (tVst q).launchOf q.ctx ≠ none ∧
      ∀ i : Nat, i < 32 → engOk (q.opD.place (vF q) (vBase q 0 0 + ((32 * 0 + i : Nat) : Int))) (.code (.ds 0x40) i) = true) := by decide +kernel
theorem test_w_VectorReductionsAndLogPath_log6_ready : VxReady (tVst tQl) 0 0x24 (tRn tQl) := tVready _ (by decide +kernel)

/-- A CX record of four elements over banks 0 to 2 of FP32 and indices; the channel 0 of core 0 that runs it; bank 2 with the indices
0 to 3. -/
def tCq (op mod : Nat) (d a b : BitVec 88) : QRec :=
  { r := tRec (0x2000 + 16 * op) 1 1 d a b dNone (mod + 2 ^ 11 * 3), who := { slot := 0, x := false }, serial := 7, ctx := 0, grp := 1
    bfmt := [(0, 6), (1, 6), (2, 3)], hD := tHnd 0x0010000000000040 1 6 16, hA := tHnd 0x0010000000000040 1 6 16 }
def tCxS (s : State) (q : QRec) : State :=
  { s with cores := [(0, { power := .on, ch := [(0, tRn q)] })]
           ctxs := [(0, { s.ctx 0 with accts := (List.range 7).map fun r => (65536 * r, { avail := 100 }) })]
           grps := [(1, { tGrp with banks := [(2, Memory.writeLE [] 0 16 (2 ^ 32 + 2 ^ 65 + 3 * 2 ^ 96))] })] }
def tCc (op : Nat) : QRec := tCq op 2 (dBank 0 0) (dBank 1 0) (if op < 3 then dNone else dBank 2 0)
def tFill : QRec := tCq 2 2 (dBank 0 0) (dImm 5) dNone

theorem test_w_CopyEngine_ready :
    (∀ op ∈ [1, 3, 4], let q := tCc op; CxReady (tCxS tS q) 0 0 op (tRn q)) ∧ CxReady (tCxS tS tFill) 0 0 2 (tRn tFill) := by
  unfold CxReady; decide +kernel
theorem test_w_CopyEngine_local :
    (∀ op ∈ [1, 3, 4], let q := tCc op; let u := (tCxS tS q).cxCharge q 0 0 none; let s := tCxS tS q
      cxLen q = 4 ∧ q.opD.fmt 6 ≠ 7 ∧ q.opD = .bank 0 6 0 ∧ q.opA = .bank 1 6 0 ∧ q.opA.remote = 0 ∧ (op = 1 → q.opB = .absent) ∧
      (∀ i : Nat, i < 4 → vOk (u.readAs q q.opA (q.opD.fmt 6) (rRound q.r) (rSat q.r) (cxA q 0 + (i : Int))) 0 = true ∧
        vOk (u.readAs q q.opA (q.opD.fmt 6) (rRound q.r) (rSat q.r) (cxA q 0 + ((if op = 3 then i else 0 : Nat) : Int))) 0 = true ∧
        destAt q 6 (cxD q 0 + (i : Int)) = some (4 * i) ∧
        (op ≠ 1 → engOk (q.opB.place 3 (cxB q 0 + (i : Int))) (.bytes (.bank 2 (4 * i)) 4) = true ∧
          engOk (s.readRaw q 3 (.bytes (.bank 2 (4 * i)) 4)) i = true))) ∧
    tFill.opA = .imm 5 ∧ tFill.opB = .absent := by decide +kernel
theorem test_w_CopyEngine_dest : DestOk (tCxS tS (tCc 1)) (tCc 1) 6 4 (fun i => cxD (tCc 1) 0 + (i : Int)) (fun i => 4 * i) ∧
    Apart (tCc 1) (tCc 1).opA := by
  refine ⟨tVdest _ _ _ _ _ 0 6 _ (by decide +kernel) (by decide +kernel), by decide +kernel, ?_⟩
  rw [show (tCc 1).opD = .bank 0 6 0 by decide +kernel, show (tCc 1).opA = .bank 1 6 0 by decide +kernel]
  decide
/-- The index that an element skips. -/
theorem test_w_CopyEngine_skip : (fun i : Nat => i != 0xFFFFFFFF) 0xFFFFFFFF = false := by decide

/-- Remote records: PUTF, GETF, PUTN, GETN, MCST. -/
def tCr (op : Nat) : QRec :=
  if op = 9 then tCq 9 2 (BitVec.ofNat 88 (0xE00000 + 2 ^ 24 * (3 + 2 ^ 16 * 0x40))) (dBank 1 0) dNone
  else { (if op % 2 = 1 then tCq op 2 (dHnd 0) (dBank 1 0) dNone else tCq op 2 (dBank 0 0) (dHnd 0) dNone) with
    hD := tHnd 0x0010000000000040 (if op < 7 then 1 else 2) 6 16, hA := tHnd 0x0010000000000040 (if op < 7 then 1 else 2) 6 16 }
def tCrS (op : Nat) : State := { tCxS tF (tCr op) with coll := { groups := [(3, { owner := 0, enc := false, members := [{ addr := 0x0010000000000000, kind := 0 }] })] } }
theorem test_w_CopyEngine_remote_ready : ∀ op ∈ [5, 6, 7, 8, 9], CxReady (tCrS op) 0 0 op (tRn (tCr op)) ∧ Sendable (tCrS op) 0x0010000000000040 0 := by
  unfold CxReady; decide +kernel
theorem test_w_CopyEngine_remote :
    (∀ op ∈ [5, 6, 7, 8], let q := tCr op; let s := tCrS op; let h := tHnd 0x0010000000000040 (if op < 7 then 1 else 2) 6 16
      cxLen q = 4 ∧ 4 * fmtSize (hFmt h) ≤ 4096 ∧ (s.ctx q.ctx).gauge.fb < 64 ∧ rNs q.r = true ∧ hFmt h ≠ 7 ∧
      OneRun h (if op < 7 then 1 else 2) (if op % 2 = 1 then cxD q 0 else cxA q 0) 4 0x0010000000000040 ∧
      (op % 2 = 1 → q.opD = .hnd h 0 ∧ q.opA.remote = 0 ∧
        ∀ i : Nat, i < 4 → engOk (s.readAs q q.opA (hFmt h) (rRound q.r) (rSat q.r) (cxA q 0 + (i : Int))) (0, []) = true) ∧
      (op % 2 = 0 → q.opA = .hnd h 0 ∧ q.opD.remote = 0 ∧ 0 ≤ cxD q 0 ∧
        ∀ i : Nat, i < 4 → engOk (q.opD.place 6 (cxD q 0 + (i : Int))) (.bytes (.bank 0 (4 * i)) 4) = true) ∧
      (tblGet s.eth.nodes 1).map (fun d => (d.self, d.failed, d.enc)) = some (false, false, false)) ∧
    (let q := tCr 9; let s := tCrS 9; let m : Member := { addr := 0x0010000000000000, kind := 0 }
     q.opD = .imm (BitVec.ofNat 64 (3 + 2 ^ 16 * 0x40)) ∧ (3 + 2 ^ 16 * 0x40) % 2 ^ 16 < 1024 ∧
     tblGet s.coll.groups 3 = some { owner := q.ctx, enc := false, members := [m] } ∧ (0x0010000000000040 : Word) = m.addr + BitVec.ofNat 64 (0x40 % 2 ^ 44) ∧
     q.opA.remote = 0 ∧ q.opA.fmt 6 = 6 ∧
     ∀ i : Nat, i < 4 → engOk (q.opA.place 6 (cxA q 0 + (i : Int))) (.bytes (.bank 1 (4 * i)) 4) = true ∧
       engOk (s.readRaw q 6 (.bytes (.bank 1 (4 * i)) 4)) 0 = true) := by
  unfold OneRun; decide +kernel

/-- An AE record of one row, one column and one entry; its area in bank 3 with this status. -/
def tAe (op mod : Nat) : QRec :=
  { r := tRec (0x3000 + 16 * op) 1 1 (dBank 0 0) (dBank 1 0) (dBank 2 0) (dBank 3 0) mod, who := { slot := 0, x := true }, serial := 7, ctx := 0, grp := 1
    bfmt := [(0, 2), (1, 6), (2, 3), (3, 1)], aeeps := 1, aemax := 1024, aeres := 0x80000000 }
def tAeS (r : Run) (status : Nat) : State :=
  { tEng (fun t => { t with rae := some r }) with grps := [(1, { tGrp with banks := [(3, Memory.writeLE [] 0 8 (1 + 2 ^ 16 + 2 ^ 32 + (if status = 1 then 2 ^ 40 else 0) + 2 ^ 48 * status))] })] }
def tAuc (status : Nat) : Auction :=
  aucOf (((List.range 32768).map fun j => (((tAeS (tRn (tAe 2 0)) status).bankMem 1 3).read (0 + j)).toNat).toArray)
theorem test_w_AuctionRounds : let r := tRn (tAe 1 0); let s := tAeS r 0; let q := r.q
    q.opD = .bank 0 2 0 ∧ q.opC = .bank 3 1 0 ∧ (0 : Nat) ≠ 3 ∧ bfFmt 2 = 2 ∧ bfFmt 1 < 2 ∧ s.grp q.grp ≠ none ∧ aBase q 0 = ((0 : Nat) : Int) ∧ aBase q 3 = ((0 : Nat) : Int) ∧
    rField q.r 22 10 + 1 = 1 ∧ rField q.r 14 8 + 1 = 1 ∧ rField q.r 11 3 + 1 = 1 ∧ aeBytes 1 ≤ 262144 ∧ aePitch q 1 = 1 ∧ q.opB.fmt 3 ≠ 2 ∧
    engOk (s.aeRead q q.opB 3 (aBase q 2 + ((0 : Nat) : Int))) 0 = true ∧ engOk (s.aeRead q q.opA 6 (aBase q 1 + ((0 : Nat) : Int))) 0 = true := by decide +kernel
theorem test_w_AuctionRounds_ready (op : Nat) (h : op = 1 ∨ op = 2) : AeReady (tAeS (tRn (tAe op 0)) 2) 0 op (tRn (tAe op 0)) := by
  have none (j : Nat) (hj : j ≠ 0) : ((tAeS (tRn (tAe op 0)) 2).slot j).rae = none := by
    cases j with
    | zero => exact absurd rfl hj
    | succ j => rfl
  refine ⟨by decide, rfl, rfl, ?_, rfl, rfl, fun j _ hj v hv => ?_, ?_, ?_⟩
  · rcases h with rfl | rfl <;> decide +kernel
  · rw [none j hj] at hv; cases hv
  all_goals rcases h with rfl | rfl <;> decide +kernel
theorem test_w_AuctionRounds_area : (tAuc 2).ok = true ∧ (tAuc 2).n = 1 ∧ (tAuc 2).m = 1 ∧ (tAuc 2).k = 1 ∧ (tAuc 2).status = 2 ∧ (tAuc 1).status = 1 ∧
    (tAuc 1).ok = true := by decide +kernel


-- Launches, periods, the link layer (LaunchesAndGroups to LinkLayer).

/-- A launch record: four tasks of two CORE groups with banks 0 and 2; its version, flags, and units of DS. -/
def tHd (ver flags ds : Nat) : BitVec 2048 :=
  BitVec.ofNat 2048 (ver + 2 ^ 16 * 2 + 2 ^ 24 * flags + 2 ^ 32 * ds + 2 ^ 64 * 0x3000 + 2 ^ 128 * 0x1000 + 2 ^ (8 * 48) * 0x9000
    + 2 ^ (8 * 56) * 0x8000 + 2 ^ (8 * 80) * 4 + 2 ^ (8 * 96) * 2 + 2 ^ (8 * 100) + 2 ^ (8 * 102) * 5)
def tLn (ver flags ds : Nat) : Launch := { hdr := tHd ver flags ds, serial := 1 }
/-- Context 0 with this launch queued; with this launch running and no group placed. -/
def tLq (ver flags ds : Nat) : State :=
  { tC fun c => { c with launchQ := [tHd ver flags ds], launch := none } with dies := [(0, { ready := true })] }
def tLr (l : Launch) : State :=
  { tS with slots := [], grps := [], ctxs := [(0, { resident := true, launch := some l })], cores := [(0, { power := .idle })], dies := [(0, { ready := true })] }
theorem test_w_LaunchesAndGroups_accept :
    hdrW (tHd 1 0 1) 48 = 0x9000 ∧ ReachableBy tS 0 0x9000 .write 8 (tLeafAt 0x9000) ∧ (tS.ctx 0).launchQ = [] ∧
    ((tLq 1 0 1).ctx 0).launchQ = tHd 1 0 1 :: [] ∧ (0 < (tLq 1 0 1).nDies ∧ ((tLq 1 0 1).die 0).ready = true ∧ ((tLq 1 0 1).die 0).fenced = false) ∧
    State.reset.dies = [] ∧ (tC fun c => { c with launchQ := [tHd 1 0 1] }).launchOf 0 ≠ none ∧
    ((tLq 1 0 1).ctx 0).resident = true ∧ ((tLq 1 0 1).ctx 0).leaving = false ∧ ((tLq 1 0 1).ctx 0).launch = none ∧ hdrN (tHd 1 0 1) 48 8 % 8 = 0 ∧
    hdrN (tHd 2 0 1) 0 2 ≠ 1 ∧ hdrW (tHd 1 0 1 ||| BitVec.ofNat 2048 (2 ^ (8 * 40 + 11))) 40 &&& ~~~0x0000FFFF07FF07FF#64 ≠ 0 ∧
    -- 1,025 and 1,024 units of DS
    headerBad (tHd 1 0 1025) = false ∧ hdrN (tHd 1 0 1025) 76 2 = 0 ∧ 1024 < hdrN (tHd 1 0 1025) 4 4 ∧
    headerBad (tHd 1 0 1024) = false ∧ hdrN (tHd 1 0 1024) 4 4 ≤ 1024 ∧ hCosched (tHd 1 0 1024) = false := by decide +kernel
theorem test_w_LaunchesAndGroups_end :
    (∀ l ∈ [{ tLn 1 0 1 with ending := some (5, {}) }, { tLn 1 0 1 with nextGrp := 2 }, tLn 1 0 1], (tLr l).launchOf 0 = some l ∧ l.hdr = tHd 1 0 1 ∧
      ∀ e ∈ (tLr l).grps, e.2.ctx ≠ 0) ∧
    (tLn 1 0 1).ending = none ∧ nGroups (tHd 1 0 1) = 2 ∧ (tLn 1 0 1).back = [] ∧ ((tLr (tLn 1 0 1)).ctx 0).savedGrps = [] ∧
    (∀ e ∈ (tLn 1 0 1).tqs, e.2.items = []) ∧ (∀ e ∈ (tLr (tLn 1 0 1)).graft.binds, e.2.ctx ≠ 0) ∧ (tLn 1 0 1).nextGrp < nGroups (tHd 1 0 1) ∧
    State.reset.launchOf 0 = none ∧ (tLr (tLn 1 0 1)).storesOpen 0 = false ∧
    ({ tLr (tLn 1 0 1) with fab := { ports := [(0, { ready := true, queues := [(1, [tPut])] })] } } : State).storesOpen 0 = true := by decide +kernel
/-- A spawned task whose group is group 0 of the launch, in task queue 1. -/
def tSpn : Spawn := { bytes := bytesOfLE 64 (0x1100 + 2 ^ 64 * 0x3100), level := 1, idx := [0], s8 := List.replicate 8 5 }
def tGr : State := { tLr { tLn 1 0 1 with nextGrp := 1, tqs := [(1, { tail := 1, items := [tSpn] })] } with
  grps := [(1, { tGrp with level := 1, idx := [0], live := 0 })], cores := [(0, { power := .on })] }
theorem test_w_LaunchesAndGroups_start :
    (let s := tLr (tLn 1 0 1); let l := tLn 1 0 1
     s.launchOf 0 = some l ∧ (s.ctx 0).resident = true ∧ (s.ctx 0).leaving = false ∧ l.ending = none ∧ hCosched l.hdr = false ∧ l.back = [] ∧
     l.nextGrp < nGroups l.hdr ∧ (∀ e ∈ s.ctxs, e.1 ≠ 0 → e.2.launch = none) ∧ s.canPlace 0 l.nextGrp 1 = false ∧ s.canPlace 0 l.nextGrp 0 = true ∧
     (s.core 0).power ≠ .on ∧ hMx l.hdr = false) ∧
    -- the core that is awake is the better of two; a COSCHED launch
    (let s := { tLr (tLn 1 0 1) with cores := [(0, { power := .idle }), (1, { power := .on })] }; let l := tLn 1 0 1
     let cost (k : Nat) : Nat := (s.notStarted k + 3) / 4 * l.durs.sum + (s.core k).power.wake * max 1 l.durs.length
     s.canPlace 0 l.nextGrp 0 = true ∧ s.canPlace 0 l.nextGrp 1 = true ∧ cost 1 < cost 0) ∧
    (let l := { tLn 1 0 1 with hdr := BitVec.ofNat 2048 (2 ^ 25) ||| tHd 1 0 1 }; hCosched l.hdr = true ∧ l.back = [] ∧ l.nextGrp = 0) ∧
    (let s := tGr; let g : Grp := { tGrp with level := 1, idx := [0], live := 0 }
     s.grp 1 = some g ∧ g.ctx = 0 ∧ 3 / 4 = g.core ∧ (s.slot 3).task = none ∧ (s.core g.core).waking = false ∧ s.coreUp g.core = true ∧
     g.nextTask < g.nTasks ∧ hdrN (tHd 1 0 1) 72 1 = 0 ∧ ({ g with nextTask := 4 } : Grp).nextTask = g.nTasks ∧
     (s.launchOf 0).map (fun l => tblGet l.tqs 1) = some (some { tail := 1, items := tSpn :: [] }) ∧ tSpn.idx.isSuffixOf g.idx = true ∧
     recEdges tSpn.bytes = ([], []) ∧ recHcnt tSpn.bytes = 0 ∧ tSpn.stage = none ∧ tSpn.s8.length = 8 ∧ s.grps.Pairwise (fun u v => u.1 ≠ v.1)) := by decide +kernel

/-- The machine at a time. -/
def tAt (s : State) (n : Nat) : State := { s with clk := { s.clk with time := BitVec.ofNat 64 n } }
def tIdle (n : Nat) : State := tAt { State.reset with cores := [(3, { power := .idle })] } n
/-- Slot 0 waits in PAUSE, under a context that limits its spinning. -/
def tSpin : State := tAt (tWt { ins := .pause tGuard 1, since := 0 }) 7
theorem test_w_PowerLossAndPeriods :
    -- 100,000 ns and 99,999
    (let s := tIdle 100000; (s.core 3).power = .idle ∧ (∀ e ∈ s.grps, e.2.core = 3 → e.2.mask = 0 ∧ e.2.mxUse = false) ∧ (s.core 3).red = [] ∧ (s.core 3).mxGrp = none ∧
      (∀ j, j < 4 → (s.slot (4 * 3 + j)).scope = none ∧ (s.slot (4 * 3 + j)).task = none) ∧ (s.core 3).since.toNat + 100000 ≤ s.now.toNat) ∧
    (tIdle 99999).now.toNat < ((tIdle 99999).core 3).since.toNat + 100000 ∧ ({ waking := true } : Core).waking = true ∧
    -- a fenced die
    (let s := { tS with dies := [(0, { fenced := true })] }; (s.die 0).fenced = true ∧ (∀ e ∈ s.grps, s.launchOf e.2.ctx ≠ none)) ∧ (tS.die 1).fenced = false ∧
    (let s := { tS with dies := [(0, { fenced := true }), (1, { ready := true })] }
     1 < s.nDies ∧ (s.die 1).ready = true ∧ (s.die 1).fenced = false ∧ ∀ j, j < 1 → (s.die j).ready = false ∨ (s.die j).fenced = true) ∧
    -- a group that gives way
    (let l : Launch := { tLn 1 0 1 with nextGrp := 1 }; let s := tAt { tLr l with grps := [(1, tGrp)] } 20000
     s.launchOf 0 = some l ∧ (s.ctx 0).resident = true ∧ (s.ctx 0).leaving = false ∧ hCosched l.hdr = false ∧ l.ending = none ∧
     l.nextGrp < nGroups l.hdr ∧ tGrp.ctx = 0 ∧ s.slots = [] ∧ l.heldAt.toNat + 20000 ≤ s.now.toNat ∧ tGrp.since.toNat + 20000 ≤ s.now.toNat) ∧
    -- an edge
    (tAt tS 99999).clk.time.toNat < tS.shr.edge.toNat ∧
    (let s := tAt tS 100000; s.shr.edge.toNat ≤ s.clk.time.toNat ∧ (s.ctxs.map (·.1)).Pairwise (· < ·) ∧
      (∀ e ∈ s.ctxs, e.2.waiting = false ∧ (e.2.accts.map (·.1)).Nodup) ∧ s.seats ≤ s.shr.resmax) := by decide +kernel
theorem test_w_PowerLossAndPeriods_spin :
    (tSpin.seq { slot := 0, x := false }).wait = some { ins := .pause tGuard 1, since := 0 } ∧ (tSpin.seq { slot := 0, x := true }).wait = none ∧
    (tSpin.die (0 / 128)).therm ≠ .throttle ∧
    0 < min (4 * min ((tSpin.seq { slot := 0, x := false }).s 1).toNat (2 ^ 20) - 0) (10 * (tSpin.now - (0 : Word)).toNat) ∧ 0 < (tSpin.ctx (tSpin.slot 0).ctxOf).spinlim.toNat ∧
    (tS.seq { slot := 0, x := false }).wait = none ∧ (tS.seq { slot := 0, x := true }).wait = none := by decide +kernel

/-- Port 0 as given, at a time; a session that the custodian key admitted. -/
def tPo (v : Port) (n : Nat) : State := tAt { State.reset with fab := { ports := [(0, v)] } } n
def tCu (s : State) : State :=
  { s with preg := { s.preg with endptReady := true }
           eth := { s.eth with ports := [(0, { ready := true })], sessions := [(1, { admitted := true })] } }
/-- A frame without a body, with the tag that the key 0 gives it, and one with another. -/
def tCmd : Cmd := { sess := 1, tag := 5, mac := 0xAF75077B401647FC44A2933A6F36C4CD }
def tForged : Cmd := { tCmd with mac := 0 }
theorem test_kmac_of_nothing : kmac256 0 [] = 0xAF75077B401647FC44A2933A6F36C4CD := by decide +kernel
theorem tAuth (s : State) (v : Session) (h : tblGet s.eth.sessions 1 = some v) (hk : v.key = 0) : s.authentic tCmd = true ∧ s.authentic tForged = false := by
  have hs : s.session 1 = some v := h
  constructor
  · show ((s.session 1).isSome && tCmd.mac == s.tagOf 1 []) = true
    rw [State.tagOf, hs]; show (true && tCmd.mac == kmac256 v.key []) = true
    rw [hk, test_kmac_of_nothing]; rfl
  · show ((s.session 1).isSome && tForged.mac == s.tagOf 1 []) = false
    rw [State.tagOf, hs]; show (true && tForged.mac == kmac256 v.key []) = false
    rw [hk, test_kmac_of_nothing]; rfl
theorem tCu_custodian (s : State) : Custodian (tCu s) tCmd :=
  ⟨(tAuth _ { admitted := true } rfl rfl).1, { admitted := true }, rfl, rfl, rfl, rfl, (0, { ready := true }), .head _, rfl⟩
/-- Slots of 10 µs, a guard of 500 ns, EN on; slot 0 meets package 1. -/
def tSlt : Port := { slotcfg := 0x800001F400002710, slottab := [(0, 0x8001)], ready := true }
def tIn (data : Bool) : Port := { tSlt with inSlot := true, data := data, peer := some 1 }
theorem test_w_RotorSlots :
    ((tPo {} 5).port 0).slotcfg.toNat / 2 ^ 63 = 0 ∧ tSlt.slotcfg.toNat / 2 ^ 63 = 1 ∧ tSlt.inSlot = false ∧ tSlt.epoch.toNat ≤ 10000 ∧
    0 < tSlt.slotcfg.toNat % 2 ^ 32 ∧ tSlt.slotcfg.toNat / 2 ^ 61 % 2 = 0 ∧
    tSlt.onAt.toNat ≤ tSlt.epoch.toNat + (10000 - tSlt.epoch.toNat) / (tSlt.slotcfg.toNat % 2 ^ 32) * (tSlt.slotcfg.toNat % 2 ^ 32) ∧
    -- the guard ends at 500 ns, the slot at 10,000
    (let v := tIn false; v.inSlot = true ∧ v.data = false ∧ v.peer ≠ none ∧ v.ready = true ∧ v.slotBeg.toNat + v.slotcfg.toNat / 2 ^ 32 % 2 ^ 20 = 500) ∧
    (let v := tIn true; v.inSlot = true ∧ v.lols = [] ∧ v.slotBeg.toNat + v.slotcfg.toNat % 2 ^ 32 = 10000) ∧
    (0x0000FFFF00000000 : Word).extractLsb' 32 16 = 0xFFFF ∧ (0 : Word).extractLsb' 32 16 ≠ 0xFFFF ∧
    -- SLOTCFG: a slot of 1,000 ns with a guard of 100 is too short, one of 1,100 is not
    0 < (tCu (tPo tSlt 0)).nPorts ∧ (0x80000064000003E8 : Word).toNat % 2 ^ 32 < (0x80000064000003E8 : Word).toNat / 2 ^ 32 % 2 ^ 20 + 1000 ∧
    (let n := (0x800000640000044C : Word).toNat
     n / 2 ^ 62 % 2 = 0 ∧ n / 2 ^ 63 = 1 ∧ ¬n % 2 ^ 32 < 1000 ∧ ¬100000 < n % 2 ^ 32 ∧ ¬n / 2 ^ 32 % 2 ^ 20 < 100 ∧ ¬n % 2 ^ 32 < n / 2 ^ 32 % 2 ^ 20 + 1000 ∧
     n / 2 ^ 52 % 2 ^ 8 = 0 ∧ ({} : Port).peerAt 0 ≠ some (tPo {} 0).pkgId ∧ n / 2 ^ 61 % 2 ≠ 1) := by decide +kernel

/-- A control flit of this code; a port with it first. -/
def tCtl (code : Nat) (pl : List Byte) : Flit := ctrl code pl
def tCp (f : Flit) (v : Port) : State := tPo { v with ctrlIn := [f] } 2000
def tSent : SentFlit := { f := tCtl 0 [], what := .transit }
theorem test_w_LinkLayer_control :
    (∀ c ∈ [1, 2, 3, 4], ((tCp (tCtl c [1, 0]) {}).port 0).ctrlIn = tCtl c [1, 0] :: [] ∧ (tCtl c [1, 0]).payload.length = 64 ∧
      (tCtl c [1, 0]).aux.toNat = c) ∧
    (BitVec.ofNat 16 (leOfBytes ((tCtl 2 [1, 0]).payload.take 2)) &&& ({} : Port).active ≠ 0) ∧
    BitVec.ofNat 16 (leOfBytes ((tCtl 2 [0, 0]).payload.take 2)) &&& ({} : Port).active = 0 ∧
    (BitVec.ofNat 16 (leOfBytes ((tCtl 3 [1, 0]).payload.take 2)) &&& (0x0000000100000000 : Word).extractLsb' 32 16 ≠ 0) ∧ ({} : Port).ctrlIn = [] ∧
    ({ paused := true } : Port).txDown = false ∧ ({} : Port).paused = false ∧ ({ paused := true } : Port).lols = [] ∧
    (BitVec.ofNat 16 (leOfBytes ((tCtl 2 [0xFF, 0xFF]).payload.take 2)) = 0xFFFF ∧ ({} : Port).active &&& ~~~(0xFFFF : BitVec 16) = 0) ∧
    -- the beat from 1,997 5/7 to 2,003 3/7 after a guard that ends at 500
    (let v : Port := { beats := 1, beatAt := 1998 }; let guard := v.slotBeg + BitVec.ofNat 64 (v.slotcfg.toNat / 2 ^ 32 % 2 ^ 20)
     v.beats ≠ 0 ∧ 7 * ((tPo v 2000).clk.time - guard).toNat < 40 * (7 * (v.beatAt - guard).toNat / 40 + 1)) ∧
    ({ paused := true, lols := [1] } : Port).lols = [1] ∧ ({} : Port).active &&& ~~~(1 : BitVec 16) ≠ 0 ∧
    (let v : Port := { txBuf := [tSent], data := true }; v.txBuf = tSent :: [] ∧ tSent.since.toNat + 2000 ≤ (tPo v 2000).now.toNat ∧ v.txDown = false ∧ v.paused = false) ∧
    (tPo {} 1999).now.toNat < tSent.since.toNat + 2000 := by decide +kernel
/-- The lanes of a receiver: power lost at 0; dark, with its LOL sent; back since 0. -/
def tLane (l : Lane) (e : Word) : Port := { ready := true, lanes := [(15, l)], event := e }
theorem test_w_LinkLayer_light :
    (let v := tLane { above := false } 0; v.ready = true ∧ (v.lane 15).above = false ∧ (v.event.extractLsb' 16 16).getLsbD 15 = false ∧ v.nakWait = none ∧
      (v.lane 15).since.toNat + 64 ≤ (tPo v 64).now.toNat ∧ (tPo v 63).now.toNat < (v.lane 15).since.toNat + 64) ∧
    -- RXDOWN set, and back in use since a guard
    (let v := tLane { above := false } 0x80000000; (v.event.extractLsb' 16 16).getLsbD 15 = true ∧ (v.lane 15).dark = false) ∧
    (let v := tLane { above := false, dark := true } 0x80000000; (v.event.extractLsb' 16 16).getLsbD 15 = true ∧ (v.lane 15).outUse = none ∧ v.rxActive.getLsbD 15 = true ∧
      (v.lane 15).lolAt.toNat + 1000 ≤ (tPo v 1000).now.toNat) ∧
    -- a wavelength comes back within 64 ns while a NAK waits for it
    (let v := { tLane { above := false } 0 with nakWait := some 15 }; v.nakWait = some 15 ∧ (tPo v 63).now.toNat < ((v.lane 15).since + 64).toNat ∧
      v.nakAt = none) ∧
    (let v := tLane { above := true, dark := true } 0x80000000; (v.lane 15).above = true ∧ (v.lane 15).since.toNat + 1000 ≤ (tPo v 1000).now.toNat) := by decide +kernel

/-- A flit of data with this number and its CRC; a port in the data part of its slot, with sixteen flits to send. -/
def tData (n : Nat) : Flit :=
  let f : Flit := { typ := 2, vc := 0, ackv := false, aux := 0, ack := 0, seq := BitVec.ofNat 20 n, payload := List.replicate 64 7, crc := 0 }
  { f with crc := flitCrc f }
def tBeat : Port := { tIn true with txQueue := List.replicate 16 { f := tData 0, what := .transit } }
theorem test_w_LinkLayer_flits : Listens (tPo (tIn true) 1000) 0 ∧ flitCrc (tData 0) = (tData 0).crc ∧ flitCrc { tData 0 with crc := 0 } ≠ ({ tData 0 with crc := 0 } : Flit).crc ∧
    Listens (tPo { tIn true with rxOpen := true } 9999) 0 ∧ (let f : Flit := { tData 0 with typ := 0, aux := 1 }; let f := { f with crc := flitCrc f }
      flitCrc f = f.crc ∧ f.payload.length = 64 ∧ f.ackv = false ∧ f.typ = 0 ∧ f.aux = 1) ∧ (tData 0).typ ≠ 0 ∧
    ((tIn true).slotBeg + BitVec.ofNat 64 ((tIn true).slotcfg.toNat % 2 ^ 32)).toNat ≤ (tPo (tIn true) 10000).clk.time.toNat ∧
    ((tIn true).lane 15).dark = false ∧ (tData 0).payload.length = 64 ∧ (tData 0).seq.toNat = (tIn true).rxSeq ∧ (tIn true).darkWait = false ∧
    (tIn true).rxOpen = false ∧ (tData 0).seq = 0 ∧ ({ tIn true with rxOpen := true } : Port).rxOpen = true ∧
    (tData 1).vc.toNat ≤ 1 ∧ (tData 1).seq.toNat ≠ (tIn true).rxSeq ∧ (tCtl 4 []).typ = 1 ∧ 1 ≤ (tCtl 4 []).aux.toNat ∧ (tCtl 4 []).aux.toNat ≤ 4 := by
  unfold Listens; decide +kernel
theorem test_w_LinkLayer_beat : (let v := tBeat; v.data = true ∧ v.ready = true ∧ v.txDown = false ∧ v.paused = false ∧ v.active = 0xFFFF ∧
      (let guardNs := v.slotcfg.toNat / 2 ^ 32 % 2 ^ 20
       let inData (n : Nat) : Prop := 7 * ((tPo v n).clk.time - (v.slotBeg + BitVec.ofNat 64 guardNs)).toNat / 40 < 7 * (v.slotcfg.toNat % 2 ^ 32 - guardNs - 100) / 40
       inData 1000 ∧ ¬inData 9900) ∧ v.replayAt = none ∧ v.ctrlOut = [] ∧
      v.lolMask = 0 ∧ v.pend0 = 0 ∧ v.pend1 = 0 ∧ v.txSeq < 2 ^ 20 ∧ v.stripe < 2 ^ 20 ∧ 16 ≤ v.txQueue.length ∧ (∀ f ∈ v.txQueue, f.f.vc = 0) ∧ 16 ≤ v.credit0 ∧
      v.txBuf.length + 16 ≤ 4096) ∧ ({} : Port).data = false ∧ ({ tIn true with txDown := true } : Port).txDown = true := by decide +kernel

-- The fabric and Ethernet (FabricMessages, EthernetTransport).

/-- A message of package 1 to context 0 of this one, at 0x40 of window 0; the port 0 with its flits. -/
def tMsg (op : Nat) (args data : List Byte) (len : Nat) : Msg :=
  { src := 1, dst := 0, msn := 0, op := op, flag := false, tctx := 0, gang := 0, addr := 0x40, flagAddr := 0, len := len, args := args, data := data }
def tOf (m : Msg) : State := { tF with fab := { tF.fab with ports := [(0, { ready := true, rxVc0 := flitsOf m })] } }
def z32 : List Byte := List.replicate 32 0
/-- The arguments of an atomic ADD or a POLL of 8 bytes. -/
def tArg (x : Nat) : List Byte := 0 :: 8 :: (List.replicate 6 0 ++ bytesOfLE 8 x ++ List.replicate 16 0)
def tWrite : Msg := tMsg 1 [] (List.replicate 8 9) 8
def tFrag (op : Nat) : Msg := tMsg op (if op = 8 then List.replicate 32 0xFF else bytesOfLE 2 0xFFFF ++ [0, 2] ++ List.replicate 28 0) (List.replicate 8 9) 8
theorem tOf_arrived : ∀ m ∈ [tWrite, tMsg 2 z32 [] 8, tMsg 4 (tArg 3) [] 8, tMsg 5 (tArg 0x2A) [] 8, tFrag 8, tFrag 9], let s := tOf m
    (∃ n ∈ [1, 2], assemble (s.port 0).rxVc0 = some (m, n)) ∧ m.dst = s.pkgId ∧ m.msn = (s.conn m.src).expect ∧ m.msn < 2 ^ 32 ∧
    (s.conn m.src).early = [] ∧ (s.conn m.src).waiting = [] ∧ (s.conn m.src).down = false ∧ m.gang = 0 ∧ s.homePort m.src = some 0 := by decide +kernel
def resOk {ε α : Type} (x : Except ε α) : Bool := x.toOption.isSome
theorem tOf_window (m : Msg) (n : Nat) (wr : Bool) (h : n ≤ 64) : OwnWindow (tOf m) 0 false 0x40 n wr 0x40 :=
  ⟨_, { tWin with span := 0x1000, net := true }, rfl, rfl, rfl, rfl, rfl, by
    show (0x40 : Word).toNat % 2 ^ 44 + n ≤ 0x1000
    have : (0x40 : Word).toNat % 2 ^ 44 = 64 := by decide
    omega, rfl, by cases wr <;> rfl, by decide⟩
theorem test_w_FabricMessages_target :
    (∀ m ∈ [tWrite, tFrag 8, tFrag 9], m.flag = false ∧ m.data.length = 8 ∧ ((tOf m).ctx m.tctx).ctrs = [] ∧
      resOk ((tOf m).pinnedWrite (m.data.length + 1) m.tctx 0x40 m.data) = true) ∧
    (tFrag 8).args = List.replicate 32 0xFF ∧ (tFrag 9).args = bytesOfLE 2 0xFFFF ++ [0, 2] ++ List.replicate 28 0 ∧ (tFrag 9).data.length % 4 = 0 ∧
    (tOf tWrite).pinnedRead 9 0 0x40 8 = .ok [0x2A, 0, 0, 0, 0, 0, 0, 0] ∧
    leOfBytes [0x2A, 0, 0, 0, 0, 0, 0, 0] = 0x2A ∧ (3 : Nat) < 2 ^ 64 ∧
    -- no context; no window; a context that is not resident
    tblGet { tOf { tWrite with tctx := 5 } with cur := tS.cur }.ctxs 5 = none ∧
    (tblGet (tOf tWrite).ctxs 0).map (fun x => tblGet x.windows 7) = some none ∧
    (let s := { tOf tWrite with ctxs := [(0, { (tOf tWrite).ctx 0 with resident := false })] }
     (tblGet s.ctxs 0).map (fun x => (x.resident, tblFree x.stash 8)) = some (false, some 0) ∧ s.stackAt (s.ctx 0).stashBase.toNat = .ready) ∧
    ({ (tOf tWrite).ctx 0 with saving := true } : Ctx).saving = true ∧ (tOf (tFrag 9)).vond8 = true := by decide +kernel
/-- A message seen before, and one for package 2. -/
def tDup : State := { tOf { tWrite with msn := 2 ^ 32 - 256 } with cur := tS.cur }
def tVia : State :=
  let s := tOf { tWrite with dst := 2 }
  { s with fab := { s.fab with
      routes := [(1, 0x8000), (2, 0x8001)]
      ports := s.fab.ports ++ [(1, { slotcfg := 0xA00001F400002710, ready := true })] } }
theorem test_w_FabricMessages_again : assemble (tDup.port 0).rxVc0 = some ({ tWrite with msn := 2 ^ 32 - 256 }, 1) ∧
    (tDup.conn 1).down = false ∧ 256 ≤ (2 ^ 32 - 256 + 2 ^ 32 - (tDup.conn 1).expect) % 2 ^ 32 ∧ tDup.homePort 1 = some 0 ∧
    assemble (tVia.port 0).rxVc0 = some ({ tWrite with dst := 2 }, 1) ∧ (2 : Nat) ≠ tVia.pkgId ∧ tVia.homePort 2 = some 1 ∧ (1 : Nat) ≠ 0 ∧
    (tVia.port 1).relayOn = true ∧ tVia.fab.transit.length < 256 := by decide +kernel

/-- A response of package 1; its connection has one message outstanding. -/
def tResp (op msn : Nat) (args data : List Byte) : Msg :=
  { tMsg op args data (max 1 data.length) with msn := msn, addr := 0 }
def tOut (op : Nat) (own : Owner) : OutMsg := { tPut with m := { tPut.m with op := op }, own := own, sent := true }
def tBk (m : Msg) (o : OutMsg) (c : Conn) : State :=
  let s := tWt { ins := .ldf tGuard tM, tok := 3 }
  { s with slots := [(0, { task := some { uid := 4, ctx := 0, grp := 1 } })]
           fab := { routes := [(1, 0x8000)], ports := [(0, { ready := true, rxVc1 := flitsOf m })], conns := [(1, { c with out := [o] })] } }
theorem test_w_FabricMessages_answers :
    (∀ m ∈ [tResp 3 0 [] (List.replicate 8 1), tResp 6 0 (bytesOfLE 32 0) [], tResp 7 0 (bytesOfLE 4 0 ++ bytesOfLE 28 1) [], tResp 7 0 (bytesOfLE 4 0 ++ bytesOfLE 28 5) []],
      let s := tBk m (tOut 1 .none) {}; assemble (s.port 0).rxVc0 = none ∧ (∃ n ∈ [1, 2], assemble (s.port 0).rxVc1 = some (m, n)) ∧ m.dst = s.pkgId) ∧
    (let o := tOut 2 (.load { slot := 0, x := false } 3); let s := tBk (tResp 3 0 [] (List.replicate 8 1)) o {}
     (s.conn 1).out = [o] ∧ (tResp 3 0 [] (List.replicate 8 1)).msn = o.m.msn ∧ o.m.op = 2 ∧
     (s.seq { slot := 0, x := false }).wait = some { ins := .ldf tGuard tM, tok := 3 } ∧ (s.seq { slot := 0, x := false }).deepest = none ∧
     (s.seq { slot := 0, x := false }).held = []) ∧
    -- a connection without progress for its time, and with it
    (let s := tBk tWrite (tOut 1 .none) {}; s.busyConn 1 = true ∧ (s.conn 1).downAt.toNat ≤ s.now.toNat ∧ (s.conn 1).down = false) ∧
    tF.busyConn 1 = false ∧ (4096 + 1) % 4096 = 1 ∧
    (let o := tOut 1 (.store 4 false 0); o.retry = false ∧ o.m.op = 1 ∧
     (leOfBytes ((bytesOfLE 32 0).take 4) + 2 ^ 32 - o.m.msn) % 2 ^ 32 < 2 ^ 31 ∧ 2 ^ 31 ≤ (leOfBytes ((bytesOfLE 32 (2 ^ 31)).take 4) + 2 ^ 32 - o.m.msn) % 2 ^ 32 ∧
     leOfBytes ((bytesOfLE 4 0 ++ bytesOfLE 28 1).take 4) = o.m.msn ∧ leOfBytes (((bytesOfLE 4 0 ++ bytesOfLE 28 1).drop 4).take 1) = 1 ∧
     leOfBytes (((bytesOfLE 4 0 ++ bytesOfLE 28 5).drop 4).take 1) ≠ 1) ∧
    (let s := tBk tWrite (tOut 1 (.store 4 false 0)) {}
     (s.slots.map (·.1)).Nodup ∧ (s.slot 0).task = some { uid := 4, ctx := 0, grp := 1 } ∧ (s.conn 1).held = [] ∧ (s.seq { slot := 0, x := false }).stopped = false ∧
     (∀ e ∈ s.fab.ports, e.2.txBuf = [] ∧ e.2.txQueue = []) ∧ (tOut 1 .none).due.toNat ≤ s.now.toNat ∧ (s.conn 1).down = false ∧ s.homePort 1 = some 0) ∧
    tS.now.toNat < ({ tOut 1 .none with due := 1 } : OutMsg).due.toNat ∧ ({ down := true } : Conn).down = true ∧
    (let h : Hold := { tctx := 0, msgs := [tOut 1 .none] }; h.probing = false ∧ h.due.toNat ≤ tS.now.toNat) ∧
    (let o : OutMsg := { tOut 1 (.store 4 false 0) with retry := true }
     let h : Hold := { tctx := o.m.tctx, msgs := [tOut 1 .none], probing := true }
     let s := tBk (tResp 6 0 (bytesOfLE 32 0) []) o { held := [h] }
     (s.conn 1).held = [h] ∧ o.retry = true ∧ o.m.op = 1 ∧ s.homePort 1 = some 0 ∧ h.msgs.length ≤ (s.port 0).room 1 ∧
     ((tQfull 512).port 0).room 1 < h.msgs.length) := by decide +kernel
theorem test_w_FabricMessages_uid : ∀ e ∈ (tBk tWrite (tOut 1 .none) {}).slots, ∀ v : Machine.Task, e.2.task = some v → v.uid = 4 → e.1 = 0 := by
  intro e he v _ _
  rcases List.mem_singleton.mp he with rfl
  rfl

/-- A packet of node 1 to context 0 of this package, at 0x40 of window 0, at port 0. -/
def tPk (code : Nat) : Pkt := { tPkt with code := code, off := 0x40 }
def tEt (f : EthSt → EthSt) : State :=
  { tF with eth := f { tF.eth with ports := [(0, { ready := true })] } }
def tEo (own : Owner) (read sent : Bool) : OutPkt := { p := tPkt, ctx := 0, own := own, read := read, cost := 64, sent := sent }
theorem tEt_window (wr : Bool) : OwnWindow (tEt id) 0 true (BitVec.ofNat 64 ((tPk 0).node * 2 ^ 52 + (tPk 0).win * 2 ^ 44 + (tPk 0).off)) 8 wr 0x40 :=
  ⟨_, { tWin with span := 0x1000, net := true }, rfl, rfl, rfl, by decide +kernel, rfl, by decide +kernel, rfl, by cases wr <;> rfl, by decide +kernel⟩
theorem test_w_EthernetTransport_target :
    (tEt fun e => { e with ports := [] }).eth.ports = [] ∧ ((tEt id).ethPort 0).ready = true ∧ ((tEt id).ethPort 1).ready = false ∧ (tPk 0).host = false ∧
    -- a node under a key
    (let s := tEt fun e => { e with nodes := [(1, { ip := 0, ports := 1, enc := true, self := false })] }
     (tblGet s.eth.nodes 1).map (fun d => (d.enc, d.key)) = some (true, none)) ∧ (tblGet (tEt id).eth.nodes 1).map Node.enc = some false ∧ ({ tPk 0 with authOk := false } : Pkt).authOk = false ∧
    (tPk 5).code ≠ 0 ∧ (tPk 0).code = 0 ∧
    ((tPk 0).tok, 0) ∈ (tblGetD (tEt fun e => { e with pdcs := [(1, { seen := [(1, 0)] })] }).eth.pdcs (0 * 4096 + (tPk 0).node) {}).seen ∧
    ((tPk 0).tok, 0) ∉ (tblGetD (tEt id).eth.pdcs (0 * 4096 + (tPk 0).node) {}).seen ∧
    (tPk 0).gang = 0 ∧ (tPk 0).frag = false ∧ (tPk 0).rfrag = false ∧ (tPk 0).win < 256 ∧ (tPk 0).off < 2 ^ 44 ∧ (tPk 0).node < 4096 ∧ (tPk 0).args = [] ∧
    tblGet (tEt id).ctxs 5 = none ∧ (tblGet (tEt id).ctxs 0).map (fun x => tblGet x.windows 7) = some none ∧
    resOk ((tEt id).pinnedWrite ((tPk 0).data.length + 1) 0 0x40 (tPk 0).data) = true ∧
    (tEt id).pinnedRead ((tPk 0).len + 1) 0 0x40 (tPk 0).len = .ok [0x2A, 0, 0, 0, 0, 0, 0, 0] ∧
    (let s := { tEt id with ctxs := [(0, { (tEt id).ctx 0 with resident := false })] }
     (tblGet s.ctxs 0).map (fun x => (x.resident, tblFree x.stash 8)) = some (false, some 0) ∧ s.stackAt (s.ctx 0).stashBase.toNat = .ready) ∧
    -- a packet created later has written the third byte
    (let d : Pdc := { wrote := [(2, 0, 0x42, 1)] }
     let later (i : Nat) : Bool := d.wrote.any fun e => decide ((tPk 0).tok < e.1 ∧ e.2.1 = (tPk 0).tctx ∧ e.2.2.1 ≤ 0x40 + i ∧ 0x40 + i < e.2.2.1 + e.2.2.2)
     (∀ i, i < (tPk 0).data.length → (later i = true ↔ 2 ≤ i ∧ i < 3)) ∧
     (match (tEt id).pinnedWrite (2 + 1) 0 0x40 ((tPk 0).data.take 2) with
      | .ok u => resOk (u.pinnedWrite (8 - 3 + 1) 0 (0x40 + BitVec.ofNat 64 3) ((tPk 0).data.drop 3))
      | .error _ => false) = true ∧ (tEt fun e => { e with pdcs := [(1, d)] }).eth.pdcs = [(1, d)]) ∧
    -- the data of a read leave now, or wait for RATE
    ((tEt id).eth.resps = [] ∧ ((tblGet ((tEt id).ethPort 0).rates 1).getD { since := (tEt id).now }).next.toNat ≤ (tEt id).now.toNat ∧
      (let s := tEt fun e => { e with ports := [(0, { ready := true, rates := [(1, { next := 5 })] })] }
       s.now.toNat < ((tblGet (s.ethPort 0).rates 1).getD { since := s.now }).next.toNat)) ∧
    -- a delivery context, 100 µs old and younger
    (let s := tAt (tEt fun e => { e with pdcs := [(1, {})] }) 100000; tblGet s.eth.pdcs 1 = some {} ∧ ({} : Pdc).lastUse.toNat + 100000 ≤ s.now.toNat) ∧
    (tAt tS 99999).now.toNat < ({} : Pdc).lastUse.toNat + 100000 := by decide +kernel

/-- One packet of this package, sent or not; a load that waits for it; a task whose store it is. -/
def tEs (o : OutPkt) (f : EthSt → EthSt) : State :=
  { tWt { ins := .ldn tGuard tM, tok := 3 } with
    slots := [(0, { task := some { uid := 4, ctx := 0, grp := 1 } })]
    eth := f { tF.eth with ports := [(0, { ready := true })], pkts := [o] } }
def tSto : OutPkt := tEo (.store 4 false 0) false true
theorem test_w_EthernetTransport_sender :
    (∀ y ∈ (tEt id).eth.pkts, y.p.tok ≠ tPkt.tok ∨ y.sent = false) ∧
    (let s := tEs tSto id
     s.eth.pkts = [tSto] ∧ tSto.p.host = false ∧ tSto.p.node < 4096 ∧ tPkt.tok = tSto.p.tok ∧ tPkt.node = tSto.p.node ∧ tPkt.host = false ∧ tSto.sent = true ∧
     tSto.retry = false ∧ tSto.read = false ∧ tSto.own = .store 4 false 0) ∧
    (let o := tEo (.load { slot := 0, x := false } 3) true true; let s := tEs o id
     o.read = true ∧ (s.seq { slot := 0, x := false }).wait = some { ins := .ldn tGuard tM, tok := 3 } ∧ (s.seq { slot := 0, x := false }).deepest = none) ∧
    (tPk 1).code = 1 ∧ (tPk 5).code ≠ 1 ∧ tPkt.authOk = true ∧ (tEs tSto id).q.held = [] ∧
    -- sending: the port reaches the node and its RATE allows it; not yet
    (let s := tEs { tSto with sent := false } id
     (s.ethPort 0).ready = true ∧ (tblGet s.eth.nodes 1).map (fun d => d.ports.getLsbD 0) = some true ∧
     ((tblGet (s.ethPort 0).rates 1).getD { since := s.now }).next.toNat ≤ s.now.toNat ∧ ({ tSto with sent := false } : OutPkt).hold = none) ∧
    (let s := tEs { tSto with sent := false } fun e => { e with ports := [(0, { ready := true, rates := [(1, { next := 5 })] })] }
     s.now.toNat < ((tblGet (s.ethPort 0).rates 1).getD { since := s.now }).next.toNat) ∧
    (let o : OutPkt := { tSto with sent := false, charged := true, hold := some 0 }
     o.hold = some 0 ∧ o.retry = false ∧ o.charged = true ∧ (0 : Word).toNat ≤ tS.now.toNat ∧ tS.now.toNat < (1 : Word).toNat) ∧
    -- nothing waits before it; the data of a read do; a packet for a revoked window; a node with ENC and no key
    ((tEs tSto id).eth.resps = [] ∧ tSto.late = false ∧
      (let r : Resp := { port := 0, p := tPkt, data := [1] }; let s := tEs tSto fun e => { e with resps := [r] }
       s.eth.resps = r :: [] ∧ r.port = 0 ∧ r.p.host = false ∧ r.p.node = 1 ∧ ∀ x ∈ s.eth.pkts, x.late = false) ∧
      (let o : OutPkt := { tSto with p := { tPkt with host := true }, late := true }; o.p.host = true ∧ o.late = true ∧ o.own = .store 4 false 0) ∧
      (tblGet (tEs tSto fun e => { e with nodes := [(1, { ip := 0, ports := 1, enc := true, self := false })] }).eth.nodes 1).map
        (fun d => (d.enc, d.key)) = some (true, none)) ∧
    -- a window of RATE, 10 µs old and younger
    (let s := tAt (tEs tSto fun e => { e with ports := [(0, { ready := true, rates := [(1, {})] })] }) 10000
     tblGet (s.ethPort 0).rates 1 = some {} ∧ ({} : Rate).since.toNat + 10000 ≤ s.now.toNat) ∧ (tAt tS 9999).now.toNat < ({} : Rate).since.toNat + 10000 ∧
    (tblGet (tEs tSto id).eth.nodes 1).map (fun d => (d.failed, d.failAt)) = some (false, 0) ∧ (tEs tSto id).coll.colls = [] ∧ (tEs tSto id).eth.ring = none ∧
    (let o : OutPkt := { tSto with p := { tPkt with host := true }, own := .none }; o.p.host = true ∧ o.own = .none ∧
     (tblGet (tEs o id).eth.sessions 1).map (fun d => (d.failed, d.failAt)) = some (false, 0)) := by decide +kernel
theorem test_w_EthernetTransport_task : HasTask (tEs tSto id) 4 false 0 := by
  refine ⟨by decide, ⟨{ uid := 4, ctx := 0, grp := 1 }, rfl, rfl⟩, ?_, rfl⟩
  intro e he v _ _
  rcases List.mem_singleton.mp he with rfl
  rfl

-- Commands, identity, readiness, time, the debugger (CommandsNeedTheirSession to DebuggerCommands).

theorem tCu_open (s : State) : Opened (tCu s) tCmd :=
  ⟨(tAuth _ { admitted := true } rfl rfl).1, ⟨{ admitted := true }, rfl, rfl⟩, rfl, (0, { ready := true }), .head _, rfl⟩
theorem test_w_CommandsNeedTheirSession : custodians (.ctxread tCmd 0) = some tCmd ∧ openTo (.quote tCmd 0) = some tCmd ∧
    tblGet State.reset.eth.sessions tCmd.sess = none ∧ State.reset.preg.endptReady = false ∧ (∀ e ∈ State.reset.eth.ports, e.2.ready = false) ∧
    -- a page command that is not complete
    (Pending.page 9 [] ≠ .hwin 5 0 ∧ tblGet ({ tS with eth := { sessions := [(1, { pending := some (.page 9 []) })] } } : State).eth.sessions 1 = some { pending := some (.page 9 []) }) ∧
    (let s := tCu tS; let s := { s with eth := { s.eth with sessions := [(1, {})] } }
     tblGet s.eth.sessions tCmd.sess = some {} ∧ ({} : Session).admitted = false ∧ ({} : Session).pending = none ∧ ({} : Session).key = 0 ∧ s.preg.endptReady = true ∧ ∃ e ∈ s.eth.ports, e.2.ready = true) := by decide +kernel

/-- A frame that is authentic, and one that is not, of a session that is not admitted. -/
theorem test_w_CommandsNeedTheirSession_frames :
    ({ tS with eth := { sessions := [(1, {})] } } : State).authentic tCmd = true ∧ ({ tS with eth := { sessions := [(1, {})] } } : State).authentic tForged = false :=
  tAuth _ {} rfl rfl

theorem test_w_RegisterCommands : Custodian (tCu tS) tCmd ∧ (15 : Nat) < (tCu tS).nPorts ∧ (7 : Nat) < (tCu tS).nEth ∧
    -- the limits of a timeout
    ((100000 : Nat) ≤ (100000 : Word).toNat % 2 ^ 32 ∧ (100000000 : Word).toNat % 2 ^ 32 ≤ 100000000 ∧ (99999 : Word).toNat % 2 ^ 32 < 100000 ∧
      100000000 < (100000001 : Word).toNat % 2 ^ 32) ∧
    ({} : Port).slotIx < 256 ∧ ({} : Port).peer = none ∧
    -- addresses without a register
    ((0x11 : Nat) % 8 ≠ 0 ∧ (2 : Nat) < 256 ∧ (tCu tS).nEth ≤ 8 ∧ (tCu tS).nPorts ≤ 255) := ⟨tCu_custodian _, by decide +kernel⟩

theorem test_w_TablesAndEventRing : Custodian (tCu tS) tCmd ∧ Opened (tCu tS) tCmd ∧
    ((0x1000 : Word).toNat % 4096 = 0 ∧ (0x1001 : Word).toNat % 4096 ≠ 0 ∧ (8191 : Nat) < 8192 ∧ (255 : Nat) < 256) ∧
    -- a second node that says it is this package; none
    (let s := { tCu tS with eth := { (tCu tS).eth with nodes := [(2, { ip := 0, ports := 1, enc := false, self := true })] } }
     ∃ e ∈ s.eth.nodes, e.1 ≠ 1 ∧ e.2.self = true) ∧ (tCu tS).eth.nodes = [] ∧
    (tblGet (tCu tS).ctxs 0).isSome = true ∧ tblGet (tCu tS).ctxs 1 = none ∧ tblGet (tCu tS).ctxs 0 = some (tS.ctx 0) ∧ (2 ^ 32 - 1 : Nat) < 2 ^ 32 ∧
    (1 ≤ (65535 : Nat) ∧ (65535 : Nat) < 65536) ∧ (tCu tS).groupUsed 3 = false ∧ tblGet (tCu tS).coll.groups 3 = none ∧
    (let s := { tCu tS with coll := { groups := [(3, { owner := 0, enc := false, members := tMs })] } }
     (tblGet s.coll.groups 3).isSome = true ∧ s.groupUsed 3 = false) ∧
    (∃ e ∈ ({ tS with coll := { colls := [(0, { ctx := 0, base := 0, seq := 0, gid := 3, alg := 1, status := 0 })] } } : State).coll.colls, e.2.gid = 3) ∧
    (1 ≤ tMs.length ∧ tMs.length ≤ 256 ∧ ∀ m ∈ tMs, m.kind ≤ 1 ∧ m.rest = 0 ∧ m.addr.toNat % 2 ^ 44 = 0) ∧ ¬({ addr := 1, kind := 0 } : Member).addr.toNat % 2 ^ 44 = 0 ∧ (tCu tS).eth.waitEnds = [] ∧
    -- a host window that is set, with a packet for it on its way
    (let o : OutPkt := { p := { tPkt with host := true }, ctx := 0, own := .none, read := false, cost := 64 }
     let s := { tCu tS with eth := { (tCu tS).eth with pkts := [o], sessions := tF.eth.sessions } }
     ((tblGet s.eth.sessions 1).bind fun v => tblGet v.windows 0) = some { addr := 0, len := 4096, rd := true, wr := true } ∧
     ¬(∀ o ∈ s.eth.pkts, o.p.host = true → o.p.node = 1 → o.p.win = 0 → o.late = true)) ∧ (∀ k, k ≤ 10 → 65 ≠ 64 * 2 ^ k) := by
  refine ⟨tCu_custodian _, tCu_open _, ?_⟩
  decide +kernel
/-- A ring of 64 entries of which all but one are taken; one launch end waits. -/
def tRing : State := { tS with eth := { ring := some { sess := 1, base := 0, prod := 0, cons := 0, nev := 64 }, eseq := 63, waitEnds := [{ typ := 1, ctx := 0, time := 0, payload := [] }] } }
theorem test_w_TablesAndEventRing_room : tS.eth.ring = none ∧ tRing.eth.ring = some { sess := 1, base := 0, prod := 0, cons := 0, nev := 64 } ∧
    (64 : Nat) > tRing.eth.eseq ∧ (0 : Nat) ≤ 63 ∧ 63 ≤ tRing.eth.eseq ∧ tRing.eth.waitEnds.length ≤ 4096 ∧ tRing.eth.eseq - 0 ≤ 64 := by decide +kernel

/-- The page at 0 with its leaf at 0x3000; the state in which that page is pinned, and the one in which it waits. -/
def tPinned : State := { tCu tS with mem := { tMem with pins := [(0, 1)] } }
def tPgCmd : PageCmd := { sess := 1, tag := 5, asid := 0, va := 0, leaf := 0x3000, evict := false }
def tWaits : State := { tPinned with mem := { tMem with pins := [(0, 1)], dying := [tPgCmd] } }
/-- One page of an address space without a root; one without a leaf; one that is unmapped at once; one that is pinned. -/
theorem test_w_PageCommands_pages :
    Pages tCmd 5 false 1 (tCu tS) 0x40 (tCu tS) (bytesOfLE 8 0x40 ++ bytesOfLE 1 3 ++ []) ∧
    Pages tCmd 0 false 1 (tCu tS) 0x400000 (tCu tS) (bytesOfLE 8 0x400000 ++ bytesOfLE 1 2 ++ []) ∧
    Pages tCmd 0 false 1 (tCu tS) 0x40 ((tCu tS).clearLeaf 0x3000) (bytesOfLE 8 0 ++ bytesOfLE 1 0 ++ []) ∧
    Pages tCmd 0 false 1 tPinned 0x40 tWaits (bytesOfLE 8 0 ++ bytesOfLE 1 1 ++ []) := by
  refine ⟨⟨_, _, _, _, _, .inl ⟨?_, rfl, rfl, rfl, rfl⟩, ⟨rfl, rfl⟩, rfl⟩,
    ⟨_, _, _, _, _, .inr ⟨?_, .inl ⟨rfl, ⟨rfl, rfl, rfl⟩, .inr ⟨⟨rfl, ?_⟩, ?_⟩⟩⟩, ⟨rfl, rfl⟩, rfl⟩,
    ⟨_, _, _, _, _, .inr ⟨?_, .inr ⟨tLeaf, 0x3000, ?_, ⟨rfl, ?_⟩, ?_, ?_, rfl, rfl, .inl ⟨?_, rfl, rfl⟩⟩⟩, ⟨rfl, rfl⟩, rfl⟩,
    ⟨_, _, _, _, _, .inr ⟨?_, .inr ⟨tLeaf, 0x3000, ?_, ⟨rfl, ?_⟩, ?_, ?_, rfl, rfl, .inr ⟨?_, rfl, rfl⟩⟩⟩, ⟨rfl, rfl⟩, rfl⟩⟩
  all_goals decide +kernel
theorem test_w_PageCommands : Custodian (tCu tS) tCmd ∧ Custodian tPinned tCmd ∧
    -- what is left of a command is in progress, or not
    (∃ c ∈ tWaits.mem.dying, c.sess = tCmd.sess ∧ c.tag = tCmd.tag) ∧ (tCu tS).mem.dying = [] ∧
    tblGet (tCu tS).mem.roots 0 = some 0x1000 ∧ (0x1000 : Word).toNat % 4096 = 0 ∧ (tCu tS).walk 0 0x40 = some tLeaf ∧ (tCu tS).leafAt 0 0x40 = some 0x3000 ∧
    -- a page that waits, with its pins and without
    (let s := { tWaits with mem := { tWaits.mem with pins := [] }
                            eth := { tWaits.eth with sessions := [(1, { admitted := true, pending := some (.page 5 [1]) })] } }
     s.mem.dying.filter (fun c => c.asid == 0 && c.va == 0) = [tPgCmd] ∧ s.mem.dying.filter (fun c => !(c.asid == 0 && c.va == 0)) = [] ∧
     tblGetD s.mem.pins (0 * 2 ^ 32 + (0 : Word).toNat / 65536) 0 = 0 ∧
     tblGet s.eth.sessions tPgCmd.sess = some { admitted := true, pending := some (.page tPgCmd.tag [1]) }) ∧
    tblGetD tWaits.mem.pins (0 * 2 ^ 32 + (0 : Word).toNat / 65536) 0 ≠ 0 := by
  refine ⟨tCu_custodian _, ⟨(tAuth _ { admitted := true } rfl rfl).1, { admitted := true }, rfl, rfl, rfl, rfl, (0, { ready := true }), .head _, rfl⟩, ?_⟩
  decide +kernel

/-- Contexts 0 and 1. -/
def tCtx2 (c : Ctx) : State := tCu { State.reset with ctxs := [(0, { resident := true }), (1, c)] }
theorem test_w_ContextCommands : Custodian (tCtx2 {}) tCmd ∧ Opened (tCtx2 {}) tCmd ∧
    -- CTXSET: a new context and an old one; an ASID in use; fields that stand
    ((2 : Nat) < 8192 ∧ (5 : Nat) < 8192 ∧ (0 : Word).toNat % 65536 = 0 ∧ tblGet (tCtx2 {}).ctxs 2 = none ∧ tblGet (tCtx2 {}).ctxs 1 = some {}) ∧
    (∃ e ∈ (tCtx2 {}).ctxs, e.1 ≠ 2 ∧ e.2.asid.toNat = 0) ∧ ¬(∃ e ∈ (tCtx2 {}).ctxs, e.1 ≠ 2 ∧ e.2.asid.toNat = 5) ∧
    (let c : Ctx := { asid := 5, launch := some tL }; tblGet (tCtx2 c).ctxs 1 = some c ∧ c.asid.toNat ≠ 6 ∧ c.launch ≠ none) ∧
    ({} : Ctx).launch = none ∧ ({} : Ctx).launchQ = [] ∧ ({} : Ctx).windows = [] ∧
    -- GAUGESET and RESCFG: nothing asked for fits, and more than the package has does not
    (let s := tCtx2 {}; GaugesFit s (s.shr.nextPeriod.getD s.shr.period) [{}, {}] ∧ ¬GaugesFit s (s.shr.nextPeriod.getD s.shr.period) [{ mx := 250001 }, {}] ∧
      GaugesFit s (s.shr.nextPeriod.getD s.shr.period) [{ mx := 250000 }, {}]) ∧
    (1 ≤ (255 : Nat) ∧ (10 : Nat) ≤ 10000 ∧ (tCtx2 {}).shr.nextPeriod.getD (tCtx2 {}).shr.period ≤ 1000 * 100 ∧ ∀ e ∈ (tCtx2 {}).ctxs, e.1 < 8192) ∧
    (({} : Ctx).gauge.pri < 64 ∧ ({} : Ctx).pen < 16) ∧
    -- LAUNCH: 64 queued, and 63
    (64 ≤ ({ launchQ := List.replicate 64 0 } : Ctx).launchQ.length ∧ ({ launchQ := List.replicate 63 0 } : Ctx).launchQ.length < 64) := by
  refine ⟨tCu_custodian _, tCu_open _, ?_⟩
  unfold GaugesFit
  decide +kernel

theorem test_w_KeysAndIdentity (puf k dom ct : Nat) :
    let m := bytesOfLE 32 (Config.mlkemDecap puf ct).toNat ++ (bytesOfLE 2 k ++ bytesOfLE 2 dom)
    -- a key whose halves differ, with its tag; one whose halves are the same
    (∃ (w : BitVec 512) (tag : BitVec 128), tag.toNat = (sha3 (m ++ bytesOfLE 64 w.toNat)).toNat % 2 ^ 128 ∧
      (w ^^^ shake512 m).toNat % 2 ^ 256 ≠ (w ^^^ shake512 m).toNat / 2 ^ 256) ∧
    ∃ w : BitVec 512, ¬(w ^^^ shake512 m).toNat % 2 ^ 256 ≠ (w ^^^ shake512 m).toNat / 2 ^ 256 := by
  intro m
  refine ⟨⟨1 ^^^ shake512 m, BitVec.ofNat 128 (sha3 (m ++ bytesOfLE 64 (1 ^^^ shake512 m).toNat)).toNat, BitVec.toNat_ofNat .., ?_⟩, shake512 m, ?_⟩
  · rw [BitVec.xor_assoc, BitVec.xor_self, BitVec.xor_zero]; decide +kernel
  · rw [BitVec.xor_self]; decide +kernel
theorem test_w_KeysAndIdentity_tables : Custodian (tCu tS) tCmd ∧ Opened (tCu tS) tCmd ∧ tblGet (tCu tS).mem.keys 7 = none ∧
    (tblGet (tCu tS).mem.keys 0).map Key.dying = some false ∧ ({ keydom := 0, dying := true } : Key).dying = true ∧
    -- key 0 is the key of the page at 0, pinned and not
    (let s := { tCu tS with mem := { tMem with pins := [(0, 1)] } }; ∃ e ∈ s.mem.pins, (s.walk (e.1 / 2 ^ 32) (e.1 % 2 ^ 32 * 65536)).map (fun l => l.key) = some 0) ∧
    (tCu tS).mem.pins = [] ∧ tblGet (tF).eth.nodes 1 = some { ip := 0, ports := 1, enc := false, self := false } ∧
    tblGet (tCu tS).ctxs 0 = some (tS.ctx 0) ∧ tblGet (tCu tS).ctxs 1 = none ∧ tblGet (tCu tS).sec.oldLogs 1 = none ∧ (15 : Nat) < 16 ∧
    (∀ e ∈ State.reset.eth.ports, e.2.ready = false) ∧ (∃ e ∈ (tCu tS).eth.ports, e.2.ready = true) ∧
    -- IDREAD: a frame of the open session that authenticates, and one that does not
    (tCu tS).authentic tCmd = true ∧ (tCu tS).authentic tForged = false ∧ tblGet (tCu tS).eth.sessions tCmd.sess = some { admitted := true } := by
  refine ⟨tCu_custodian _, tCu_open _, ?_, ?_, ?_, ?_, ?_, ?_, ?_, ?_, ?_, ?_, ?_, ?_, (tAuth _ { admitted := true } rfl rfl).1, (tAuth _ { admitted := true } rfl rfl).2, rfl⟩
  all_goals decide +kernel

theorem test_w_BringUpAndReadiness : State.reset.sec.begun = false ∧ ({ State.reset with sec := { begun := true } } : State).sec.begun = true ∧
    (let s := { State.reset with preg := { secReady := true }, eth := { ports := [(0, { ready := true })] } }
     s.preg.endptReady = false ∧ s.preg.secReady = true ∧ ∃ e ∈ s.eth.ports, e.2.ready = true) ∧
    (255 < 32 * State.reset.nDies ∧ (State.reset.core 255).fenced = false ∧ (∀ e ∈ tS.grps, tS.launchOf e.2.ctx ≠ none) ∧ 32 * State.reset.nDies ≤ 256) ∧
    (7 < State.reset.nDies ∧ (State.reset.die 7).ready = false ∧ (State.reset.die 7).fenced = false ∧ State.reset.nDies ≤ 8) ∧
    (15 < State.reset.nStacks ∧ tblGet State.reset.mem.stk 15 = none ∧ tblGet tS.mem.stk 0 = some true ∧ tblGet ({ tS with mem := { tMem with stk := [(0, false)] } } : State).mem.stk 0 = some false) ∧
    (15 < State.reset.nPorts ∧ (State.reset.port 15).ready = false) ∧ (7 < State.reset.nEth ∧ (State.reset.ethPort 7).ready = false ∧ (State.reset.ethPort 7).fenced = false) := by
  decide +kernel

theorem test_w_TimeAndThermalStates :
    (let s := { tS with clk := { ptpEn := true }, eth := { ports := [(0, { ready := true })] } }
     s.clk.ptpEn = true ∧ (s.ethPort s.clk.ptpPort.toNat).ready = true ∧ s.clk.tuned = false ∧ (0 : Nat) ≤ s.clk.time.toNat ∧ s.clk.time.toNat < 1 ∧ 1 < s.shr.edge.toNat) ∧
    State.reset.clk.ptpEn = false ∧
    (let s := tAt { tS with clk := { ptpEn := true } } 2000000000; s.clk.ptpEn = true ∧ s.clk.hold = false ∧ 2000000000 ≤ (s.now - s.clk.lastSync).toNat) ∧
    ({ hold := true } : Clock).hold = true ∧ ({ tuned := true } : Clock).tuned = true ∧ 7 < tS.nDies ∧ tS.nDies ≤ 8 ∧ (255 : Nat) < 256 ∧ (tS.die 0).therm = .normal ∧
    (∀ x ∈ [Therm.warn, .throttle, .trip], (({ tS with dies := [(0, { therm := x })] } : State).die 0).therm = x) := by decide +kernel

/-- Slot 0 under a debugger: its context allows it; the slot as given. -/
def tDbg (f : Slot → Slot) (c : Ctx → Ctx) : State :=
  let s := tCu (tSl f)
  { s with ctxs := [(0, c { s.ctx 0 with dbgEn := true })] }
theorem test_w_DebuggerCommands : Custodian (tDbg id id) tCmd ∧ (tblGet (tDbg id id).ctxs 0).map Ctx.dbgEn = some true ∧ tblGet (tDbg id id).ctxs 1 = none ∧
    ({} : Ctx).dbgEn = false ∧ (∀ e ∈ ((tDbg id id).ctx 0).savedSlots, e.from_ ≠ 1) ∧ ((tDbg id id).ctx 0).savedSlots = [] ∧
    ((tDbg id id).slot 0).halted = false ∧ ((tDbg (fun t => { t with halted := true }) id).slot 0).halted = true ∧
    ((tDbg id id).core (0 / 4)).scopeQ = [] ∧ ((tDbg id id).seq { slot := 0, x := true }).stopped = false ∧
    (let w : Wait := { ins := .epush tGuard 1 2 }; (tWt w).q.wait = some w) := by
  refine ⟨⟨(tAuth _ { admitted := true } rfl rfl).1, { admitted := true }, rfl, rfl, rfl, rfl, (0, { ready := true }), .head _, rfl⟩, ?_⟩
  decide +kernel
theorem test_w_DebuggerCommands_slot : RunsTask (tDbg id id) 0 0 ∧ ¬RunsTask (tDbg id id) 1 0 ∧ CanHalt ((tDbg id id).seq { slot := 0, x := false }) ∧
    CanHalt ({ tSeq with wait := some { ins := .semwait tGuard 1 2 3 } } : Machine.Seq) :=
  ⟨⟨{ ctx := 0, grp := 1 }, rfl, rfl, rfl⟩, (fun ⟨_, h, _⟩ => by cases h), ⟨.inr (.inl rfl), .inl rfl⟩,
    ⟨.inr (.inl rfl), .inr ⟨_, rfl, rfl, .inl ⟨tGuard, 1, 2, 3, rfl⟩⟩⟩⟩
/-- A saved slot, and state that the debugger reaches: a bank of the group, the queues, the tile registers of every power state. -/
theorem test_w_DebuggerCommands_reach :
    (let e : SavedSlot := { grp := 9, from_ := 1, slot := {}, a := tSeq, x := tSeq }
     ((tDbg id fun c => { c with savedSlots := [e] }).ctx 0).savedSlots = [e] ∧ e.from_ = 1 ∧ e.slot.halted = false ∧ e.a.stopped = false ∧
     ({ e with slot := { halted := true } } : SavedSlot).slot.halted = true) ∧
    (tDbg id id).grp ((tDbg id id).slot 0).grpOf = some tGrp ∧ tGrp.mask.getLsbD 0 = true ∧ tGrp.mask.getLsbD 2 = true ∧ tGrp.mask.getLsbD 11 = false ∧
    (262080 : Nat) + 64 ≤ 2 ^ 18 ∧ ((tDbg (fun t => { t with aq0 := [5] }) id).slot 0).aq0 = 5 :: [] ∧
    ((tDbg (fun t => { t with qmx := [tQr] }) id).slot 0).qmx = tQr :: [] ∧
    (let sc : Scope := { n := 24, cl := [.on, .gated, .drowsy], mem := [] }
     ((tDbg (fun t => { t with scope := some sc }) id).slot 0).scope = some sc ∧ (24576 : Nat) ≤ 1024 * sc.n ∧ sc.cl[0]? = some .on ∧
     sc.cl[1]? = some .gated ∧ sc.cl[2]? = some .drowsy) ∧
    ((tDbg (fun t => { t with haltReq := true }) id).slot 0).haltReq = true ∧
    -- a trap that is due; a CSR that is known, one that is not; the last bytes of the masks
    ({ tSeq with held := [{ code := 0x12, eval := 0 }] } : Machine.Seq).held ≠ [] ∧ (csrKnown 0xF00 = true ∧ (tDbg id id).csrReach 0xF00 = true) ∧
    csrKnown 0x777 = false ∧ (960 : Nat) + 64 ≤ 1024 := by decide +kernel

-- The decoder and a step (EncodingRoundTrip to StepKeepsMemoryForm).

theorem test_w_EncodingRoundTrip : (Instr.nop tGuard).isWord = true ∧ (Instr.nop tGuard).wf = true ∧ 72 ≤ (encode (.nop tGuard) ++ List.replicate 64 0).length ∧
    (Instr.enq tGuard .vx 5).isWord = true ∧ (Instr.enq tGuard .vx 5).wf = true ∧ 72 ≤ (encode (.enq tGuard .vx 5) ++ []).length := by decide +kernel
theorem test_w_DecodingIsCanonical : decode 0x1901000000000000 5 = .ok (.enq tGuard .vx 5) ∧ (Instr.enq tGuard .vx 5).size = 72 := by decide +kernel

/-- The machine with sequencer A next, and the bytes of `n` bytes of value `x` at its pc. -/
def tStep (n x : Nat) : State :=
  { tS with agenda := [{ at_ := 5, what := .seq { slot := 0, x := false } }], mem := { tMem with hbm := tMem.hbm.writeLE 0x201000 n x } }
def tEnq : Nat := leOfBytes (encode (.enq tGuard .vx 5))
/-- The state in which that step fetches, and what stands `k` words after the pc. -/
def tFetch (n x : Nat) : State := { (tStep n x).reach 5 with agenda := [] }
abbrev tStands (n x k : Nat) (a : Word) (bs : List Byte) : Prop :=
  (tFetch n x).translate 0 a .fetch = .ok { tLeaf with pa := 0x201000 + 8 * k } ∧ (tFetch n x).stackAt (0x201000 + 8 * k) = .ready ∧
  (tFetch n x).mem.hbm.readBytes (0x201000 + 8 * k) bs.length = bs
theorem tStands_fetched (n x k : Nat) (a : Word) (bs : List Byte) (h : tStands n x k a bs) : FetchedAt (tFetch n x) a bs :=
  ⟨_, h.1, h.2.1, h.2.2, fun _ _ _ => ⟨List.not_mem_nil, rfl⟩⟩
theorem test_w_StepRunsDecodedInstruction :
    (let s := tStep 72 tEnq; let q : SeqRef := { slot := 0, x := false }
     s.agenda = [{ at_ := 5, what := .seq q }] ∧ (s.seq q).stopped = false ∧ (s.seq q).wait = none ∧ (s.seq q).held = [] ∧ (s.slot 0).stopReq = false ∧
     (s.slot 0).preReq = false ∧ (s.slot 0).haltReq = false ∧ (s.slot 0).halted = false ∧ (s.slot 0).stepOne = none ∧ (s.seq q).deepest = none ∧
     (s.seq q).loopBuf = [] ∧ (5 : Nat) < s.shr.edge.toNat ∧ (s.seqs.map (·.1)).Pairwise (· < ·) ∧ (tblGet s.seqs (keyOf q)).isSome = true) ∧
    decode 0x1E00000000000000 0 = .error .major ∧
    (let s := tS.setQ { tSeq with pc := 0x200000 }; s.translate s.cx 0x200000 .fetch = .trap { code := 5, eval := 0x200000 }) ∧
    ((tS.setQ { tSeq with stopped := true }).q.stopped = true ∧ State.reset.agenda = [] ∧ (∀ e ∈ State.reset.seqs, e.2.stopped = true) ∧
      State.reset.clk.time.toNat + 1 < State.reset.shr.edge.toNat) ∧
    -- a sequencer that waits
    (let w : Wait := { ins := .semwait tGuard 1 0 0 }; (tWt w).q.wait = some w ∧ w.stalls = false ∧ w.held = none ∧
      completion tS.cur w.ins = some (.semwaitPass tS.cur)) ∧
    -- an event at the edge, and the edge after it
    (let s := { tS with agenda := [{ at_ := 100000, what := .event .periodEdge }] }
     s.clk.time.toNat ≤ s.shr.edge.toNat ∧ s.shr.edge.toNat ≤ (100000 : Word).toNat ∧
     (match exec .periodEdge (s.reach s.shr.edge) with
      | .next v => decide ((100000 : Word).toNat < v.shr.edge.toNat)
      | _ => false) = true) := by decide +kernel
theorem tEnq_stands : ∀ k, k < 9 → tStands 72 tEnq k ((0x1000 : Word) + BitVec.ofNat 64 (8 * k)) (((encode (.enq tGuard .vx 5)).drop (8 * k)).take 8) := by
  decide +kernel
/-- ENQ with its nine words, and a word that is none. -/
theorem test_w_StepRunsDecodedInstruction_fetched (k : Nat) (h : 8 * k < (Instr.enq tGuard .vx 5).size) :
    FetchedAt (tFetch 72 tEnq) ((0x1000 : Word) + BitVec.ofNat 64 (8 * k)) (((encode (.enq tGuard .vx 5)).drop (8 * k)).take 8) :=
  have h9 : k < 9 := by have : (Instr.enq tGuard .vx 5).size = 72 := rfl
                        omega
  tStands_fetched _ _ _ _ _ (tEnq_stands k h9)
theorem test_w_StepRunsDecodedInstruction_word : FetchedAt (tFetch 8 0x1E00000000000000) 0x1000 (leBytes 8 0x1E00000000000000) :=
  tStands_fetched _ _ 0 _ _ (by decide +kernel)
theorem test_w_StepKeepsMemoryForm : tS.mem.hbm.wf = true ∧ (match step (tStep 8 0) with | .next _ => true | _ => false) = true := by decide +kernel

end Sys2Proof.Tests
end

section
/-! PROOF. The machine right after reset (O60). -/

namespace Sys2Proof.Machine

/-- Context 0 is the one context of the reset state (R281). -/
theorem tblGet_reset_ctxs (c : Nat) : tblGet State.reset.ctxs c = none ↔ c ≠ 0 := by
  show tblGet [((0 : Nat), ({ resident := true } : Ctx))] c = none ↔ c ≠ 0
  by_cases h : c = 0 <;> simp [tblGet_cons, eq_comm, h]

/-- Settles O60: the reset state is the one of the defaults, with context 0 alone, and every value is read off it. -/
theorem resetState : Obligations.ResetState :=
  ⟨rfl, fun _ => rfl, rfl, rfl, rfl, rfl, rfl, rfl, rfl, rfl, rfl, rfl, rfl, fun _ => ⟨rfl, rfl⟩, fun _ => rfl,
    fun _ => ⟨rfl, rfl, rfl, rfl, rfl, rfl⟩, fun _ => rfl, tblGet_reset_ctxs, rfl, rfl, rfl, rfl, rfl, rfl, fun _ => rfl, fun _ => rfl,
    fun _ => rfl, rfl, rfl, rfl⟩

end Sys2Proof.Machine
end

section
/-! PROOF. REGRD and REGWR (O50): the address of a register, the answer to a custodian's command, and each register space. -/

open Sys2Proof.Claim
namespace Sys2Proof.Machine

/-- The address of the register at an offset in one of the copies of a unit (R372). -/
def regAddr (u i o : Nat) : BitVec 32 := BitVec.ofNat 32 (u * 2 ^ 24 + i * 2 ^ 16 + o)

theorem regAddr_toNat {u i o : Nat} (hu : u < 256) (hi : i < 256) (ho : o < 65536) :
    (regAddr u i o).toNat = u * 2 ^ 24 + i * 2 ^ 16 + o := by
  have hlt : u * 2 ^ 24 + i * 2 ^ 16 + o < 2 ^ 32 := by omega
  rw [regAddr, BitVec.toNat_ofNat, Nat.mod_eq_of_lt hlt]

theorem regAddr_unit {u i o : Nat} (hu : u < 256) (hi : i < 256) (ho : o < 65536) : ((regAddr u i o).extractLsb' 24 8).toNat = u := by
  rw [BitVec.extractLsb'_toNat, regAddr_toNat hu hi ho, Nat.shiftRight_eq_div_pow]; omega

theorem regAddr_inst {u i o : Nat} (hu : u < 256) (hi : i < 256) (ho : o < 65536) : ((regAddr u i o).extractLsb' 16 8).toNat = i := by
  rw [BitVec.extractLsb'_toNat, regAddr_toNat hu hi ho, Nat.shiftRight_eq_div_pow]; omega

theorem regAddr_off {u i o : Nat} (hu : u < 256) (hi : i < 256) (ho : o < 65536) : ((regAddr u i o).extractLsb' 0 16).toNat = o := by
  rw [BitVec.extractLsb'_toNat, regAddr_toNat hu hi ho, Nat.shiftRight_eq_div_pow]; omega

-- The units of the register space.

variable {s t : State} {h : Cmd}

/-- What REGRD reads at an offset in one of the copies of a unit. -/
def State.readAt (s : State) (u i o : Nat) : Option Word :=
  match u with
  | 0 => if i = 0 then s.readPkg o else none
  | 1 => if i < s.nPorts then (s.port i).read s.clk.time o else none
  | 2 => if i < s.nEth && o == 0x48 then some ((s.ethPort i).sfretry.zeroExtend 64) else none
  | _ => none

/-- What REGWR writes at an offset in one of the copies of a unit. -/
def State.writeAt (s : State) (u i o : Nat) (x : Word) : Option State :=
  match u with
  | 0 => if i = 0 then s.writePkg o x else none
  | 1 => if s.nPorts ≤ i then none else if o = 0 then some (s.writeSlotcfg i x) else ((s.port i).write o x).map fun p => s.setPort i p
  | 2 => if i < s.nEth && o == 0x48 then
      some (s.setEthPort i { s.ethPort i with sfretry := (s.ethPort i).sfretry &&& ~~~(x.truncate 32) }) else none
  | _ => none

theorem regRead_regAddr {u i o : Nat} (hu : u < 256) (hi : i < 256) (ho : o < 65536) : s.regRead (regAddr u i o) = s.readAt u i o := by
  simp only [State.regRead, regAddr_unit hu hi ho, regAddr_inst hu hi ho, regAddr_off hu hi ho]; rfl

theorem regWrite_regAddr {u i o : Nat} (hu : u < 256) (hi : i < 256) (ho : o < 65536) (x : Word) :
    s.regWrite (regAddr u i o) x = s.writeAt u i o x := by
  simp only [State.regWrite, regAddr_unit hu hi ho, regAddr_inst hu hi ho, regAddr_off hu hi ho]; rfl

/-- An address that names no register of the map (R372). -/
def NoRegister (s : State) (u i o : Nat) : Prop :=
  o % 8 ≠ 0 ∨ 3 ≤ u ∨ (u = 0 ∧ 0 < i) ∨ (u = 1 ∧ s.nPorts ≤ i) ∨ (u = 2 ∧ (s.nEth ≤ i ∨ o ≠ 0x48))

theorem readPkg_misaligned {o : Nat} (ho : o % 8 ≠ 0) : s.readPkg o = none := by simp [State.readPkg, ho]

theorem writePkg_misaligned {o : Nat} (ho : o % 8 ≠ 0) (x : Word) : s.writePkg o x = none := by simp [State.writePkg, ho]

theorem Port.read_misaligned (v : Port) (now : Word) {o : Nat} (ho : o % 8 ≠ 0) : v.read now o = none := by
  unfold Port.read
  split
  · simp [ho]
  · split <;> simp at ho ⊢

theorem Port.write_misaligned (v : Port) {o : Nat} (ho : o % 8 ≠ 0) (x : Word) : v.write o x = none := by
  unfold Port.write
  split
  · simp [ho]
  · split <;> simp at ho ⊢

theorem readAt_noRegister {u i o : Nat} (hn : NoRegister s u i o) : s.readAt u i o = none := by
  match u, hn with
  | 0, hn =>
    refine ite_eq_right_iff.2 fun hi0 => readPkg_misaligned ?_
    simp only [NoRegister] at hn; omega
  | 1, hn =>
    refine ite_eq_right_iff.2 fun hp => Port.read_misaligned _ _ ?_
    simp only [NoRegister] at hn; omega
  | 2, hn =>
    refine if_neg fun hp => ?_
    simp only [Bool.and_eq_true, decide_eq_true_eq, beq_iff_eq] at hp
    simp only [NoRegister] at hn; omega
  | _ + 3, _ => rfl

theorem writeAt_noRegister {u i o : Nat} (hn : NoRegister s u i o) (x : Word) : s.writeAt u i o x = none := by
  match u, hn with
  | 0, hn =>
    refine ite_eq_right_iff.2 fun hi0 => writePkg_misaligned ?_ x
    simp only [NoRegister] at hn; omega
  | 1, hn =>
    refine ite_eq_left_iff.2 fun hp => ?_
    have ho8 : o % 8 ≠ 0 := by simp only [NoRegister] at hn; omega
    rw [if_neg (by rintro rfl; exact ho8 rfl), Port.write_misaligned _ ho8, Option.map_none]
  | 2, hn =>
    refine if_neg fun hp => ?_
    simp only [Bool.and_eq_true, decide_eq_true_eq, beq_iff_eq] at hp
    simp only [NoRegister] at hn; omega
  | _ + 3, _ => rfl

-- The answer to a command of the custodian.

theorem endpoint_of_custodian (hc : Custodian s h) : s.endpoint = true := by
  obtain ⟨-, -, -, -, -, hr, e, he, hready⟩ := hc
  simp only [State.endpoint, hr, Bool.true_and, List.any_eq_true]
  exact ⟨e, he, hready⟩

theorem custodian_ok (hc : Custodian s h) (t : State) (data : List Byte) : s.custodian h (.ok t data) = .next (t.answer h 0 data) := by
  obtain ⟨ha, v, hv, hadm, hpend, -⟩ := id hc
  simp [State.custodian, State.command, State.commandOf, State.session, hv, endpoint_of_custodian hc, ha, hadm, hpend]

theorem custodian_fail (hc : Custodian s h) (n : Nat) : s.custodian h (.fail n) = .next (s.answer h n) := by
  obtain ⟨ha, v, hv, hadm, hpend, -⟩ := id hc
  simp [State.custodian, State.command, State.commandOf, State.session, hv, endpoint_of_custodian hc, ha, hadm, hpend]

/-- An answer carries the tag of the sessions' keys alone. -/
theorem answerOf_eq (e : t.eth.sessions = s.eth.sessions) (h : Cmd) (n : Nat) (data : List Byte) :
    answerOf t h n data = answerOf s h n data := by
  simp only [answerOf, State.tagOf, State.session, e]

/-- REGRD at an address answers OK with a value of 8 bytes. -/
def AnswersRead (s : State) (h : Cmd) (u i o v : Nat) : Prop :=
  Runs (.regrd h (regAddr u i o)) s fun t => Answer s t h 0 (bytesOfLE 8 v)

/-- REGWR at an address answers OK, and leaves the state as `P` says. -/
def AnswersWrite (s : State) (h : Cmd) (u i o : Nat) (x : Word) (P : State → Prop) : Prop :=
  Runs (.regwr h (regAddr u i o) x) s fun t => t.out = s.out ++ [answerOf s h 0 []] ∧ P t

section
variable (hc : Custodian s h) {u i o : Nat} (hu : u < 256) (hi : i < 256) (ho : o < 65536)
include hc hu hi ho

theorem answersRead_of {v : Nat} {w : Word} (e : s.readAt u i o = some w) (hv : w.toNat = v) : AnswersRead s h u i o v := by
  refine ⟨s.answer h 0 (bytesOfLE 8 v), ?_, rfl⟩
  rw [exec_regrd, execRegrd, regRead_regAddr hu hi ho, e, ← hv]
  exact custodian_ok hc ..

theorem answersWrite_of {x : Word} {P : State → Prop} (e : s.writeAt u i o x = some t) (hout : t.out = s.out)
    (hs : t.eth.sessions = s.eth.sessions) (hP : P (t.answer h 0 [])) : AnswersWrite s h u i o x P := by
  refine ⟨t.answer h 0 [], ?_, ?_, hP⟩
  · rw [exec_regwr, execRegwr, regWrite_regAddr hu hi ho, e]
    exact custodian_ok hc ..
  · rw [← answerOf_eq hs, ← hout]; rfl

theorem regwr_changes_nothing {x : Word} (e : s.writeAt u i o x = some s) :
    Runs (.regwr h (regAddr u i o) x) s fun t => Answer s t h 0 [] := by
  refine ⟨s.answer h 0 [], ?_, rfl⟩
  rw [exec_regwr, execRegwr, regWrite_regAddr hu hi ho, e]
  exact custodian_ok hc ..

theorem regrd_refused (e : s.readAt u i o = none) : Runs (.regrd h (regAddr u i o)) s fun t => Answer s t h 2 [] := by
  refine ⟨s.answer h 2 [], ?_, rfl⟩
  rw [exec_regrd, execRegrd, regRead_regAddr hu hi ho, e]
  exact custodian_fail hc 2

theorem regwr_refused {x : Word} (e : s.writeAt u i o x = none) : Runs (.regwr h (regAddr u i o) x) s fun t => Answer s t h 2 [] := by
  refine ⟨s.answer h 2 [], ?_, rfl⟩
  rw [exec_regwr, execRegwr, regWrite_regAddr hu hi ho, e]
  exact custodian_fail hc 2

end

-- Fields packed into a word.

theorem zeroExtend_toNat (b : BitVec 32) : (b.zeroExtend 64).toNat = b.toNat := by
  rw [BitVec.toNat_setWidth]; omega

@[simp] theorem bitIf_true (k : Nat) : bitIf true k = 2 ^ k := rfl
@[simp] theorem bitIf_false (k : Nat) : bitIf false k = 0 := rfl

theorem bitIf_le (b : Bool) (k : Nat) : bitIf b k ≤ 2 ^ k := by cases b <;> simp

theorem bitsOfRange_lt (f : Nat → Bool) (n : Nat) : ((List.range n).map fun k => bitIf (f k) k).sum < 2 ^ n := by
  induction n with
  | zero => simp
  | succ n ih =>
    have := bitIf_le (f n) n
    simp only [List.range_succ, List.map_append, List.sum_append, List.map_cons, List.map_nil, List.sum_cons, List.sum_nil, Nat.pow_succ]
    omega

/-- The sum of the bits of a range has each of them at its place. -/
theorem testBit_bitsOfRange (f : Nat → Bool) {n k : Nat} (hk : k < n) :
    (((List.range n).map fun k => bitIf (f k) k).sum).testBit k = f k := by
  induction n with
  | zero => omega
  | succ n ih =>
    simp only [List.range_succ, List.map_append, List.sum_append, List.map_cons, List.map_nil, List.sum_cons, List.sum_nil, Nat.add_zero]
    cases hf : f n with
    | false =>
      rw [bitIf_false, Nat.add_zero]
      rcases Nat.lt_succ_iff_lt_or_eq.1 hk with hlt | rfl
      · exact ih hlt
      · rw [Nat.testBit_lt_two_pow (bitsOfRange_lt f k), hf]
    | true =>
      rw [bitIf_true, Nat.add_comm]
      rcases Nat.lt_succ_iff_lt_or_eq.1 hk with hlt | rfl
      · rw [Nat.testBit_two_pow_add_gt hlt]; exact ih hlt
      · rw [Nat.testBit_two_pow_add_eq, Nat.testBit_lt_two_pow (bitsOfRange_lt f k), hf, Bool.not_false]

theorem timestat_toNat (s : State) : s.timestat.toNat =
    s.clk.offset.toNat * 2 ^ 32 + bitIf s.clk.hold 2 + bitIf s.clk.stepped 1 + bitIf s.clk.lock 0 := by
  have := bitIf_le s.clk.hold 2
  have := bitIf_le s.clk.stepped 1
  have := bitIf_le s.clk.lock 0
  rw [State.timestat, BitVec.toNat_ofNat, Nat.mod_eq_of_lt]
  omega

theorem optrdy_bit (s : State) (lo : Nat) {k : Nat} (hk : k < 64) :
    (s.optrdy lo).toNat / 2 ^ k % 2 = 1 ↔ lo + k < s.nPorts ∧ (s.port (lo + k)).ready = true := by
  have hlt := bitsOfRange_lt (fun k => decide (lo + k < s.nPorts) && s.portReady (lo + k)) 64
  have hbit := testBit_bitsOfRange (fun k => decide (lo + k < s.nPorts) && s.portReady (lo + k)) hk
  rw [State.optrdy, BitVec.toNat_ofNat, Nat.mod_eq_of_lt hlt, ← decide_eq_true_iff (p := _ = 1), ← Nat.testBit_eq_decide_div_mod_eq, hbit,
    Bool.and_eq_true, decide_eq_true_iff]
  rfl

theorem Port.slotNs_eq (v : Port) : v.slotNs = v.slotcfg.toNat % 2 ^ 32 := by
  simp [Port.slotNs, BitVec.extractLsb'_toNat]

theorem Port.guardNs_eq (v : Port) : v.guardNs = v.slotcfg.toNat / 2 ^ 32 % 2 ^ 20 := by
  simp [Port.guardNs, BitVec.extractLsb'_toNat, Nat.shiftRight_eq_div_pow]

/-- SLOTSTAT (R279) of a port whose slot index and peer fit their fields. -/
theorem slotstat_toNat (v : Port) (now : Word) (hix : v.slotIx < 256) (hq : ∀ q, v.peer = some q → q < 4096) :
    (v.slotstat now).toNat = v.rounds.toNat * 2 ^ 32 + v.slotIx * 2 ^ 24 + v.peer.getD 0 * 2 ^ 12
      + bitIf (v.inSlot && decide (now.toNat < (v.slotBeg + BitVec.ofNat 64 v.guardNs).toNat)) 11
      + bitIf (!v.slotcfg.getLsbD 63 || !v.inSlot || v.peer.isNone) 10 := by
  have hpeer : v.peer.getD 0 < 4096 := by
    cases hp : v.peer with
    | none => exact Nat.zero_lt_succ _
    | some q => exact hq q hp
  have := bitIf_le (v.inSlot && now.ult (v.slotBeg + BitVec.ofNat 64 v.guardNs)) 11
  have := bitIf_le (!v.en || !v.inSlot || v.peer.isNone) 10
  have := v.rounds.isLt
  rw [Port.slotstat, BitVec.toNat_ofNat, Nat.mod_eq_of_lt hix, Nat.mod_eq_of_lt hpeer, Nat.mod_eq_of_lt]
  · rfl
  · omega

-- Reads and writes of the units.

/-- At a port, a state has the port `w` where `s` has another, and otherwise is `s` but for its output. -/
def PortBecomes (s : State) (p : Nat) (t : State) (w : Port) : Prop :=
  t.port p = w ∧ (∀ r, r ≠ p → t.port r = s.port r) ∧ t = { s with out := t.out, fab := { s.fab with ports := t.fab.ports } }

theorem portBecomes_setPort (s : State) (p : Nat) (w : Port) (h : Cmd) : PortBecomes s p ((s.setPort p w).answer h 0 []) w :=
  ⟨tblGetD_set_same .., fun _ hr => tblGetD_set_ne _ _ _ hr, rfl⟩

theorem nPorts_le (s : State) : s.nPorts ≤ 128 := by unfold State.nPorts; split <;> omega
theorem nDies_le (s : State) : s.nDies ≤ 8 := by unfold State.nDies; split <;> omega
theorem nEth_le (s : State) : s.nEth ≤ 8 := by unfold State.nEth; split <;> omega

section
variable (hc : Custodian s h)
include hc

theorem answersRead_package {o v : Nat} {w : Word} (ho : o < 65536) (e : s.readPkg o = some w) (hv : w.toNat = v) :
    AnswersRead s h 0 0 o v :=
  answersRead_of hc (Nat.zero_lt_succ _) (Nat.zero_lt_succ _) ho e hv

theorem answersWrite_package {o : Nat} {x : Word} {P : State → Prop} (ho : o < 65536) (e : s.writePkg o x = some t)
    (hout : t.out = s.out) (hs : t.eth.sessions = s.eth.sessions) (hP : P (t.answer h 0 [])) : AnswersWrite s h 0 0 o x P :=
  answersWrite_of hc (Nat.zero_lt_succ _) (Nat.zero_lt_succ _) ho e hout hs hP

theorem answersRead_port {p o v : Nat} {w : Word} (hp : p < s.nPorts) (ho : o < 65536) (e : (s.port p).read s.clk.time o = some w)
    (hv : w.toNat = v) : AnswersRead s h 1 p o v := by
  have := nPorts_le s
  exact answersRead_of hc (by omega) (by omega) ho ((if_pos hp).trans e) hv

theorem answersWrite_port {p o : Nat} {x : Word} {w : Port} (hp : p < s.nPorts) (ho : o < 65536) (h0 : o ≠ 0)
    (e : (s.port p).write o x = some w) : AnswersWrite s h 1 p o x fun t => PortBecomes s p t w := by
  have := nPorts_le s
  refine answersWrite_of hc (t := s.setPort p w) (by omega) (by omega) ho ?_ rfl rfl (portBecomes_setPort s p w h)
  rw [State.writeAt, if_neg (by omega), if_neg h0, e]; rfl

end

-- The registers of the package.

/-- The routes are a table of 4096 entries (R270). -/
theorem readPkg_route (s : State) {q : Nat} (hq : q < 4096) : s.readPkg (0x1000 + 8 * q) = some (tblGetD s.fab.routes q 0) := by
  have h8 : (0x1000 + 8 * q) % 8 = 0 := by omega
  simp [State.readPkg, h8]; omega

theorem writePkg_route (s : State) {q : Nat} (hq : q < 4096) (x : Word) : s.writePkg (0x1000 + 8 * q) x = some (s.writeRoute q x) := by
  have h8 : (0x1000 + 8 * q) % 8 = 0 := by omega
  simp [State.writePkg, h8]; omega

theorem readPkg_die (s : State) {d : Nat} (hd : d < s.nDies) :
    s.readPkg (0x100 + 8 * d) = some (BitVec.ofNat 64 (thermCode (s.die d).therm * 2 ^ 32 + (s.die d).temp.toNat)) := by
  have h8 : (0x100 + 8 * d) % 8 = 0 := by omega
  have := nDies_le s
  have hlow : ¬0x1000 ≤ 0x100 + 8 * d := by omega
  simp [State.readPkg, h8, hlow, hd]

theorem die_toNat (v : Die) : (BitVec.ofNat 64 (thermCode v.therm * 2 ^ 32 + v.temp.toNat)).toNat =
    (match v.therm with | .normal => 0 | .warn => 1 | .throttle => 2 | .trip => 3) * 2 ^ 32 + v.temp.toNat := by
  have := v.temp.isLt
  rw [BitVec.toNat_ofNat, Nat.mod_eq_of_lt] <;> cases v.therm <;> simp only [thermCode] <;> omega

/-- The read-only registers of the package stand (R372). -/
theorem writePkg_readOnly (s : State) {o : Nat} (x : Word)
    (ho : o = 0 ∨ o = 8 ∨ o = 0x18 ∨ o = 0x20 ∨ (o % 8 = 0 ∧ 0x100 ≤ o ∧ o < 0x100 + 8 * s.nDies)) : s.writePkg o x = some s := by
  rcases ho with rfl | rfl | rfl | rfl | ⟨h8, hlo, hhi⟩
  case inr.inr.inr.inr =>
    have := nDies_le s
    have hlow : ¬0x1000 ≤ o := by omega
    have hd : (o - 0x100) / 8 < s.nDies := by omega
    simp [State.writePkg, h8, hlow, hlo, hd]
  all_goals rfl

theorem writePkg_timestat (s : State) (x : Word) :
    s.writePkg 0x10 x = some { s with clk := { s.clk with stepped := s.clk.stepped && !x.getLsbD 1 } } := by
  show some (if x.getLsbD 1 then { s with clk := { s.clk with stepped := false } } else s) = _
  cases x.getLsbD 1 <;> simp

theorem writePkg_ptp (s : State) {x : Word} (hx : x.toNat % 8 < s.nEth) : s.writePkg 0x28 x = some { s with clk := { s.clk with
    ptpEn := x.getLsbD 8, ptpPort := BitVec.ofNat 3 x.toNat, lock := s.clk.lock && x.getLsbD 8, hold := s.clk.hold && x.getLsbD 8
    slew := if x.getLsbD 8 then s.clk.slew else 0, part := if x.getLsbD 8 then s.clk.part else 0
    lastSync := if x.getLsbD 8 && !s.clk.ptpEn then s.now else s.clk.lastSync } } := by
  have hport : x.extractLsb' 0 3 = BitVec.ofNat 3 x.toNat := by
    apply BitVec.eq_of_toNat_eq; simp [BitVec.extractLsb'_toNat]
  show (if s.nEth ≤ x.toNat % 8 then none else _) = _
  rw [if_neg (Nat.not_le.2 hx), hport]
  cases x.getLsbD 8 <;> simp [Clock.free]

/-- A write of a route: the entry, and the connection up again (R260, R270, log 23). -/
theorem writeRoute_effect (s : State) (q : Nat) (x : Word) : let t := s.writeRoute q x
    (∀ r, tblGetD t.fab.routes r 0 = if r = q then x &&& 0x80FF else tblGetD s.fab.routes r 0) ∧
    t.conn q = { s.conn q with down := false } ∧ (∀ r, r ≠ q → t.conn r = s.conn r) ∧
    t = { s with fab := { s.fab with routes := t.fab.routes, conns := t.fab.conns } } := by
  have hroutes : ∀ r, tblGetD (tblPut s.fab.routes q 0 (x &&& 0x80FF)) r 0 = if r = q then x &&& 0x80FF else tblGetD s.fab.routes r 0 := by
    intro r
    by_cases hr : r = q
    · rw [hr, if_pos rfl, tblGetD_put_same]
    · rw [if_neg hr, tblGetD_put_ne _ _ _ hr]
  cases hd : (s.conn q).down with
  | false =>
    have e : s.writeRoute q x = { s with fab := { s.fab with routes := tblPut s.fab.routes q 0 (x &&& 0x80FF) } } :=
      if_neg (c := (s.conn q).down = true) (by rw [hd]; exact Bool.false_ne_true)
    have hq : s.conn q = { s.conn q with down := false } := by rw [← hd]
    rw [e]
    exact ⟨hroutes, hq, fun _ _ => rfl, rfl⟩
  | true =>
    have e : s.writeRoute q x =
        State.setConn { s with fab := { s.fab with routes := tblPut s.fab.routes q 0 (x &&& 0x80FF) } } q { s.conn q with down := false } :=
      if_pos hd
    rw [e]
    exact ⟨hroutes, tblGetD_set_same .., fun r hr => tblGetD_set_ne _ _ _ hr, rfl⟩

-- The registers of an optical port.

theorem Port.read_slottab (v : Port) (now : Word) {k : Nat} (hk : k < 256) :
    v.read now (0x800 + 8 * k) = some (tblGetD v.slottab k 0) := by
  have h8 : (0x800 + 8 * k) % 8 = 0 := by omega
  simp [Port.read, h8]; omega

theorem Port.write_slottab (v : Port) {k : Nat} (hk : k < 256) (x : Word) : v.write (0x800 + 8 * k) x =
    some { v with slottab := if v.en then v.slottab else tblPut v.slottab k 0 (x &&& 0x8FFF) } := by
  have h8 : (0x800 + 8 * k) % 8 = 0 := by omega
  have hlt : 0x800 + 8 * k < 0x1000 := by omega
  cases he : v.en <;> simp [Port.write, h8, hlt, he]

theorem slottab_effect (v : Port) (k : Nat) (x : Word) (j : Nat) :
    tblGetD (if v.en then v.slottab else tblPut v.slottab k 0 (x &&& 0x8FFF)) j 0 =
      if j = k ∧ v.en = false then x &&& 0x8FFF else tblGetD v.slottab j 0 := by
  cases he : v.en with
  | true => simp
  | false =>
    by_cases hj : j = k
    · simp [hj]
    · simp [hj, tblGetD_put_ne _ _ _ hj]

/-- A timeout register takes the values within its limits, and answers status 2 to others. -/
theorem timeout_answers (hc : Custodian s h) {o lo hi : Nat} {x : Word} {r : PkgRegs} (ho : o < 65536)
    (e : s.writePkg o x = if lo ≤ x.toNat % 2 ^ 32 ∧ x.toNat % 2 ^ 32 ≤ hi then some { s with preg := r } else none) :
    (lo ≤ x.toNat % 2 ^ 32 ∧ x.toNat % 2 ^ 32 ≤ hi → AnswersWrite s h 0 0 o x fun t => t = { s with out := t.out, preg := r }) ∧
    (x.toNat % 2 ^ 32 < lo ∨ hi < x.toNat % 2 ^ 32 → Runs (.regwr h (regAddr 0 0 o) x) s fun t => Answer s t h 2 []) := by
  refine ⟨fun hin => answersWrite_package hc ho (e.trans (if_pos hin)) rfl rfl rfl, fun hout => ?_⟩
  exact regwr_refused hc (Nat.zero_lt_succ _) (Nat.zero_lt_succ _) ho (e.trans (if_neg (by omega)))

/-- Settles O50: each register of the map is read and written at its own address; the rest of the addresses name none. -/
theorem registerCommands : Obligations.RegisterCommands := by
  intro s h hc addr reads writes bit
  refine ⟨answersRead_package hc (by omega) (o := 0) rfl rfl, answersRead_package hc (by omega) (o := 8) rfl (zeroExtend_toNat _),
    answersRead_package hc (by omega) (o := 0x10) rfl (timestat_toNat s), ?ready,
    answersRead_package hc (by omega) (o := 0x28) rfl ?ptp, answersRead_package hc (by omega) (o := 0x30) rfl (zeroExtend_toNat _),
    answersRead_package hc (by omega) (o := 0x38) rfl (zeroExtend_toNat _),
    answersRead_package hc (by omega) (o := 0x40) rfl (zeroExtend_toNat _),
    fun q hq => answersRead_package hc (by omega) (readPkg_route s hq) rfl, ?die, ?readOnly,
    fun x => ⟨?_, ?_, ?timeouts, ?route⟩, ?port, ?eth, ?none⟩
  case ready =>
    intro w hw
    refine ⟨(s.optrdy (64 * w)).toNat, ?_, (s.optrdy (64 * w)).isLt, fun k hk => optrdy_bit s (64 * w) hk⟩
    match w, hw with
    | 0, _ => exact answersRead_package hc (by omega) (o := 0x18) rfl rfl
    | 1, _ => exact answersRead_package hc (by omega) (o := 0x20) rfl rfl
  case ptp =>
    have := bitIf_le s.clk.ptpEn 8
    have := s.clk.ptpPort.isLt
    rw [BitVec.toNat_ofNat, Nat.mod_eq_of_lt (by omega)]; rfl
  case die =>
    intro d hd
    have := nDies_le s
    exact answersRead_package hc (by omega) (readPkg_die s hd) (die_toNat _)
  case readOnly =>
    intro x o ho
    have := nDies_le s
    exact regwr_changes_nothing hc (Nat.zero_lt_succ _) (Nat.zero_lt_succ _) (by omega) (writePkg_readOnly s x ho)
  · exact answersWrite_package hc (by omega) (writePkg_timestat s x) rfl rfl rfl
  · exact fun hx => answersWrite_package hc (by omega) (writePkg_ptp s hx) rfl rfl rfl
  case timeouts =>
    exact ⟨timeout_answers hc (by omega) rfl, timeout_answers hc (by omega) rfl, timeout_answers hc (by omega) rfl⟩
  case route =>
    intro q hq
    obtain ⟨hroutes, hconn, hothers, hframe⟩ := writeRoute_effect s q x
    exact answersWrite_package hc (by omega) (writePkg_route s hq x) (congrArg State.out hframe :)
      (congrArg (fun t : State => t.eth.sessions) hframe :)
      ⟨hroutes, hconn, hothers, congrArg (fun t : State => { t with out := ((s.writeRoute q x).answer h 0 []).out }) hframe⟩
  case port =>
    intro p hp v becomes
    refine ⟨answersRead_port hc hp (by omega) (o := 0) rfl rfl, answersRead_port hc hp (by omega) (o := 8) rfl rfl,
      answersRead_port hc hp (by omega) (o := 0x10) rfl rfl, answersRead_port hc hp (by omega) (o := 0x18) rfl rfl,
      answersRead_port hc hp (by omega) (o := 0x20) rfl ?fcap, answersRead_port hc hp (by omega) (o := 0x30) rfl rfl,
      answersRead_port hc hp (by omega) (o := 0x38) rfl rfl, answersRead_port hc hp (by omega) (o := 0x40) rfl (zeroExtend_toNat _),
      answersRead_port hc hp (by omega) (o := 0x48) rfl (zeroExtend_toNat _),
      fun hix hq => answersRead_port hc hp (by omega) (o := 0x28) rfl ?slotstat,
      fun k hk => answersRead_port hc hp (by omega) (Port.read_slottab v _ hk) rfl, fun x => ?writes⟩
    case fcap =>
      rw [BitVec.toNat_ofNat, Port.slotNs_eq, Port.guardNs_eq]; exact Nat.mod_eq_of_lt (by omega)
    case slotstat =>
      rw [slotstat_toNat v s.clk.time hix hq, Port.guardNs_eq]; rfl
    case writes =>
      refine ⟨answersWrite_port hc hp (by omega) (o := 8) (by omega) rfl, answersWrite_port hc hp (by omega) (o := 0x10) (by omega) rfl,
        answersWrite_port hc hp (by omega) (o := 0x18) (by omega) rfl, answersWrite_port hc hp (by omega) (o := 0x20) (by omega) rfl,
        answersWrite_port hc hp (by omega) (o := 0x28) (by omega) rfl, answersWrite_port hc hp (by omega) (o := 0x30) (by omega) rfl,
        answersWrite_port hc hp (by omega) (o := 0x38) (by omega) rfl, answersWrite_port hc hp (by omega) (o := 0x40) (by omega) rfl,
        answersWrite_port hc hp (by omega) (o := 0x48) (by omega) rfl, fun k hk => ?slottab⟩
      obtain ⟨t, hrun, hout, hbecomes⟩ := answersWrite_port hc hp (by omega) (by omega) (Port.write_slottab v hk x)
      have hport : (t.port p).slottab = _ := congrArg Port.slottab hbecomes.1
      refine ⟨t, hrun, hout, hport ▸ hbecomes, fun j => ?_⟩
      rw [hport]
      exact slottab_effect v k x j
  case eth =>
    intro p hp
    have := nEth_le s
    refine ⟨answersRead_of hc (by omega) (by omega) (by omega) (if_pos (by simp [hp])) (zeroExtend_toNat _), fun x => ?_⟩
    exact answersWrite_of hc (by omega) (by omega) (by omega) (if_pos (by simp [hp])) rfl rfl
      ⟨tblGetD_set_same .., fun r hr => tblGetD_set_ne _ _ _ hr, rfl⟩
  case none =>
    intro u i o hu hi ho hn
    exact ⟨regrd_refused hc hu hi ho (readAt_noRegister hn), fun x => regwr_refused hc hu hi ho (writeAt_noRegister hn x)⟩

end Sys2Proof.Machine
end

section

/-! PROOF. The part of the state that a step must keep in form, and the operations of the core of the machine that leave it (O3). -/

namespace Sys2Proof.Machine

/-- The part of the state that a step must keep in form: HBM, the variant of the package and its number (R2, R391). -/
abbrev Ground := Memory × Bool × Nat

/-- The `Ground` of a state. -/
def State.ground (s : State) : Ground := (s.mem.hbm, s.vond8, s.pkgId)

@[simp] theorem State.ground_mk (cur agenda freeCtr serial out vond8 pkgId master clk seqs slots cores dies grps ctxs mem shr preg fab eth coll
    graft sec) :
    State.ground (State.mk cur agenda freeCtr serial out vond8 pkgId master clk seqs slots cores dies grps ctxs mem shr preg fab eth coll graft
      sec) =
      (mem.hbm, vond8, pkgId) := rfl

@[simp] theorem State.ground_eta (s : State) : (s.mem.hbm, s.vond8, s.pkgId) = s.ground := rfl
@[simp] theorem State.ground_ite (c : Prop) {_ : Decidable c} (s t : State) : (if c then s else t).ground = if c then s.ground else t.ground :=
  apply_ite State.ground c s t

theorem State.ground_foldl {α : Type} {f : State → α → State} (h : ∀ s a, (f s a).ground = s.ground) (l : List α) (s : State) :
    (l.foldl f s).ground = s.ground := by
  induction l generalizing s with
  | nil => rfl
  | cons a l ih => rw [List.foldl_cons, ih, h]

/-- A `Ground` is still that of a state. -/
def State.Stays (s : State) (g : Ground) : Prop := g = s.ground

@[simp] theorem State.stays_iff (s : State) (g : Ground) : s.Stays g ↔ g = s.ground := Iff.rfl

/-- What holds of the `Ground` of the next state, where an outcome has one. -/
def NextIs (R : Ground → Prop) : Host.Outcome State Fault Refusal → Prop
  | .next t => R t.ground
  | _ => True

@[simp] theorem nextIs_next (R : Ground → Prop) (t : State) : NextIs R (.next t) ↔ R t.ground := Iff.rfl

theorem NextIs.ite {R : Ground → Prop} {c : Prop} {_ : Decidable c} {x y : Host.Outcome State Fault Refusal} (hx : NextIs R x) (hy : NextIs R y) :
    NextIs R (if c then x else y) := by
  split <;> assumption

theorem Acc.bind_ok {α β : Type} {x : Acc α} {f : α → Acc β} {b : β} : x.bind f = .ok b ↔ ∃ a, x = .ok a ∧ f a = .ok b := by
  cases x <;> simp [Acc.bind]

/-- Whatever an engine's access gives has a property. -/
def Gives {α : Type} (Q : α → Prop) (x : Eng' α) : Prop := ∀ a, x = .ok a → Q a

@[simp] theorem State.setSeq_ground (s : State) (r : SeqRef) (q : Seq) : (s.setSeq r q).ground = s.ground := by rfl
@[simp] theorem State.setQ_ground (s : State) (q : Seq) : (s.setQ q).ground = s.ground := by rfl
@[simp] theorem State.setSlot_ground (s : State) (k : Nat) (t : Slot) : (s.setSlot k t).ground = s.ground := by rfl
@[simp] theorem State.setSl_ground (s : State) (t : Slot) : (s.setSl t).ground = s.ground := by rfl
@[simp] theorem State.setCore_ground (s : State) (c : Nat) (v : Core) : (s.setCore c v).ground = s.ground := by rfl
@[simp] theorem State.setDie_ground (s : State) (d : Nat) (v : Die) : (s.setDie d v).ground = s.ground := by rfl
@[simp] theorem State.setCtx_ground (s : State) (c : Nat) (v : Ctx) : (s.setCtx c v).ground = s.ground := by rfl
@[simp] theorem State.setGrp_ground (s : State) (g : Nat) (v : Grp) : (s.setGrp g v).ground = s.ground := by rfl
@[simp] theorem State.setSem_ground (s : State) (c k : Nat) (m : Sem) : (s.setSem c k m).ground = s.ground := by rfl
@[simp] theorem State.signal_ground (s : State) (c k : Nat) (inc : BitVec 16) : (s.signal c k inc).ground = s.ground := by rfl
@[simp] theorem State.poison_ground (s : State) (c k : Nat) (cause : Nat) : (s.poison c k cause).ground = s.ground := by simp [State.poison]

@[simp] theorem State.emit_ground (s : State) (typ ctx : Nat) (payload : List Byte) : (s.emit typ ctx payload).ground = s.ground := by
  unfold State.emit; dsimp only; split <;> simp

@[simp] theorem State.answerTo_ground (s : State) (sess : Nat) (tag : BitVec 32) (status : Nat) (data : List Byte) :
    (s.answerTo sess tag status data).ground = s.ground := by rfl

@[simp] theorem State.answer_ground (s : State) (h : Cmd) (status : Nat) (data : List Byte) :
    (s.answer h status data).ground = s.ground := by rfl

@[simp] theorem State.charge_ground (s : State) (ctx res inst n : Nat) (leftover : Bool) :
    (s.charge ctx res inst n leftover).ground = s.ground := by simp [State.charge]

@[simp] theorem State.chargeT_ground (s : State) (slot ctx res inst n : Nat) (leftover : Bool) :
    (s.chargeT slot ctx res inst n leftover).ground = s.ground := by simp [State.chargeT, State.ground_foldl]

@[simp] theorem State.fxCount_ground (s : State) (ctx i n : Nat) : (s.fxCount ctx i n).ground = s.ground := by simp [State.fxCount]
@[simp] theorem State.settleKeys_ground (s : State) : s.settleKeys.ground = s.ground := by simp [State.settleKeys, State.ground_foldl]
@[simp] theorem State.unpin_ground (s : State) (pages : List Nat) : (s.unpin pages).ground = s.ground := by simp [State.unpin]
@[simp] theorem State.pin_ground (s : State) (pages : List Nat) : (s.pin pages).ground = s.ground := by rfl
@[simp] theorem State.spinAdd_ground (s : State) (k n : Nat) : (s.spinAdd k n).ground = s.ground := by simp [State.spinAdd]
@[simp] theorem State.spinAccrue_ground (s : State) (k : Nat) : (s.spinAccrue k).ground = s.ground := by simp [State.spinAccrue]
@[simp] theorem State.spinAll_ground (s : State) : s.spinAll.ground = s.ground := by simp [State.spinAll, State.ground_foldl]
@[simp] theorem State.spinClear_ground (s : State) (k : Nat) : (s.spinClear k).ground = s.ground := by simp [State.spinClear]
@[simp] theorem State.settleCore_ground (s : State) (c : Nat) : (s.settleCore c).ground = s.ground := by simp [State.settleCore]

@[simp] theorem State.settleGrp_ground (s : State) (gid : Nat) : (s.settleGrp gid).ground = s.ground := by
  unfold State.settleGrp; dsimp only; (repeat' split) <;> simp

@[simp] theorem State.beginSave_ground (s : State) (ctx : Nat) : (s.beginSave ctx).ground = s.ground := by simp [State.beginSave]

@[simp] theorem State.saveGrp_ground (s : State) (gid : Nat) : (s.saveGrp gid).ground = s.ground := by
  unfold State.saveGrp; split <;> simp

@[simp] theorem State.settleCtx_ground (s : State) (ctx : Nat) : (s.settleCtx ctx).ground = s.ground := by simp [State.settleCtx]
@[simp] theorem State.departs_ground (s : State) (ctx gid : Nat) : (s.departs ctx gid).ground = s.ground := by simp [State.departs]

@[simp] theorem State.stageEnd_ground (s : State) (t : Task) : (s.stageEnd t).ground = s.ground := by
  unfold State.stageEnd; split <;> simp

@[simp] theorem State.settleSlot_ground (s : State) (k : Nat) : (s.settleSlot k).ground = s.ground := by
  unfold State.settleSlot; dsimp only; (repeat' split) <;> simp

@[simp] theorem State.endTask_ground (s : State) (k : Nat) : (s.endTask k).ground = s.ground := by
  unfold State.endTask; dsimp only; split <;> simp

@[simp] theorem State.stopTask_ground (s : State) (k : Nat) :
    (s.stopTask k).ground = s.ground := by simp [State.stopTask, State.ground_foldl]

@[simp] theorem State.endLaunchWith_ground (s : State) (ctx code : Nat) (info : EndInfo) :
    (s.endLaunchWith ctx code info).ground = s.ground := by
  unfold State.endLaunchWith; dsimp only; split <;> simp

@[simp] theorem State.endUnhandled_ground (s : State) (r : SeqRef) (code : Nat) (async : Bool) (epc eval : Word) :
    (s.endUnhandled r code async epc eval).ground = s.ground := by simp [State.endUnhandled]

@[simp] theorem State.closeLock_ground (s : State) (k : Nat) : (s.closeLock k).ground = s.ground := by simp [State.closeLock]

@[simp] theorem State.takeTrap_ground (s : State) (r : SeqRef) (code : Nat) (async : Bool) (epc eval : Word) (fatal : Bool) :
    (s.takeTrap r code async epc eval fatal).ground = s.ground := by
  unfold State.takeTrap; dsimp only; (repeat' split) <;> simp

@[simp] theorem State.trap_ground (s : State) (t : Trp) : (s.trap t).ground = s.ground := by simp [State.trap]
@[simp] theorem State.ill_ground (s : State) (sub : Nat) : (s.ill sub).ground = s.ground := by simp [State.ill]
@[simp] theorem State.eretDo_ground (s : State) : s.eretDo.ground = s.ground := by simp [State.eretDo]

@[simp] theorem State.post_ground (s : State) (r : SeqRef) (code : Nat) (eval : Word) : (s.post r code eval).ground = s.ground := by
  unfold State.post; split <;> simp

@[simp] theorem State.go_ground (s : State) (n : Nat) : (s.go n).ground = s.ground := by rfl

theorem State.guarded_next {R : Ground → Prop} {s : State} {f : State → State} (h : R s.ground) (hf : R (f s).ground) (g : Guard) (n : Nat) :
    NextIs R (s.guarded g f n) := by
  unfold State.guarded
  split
  · exact hf
  · exact h

@[simp] theorem State.guarded_ground {s : State} {f : State → State} (hf : (f s).ground = s.ground) (g : Guard) (n : Nat) :
    NextIs s.Stays (s.guarded g f n) :=
  State.guarded_next (R := s.Stays) rfl hf g n

@[simp] theorem State.ret_ground (s : State) (d : SReg) (v : Word) : (s.ret d v).ground = s.ground := by rfl
@[simp] theorem State.retP_ground (s : State) (d : PReg) (v : Bool) : (s.retP d v).ground = s.ground := by rfl

@[simp] theorem State.block_ground (s : State) (i : Instr) (tok : Nat) (fin : Word) :
    (s.block i tok fin).ground = s.ground := by simp [State.block]

@[simp] theorem State.asSeq_ground (s : State) (r : SeqRef) : (s.asSeq r).ground = s.ground := by rfl
@[simp] theorem State.scrub_ground (s : State) (ls : List UeLoc) : (s.scrub ls).ground = s.ground := by simp [State.scrub]
@[simp] theorem State.scrubWhere_ground (s : State) (p : UeLoc → Bool) : (s.scrubWhere p).ground = s.ground := by simp [State.scrubWhere]

@[simp] theorem State.setBankMem_ground (s : State) (gid b : Nat) (m : Memory) : (s.setBankMem gid b m).ground = s.ground := by
  unfold State.setBankMem; split <;> simp

theorem State.storeSp_ground {s : State} {k : Nat} {a : Word} {n v : Nat} {t : State} (e : s.storeSp k a n v = .ok t) :
    t.ground = s.ground := by
  obtain ⟨⟨b, o⟩, -, e⟩ := Acc.bind_ok.1 e
  revert e; simp only []; split <;> simp
  rintro rfl; simp

@[simp] theorem State.setDsMem_ground (s : State) (ctx vdie : Nat) (m : Memory) : (s.setDsMem ctx vdie m).ground = s.ground := by
  unfold State.setDsMem; split <;> simp

theorem State.putDs_ground {s : State} {c v o n x : Nat} {t : State} (e : s.putDs c v o n x = .ok t) : t.ground = s.ground := by
  revert e; unfold State.putDs; simp only []; split <;> simp
  rintro rfl; simp

theorem State.storeDs_ground {s : State} {k : Nat} {a : Word} {n x : Nat} {t : State} (e : s.storeDs k a n x = .ok t) :
    t.ground = s.ground := by
  obtain ⟨_, -, e⟩ := Acc.bind_ok.1 e
  exact State.putDs_ground e

theorem State.loadG_ground {s : State} {ctx : Nat} {va : Word} {n : Nat} {kind : Access} {r : Nat × State}
    (e : s.loadG ctx va n kind = .ok r) : r.2.ground = s.ground := by
  obtain ⟨_, -, e⟩ := Acc.bind_ok.1 e
  obtain ⟨_, -, e⟩ := Acc.bind_ok.1 e
  cases e; simp

@[simp] theorem State.accept_ground {α : Type} {s : State} {x : Acc α} {f : α → State} (hf : ∀ a, x = .ok a → (f a).ground = s.ground) :
    (s.accept x f).ground = s.ground := by
  cases x with
  | ok a => exact hf a rfl
  | trap t => simp [State.accept]
  | stall => rfl

@[simp] theorem State.chargeBy_ground (s : State) (by_ : Option Nat) (ctx n : Nat) : (s.chargeBy by_ ctx n).ground = s.ground := by
  unfold State.chargeBy; split <;> simp

theorem State.readG_ground {fuel : Nat} {s : State} {ctx : Nat} {va : Word} {n : Nat} {o : Option Nat} {r : List Byte × State}
    (e : s.readG fuel ctx va n o = .ok r) : r.2.ground = s.ground := by
  induction fuel generalizing s va n r with
  | zero => cases e; rfl
  | succ fuel ih =>
    simp only [State.readG] at e
    split at e
    · cases e; rfl
    · obtain ⟨_, -, e⟩ := Acc.bind_ok.1 e
      obtain ⟨_, -, e⟩ := Acc.bind_ok.1 e
      obtain ⟨_, h, e⟩ := Acc.bind_ok.1 e
      cases e; simpa using ih h

@[simp] theorem State.fxAll_ground (s : State) (ctx : Nat) (evs : List Nat) :
    (s.fxAll ctx evs).ground = s.ground := by simp [State.fxAll, State.ground_foldl]

@[simp] theorem State.fxElem_ground (s : State) (ctx : Nat) (e : Option Nat) : (s.fxElem ctx e).ground = s.ground := by
  unfold State.fxElem; split <;> simp

@[simp] theorem State.setTileMem_ground (s : State) (k : Nat) (m : Memory) : (s.setTileMem k m).ground = s.ground := by
  unfold State.setTileMem; dsimp only; split <;> simp

@[simp] theorem State.serve_ground (s : State) (e : Eng) (k : Nat) : (s.serve e k).ground = s.ground := by rfl

@[simp] theorem State.faulted_ground (s : State) (r : Run) (cause : Nat) (eval : Word) :
    (s.faulted r cause eval).1.ground = s.ground := by simp [State.faulted]

@[simp] theorem State.performed_ground (x : Iss) (r : Run) (last : Bool) : (State.performed x r last).1.ground = x.s.ground := by
  unfold State.performed; simp

@[simp] theorem State.aeCharge_ground (s : State) (slot : Nat) (r : Run) (a : Auction) :
    (s.aeCharge slot r a).ground = s.ground := by simp [State.aeCharge]

end Sys2Proof.Machine

end

section

/-! PROOF. What SYS, CTL, the semaphores and the queues leave of HBM, the variant and the package id (O3). -/

namespace Sys2Proof.Machine

@[simp] theorem State.setArmed_ground (s : State) (a : Tbl Armed) : (s.setArmed a).ground = s.ground := by rfl
@[simp] theorem State.setColls_ground (s : State) (a : Tbl Coll) : (s.setColls a).ground = s.ground := by rfl
@[simp] theorem State.ctrDue_ground (s : State) (c k : Nat) : (s.ctrDue c k).ground = s.ground := by rfl
@[simp] theorem State.ctrPut_ground (s : State) (c k : Nat) (f : Ctr → Ctr) : (s.ctrPut c k f).ground = s.ground := by rfl

@[simp] theorem State.collDone_ground (s : State) (id : Nat) (c : Coll) : (s.collDone id c).ground = s.ground := by
  unfold State.collDone; dsimp only; split <;> simp

@[simp] theorem State.powerUp_ground (s : State) (c : Nat) : (s.powerUp c).ground = s.ground := by rfl

theorem State.fetchOne_ground {s : State} {core : Nat} {r : Run} {k : Nat} {u : State × Run} (e : s.fetchOne core r k = some u) :
    u.1.ground = s.ground := by
  revert e; unfold State.fetchOne; simp only []
  repeat' split
  all_goals simp
  all_goals rintro rfl; simp

@[simp] theorem execOperandFetch_ground (slot : Nat) (s : State) : NextIs s.Stays (execOperandFetch slot s) := by
  unfold execOperandFetch
  split
  · simp
  · split
    · simp
    · next h => simp [State.fetchOne_ground h]

@[simp] theorem State.bswEnd_ground (s : State) (q : QRec) : (s.bswEnd q).ground = s.ground := by simp [State.bswEnd]
@[simp] theorem State.endWaitOf_ground (s : State) (r : SeqRef) : (s.endWaitOf r).ground = s.ground := by simp [State.endWaitOf]
@[simp] theorem State.tryHalt_ground (s : State) (k : Nat) (held : Bool) : (s.tryHalt k held).ground = s.ground := by simp [State.tryHalt]
@[simp] theorem State.askHalt_ground (s : State) (k : Nat) : (s.askHalt k).ground = s.ground := by simp [State.askHalt]

@[simp] theorem State.csrSet_ground (s : State) (n : Nat) (v raw : Word) : (s.csrSet n v raw).ground = s.ground := by
  unfold State.csrSet; dsimp only; (repeat' split) <;> simp

@[simp] theorem State.csrWrite_ground (s : State) (op : CsrOp) (d a : SReg) (n : Nat) :
    (s.csrWrite op d a n).ground = s.ground := by simp [State.csrWrite]

theorem State.fetchWord_ground {s : State} {q : Seq} {a : Word} {r : Word × State} (e : s.fetchWord q a = .ok r) :
    r.2.ground = s.ground := by
  unfold State.fetchWord at e
  split at e
  · cases e; rfl
  · obtain ⟨_, h, e⟩ := Acc.bind_ok.1 e
    cases e; exact State.loadG_ground h

@[simp] theorem State.loopOpen_ground (s : State) (n : Nat) (cnt : Word) (fin : BitVec 16) :
    (s.loopOpen n cnt fin).ground = s.ground := by simp [State.loopOpen]

@[simp] theorem execUnassignedEncoding_ground (w : Word) (s : State) : NextIs s.Stays (execUnassignedEncoding w s) := by
  unfold execUnassignedEncoding; split <;> simp

theorem State.fetchMore_ground {s : State} {n : Nat} {a : Word} {ws : List Word} {r : List Word × State} (e : s.fetchMore n a ws = .ok r) :
    r.2.ground = s.ground := by
  induction n generalizing s a ws with
  | zero => cases e; rfl
  | succ n ih =>
    obtain ⟨⟨w, t⟩, h, e⟩ := Acc.bind_ok.1 e
    simpa using (ih e).trans (State.fetchWord_ground h)

theorem State.fetchInstr_ground {s : State} {r : (Word × BitVec 512) × State} (e : s.fetchInstr = .ok r) : r.2.ground = s.ground := by
  obtain ⟨⟨ws, t⟩, h, e⟩ := Acc.bind_ok.1 e
  simp only [] at e
  split at e
  · obtain ⟨⟨ls, u⟩, h', e⟩ := Acc.bind_ok.1 e
    cases e; exact (State.fetchMore_ground h').trans (State.fetchMore_ground h)
  · cases e; exact State.fetchMore_ground h

@[simp] theorem execInstructionFetchFault_ground (q : SeqRef) (s : State) : NextIs s.Stays (execInstructionFetchFault q s) := by
  unfold execInstructionFetchFault; split <;> simp

@[simp] theorem State.semPoisonTrap_ground (s : State) (k : Nat) : (s.semPoisonTrap k).ground = s.ground := by simp [State.semPoisonTrap]

@[simp] theorem State.semwaitDo_ground (s : State) (g : Guard) (a : SReg) (k : BitVec 8) (v : BitVec 16) :
    (s.semwaitDo g a k v).ground = s.ground := by simp [State.semwaitDo]

@[simp] theorem execSemwaitPass_ground (q : SeqRef) (s : State) : NextIs s.Stays (execSemwaitPass q s) := by
  unfold execSemwaitPass; split <;> simp

@[simp] theorem State.aqpushDo_ground (s : State) (g : Guard) (q : BitVec 2) (a : SReg) :
    (s.aqpushDo g q a).ground = s.ground := by simp [State.aqpushDo]

@[simp] theorem execAqpush_ground (g : Guard) (q : BitVec 2) (a : SReg) (s : State) : NextIs s.Stays (execAqpush g q a s) := by
  unfold execAqpush; split <;> simp

@[simp] theorem execAqpushRoom_ground (q : SeqRef) (s : State) : NextIs s.Stays (execAqpushRoom q s) := by
  unfold execAqpushRoom; split <;> simp

@[simp] theorem State.aqpopThen_ground {s : State} (i : Instr) (q : BitVec 2) {f : State → Word → State}
    (hf : ∀ s w, (f s w).ground = s.ground) : (s.aqpopThen i q f).ground = s.ground := by
  unfold State.aqpopThen; split <;> simp [hf]

@[simp] theorem State.aqpopDo_ground (s : State) (g : Guard) (q : BitVec 2) (d : SReg) :
    (s.aqpopDo g q d).ground = s.ground := by simp [State.aqpopDo]

@[simp] theorem State.aqbrDo_ground (s : State) (g : Guard) (off : BitVec 32) : (s.aqbrDo g off).ground = s.ground := by simp [State.aqbrDo]

@[simp] theorem execAqpop_ground (g : Guard) (q : BitVec 2) (d : SReg) (s : State) : NextIs s.Stays (execAqpop g q d s) := by
  unfold execAqpop; split <;> simp

@[simp] theorem execAqbr_ground (g : Guard) (off : BitVec 32) (s : State) : NextIs s.Stays (execAqbr g off s) := by
  unfold execAqbr; split <;> simp

@[simp] theorem execAqpopData_ground (q : SeqRef) (s : State) : NextIs s.Stays (execAqpopData q s) := by
  unfold execAqpopData; split <;> simp

@[simp] theorem State.setTimecmp_ground (s : State) (t : Word) : (s.setTimecmp t).ground = s.ground := by rfl
@[simp] theorem State.waittDo_ground (s : State) (g : Guard) (a : SReg) : (s.waittDo g a).ground = s.ground := by simp [State.waittDo]

@[simp] theorem execWaittComplete_ground (q : SeqRef) (s : State) : NextIs s.Stays (execWaittComplete q s) := by
  unfold execWaittComplete; split <;> simp

@[simp] theorem State.waittLockDo_ground (s : State) (g : Guard) (a : SReg) (len : BitVec 32) :
    (s.waittLockDo g a len).ground = s.ground := by simp [State.waittLockDo]

@[simp] theorem execWaittLockComplete_ground (q : SeqRef) (s : State) : NextIs s.Stays (execWaittLockComplete q s) := by
  unfold execWaittLockComplete; split <;> simp

@[simp] theorem execPauseExpiry_ground (q : SeqRef) (s : State) : NextIs s.Stays (execPauseExpiry q s) := by
  unfold execPauseExpiry; split <;> simp

end Sys2Proof.Machine

end

section

/-! PROOF. What the vector unit, the routes and the scalar accesses leave of them (O3). -/

namespace Sys2Proof.Machine

@[simp] theorem State.vWake_ground (s : State) (q : QRec) (k : Nat) : (s.vWake q k).1.ground = s.ground := by
  unfold State.vWake; simp only []
  repeat' split
  all_goals simp

@[simp] theorem State.hazard_ground (s : State) (k : Nat) : (s.hazard k).ground = s.ground := by rfl
@[simp] theorem State.setPort_ground (s : State) (p : Nat) (v : Port) : (s.setPort p v).ground = s.ground := by rfl
@[simp] theorem State.setConn_ground (s : State) (q : Nat) (c : Conn) : (s.setConn q c).ground = s.ground := by rfl
@[simp] theorem State.setPkts_ground (s : State) (l : List OutPkt) : (s.setPkts l).ground = s.ground := by rfl
@[simp] theorem State.markDown_ground (s : State) (q : Nat) : (s.markDown q).ground = s.ground := by simp [State.markDown]
@[simp] theorem State.qstall_ground (s : State) (p : Nat) : (s.qstall p).ground = s.ground := by rfl

@[simp] theorem State.ethProgress_ground (s : State) (node : Nat) (host : Bool) : (s.ethProgress node host).ground = s.ground := by
  unfold State.ethProgress; (repeat' split) <;> simp

@[simp] theorem State.ethSend_ground (s : State) (p : Pkt) (ctx : Nat) (own : Owner) (read : Bool) :
    (s.ethSend p ctx own read).ground = s.ground := by simp [State.ethSend]

@[simp] theorem State.arrival_ground (s : State) (g : Nat) : (s.arrival g).ground = s.ground := by simp [State.arrival]

@[simp] theorem State.uncorrEvent_ground (s : State) (ctx cause : Nat) (eval : Word) :
    (s.uncorrEvent ctx cause eval).ground = s.ground := by simp [State.uncorrEvent]

theorem State.takeRead_ground {s : State} {ctx win off n : Nat} {net wr kept : Bool} {u : State × Nat}
    (e : s.takeRead ctx win off n net wr kept = some (.error u)) : u.1.ground = s.ground := by
  revert e; unfold State.takeRead
  repeat' split
  all_goals simp
  all_goals rintro rfl; simp

theorem State.takePoll_ground {s : State} {ctx win off : Nat} {a : List Byte} {net kept : Bool} {u : State × Ans}
    (e : s.takePoll ctx win off a net kept = some u) : u.1.ground = s.ground := by
  revert e; unfold State.takePoll
  simp only []
  generalize (if byteAt a 1 = 4 then 4 else 8) = n
  intro e
  split at e
  · cases e
  · next h => cases e; exact State.takeRead_ground h
  · split at e
    · cases e; rfl
    · cases e; rfl

@[simp] theorem State.atTask_ground (s : State) (uid : Nat) (x : Bool) (f : Seq → Seq) : (s.atTask uid x f).ground = s.ground := by
  unfold State.atTask; split <;> simp

@[simp] theorem State.postTask_ground (s : State) (uid : Nat) (x : Bool) (addr : Word) : (s.postTask uid x addr).ground = s.ground := by
  unfold State.postTask; split <;> simp

@[simp] theorem State.loadDone_ground (s : State) (v : Nat) : (s.loadDone v).ground = s.ground := by
  unfold State.loadDone; split <;> simp

@[simp] theorem State.atRun_ground {s : State} (core ch serial : Nat) {f : Run → State × Run} (hf : ∀ r, (f r).1.ground = s.ground) :
    (s.atRun core ch serial f).ground = s.ground := by
  unfold State.atRun
  split
  · next r _ => split <;> simp [hf r]
  · rfl

@[simp] theorem State.cxFinish_ground (s : State) (r : Run) : (s.cxFinish r).1.ground = s.ground := by
  unfold State.cxFinish; split <;> simp

@[simp] theorem State.faultedAt_ground (s : State) (r : Run) (issue cause : Nat) (eval : Word) :
    (s.faultedAt r issue cause eval).1.ground = s.ground := by simp [State.faultedAt]

@[simp] theorem State.dropAfter_ground (s : State) (core ch serial issue off : Nat) :
    (s.dropAfter core ch serial issue off).ground = s.ground := by rfl

@[simp] theorem State.atArmed_ground (s : State) (id : Nat) (f : Armed → Armed) : (s.atArmed id f).ground = s.ground := by rfl

@[simp] theorem State.settleBad_ground (s : State) (own : Owner) (addr : Word) (lost : Option (Bool × Nat)) :
    (s.settleBad own addr lost).ground = s.ground := by
  unfold State.settleBad; (repeat' split) <;> simp

@[simp] theorem State.atAddr_ground {s : State} (a : Word) (n : Nat) {f : State → State} (hf : (f s).ground = s.ground) :
    (s.atAddr a n f).ground = s.ground := by
  unfold State.atAddr; split <;> simp [hf]

@[simp] theorem State.await_ground (s : State) (i : Instr) (tok : Nat) : (s.await i tok).ground = s.ground := by rfl

@[simp] theorem State.ldspDo_ground (s : State) (g : Guard) (m : MemOp) : (s.ldspDo g m).ground = s.ground := by
  unfold State.ldspDo
  refine State.atAddr_ground _ _ (State.accept_ground fun _ _ => ?_)
  simp only []
  split <;> simp

@[simp] theorem execStsp_ground (g : Guard) (m : MemOp) (s : State) : NextIs s.Stays (execStsp g m s) := by
  refine State.guarded_ground (State.atAddr_ground _ _ (State.accept_ground fun t h => ?_)) _ _
  simpa using State.storeSp_ground h

@[simp] theorem execLdds_ground (g : Guard) (m : MemOp) (s : State) : NextIs s.Stays (execLdds g m s) :=
  State.guarded_ground (State.atAddr_ground _ _ (State.accept_ground fun _ _ => by simp)) _ _

@[simp] theorem execStds_ground (g : Guard) (m : MemOp) (s : State) : NextIs s.Stays (execStds g m s) := by
  refine State.guarded_ground (State.atAddr_ground _ _ (State.accept_ground fun t h => ?_)) _ _
  simpa using State.storeDs_ground h

@[simp] theorem execLdg_ground (g : Guard) (m : MemOp) (s : State) : NextIs s.Stays (execLdg g m s) := by
  refine State.guarded_ground (State.atAddr_ground _ _ (State.accept_ground fun r h => ?_)) _ _
  simpa using State.loadG_ground h

@[simp] theorem State.stallAt_ground (s : State) (i : Instr) (port : Option Nat) : (s.stallAt i port).ground = s.ground := by
  unfold State.stallAt; (repeat' split) <;> simp

@[simp] theorem State.markHeld_ground (s : State) : s.markHeld.ground = s.ground := by rfl

theorem State.served_ground {R : Ground → Prop} {s : State} {i : Instr} {a : Word} {r : Option (State × Ans)} {f : State → Nat → State}
    (h : R s.ground) (hr : ∀ u, r = some u → R u.1.ground) (hf : ∀ s v, (f s v).ground = s.ground) : R (s.served i a r f).ground := by
  unfold State.served
  split
  · simpa
  all_goals have := hr _ rfl
  · simpa [hf]
  · simpa [hf]
  · simpa
  · split <;> simpa

theorem State.servedStore_ground {R : Ground → Prop} {s : State} {i : Instr} {a : Word} {r : Option (State × Ans)}
    (h : R s.ground) (hr : ∀ u, r = some u → R u.1.ground) : R (s.servedStore i a r).ground := by
  unfold State.servedStore
  split
  · have := hr _ rfl
    split <;> simpa
  · exact State.served_ground h hr (by simp)

@[simp] theorem State.ret'_ground (d : SReg) (s : State) (v : Nat) : (State.ret' d s v).ground = s.ground := by rfl

theorem State.amoDs_ground {s : State} {k : Nat} {a : Word} {n op x y : Nat} {r : Nat × State} (e : s.amoDs k a n op x y = .ok r) :
    r.2.ground = s.ground := by
  obtain ⟨old, -, e⟩ := Acc.bind_ok.1 e
  simp only [] at e
  split at e
  · obtain ⟨t, h, e⟩ := Acc.bind_ok.1 e
    cases e; exact State.storeDs_ground h
  · cases e; rfl

@[simp] theorem State.pollPassed_ground (d : SReg) (s : State) (v : Nat) :
    (State.pollPassed d s v).ground = s.ground := by simp [State.pollPassed]

@[simp] theorem State.fenceDo_ground (s : State) (g : Guard) (d : SReg) (scope : BitVec 3) :
    (s.fenceDo g d scope).ground = s.ground := by simp [State.fenceDo]

@[simp] theorem execFenceComplete_ground (q : SeqRef) (s : State) : NextIs s.Stays (execFenceComplete q s) := by
  unfold execFenceComplete; split <;> simp

@[simp] theorem State.fenceEDo_ground (s : State) (g : Guard) (d : SReg) : (s.fenceEDo g d).ground = s.ground := by simp [State.fenceEDo]

@[simp] theorem execFenceEComplete_ground (q : SeqRef) (s : State) : NextIs s.Stays (execFenceEComplete q s) := by
  unfold execFenceEComplete; split <;> simp

@[simp] theorem execHld_ground (g : Guard) (d : HReg) (a : SReg) (spc : HSpace) (s : State) : NextIs s.Stays (execHld g d a spc s) := by
  refine State.guarded_ground (State.atAddr_ground _ _ ?_) _ _
  cases spc
  · exact State.accept_ground fun r h => by simpa using State.loadG_ground h
  · exact State.accept_ground fun _ _ => by simp
  · exact State.accept_ground fun _ _ => by simp

@[simp] theorem execHxl_ground (g : Guard) (d : SReg) (a : HReg) (b : SReg) (s : State) : NextIs s.Stays (execHxl g d a b s) := by
  refine State.guarded_ground ?_ _ _
  simp only []
  split
  · simp
  · split <;> simp

end Sys2Proof.Machine

end

section

/-! PROOF. What enqueues, reductions, the records and the register scopes leave of them (O3). -/

namespace Sys2Proof.Machine

@[simp] theorem State.enqHold_ground (s : State) (i : Instr) (tok : Nat) (q : QRec) : (s.enqHold i tok q).ground = s.ground := by rfl
@[simp] theorem State.enqPlace_ground (s : State) (i : Instr) (q : QRec) : (s.enqPlace i q).ground = s.ground := by simp [State.enqPlace]

@[simp] theorem State.enqPin_ground (s : State) (i : Instr) (q : QRec) : (s.enqPin i q).ground = s.ground := by
  unfold State.enqPin; split <;> simp

@[simp] theorem State.enqTake_ground (s : State) (i : Instr) (e : Eng) (r : BitVec 512) : (s.enqTake i e r).ground = s.ground := by
  unfold State.enqTake; split <;> simp

@[simp] theorem execEnq_ground (g : Guard) (eng : Eng) (rec : BitVec 512) (s : State) : NextIs s.Stays (execEnq g eng rec s) := by
  unfold execEnq; split <;> simp

@[simp] theorem execEnqr_ground (g : Guard) (eng : Eng) (k : BitVec 6) (s : State) : NextIs s.Stays (execEnqr g eng k s) := by
  unfold execEnqr; split <;> simp

@[simp] theorem execEnqm_ground (g : Guard) (eng : Eng) (a : SReg) (s : State) : NextIs s.Stays (execEnqm g eng a s) := by
  unfold execEnqm
  split
  · simp
  · exact State.guarded_ground (State.atAddr_ground _ _ (State.accept_ground fun _ _ => by simp)) _ _

@[simp] theorem execEnqQueuePlace_ground (q : SeqRef) (s : State) : NextIs s.Stays (execEnqQueuePlace q s) := by
  unfold execEnqQueuePlace; split <;> simp

@[simp] theorem State.setWindows_ground (s : State) (ctx : Nat) (w : Tbl Win) : (s.setWindows ctx w).ground = s.ground := by rfl

@[simp] theorem State.winregDo_ground (s : State) (g : Guard) (d : SReg) (a : HReg) (b : SReg) :
    (s.winregDo g d a b).ground = s.ground := by
  unfold State.winregDo; dsimp only; (repeat' split) <;> simp

@[simp] theorem execEnqPinRoom_ground (q : SeqRef) (s : State) : NextIs s.Stays (execEnqPinRoom q s) := by
  unfold execEnqPinRoom; split <;> simp

@[simp] theorem State.freeWindow_ground (s : State) (ctx k : Nat) (w : Win) :
    (s.freeWindow ctx k w).ground = s.ground := by simp [State.freeWindow]

@[simp] theorem State.winrevDo_ground (s : State) (g : Guard) (d a : SReg) (again : Bool) : (s.winrevDo g d a again).ground = s.ground := by
  unfold State.winrevDo; dsimp only; split <;> simp

@[simp] theorem execWinrevDrain_ground (q : SeqRef) (s : State) : NextIs s.Stays (execWinrevDrain q s) := by
  unfold execWinrevDrain; split <;> simp

@[simp] theorem State.redDrop_ground (s : State) (key : RedKey) : (s.redDrop key).ground = s.ground := by
  unfold State.redDrop; split <;> simp

@[simp] theorem State.redPut_ground (s : State) (key : RedKey) (ctx n : Nat) (task : Option Nat) (va : Word) :
    (s.redPut key ctx n task va).ground = s.ground := by
  unfold State.redPut; split <;> simp

@[simp] theorem State.redServe_ground (s : State) (e : Eng) (core : Nat) (j : RedJob) : (s.redServe e core j).ground = s.ground := by
  unfold State.redServe; split <;> simp

theorem State.redCopy_ground {s : State} {core : Nat} {j : RedJob} {t : State} (e : s.redCopy core j = some t) : t.ground = s.ground := by
  unfold State.redCopy at e
  split at e
  · cases e
  · cases e; simp

theorem State.redReduce_ground {s : State} {core : Nat} {j : RedJob} {t : State} (e : s.redReduce core j = some t) :
    t.ground = s.ground := by
  unfold State.redReduce at e
  split at e
  · cases e
  · cases e; simp

@[simp] theorem State.redGate_ground (s : State) (key : RedKey) (ctx n : Nat) (task : Option Nat) (va : Word) :
    (s.redGate key ctx n task va).1.ground = s.ground := by
  have stage : ∀ {s t : State} {core : Nat} {j : RedJob}, (if j.copied then some s else s.redCopy core j) = some t → t.ground = s.ground := by
    intro s t core j e; split at e
    · cases e; rfl
    · exact State.redCopy_ground e
  unfold State.redGate
  split
  · rfl
  · cases hk : s.redFind key <;> simp only []
    all_goals
      split
      · simp
      · split
        · simp
        · next h =>
          split
          · simpa using stage h
          · next h' => simpa using (State.redReduce_ground h').trans (stage h)

@[simp] theorem State.stashServe_ground (s : State) (ctx : Nat) (l : List (Nat × StashEntry)) :
    (s.stashServe ctx l).1.ground = s.ground := by
  induction l generalizing s with
  | nil => rfl
  | cons e l ih =>
    simp only [State.stashServe]
    split
    · exact ih s
    · split
      · simp
      · simp [ih]

@[simp] theorem State.recSignal_ground (s : State) (q : QRec) : (s.recSignal q).ground = s.ground := by simp [State.recSignal]
@[simp] theorem State.markFault_ground (s : State) (q : QRec) : (s.markFault q).ground = s.ground := by rfl

@[simp] theorem State.recFaulted_ground (s : State) (q : QRec) (cause : Nat) (eval : Word) :
    (s.recFaulted q cause eval).ground = s.ground := by simp [State.recFaulted]

@[simp] theorem State.recPoisoned_ground (s : State) (q : QRec) : (s.recPoisoned q).ground = s.ground := by simp [State.recPoisoned]
@[simp] theorem State.setRunAt_ground (s : State) (core ch : Nat) (r : Run) : (s.setRunAt core ch r).ground = s.ground := by rfl

@[simp] theorem State.cxCharge_ground (s : State) (q : QRec) (core k : Nat) (ixs : Option Memory) :
    (s.cxCharge q core k ixs).ground = s.ground := by simp [State.cxCharge]

@[simp] theorem State.cxFilter_ground (s : State) (q : QRec) (r : Run) (k : Nat) : (s.cxFilter q r k).2.1.ground = s.ground := by
  unfold State.cxFilter; simp only []
  repeat' split
  all_goals simp

@[simp] theorem State.cxOpen_ground (s : State) (core : Nat) (r : Run) (snd : CxSends) (put : Bool) :
    (s.cxOpen core r snd put).1.ground = s.ground := by simp [State.cxOpen]

@[simp] theorem State.cxListed_ground (s : State) (core ch : Nat) (r : Run) :
    (s.cxListed core ch r).ground = s.ground := by simp [State.cxListed]

@[simp] theorem State.dropHead_ground (s : State) (e : Eng) (k : Nat) : (s.dropHead e k).ground = s.ground := by rfl
@[simp] theorem State.unstage_ground (s : State) (q : QRec) : (s.unstage q).ground = s.ground := by simp [State.unstage]
@[simp] theorem State.letGo_ground (s : State) (q : QRec) : (s.letGo q).ground = s.ground := by simp [State.letGo]

@[simp] theorem State.startRecord_ground (s : State) (e : Eng) (k : Nat) (q : QRec) : (s.startRecord e k q).ground = s.ground := by
  unfold State.startRecord; dsimp only; (repeat' split) <;> simp

@[simp] theorem execRecordStart_ground (eng : Eng) (slot : Nat) (s : State) : NextIs s.Stays (execRecordStart eng slot s) := by
  unfold execRecordStart; (repeat' split) <;> simp

@[simp] theorem State.retire_ground (s : State) (r : Run) : (s.retire r).ground = s.ground := by
  unfold State.retire; split <;> simp

@[simp] theorem execRecordRetire_ground (eng : Eng) (slot : Nat) (ch : Nat) (s : State) :
    NextIs s.Stays (execRecordRetire eng slot ch s) := by
  unfold execRecordRetire; dsimp only; (repeat' split) <;> simp

@[simp] theorem execAsyncTrapTaken_ground (q : SeqRef) (s : State) : NextIs s.Stays (execAsyncTrapTaken q s) := by
  unfold execAsyncTrapTaken; dsimp only; (repeat' split) <;> simp

@[simp] theorem execDebugHalt_ground (slot : Nat) (s : State) : NextIs s.Stays (execDebugHalt slot s) := by simp [execDebugHalt]

@[simp] theorem State.saveSlot_ground (s : State) (k : Nat) : (s.saveSlot k).ground = s.ground := by
  unfold State.saveSlot; split <;> simp

@[simp] theorem execPreemption_ground (slot : Nat) (s : State) : NextIs s.Stays (execPreemption slot s) := by
  unfold execPreemption; dsimp only; (repeat' split) <;> simp

@[simp] theorem State.grantScope_ground (s : State) (core : Nat) : (s.grantScope core).ground = s.ground := by
  unfold State.grantScope; dsimp only; split <;> simp

@[simp] theorem execScopeoGrant_ground (core : Nat) (s : State) : NextIs s.Stays (execScopeoGrant core s) := by
  unfold execScopeoGrant; split <;> simp

@[simp] theorem State.scopecDo_ground (s : State) (g : Guard) : (s.scopecDo g).ground = s.ground := by simp [State.scopecDo]

@[simp] theorem State.tendDo_ground (s : State) (g : Guard) : (s.tendDo g).ground = s.ground := by
  unfold State.tendDo; dsimp only; (repeat' split) <;> simp

@[simp] theorem State.vmodeSpan_ground (s : State) (use : BitVec 8) (gated : Bool) (lo hi : Nat) :
    (s.vmodeSpan use gated lo hi).ground = s.ground := by simp [State.vmodeSpan]

@[simp] theorem State.vmodeAll_ground (s : State) (use : BitVec 8) (gated : Bool) (lo : Nat) :
    (s.vmodeAll use gated lo).ground = s.ground := by simp [State.vmodeAll]

@[simp] theorem State.vmodeRun_ground {s : State} (i : Instr) (fin : Word) (use : BitVec 8) (gated : Bool) (lo : Nat) {f : State → State}
    (hf : ∀ s, (f s).ground = s.ground) : (s.vmodeRun i fin use gated lo f).ground = s.ground := by
  unfold State.vmodeRun; split <;> simp [hf]

@[simp] theorem State.vmodeDo_ground (s : State) (g : Guard) (use : BitVec 8) (gated : Bool) (lo : Nat) :
    (s.vmodeDo g use gated lo).ground = s.ground := by simp [State.vmodeDo]

@[simp] theorem State.vmodeCsrDo_ground (s : State) (g : Guard) (op : CsrOp) (d a : SReg) (old : Word) (lo : Nat) :
    (s.vmodeCsrDo g op d a old lo).ground = s.ground := by simp [State.vmodeCsrDo]

@[simp] theorem execScopecDrain_ground (q : SeqRef) (s : State) : NextIs s.Stays (execScopecDrain q s) := by
  unfold execScopecDrain; split <;> simp

@[simp] theorem execClusterWake_ground (slot k : Nat) (s : State) : NextIs s.Stays (execClusterWake slot k s) := by
  unfold execClusterWake; dsimp only; (repeat' split) <;> simp

@[simp] theorem State.setLaunch_ground (s : State) (ctx : Nat) (l : Launch) : (s.setLaunch ctx l).ground = s.ground := by rfl

@[simp] theorem State.setEdge_ground (s : State) (e : Nat) (v : Edge) : (s.setEdge e v).ground = s.ground := by
  unfold State.setEdge; split <;> simp

@[simp] theorem State.useResv_ground (s : State) (e : Nat) (out : Bool) : (s.useResv e out).ground = s.ground := by
  unfold State.useResv; split <;> simp

@[simp] theorem State.edgePop_ground {s : State} (e : Nat) {empty : State → State} {f : State → Word → State}
    (he : ∀ s, (empty s).ground = s.ground) (hf : ∀ s w, (f s w).ground = s.ground) : (s.edgePop e empty f).ground = s.ground := by
  unfold State.edgePop
  split
  · simp
  · simp only []
    split
    · exact he s
    · refine State.accept_ground fun a h => ?_
      split at h
      · obtain ⟨_, -, h⟩ := Acc.bind_ok.1 h
        cases h; simp [hf]
      · simp [hf, State.loadG_ground h]

@[simp] theorem State.epopDo_ground (s : State) (g : Guard) (d : SReg) (e : BitVec 12) :
    (s.epopDo g d e).ground = s.ground := by simp [State.epopDo]

@[simp] theorem execEpopItem_ground (q : SeqRef) (s : State) : NextIs s.Stays (execEpopItem q s) := by
  unfold execEpopItem; split <;> simp

end Sys2Proof.Machine

end

section

/-! PROOF. What restores, launches and pipelines leave of them (O3). -/

namespace Sys2Proof.Machine

theorem State.repin_ground {s : State} {e : Eng} {k : Nat} {q : QRec} {u : State × Option (QRec × Word)} (h : s.repin e k q = some u) :
    u.1.ground = s.ground := by
  revert h; unfold State.repin
  repeat' split
  all_goals simp
  all_goals rintro rfl; simp

@[simp] theorem State.repinFaults_ground (s : State) (bad : List (QRec × Word)) : (s.repinFaults bad).ground = s.ground := by
  unfold State.repinFaults
  refine State.ground_foldl (fun s b => ?_) bad s
  split <;> simp

@[simp] theorem State.unask_ground (s : State) (a : Asker) : (s.unask a).ground = s.ground := by rfl

@[simp] theorem State.askBack_ground (s : State) (ctx : Nat) (v : SavedGrp) (core : Nat) :
    (s.askBack ctx v core).ground = s.ground := by simp [State.askBack, State.ground_foldl]

/-- What each step of a run keeps, the run keeps. -/
theorem foldlM_keeps {α β γ : Type} {f : β → α → Option β} (m : β → γ) (hf : ∀ b a c, f b a = some c → m c = m b) (l : List α)
    {b c : β} (e : l.foldlM f b = some c) : m c = m b := by
  induction l generalizing b with
  | nil => cases e; rfl
  | cons a l ih =>
    obtain ⟨d, hd, e⟩ := Option.bind_eq_some_iff.1 (by simpa using e)
    exact (ih e).trans (hf _ _ _ hd)

theorem State.restoreSlot_ground {s : State} {v : SavedSlot} {k : Nat} {ending : Bool} {u : State × List (QRec × Word)}
    (e : s.restoreSlot v k ending = some u) : u.1.ground = s.ground := by
  revert e; unfold State.restoreSlot
  simp only []
  split
  · simp
  · intro e
    have h := foldlM_keeps (fun u : State × List (QRec × Word) => u.1.ground) (fun u x w h => ?_) _ e
    · exact h.trans (by simp)
    · obtain ⟨y, hy, rfl⟩ := Option.map_eq_some_iff.1 h
      exact (State.repin_ground hy :)

theorem State.restoreGrp_ground {s : State} {ctx : Nat} {v : SavedGrp} {core : Nat} {u : State × List (QRec × Word)}
    (e : s.restoreGrp ctx v core = some u) : u.1.ground = s.ground := by
  revert e; unfold State.restoreGrp
  simp only []
  split
  · simp
  · split
    · simp
    · intro e
      have h := foldlM_keeps (fun u : State × List (QRec × Word) => u.1.ground) (fun u x w h => ?_) _ e
      · exact h.trans (by simp)
      · obtain ⟨y, hy, rfl⟩ := Option.map_eq_some_iff.1 h
        exact (State.restoreSlot_ground hy :)

/-- What each step of a fold over a partial state keeps, the fold keeps. -/
theorem foldl_option_keeps {α β γ : Type} {f : Option β → α → Option β} {m : β → γ}
    (hf : ∀ o a c, f o a = some c → ∃ b, o = some b ∧ m c = m b) (l : List α) {o : Option β} {c : β} (e : l.foldl f o = some c) :
    ∃ b, o = some b ∧ m c = m b := by
  induction l generalizing o with
  | nil => exact ⟨c, e, rfl⟩
  | cons a l ih =>
    obtain ⟨d, hd, hm⟩ := ih e
    obtain ⟨b, hb, hm'⟩ := hf _ _ _ hd
    exact ⟨b, hb, hm.trans hm'⟩

theorem State.readEdges_ground {s : State} {ctx : Nat} {h : BitVec 2048} {u : Option (Tbl Edge) × State} (e : s.readEdges ctx h = some u) :
    u.2.ground = s.ground := by
  refine Exists.elim (foldl_option_keeps (m := fun u : Option (Tbl Edge) × State => u.2.ground) (fun o k c h => ?step) _ e) ?done
  case done => rintro b ⟨hb, hm⟩; cases hb; exact hm
  case step =>
    split at h
    · next t s =>
      refine ⟨_, rfl, ?_⟩
      split at h
      · cases h
      · cases h; dsimp only; split <;> simp
      · next hr => split at h <;> (cases h; exact State.readG_ground hr)
    · exact ⟨c, h, rfl⟩

@[simp] theorem State.place_ground (s : State) (ctx lin core : Nat) : (s.place ctx lin core).ground = s.ground := by
  unfold State.place; dsimp only; split <;> simp

theorem State.placeAll_ground {s : State} {ctx : Nat} {l : List Nat} {t : State} (e : s.placeAll ctx l = some t) : t.ground = s.ground := by
  induction l generalizing s with
  | nil => cases e; rfl
  | cons n l ih =>
    simp only [State.placeAll] at e
    split at e
    · cases e
    · split at e
      · cases e
      · simpa using ih e

theorem State.placeCosched_ground {s : State} {ctx : Nat} {l : Launch} {t : State} (e : s.placeCosched ctx l = some t) :
    t.ground = s.ground := by
  simpa using State.placeAll_ground e

theorem State.getD_ground {s : State} {o : Option State} (h : ∀ t, o = some t → t.ground = s.ground) : (o.getD s).ground = s.ground := by
  cases o with
  | none => rfl
  | some t => exact h t rfl

@[simp] theorem execGroupPlace_ground (ctx core : Nat) (s : State) : NextIs s.Stays (execGroupPlace ctx core s) := by
  unfold execGroupPlace
  simp only []
  split
  · simp
  · next l _ =>
    split
    · simp
    · split
      · simpa using State.getD_ground (fun _ h => State.placeCosched_ground h)
      · split
        · simp
        · next b _ =>
          split
          · split
            · simp
            · simp
          · split
            · simp
            · split
              · simp
              · split
                · next h => simpa using State.restoreGrp_ground h
                · simp

theorem State.startTask_ground {s : State} {k : Nat} {t : Task} {apc xpc : Word} {regs : List (Nat × Word)} {hptr : Word} {hcnt : Nat} {u : State}
    (e : s.startTask k t apc xpc regs hptr hcnt = some u) : u.ground = s.ground := by
  revert e; unfold State.startTask
  simp only []
  split
  · simp
  · next h =>
    rw [Option.some.injEq]; rintro rfl
    simpa using State.readG_ground h
  · rw [Option.some.injEq]; rintro rfl
    simp

theorem State.issueTree_ground {s : State} {ctx gid k : Nat} {t : State} (e : s.issueTree ctx gid k = some t) : t.ground = s.ground := by
  revert e; unfold State.issueTree
  split
  · split
    · simp
    · exact fun e => by simpa using State.startTask_ground e
  · simp

theorem State.issueHead_ground {s : State} {ctx q k : Nat} {t : State} (e : s.issueHead ctx q k = some t) : t.ground = s.ground := by
  revert e; unfold State.issueHead
  simp only []
  split
  · simp
  · split
    · simp
    · split
      · simp
      · split
        · simp
        · split
          · simp
          · exact fun e => by simpa using State.startTask_ground e

@[simp] theorem execTaskIssue_ground (ctx : Nat) (src : IssueSrc) (slot : Nat) (s : State) :
    NextIs s.Stays (execTaskIssue ctx src slot s) := by
  unfold execTaskIssue
  refine NextIs.ite (by simp) ?_
  cases src
  · exact State.getD_ground fun _ h => State.issueTree_ground h
  · exact State.getD_ground fun _ h => State.issueHead_ground h

@[simp] theorem State.stageAgain_ground (s : State) (t : Task) : (s.stageAgain t).ground = s.ground := by
  unfold State.stageAgain; split <;> simp

@[simp] theorem State.loseSlot_ground (s : State) (k : Nat) : (s.loseSlot k).ground = s.ground := by
  unfold State.loseSlot; dsimp only; (repeat' split) <;> simp

@[simp] theorem State.loseCoreGroups_ground (s : State) (ctx core : Nat) : (s.loseCoreGroups ctx core).ground = s.ground := by
  unfold State.loseCoreGroups; split <;> simp

@[simp] theorem State.loseGroups_ground (s : State) (ctx d : Nat) : (s.loseGroups ctx d).ground = s.ground := by
  unfold State.loseGroups; split <;> simp

@[simp] theorem State.electMaster_ground (s : State) : s.electMaster.ground = s.ground := by
  unfold State.electMaster; split <;> simp

@[simp] theorem State.settleAll_ground (s : State) : s.settleAll.ground = s.ground := by simp [State.settleAll, State.ground_foldl]
@[simp] theorem State.loseDie_ground (s : State) (d : Nat) : (s.loseDie d).ground = s.ground := by simp [State.loseDie, State.ground_foldl]

@[simp] theorem State.fenceCore_ground (s : State) (c : Nat) :
    (s.fenceCore c).ground = s.ground := by simp [State.fenceCore, State.ground_foldl]

@[simp] theorem execGridStarvation_ground (ctx : Nat) (s : State) : NextIs s.Stays (execGridStarvation ctx s) := by
  unfold execGridStarvation
  simp only []
  split
  · split
    · simp
    · simp [State.ground_foldl]
  · simp

theorem State.peekG_ground {fuel : Nat} {s : State} {kind : Access} {ctx : Nat} {va : Word} {n : Nat} {r : List Byte × State}
    (e : State.peekG fuel s kind ctx va n = .ok r) : r.2 = s := by
  induction fuel generalizing va n r with
  | zero => cases e; rfl
  | succ fuel ih =>
    simp only [State.peekG] at e
    split at e
    · cases e; rfl
    · obtain ⟨_, -, e⟩ := Acc.bind_ok.1 e
      obtain ⟨_, -, e⟩ := Acc.bind_ok.1 e
      obtain ⟨_, h, e⟩ := Acc.bind_ok.1 e
      cases e; exact (ih h :)

theorem State.stageRead_ground {s : State} {ctx : Nat} {b : List Byte} {k : Nat} {r : StageRead × State} (e : s.stageRead ctx b k = .ok r) :
    r.2 = s := by
  obtain ⟨⟨_, s₁⟩, h₁, e⟩ := Acc.bind_ok.1 e
  obtain ⟨⟨_, s₂⟩, h₂, e⟩ := Acc.bind_ok.1 e
  obtain ⟨⟨_, s₃⟩, h₃, e⟩ := Acc.bind_ok.1 e
  obtain ⟨⟨_, s₄⟩, h₄, e⟩ := Acc.bind_ok.1 e
  cases e
  exact (State.peekG_ground h₄).trans ((State.peekG_ground h₃).trans ((State.peekG_ground h₂).trans (State.peekG_ground h₁)))

theorem State.stageReads_ground {s : State} {ctx : Nat} {b : List Byte} {l : List Nat} {r : List StageRead × State}
    (e : s.stageReads ctx b l = .ok r) : r.2 = s := by
  induction l generalizing s r with
  | nil => cases e; rfl
  | cons k l ih =>
    obtain ⟨⟨_, s₁⟩, h₁, e⟩ := Acc.bind_ok.1 e
    obtain ⟨⟨_, s₂⟩, h₂, e⟩ := Acc.bind_ok.1 e
    cases e
    exact (ih h₂).trans (State.stageRead_ground h₁)

@[simp] theorem State.setBind_ground (s : State) (k : Nat) (v : Bind) : (s.setBind k v).ground = s.ground := by rfl
@[simp] theorem State.setNode_ground (s : State) (k : Nat) (v : StageNode) : (s.setNode k v).ground = s.ground := by rfl
@[simp] theorem State.atNode_ground (s : State) (k : Nat) (f : StageNode → StageNode) : (s.atNode k f).ground = s.ground := by rfl

/-- One turn of `addNodes`. Its body is taken as the compiler keeps it, since an equation lemma of `addNodes` would have Lean
evaluate the search among 1024 stages. -/
theorem State.addNodes_step {inst host first : Nat} {owners : List Nat} {i : Word} {ids : List Word}
    {b : List.below (motive := fun _ => State → Nat → Option Nat → State × List Nat) (i :: ids)}
    (hb : ∀ s k parent, (b.1 s k parent).1.ground = s.ground) (s : State) (k : Nat) (parent : Option Nat) :
    (State.addNodes._f inst host first owners (i :: ids) b s k parent).1.ground = s.ground := by
  delta State.addNodes._f
  generalize tblFree s.graft.stages 1024 = o
  cases o with
  | none => rfl
  | some n => exact (hb _ _ _).trans (State.setNode_ground ..)

@[simp] theorem State.addNodes_ground (s : State) (inst host first : Nat) (owners : List Nat) (k : Nat) (parent : Option Nat) (ids : List Word) :
    (s.addNodes inst host first owners k parent ids).1.ground = s.ground := by
  delta State.addNodes
  induction ids generalizing s k parent with
  | nil => rfl
  | cons i ids ih =>
    rw [List.brecOn.eq (motive := fun _ => State → Nat → Option Nat → State × List Nat) (i :: ids) (State.addNodes._f inst host first owners)]
    refine State.addNodes_step ?_ s k parent
    exact ih

theorem State.fst_ground_ite {α : Type} {c : Prop} [Decidable c] {s : State} {x y : State × α} (hx : x.1.ground = s.ground) (hy : y.1.ground = s.ground) :
    (if c then x else y).1.ground = s.ground := by
  split <;> assumption

@[simp] theorem State.bindJoin_ground (s : State) (b : List Byte) (pins : List Nat) (isrc : Word) (ids : List Word) :
    (s.bindJoin b pins isrc ids).1.ground = s.ground := by
  unfold State.bindJoin
  simp only []
  split
  · simp
  · generalize (match s.searchInst isrc ids (dStart b) (dJoinLate b) with | some c => c.path | none => []) = path
    refine State.fst_ground_ite (by simp) ?_
    split
    · simp
    · split <;> simp

@[simp] theorem State.pbindDo_ground (s : State) (d : SReg) (addr : Word) : (s.pbindDo d addr).ground = s.ground := by
  unfold State.pbindDo
  split
  · simp
  · refine State.accept_ground fun r₁ h₁ => ?_
    rw [← State.readG_ground h₁]
    refine State.accept_ground fun r₂ h₂ => ?_
    rw [← State.readG_ground h₂]
    simp only []
    split
    · simp
    · split
      · simp
      · split <;> simp
      · next h => 
        cases State.stageReads_ground h
        split
        · simp
        · split
          · split <;> simp
          · simp
          · split <;> simp

@[simp] theorem State.leaveNodes_ground (s : State) (k : Nat) (b : Bind) : (s.leaveNodes k b).ground = s.ground := by
  unfold State.leaveNodes
  rw [State.setBind_ground, State.ground_foldl fun _ _ => State.atNode_ground ..]

@[simp] theorem execPunbind_ground (g : Guard) (d a : SReg) (s : State) : NextIs s.Stays (execPunbind g d a s) := by
  refine State.guarded_ground ?_ _ _
  simp only []
  split
  · simp
  · split <;> simp

@[simp] theorem execPquery_ground (g : Guard) (d a b : SReg) (s : State) : NextIs s.Stays (execPquery g d a b s) := by
  refine State.guarded_ground ?_ _ _
  split <;> simp

@[simp] theorem execAttach_ground (bind : Nat) (s : State) : NextIs s.Stays (execAttach bind s) := by
  unfold execAttach
  split
  · simp
  · refine NextIs.ite (by simp) ?_
    simp only [nextIs_next, State.setBind_ground]
    exact State.ground_foldl (fun _ _ => State.atNode_ground ..) _ _

@[simp] theorem State.handNode_ground (s : State) (id : Nat) (e : Nat × StageNode) : (s.handNode id e).ground = s.ground := by
  unfold State.handNode; dsimp only; split <;> simp

@[simp] theorem State.restartAt_ground (s : State) (n : Nat) (nodes : List Nat) : (s.restartAt n nodes).ground = s.ground :=
  State.ground_foldl (fun _ _ => by simp) _ _

@[simp] theorem State.raiseCopies_ground (s : State) (inst n : Nat) : (s.raiseCopies inst n).ground = s.ground := by rfl

@[simp] theorem State.handOver_ground (s : State) (id : Nat) (b : Bind) : (s.handOver id b).ground = s.ground := by
  unfold State.handOver
  simp only []
  rw [State.ground_foldl fun _ _ => by simp]
  split <;> simp

@[simp] theorem State.freeBind_ground (s : State) (id : Nat) (b : Bind) : (s.freeBind id b).ground = s.ground := by simp [State.freeBind]

@[simp] theorem execDetachComplete_ground (bind : Nat) (s : State) : NextIs s.Stays (execDetachComplete bind s) := by
  unfold execDetachComplete; dsimp only; (repeat' split) <;> simp

end Sys2Proof.Machine

end

section

/-! PROOF. What messages, connections and rotor slots leave of them (O3). -/

namespace Sys2Proof.Machine

theorem State.takeMsg_ground {s : State} {port : Nat} {m : Msg} {t : State} (e : s.takeMsg port m = some t) : t.ground = s.ground := by
  unfold State.takeMsg at e
  dsimp only at e
  split at e
  · cases e; rfl
  · cases e; rfl
  · cases e

@[simp] theorem State.progress_ground (s : State) (q : Nat) : (s.progress q).ground = s.ground := by rfl
@[simp] theorem State.dropOut_ground (s : State) (q msn : Nat) : (s.dropOut q msn).ground = s.ground := by rfl

@[simp] theorem State.sendAgain_ground (s : State) (q : Nat) (ms : List OutMsg) (probe : Bool) :
    (s.sendAgain q ms probe).ground = s.ground := by
  unfold State.sendAgain; split <;> simp

@[simp] theorem State.sfCount_ground (s : State) (q n : Nat) : (s.sfCount q n).ground = s.ground := by
  unfold State.sfCount; split <;> simp

@[simp] theorem State.remember_ground (s : State) (m : Msg) (r : Msg) : (s.remember m r).ground = s.ground := by rfl
@[simp] theorem State.transit_ground (s : State) (port : Nat) (m : Msg) : (s.transit port m).ground = s.ground := by simp [State.transit]

theorem State.nextMsg_ground {s : State} {port : Nat} {m : Msg} {t : State} (e : s.nextMsg port m = some t) : t.ground = s.ground := by
  revert e; unfold State.nextMsg
  simp only []
  split
  · rw [Option.some.injEq]; rintro rfl; simp
  · exact fun e => State.takeMsg_ground e

theorem State.responseRow_next {R : Ground → Prop} {s : State} {port : Nat} {m : Msg} {op : Nat} {f : State → Option State} (h : R s.ground)
    (hf : ∀ t u, t.ground = s.ground → f t = some u → R u.ground) : NextIs R (s.responseRow port m op f) := by
  unfold State.responseRow
  refine NextIs.ite h ?_
  split
  · exact h
  · next t ht =>
    have ht := State.takeMsg_ground ht
    refine NextIs.ite ?_ ?_
    · simpa [ht]
    · split
      · next hu => exact hf _ _ ht hu
      · exact h

@[simp] theorem State.holdMsg_ground (s : State) (q : Nat) (o : OutMsg) : (s.holdMsg q o).ground = s.ground := by
  unfold State.holdMsg; dsimp only; split <;> simp

@[simp] theorem State.gather_ground (s : State) (port : Nat) (q : Nat) : (s.gather port q).ground = s.ground := by simp [State.gather]

@[simp] theorem execSlotStart_ground (port : Nat) (s : State) : NextIs s.Stays (execSlotStart port s) := by
  unfold execSlotStart
  refine NextIs.ite (by simp) ?_
  simp [State.ground_foldl]

@[simp] theorem execGuardEnd_ground (port : Nat) (s : State) : NextIs s.Stays (execGuardEnd port s) := by
  unfold execGuardEnd; dsimp only; split <;> simp

@[simp] theorem State.handBack_ground (s : State) (c : Carried) : (s.handBack c).ground = s.ground := by
  unfold State.handBack; split <;> simp

@[simp] theorem State.lightEvent_ground (s : State) (port typ mask seq : Nat) (time : Word) :
    (s.lightEvent port typ mask seq time).ground = s.ground := by simp [State.lightEvent]

@[simp] theorem State.lolEvents_ground (s : State) (port : Nat) :
    (s.lolEvents port).ground = s.ground := by simp [State.lolEvents, State.ground_foldl]

theorem State.ground_foldr {α : Type} {f : α → State → State} (h : ∀ s a, (f a s).ground = s.ground) (l : List α) (s : State) :
    (l.foldr f s).ground = s.ground := by
  induction l with
  | nil => rfl
  | cons a l ih => rw [List.foldr_cons, h, ih]

@[simp] theorem execSlotEnd_ground (port : Nat) (s : State) : NextIs s.Stays (execSlotEnd port s) := by
  unfold execSlotEnd
  refine NextIs.ite (by simp) ?_
  simp [State.ground_foldr]

@[simp] theorem State.fabCharge1_ground (s : State) (ctx port n : Nat) (left : Bool) :
    (s.fabCharge1 ctx port n left).ground = s.ground := by simp [State.fabCharge1]

@[simp] theorem State.fabCharge_ground (s : State) (o : OutMsg) (port : Nat) (left : Bool) :
    (s.fabCharge o port left).ground = s.ground := by simp [State.fabCharge, State.ground_foldl]

@[simp] theorem State.leave_ground (s : State) (port : Nat) (o : OutMsg) (left : Bool) :
    (s.leave port o left).ground = s.ground := by simp [State.leave]

theorem State.againFor_ground {s : State} {port r room : Nat} {t : State} (e : s.againFor port r room = some t) : t.ground = s.ground := by
  unfold State.againFor at e
  dsimp only at e
  split at e
  · cases e
  · split at e
    · cases e
    · cases e; rfl

theorem State.respFor_ground {s : State} {port r room : Nat} {t : State} (e : s.respFor port r room = some t) : t.ground = s.ground := by
  unfold State.respFor at e
  dsimp only at e
  split at e
  · cases e
  · cases e; rfl

theorem State.transitFor_ground {s : State} {port r room : Nat} {v0 v1 : Bool} {t : State} (e : s.transitFor port r room v0 v1 = some t) :
    t.ground = s.ground := by
  unfold State.transitFor at e
  dsimp only at e
  split at e
  · cases e
  · split at e
    · cases e
    · cases e; rfl

@[simp] theorem State.queuedFor_ground (s : State) (port room : Nat) (l : List (Nat × List OutMsg)) :
    (s.queuedFor port room l).1.ground = s.ground := by
  induction l generalizing s with
  | nil => rfl
  | cons e l ih =>
    simp only [State.queuedFor]
    split
    · simp
    · simp [ih]

theorem State.leftoverFor_ground {s : State} {port r room : Nat} {t : State} (e : s.leftoverFor port r room = some t) :
    t.ground = s.ground := by
  unfold State.leftoverFor at e
  simp only [] at e
  split at e
  · cases e
  · obtain ⟨o, -, rfl⟩ := Option.map_eq_some_iff.1 e
    simp

@[simp] theorem State.startNext_ground (s : State) (port : Nat) (v0 v1 : Bool) : (s.startNext port v0 v1).1.ground = s.ground := by
  have ite_some : ∀ {c : Prop} [Decidable c] {o : Option State} {t : State}, (if c then o else none) = some t → o = some t := by
    intro c _ o t h; split at h
    · exact h
    · cases h
  unfold State.startNext
  dsimp only
  split
  · simp
  · split
    · next h => exact State.againFor_ground (ite_some h)
    · split
      · next h => exact State.respFor_ground (ite_some h)
      · split
        · next h => exact State.transitFor_ground h
        · refine State.fst_ground_ite (by simp) (State.fst_ground_ite (by simp) ?_)
          split
          · next h => simpa using State.leftoverFor_ground h
          · simp

@[simp] theorem State.fill_ground (port n : Nat) (s : State) : (State.fill port n s).ground = s.ground := by
  induction n generalizing s with
  | zero => rfl
  | succ n ih =>
    simp only [State.fill]
    split
    · rfl
    · split <;> simp [ih]

@[simp] theorem execBeat_ground (port : Nat) (s : State) : NextIs s.Stays (execBeat port s) := by
  unfold execBeat
  refine NextIs.ite (by simp) (NextIs.ite (by simp) ?_)
  simp

@[simp] theorem State.ctrlRow_ground {s : State} (port code : Nat) (f : Flit) {g : Port → State → State} (hg : ∀ p s, (g p s).ground = s.ground) :
    NextIs s.Stays (s.ctrlRow port code f g) := by
  unfold State.ctrlRow
  refine NextIs.ite (by simp) ?_
  split
  · split <;> simp [hg]
  · simp

@[simp] theorem execReplayTimeout_ground (port : Nat) (s : State) : NextIs s.Stays (execReplayTimeout port s) := by
  unfold execReplayTimeout; dsimp only; (repeat' split) <;> simp

@[simp] theorem execRestripeResume_ground (port : Nat) (s : State) : NextIs s.Stays (execRestripeResume port s) := by
  unfold execRestripeResume; split <;> simp

@[simp] theorem execFlitArrival_ground (port lane : Nat) (f : Flit) (s : State) : NextIs s.Stays (execFlitArrival port lane f s) := by
  unfold execFlitArrival; dsimp only; (repeat' split) <;> simp

@[simp] theorem execWavelengthDark_ground (port w : Nat) (s : State) : NextIs s.Stays (execWavelengthDark port w s) := by
  unfold execWavelengthDark; dsimp only; split <;> simp

@[simp] theorem execLolResend_ground (port w : Nat) (s : State) : NextIs s.Stays (execLolResend port w s) := by
  unfold execLolResend; dsimp only; split <;> simp

@[simp] theorem execLightReturn_ground (port w : Nat) (s : State) : NextIs s.Stays (execLightReturn port w s) := by
  unfold execLightReturn
  refine NextIs.ite rfl (NextIs.ite (State.setPort_ground ..) ?_)
  split
  · generalize BitVec.ult _ _ = soon
    cases soon
    · exact State.setPort_ground ..
    · exact rfl
  · exact rfl

@[simp] theorem execReceivedPowerChange_ground (port w : Nat) (above : Bool) (s : State) :
    NextIs s.Stays (execReceivedPowerChange port w above s) := by
  unfold execReceivedPowerChange; dsimp only; split <;> simp

end Sys2Proof.Machine

end

section

/-! PROOF. What logs, commands, contexts, keys and the bring-up leave of them (O3). -/

namespace Sys2Proof.Machine

@[simp] theorem State.checkpoint_ground (s : State) (ctx : Nat) : (s.checkpoint ctx).ground = s.ground := by rfl

@[simp] theorem State.appendLog_ground (s : State) (ctx : Nat) (final : Bool) :
    (s.appendLog ctx final).ground = s.ground := by simp [State.appendLog]

@[simp] theorem State.evict_ground (s : State) (ctx : Nat) : (s.evict ctx).ground = s.ground := by simp [State.evict, State.ground_foldl]
@[simp] theorem State.takeSeat_ground (s : State) (ctx : Nat) : (s.takeSeat ctx).ground = s.ground := by simp [State.takeSeat]

@[simp] theorem State.surplus_ground (n : Nat) (s : State) : (State.surplus n s).ground = s.ground := by
  induction n generalizing s with
  | zero => rfl
  | succ n ih =>
    simp only [State.surplus]
    split
    · rfl
    · split <;> simp [ih]

@[simp] theorem State.residency_ground (ws seen : List Nat) (s : State) : (State.residency ws seen s).ground = s.ground := by
  induction ws generalizing seen s with
  | nil => rfl
  | cons w ws ih =>
    simp only [State.residency]
    split
    · simp [ih]
    · split
      · rfl
      · (repeat' split) <;> simp [ih]

@[simp] theorem State.decideResidency_ground (s : State) : s.decideResidency.ground = s.ground := by
  unfold State.decideResidency
  simp

@[simp] theorem State.edgeStep_ground (s : State) : s.edgeStep.ground = s.ground := by simp [State.edgeStep, State.ground_foldl]
@[simp] theorem State.shutLocks_ground (s : State) : s.shutLocks.ground = s.ground := by rfl
@[simp] theorem State.reach_ground (s : State) (t : Word) : (s.reach t).ground = s.ground := by simp [State.reach]

@[simp] theorem State.edgesTo_ground (n : Nat) (t : Word) (s : State) : (State.edgesTo n t s).ground = s.ground := by
  induction n generalizing s with
  | zero => rfl
  | succ n ih =>
    simp only [State.edgesTo]
    split
    · simp [ih]
    · rfl

@[simp] theorem State.at_ground (s : State) (t : Word) : (s.at t).ground = s.ground := by
  unfold State.at; simp

/-- Where the states of a command's result stand. -/
def CmdRes.Is (R : Ground → Prop) : CmdRes → Prop
  | .ok t _ => R t.ground
  | .fail _ => True
  | .later t => R t.ground

@[simp] theorem CmdRes.is_ok (R : Ground → Prop) (t : State) (d : List Byte) : (CmdRes.ok t d).Is R ↔ R t.ground := Iff.rfl
@[simp] theorem CmdRes.is_fail (R : Ground → Prop) (n : Nat) : (CmdRes.fail n).Is R ↔ True := Iff.rfl
@[simp] theorem CmdRes.is_later (R : Ground → Prop) (t : State) : (CmdRes.later t).Is R ↔ R t.ground := Iff.rfl
theorem State.commandOf_next {R : Ground → Prop} {s : State} {own : Option Pending} {h : Cmd} {any : Bool} {f : CmdRes} (hs : R s.ground)
    (hf : f.Is R) : NextIs R (s.commandOf own h any f) := by
  unfold State.commandOf
  split
  · exact hs
  · refine NextIs.ite hs (NextIs.ite (by simpa) ?_)
    split
    · simpa using hf
    · simpa
    · exact hf

@[simp] theorem State.commandOf_ground {s : State} {f : CmdRes} (hf : f.Is s.Stays) (own : Option Pending) (h : Cmd) (any : Bool) :
    NextIs s.Stays (s.commandOf own h any f) := State.commandOf_next (R := s.Stays) rfl hf

@[simp] theorem State.command_ground {s : State} {f : CmdRes} (hf : f.Is s.Stays) (h : Cmd) (any : Bool) :
    NextIs s.Stays (s.command h any f) := State.commandOf_ground hf _ h any

@[simp] theorem State.setSession_ground (s : State) (n : Nat) (v : Session) : (s.setSession n v).ground = s.ground := by rfl

@[simp] theorem State.custodian_ground {s : State} {f : CmdRes} (hf : f.Is s.Stays) (h : Cmd) :
    NextIs s.Stays (s.custodian h f) := State.commandOf_ground hf _ h false

@[simp] theorem done_is (R : Ground → Prop) (t : State) : (done t).Is R ↔ R t.ground := Iff.rfl

@[simp] theorem whenOk_is {R : Ground → Prop} {r : CmdRes} (hr : r.Is R) (c : Bool) (n : Nat) : (whenOk c n r).Is R := by
  unfold whenOk; split
  · exact hr
  · trivial

@[simp] theorem State.writeSlotcfg_ground (s : State) (p : Nat) (v : Word) : (s.writeSlotcfg p v).ground = s.ground := by rfl

@[simp] theorem State.writeRoute_ground (s : State) (q : Nat) (v : Word) :
    (s.writeRoute q v).ground = s.ground := by simp [State.writeRoute]

theorem State.writePkg_ground {s : State} {off : Nat} {v : Word} {t : State} (e : s.writePkg off v = some t) : t.ground = s.ground := by
  have onlyIf : ∀ {c : Prop} [Decidable c] {u : State}, (if c then some u else none) = some t → u.ground = s.ground → t.ground = s.ground := by
    intro c _ u e hu
    split at e
    · cases e; exact hu
    · cases e
  unfold State.writePkg at e
  split at e
  · cases e
  · split at e
    · exact onlyIf e (State.writeRoute_ground ..)
    · split at e
      · exact onlyIf e rfl
      · dsimp only at e
        split at e
        · cases e; rfl
        · cases e; rfl
        · cases e; rfl
        · cases e; rfl
        · cases e; simp
        · split at e
          · cases e
          · cases e; rfl
        · exact onlyIf e rfl
        · exact onlyIf e rfl
        · exact onlyIf e rfl
        · cases e

theorem State.regWrite_ground {s : State} {a : BitVec 32} {v : Word} {t : State} (e : s.regWrite a v = some t) : t.ground = s.ground := by
  revert e; unfold State.regWrite
  simp only []
  split
  · split
    · exact fun e => State.writePkg_ground e
    · simp
  · split
    · simp
    · split
      · rw [Option.some.injEq]; rintro rfl; simp
      · intro e; obtain ⟨p, -, rfl⟩ := Option.map_eq_some_iff.1 e; simp
  · split
    · rw [Option.some.injEq]; rintro rfl; simp
    · simp
  · simp

@[simp] theorem execRegrd_ground (h : Cmd) (addr : BitVec 32) (s : State) : NextIs s.Stays (execRegrd h addr s) := by
  unfold execRegrd; split <;> simp

@[simp] theorem execRegwr_ground (h : Cmd) (addr : BitVec 32) (v : Word) (s : State) : NextIs s.Stays (execRegwr h addr v s) := by
  refine State.custodian_ground ?_ h
  split
  · next e => exact State.regWrite_ground e
  · trivial

@[simp] theorem execHwin_ground (h : Cmd) (win : Nat) (addr : Word) (len : Nat) (rd wr : Bool) (s : State) :
    NextIs s.Stays (execHwin h win addr len rd wr s) := by
  unfold execHwin; dsimp only; (repeat' split) <;> simp

@[simp] theorem execTctxset_ground (h : Cmd) (ctx peer target : Nat) (s : State) : NextIs s.Stays (execTctxset h ctx peer target s) :=
  State.custodian_ground (whenOk_is (whenOk_is (by simp) _ _) _ _) h

@[simp] theorem State.flushEnds_ground (n : Nat) (s : State) : (State.flushEnds n s).ground = s.ground := by
  induction n generalizing s with
  | zero => rfl
  | succ n ih =>
    simp only [State.flushEnds]
    split
    · split
      · simp [ih]
      · rfl
    · rfl

@[simp] theorem execEventRingRoom_ground (cons : Nat) (s : State) : NextIs s.Stays (execEventRingRoom cons s) := by
  unfold execEventRingRoom
  split
  · simp
  · split <;> simp

@[simp] theorem State.pageAnswer_ground (s : State) (c : PageCmd) : (s.pageAnswer c).ground = s.ground := by
  unfold State.pageAnswer; (repeat' split) <;> simp

@[simp] theorem execLaunch_ground (h : Cmd) (ctx : Nat) (rec : BitVec 2048) (s : State) : NextIs s.Stays (execLaunch h ctx rec s) :=
  State.command_ground (whenOk_is (whenOk_is (by simp) _ _) _ _) h true

@[simp] theorem State.pruneSelv_ground (s : State) : s.pruneSelv.ground = s.ground := by rfl

@[simp] theorem State.ctxset_is (s : State) (ctx asid keydom gang spinlim : Nat) (stash : Word) :
    (s.ctxset ctx asid keydom gang spinlim stash).Is s.Stays := by
  unfold State.ctxset; simp

@[simp] theorem execCtxset_ground (h : Cmd) (ctx asid keydom gang spinlim : Nat) (stash : Word) (s : State) :
    NextIs s.Stays (execCtxset h ctx asid keydom gang spinlim stash s) := by
  refine State.custodian_ground ?_ h
  have e := s.spinAll.ctxset_is ctx asid keydom gang spinlim stash
  unfold State.Stays at e ⊢
  rwa [State.spinAll_ground] at e

@[simp] theorem State.deleteCtx_ground (s : State) (ctx : Nat) :
    (s.deleteCtx ctx).ground = s.ground := by simp [State.deleteCtx, State.ground_foldl]

@[simp] theorem execCtxdel_ground (h : Cmd) (ctx : Nat) (s : State) : NextIs s.Stays (execCtxdel h ctx s) :=
  State.custodian_ground (whenOk_is (whenOk_is (by simp) _ _) _ _) h

@[simp] theorem State.gaugeset_is (s : State) (ctx : Nat) (g : BitVec 512) : (s.gaugeset ctx g).Is s.Stays :=
  whenOk_is (whenOk_is (whenOk_is (by simp) _ _) _ _) _ _

@[simp] theorem State.rescfg_is (s : State) (resmax period : Nat) : (s.rescfg resmax period).Is s.Stays := by
  unfold State.rescfg; simp

@[simp] theorem execLockset_ground (h : Cmd) (ctx maxns : Nat) (s : State) : NextIs s.Stays (execLockset h ctx maxns s) :=
  State.custodian_ground (whenOk_is (whenOk_is (by simp) _ _) _ _) h

@[simp] theorem State.setGroups_ground (s : State) (g : Tbl Group) : (s.setGroups g).ground = s.ground := by rfl

@[simp] theorem execGrpset_ground (h : Cmd) (gid ctx : Nat) (enc : Bool) (members : List Member) (s : State) :
    NextIs s.Stays (execGrpset h gid ctx enc members s) :=
  State.custodian_ground (whenOk_is (whenOk_is (whenOk_is (by simp) _ _) _ _) _ _) h

@[simp] theorem execGrpdel_ground (h : Cmd) (gid : Nat) (s : State) : NextIs s.Stays (execGrpdel h gid s) :=
  State.custodian_ground (whenOk_is (whenOk_is (by simp) _ _) _ _) h

@[simp] theorem execKeyload_ground (h : Cmd) (index keydom ct : Nat) (wrapped : BitVec 512) (tag : BitVec 128) (s : State) :
    NextIs s.Stays (execKeyload h index keydom ct wrapped tag s) := by
  refine State.custodian_ground (whenOk_is ?_ _ _) h
  split
  · trivial
  · exact whenOk_is (by simp) _ _

@[simp] theorem execKeydel_ground (h : Cmd) (index : Nat) (s : State) : NextIs s.Stays (execKeydel h index s) := by
  unfold execKeydel; (repeat' split) <;> simp

@[simp] theorem execNkeyload_ground (h : Cmd) (node keydom : Nat) (ct : Nat) (wrapped : BitVec 512) (tag : BitVec 128) (s : State) :
    NextIs s.Stays (execNkeyload h node keydom ct wrapped tag s) := by
  unfold execNkeyload; split <;> simp

@[simp] theorem execIdread_ground (h : Cmd) (s : State) : NextIs s.Stays (execIdread h s) := by
  unfold execIdread; (repeat' split) <;> simp

@[simp] theorem execSessionOpen_ground (sess : Nat) (ct : Nat) (sig : Nat) (s : State) :
    NextIs s.Stays (execSessionOpen sess ct sig s) := by
  unfold execSessionOpen; split <;> simp

@[simp] theorem execLogread_ground (h : Cmd) (ctx index : Nat) (s : State) : NextIs s.Stays (execLogread h ctx index s) := by
  unfold execLogread; split <;> simp

@[simp] theorem State.readyEvent_ground (s : State) (unit inst : Nat) (on : Bool) :
    (s.readyEvent unit inst on).ground = s.ground := by simp [State.readyEvent]

@[simp] theorem execBringUp_ground (fw cfg : List Byte) (kerez : Nat) (sigs : Nat × Nat) (custKey puf : Nat) (s : State) :
    NextIs s.Stays (execBringUp fw cfg kerez sigs custKey puf s) := by
  unfold execBringUp; split <;> simp

@[simp] theorem State.idleCores_ground (s : State) (d : Nat) : (s.idleCores d).ground = s.ground :=
  State.ground_foldl (fun _ _ => by simp) _ _

@[simp] theorem State.dieUp_ground (s : State) (d : Nat) : (s.dieUp d).ground = s.ground := by
  unfold State.dieUp; dsimp only; split <;> simp

@[simp] theorem State.stackUp_ground (s : State) (k : Nat) : (s.stackUp k).ground = s.ground := by simp [State.stackUp]
@[simp] theorem State.portUp_ground (s : State) (p : Nat) : (s.portUp p).ground = s.ground := by simp [State.portUp]
@[simp] theorem State.ethUp_ground (s : State) (p : Nat) : (s.ethUp p).ground = s.ground := by simp [State.ethUp]

@[simp] theorem execFunctionReady_ground (u : Unit') (s : State) : NextIs s.Stays (execFunctionReady u s) := by
  unfold execFunctionReady; split <;> simp

@[simp] theorem State.fenceDie_ground (s : State) (d : Nat) : (s.fenceDie d).ground = s.ground := by simp [State.fenceDie]

@[simp] theorem execFunctionFenced_ground (u : Unit') (s : State) : NextIs s.Stays (execFunctionFenced u s) := by
  unfold execFunctionFenced; split <;> simp

@[simp] theorem State.edgesPassed_ground (n : Nat) (s : State) : (State.edgesPassed n s).ground = s.ground := by
  induction n generalizing s with
  | zero => rfl
  | succ n ih =>
    simp only [State.edgesPassed]
    split
    · simp [ih]
    · rfl

@[simp] theorem State.stepTime_ground (s : State) (t : Word) : (s.stepTime t).ground = s.ground := by
  unfold State.stepTime; simp

@[simp] theorem execPtpSync_ground (master : Nat) (offset : BitVec 32) (s : State) : NextIs s.Stays (execPtpSync master offset s) := by
  unfold execPtpSync; dsimp only; (repeat' split) <;> simp

@[simp] theorem execHoldover_ground (s : State) : NextIs s.Stays (execHoldover s) := by
  unfold execHoldover; split <;> simp

@[simp] theorem execThermalStateChange_ground (die temp : Nat) (s : State) : NextIs s.Stays (execThermalStateChange die temp s) := by
  unfold execThermalStateChange; dsimp only; (repeat' split) <;> simp

@[simp] theorem State.fatal_ground (s : State) (r : SeqRef) (src : Nat) : (s.fatal r src).ground = s.ground := by simp [State.fatal]

@[simp] theorem State.unownedError_ground (s : State) (src addr : Nat) :
    (s.unownedError src addr).ground = s.ground := by simp [State.unownedError]

@[simp] theorem execUncorrectableError_ground (loc : UeLoc) (s : State) : NextIs s.Stays (execUncorrectableError loc s) := by
  unfold execUncorrectableError; (repeat' split) <;> simp

end Sys2Proof.Machine

end

section

/-! PROOF. What counters, the debugger, the Ethernet transport and the scalar arithmetic leave of them (O3). -/

namespace Sys2Proof.Machine

theorem State.onCtr_ground {R : Ground → Prop} {s : State} (h : R s.ground) (k : Word) {f : State → Nat → State} (hf : ∀ k, R (f s k).ground) :
    R (s.onCtr k f).ground := by
  unfold State.onCtr
  split
  · simpa
  · exact hf _

@[simp] theorem execCtrrd_ground (g : Guard) (d a : SReg) (s : State) : NextIs s.Stays (execCtrrd g d a s) :=
  State.guarded_ground (f := fun s => s.onCtr (s.q.s a) _) (State.onCtr_ground (R := s.Stays) rfl _ fun _ => by simp) _ _

@[simp] theorem State.arm_ground (s : State) (a : Armed) : (s.arm a).ground = s.ground := by rfl

@[simp] theorem State.trigPlace_ground (s : State) (i : Instr) (bits : BitVec 512) (b c : SReg) :
    (s.trigPlace i bits b c).ground = s.ground := by simp [State.trigPlace]

@[simp] theorem execTrig_ground (g : Guard) (a b c : SReg) (s : State) : NextIs s.Stays (execTrig g a b c s) := by
  refine State.guarded_ground (f := fun s => s.onCtr (s.q.s b) _) (State.onCtr_ground (R := s.Stays) rfl _ fun _ => ?_) _ _
  refine State.atAddr_ground _ _ (State.accept_ground fun r h => ?_)
  have h := State.readG_ground h
  dsimp only
  split <;> simp [h]

@[simp] theorem execTrigRoom_ground (q : SeqRef) (s : State) : NextIs s.Stays (execTrigRoom q s) := by
  unfold execTrigRoom; (repeat' split) <;> simp

@[simp] theorem State.opFault_ground (s : State) (id cause peer : Nat) : (s.opFault id cause peer).ground = s.ground := by rfl

@[simp] theorem State.debugger_ground {s : State} {r : CmdRes} (hr : r.Is s.Stays) (h : Cmd) (ctx : Nat) :
    NextIs s.Stays (s.debugger h ctx r) := by
  unfold State.debugger; simp [hr]

@[simp] theorem State.atSaved_ground (s : State) (ctx : Nat) (d : DbgSel) (f : Slot → Slot) :
    (s.atSaved ctx d f).ground = s.ground := by rfl

@[simp] theorem State.haltEvent_ground (s : State) (ctx : Nat) (v : SavedSlot) :
    (s.haltEvent ctx v).ground = s.ground := by simp [State.haltEvent]

@[simp] theorem execDbghalt_ground (h : Cmd) (ctx : Nat) (sel : DbgSel) (s : State) : NextIs s.Stays (execDbghalt h ctx sel s) :=
  State.debugger_ground (whenOk_is (by simp [State.ground_foldl]) _ _) h ctx

@[simp] theorem execDbgresume_ground (h : Cmd) (ctx : Nat) (sel : DbgSel) (s : State) : NextIs s.Stays (execDbgresume h ctx sel s) :=
  State.debugger_ground (whenOk_is (by simp [State.ground_foldl]) _ _) h ctx

@[simp] theorem execDbgstep_ground (h : Cmd) (ctx slot : Nat) (x : Bool) (s : State) : NextIs s.Stays (execDbgstep h ctx slot x s) := by
  unfold execDbgstep; dsimp only; split <;> simp

@[simp] theorem State.lend_ground (s : State) (v : SavedSlot) : (s.lend v).ground = s.ground := by
  unfold State.lend; dsimp only; split <;> simp

@[simp] theorem State.takeBack_ground (s : State) (ctx : Nat) (v : SavedSlot) : (s.takeBack ctx v).ground = s.ground := by rfl

theorem State.dbgCsr_ground {u : State} {index : Nat} {w : Word} {t : State} (e : u.dbgCsr index w = some t) : t.ground = u.ground := by
  unfold State.dbgCsr at e
  split at e
  · dsimp only at e
    split at e
    · cases e; rfl
    · split at e
      · cases e
      · cases e; simp
  · cases e; simp

theorem State.onSlot_is {s : State} {ctx k : Nat} {f : State → Nat → State × List Byte} (hf : ∀ s k, (f s k).1.ground = s.ground) :
    (s.onSlot ctx k f).Is s.Stays := by
  unfold State.onSlot
  split
  · simp [hf]
  · split <;> simp [hf]

theorem State.dbgTile_ground {s : State} {k index len : Nat} {w : Option (List Byte)} {d : DbgData} (e : s.dbgTile k index len w = some d) :
    d.s.ground = s.ground := by
  revert e; unfold State.dbgTile
  split
  · simp
  · split
    · simp
    · rw [Option.some.injEq]; rintro rfl; simp

theorem State.dbgRead_ground {s : State} {k : Nat} {x : Bool} {cls : DbgClass} {index len : Nat} {d : DbgData}
    (e : s.dbgRead k x cls index len = some d) : d.s.ground = s.ground := by
  have val : ∀ {c : Prop} [Decidable c] {b : List Byte}, (if c then some ({ s := s, data := b } : DbgData) else none) = some d → d.s.ground = s.ground := by
    intro c _ b h; split at h
    · cases h; rfl
    · cases h
  revert e; unfold State.dbgRead
  cases cls with
  | tile => exact State.dbgTile_ground
  | queue =>
    dsimp only
    split
    · split
      · exact val
      · simp
    · split
      · exact val
      · simp
  | _ => exact val

theorem State.dbgWrite_ground {s : State} {k : Nat} {x : Bool} {cls : DbgClass} {index : Nat} {data : List Byte} {d : DbgData}
    (e : s.dbgWrite k x cls index data = some d) : d.s.ground = s.ground := by
  have into : ∀ {u : Option State}, (∀ t, u = some t → t.ground = s.ground) → u.map (fun u => ({ s := u } : DbgData)) = some d → d.s.ground = s.ground := by
    intro u h e
    obtain ⟨t, ht, rfl⟩ := Option.map_eq_some_iff.1 e
    exact h t ht
  have onlyIf : ∀ {c : Bool} {u : State}, u.ground = s.ground → (if c then some u else none).map (fun u => ({ s := u } : DbgData)) = some d → d.s.ground = s.ground := by
    intro c u h
    refine into fun t e => ?_
    split at e
    · cases e; exact h
    · cases e
  have nth : ∀ {α : Type} {o : Option α} {f : α → State}, (∀ a, (f a).ground = s.ground) →
      (o.map f).map (fun u => ({ s := u } : DbgData)) = some d → d.s.ground = s.ground := by
    intro α o f h
    refine into fun t e => ?_
    obtain ⟨a, -, rfl⟩ := Option.map_eq_some_iff.1 e
    exact h a
  revert e; unfold State.dbgWrite
  cases cls with
  | csr =>
    dsimp only
    split
    · refine into fun t e => ?_
      obtain ⟨u, hu, rfl⟩ := Option.map_eq_some_iff.1 e
      exact (State.dbgCsr_ground hu :)
    · simp
  | tile => exact State.dbgTile_ground
  | queue =>
    dsimp only
    split
    · exact nth fun _ => by rfl
    · exact nth fun _ => by rfl
    · exact nth fun _ => by rfl
    · exact nth fun _ => by rfl
    · split
      · simp
      · split
        · simp
        · rw [Option.some.injEq]; rintro rfl; simp
  | bank => exact onlyIf (by simp)
  | _ => exact onlyIf (by rfl)

@[simp] theorem execDbgread_ground (h : Cmd) (ctx slot : Nat) (x : Bool) (cls : DbgClass) (index len : Nat) (s : State) :
    NextIs s.Stays (execDbgread h ctx slot x cls index len s) := by
  refine State.debugger_ground (whenOk_is (State.onSlot_is fun s k => ?_) _ _) h ctx
  split
  · rfl
  · next e => exact State.dbgRead_ground e

@[simp] theorem execDbgwrite_ground (h : Cmd) (ctx slot : Nat) (x : Bool) (cls : DbgClass) (index : Nat) (data : List Byte) (s : State) :
    NextIs s.Stays (execDbgwrite h ctx slot x cls index data s) := by
  refine State.debugger_ground (whenOk_is (State.onSlot_is fun s k => ?_) _ _) h ctx
  split
  · rfl
  · next e => exact State.dbgWrite_ground e

@[simp] theorem State.setEthPort_ground (s : State) (n : Nat) (p : EthPort) : (s.setEthPort n p).ground = s.ground := by rfl
@[simp] theorem State.pdcUse_ground (s : State) (k : Nat) (d : Pdc) : (s.pdcUse k d).ground = s.ground := by rfl
@[simp] theorem State.pdcTouch_ground (s : State) (port dest : Nat) : (s.pdcTouch port dest).ground = s.ground := by rfl

@[simp] theorem State.pktAnswer_ground (s : State) (port : Nat) (p : Pkt) (code : Nat) (data : List Byte) :
    (s.pktAnswer port p code data).ground = s.ground := by rfl

theorem State.rateTake_ground {s : State} {port dest bytes : Nat} {t : State} (e : s.rateTake port dest bytes = some t) :
    t.ground = s.ground := by
  unfold State.rateTake at e
  dsimp only at e
  split at e
  · cases e
  · cases e; rfl

@[simp] theorem State.respLeave_ground (s : State) (port dest : Nat) : (s.respLeave port dest).ground = s.ground := by
  unfold State.respLeave
  simp only []
  split
  · rfl
  · split
    · rfl
    · split
      · rfl
      · next h => simpa using State.rateTake_ground h

@[simp] theorem State.pktRespond_ground (s : State) (port : Nat) (p : Pkt) (data : List Byte) :
    (s.pktRespond port p data).ground = s.ground := by simp [State.pktRespond]

@[simp] theorem execPdcExpiry_ground (port node : Nat) (s : State) : NextIs s.Stays (execPdcExpiry port node s) := by
  unfold execPdcExpiry; dsimp only; split <;> simp

@[simp] theorem State.rateSeen_ground (s : State) (port dest : Nat) (echo : Bool) : (s.rateSeen port dest echo).ground = s.ground := by
  unfold State.rateSeen; dsimp only; split <;> simp

@[simp] theorem State.dropPkt_ground (s : State) (o : OutPkt) : (s.dropPkt o).ground = s.ground := by rfl
@[simp] theorem State.pktRelease_ground (s : State) (o : OutPkt) : (s.pktRelease o).ground = s.ground := by simp [State.pktRelease]

@[simp] theorem State.pktHeard_ground (s : State) (port : Nat) (o : OutPkt) (echo : Bool) :
    (s.pktHeard port o echo).ground = s.ground := by simp [State.pktHeard]

@[simp] theorem State.pktDone_ground (s : State) (port : Nat) (o : OutPkt) (echo : Bool) :
    (s.pktDone port o echo).ground = s.ground := by simp [State.pktDone]

@[simp] theorem execEthNack_ground (port : Nat) (p : Pkt) (s : State) : NextIs s.Stays (execEthNack port p s) := by
  unfold execEthNack; (repeat' split) <;> simp

@[simp] theorem execEthPacketSend_ground (port node : Nat) (s : State) : NextIs s.Stays (execEthPacketSend port node s) := by
  unfold execEthPacketSend
  simp only []
  split
  · simp
  · refine NextIs.ite (by simp) ?_
    split
    · simp
    · refine NextIs.ite (by simp) ?_
      split
      · simp
      · next h => simp [State.ground_foldl, State.rateTake_ground h]

@[simp] theorem execEthPacketResend_ground (port node tok : Nat) (s : State) : NextIs s.Stays (execEthPacketResend port node tok s) := by
  unfold execEthPacketResend; split <;> simp

@[simp] theorem execEthRateWindow_ground (port node : Nat) (s : State) : NextIs s.Stays (execEthRateWindow port node s) := by
  unfold execEthRateWindow
  dsimp only
  split
  · exact rfl
  · generalize BitVec.ult _ _ = soon
    cases soon
    · exact State.setEthPort_ground ..
    · exact rfl

@[simp] theorem binOp_ground (g : Guard) (d a b : SReg) (f : Word → Word → Word) (s : State) :
    NextIs s.Stays (binOp g d a b f s) := by simp [binOp]

@[simp] theorem unOp_ground (g : Guard) (d a : SReg) (f : Word → Word) (s : State) : NextIs s.Stays (unOp g d a f s) := by simp [unOp]

@[simp] theorem predOp_ground (g : Guard) (d a b : PReg) (f : Bool → Bool → Bool) (s : State) :
    NextIs s.Stays (predOp g d a b f s) := by simp [predOp]

@[simp] theorem State.retF_ground (s : State) (d : SReg) (r : Nat × Ev) : (s.retF d r).ground = s.ground := by simp [State.retF]
@[simp] theorem State.afterStep_ground (s : State) (q : SeqRef) : (s.afterStep q).ground = s.ground := by simp [State.afterStep]
@[simp] theorem State.setAgenda_ground (s : State) (a : List Move) : (s.setAgenda a).ground = s.ground := by rfl

end Sys2Proof.Machine

end

section

/-! PROOF. HBM in canonical form, and what keeps it so (O3). -/

namespace Sys2Proof.Machine

/-- HBM in canonical form, in the package `k`. -/
def Sound (k : Bool × Nat) (g : Ground) : Prop := g.1.wf = true ∧ g.2 = k

variable {k : Bool × Nat} {s : State}

theorem State.foldl_next {R : Ground → Prop} {α : Type} {f : State → α → State} (hf : ∀ s a, R s.ground → R (f s a).ground) (l : List α)
    {s : State} (h : R s.ground) : R (l.foldl f s).ground := by
  induction l generalizing s with
  | nil => exact h
  | cons a l ih => exact ih (hf _ _ h)

theorem State.accept_next {R : Ground → Prop} {α : Type} {x : Acc α} {f : α → State} (h : R s.ground)
    (hf : ∀ a, x = .ok a → R (f a).ground) : R (s.accept x f).ground := by
  cases x with
  | ok a => exact hf a rfl
  | trap t => simpa [State.accept] using h
  | stall => exact h

theorem State.atAddr_next {R : Ground → Prop} (h : R s.ground) (a : Word) (n : Nat) {f : State → State} (hf : R (f s).ground) :
    R (s.atAddr a n f).ground := by
  unfold State.atAddr; split
  · exact hf
  · simpa

theorem NextIs.mono {R R' : Ground → Prop} (hr : ∀ g, R g → R' g) {x : Host.Outcome State Fault Refusal} (h : NextIs R x) : NextIs R' x := by
  cases x with
  | next t => exact hr _ h
  | _ => trivial

/-- What stays is as sound as before. -/
theorem NextIs.of_stays {R : Ground → Prop} (h : R s.ground) {x : Host.Outcome State Fault Refusal} (hx : NextIs s.Stays x) : NextIs R x :=
  hx.mono fun _ e => e ▸ h

-- What the engines' accesses give.

section
variable {α β : Type} {P : α → Prop} {Q : β → Prop}

@[simp] theorem gives_ok (a : α) : Gives P (.ok a : Eng' α) ↔ P a := ⟨fun h => h a rfl, fun h _ e => by cases e; exact h⟩
@[simp] theorem gives_pure (a : α) : Gives P (pure a : Eng' α) ↔ P a := gives_ok a
@[simp] theorem gives_error (e : Stop) : Gives P (.error e : Eng' α) := fun _ h => by cases h
@[simp] theorem gives_engF : Gives P (engF : Eng' α) := gives_error _
@[simp] theorem gives_mchkF (c a : Nat) : Gives P (mchkF c a : Eng' α) := gives_error _

theorem Gives.bind {x : Eng' α} {f : α → Eng' β} (hx : Gives P x) (hf : ∀ a, P a → Gives Q (f a)) : Gives Q (x >>= f) := by
  cases x with
  | error e => exact gives_error e
  | ok a => exact hf a (hx a rfl)

theorem Gives.after {x : Eng' α} {f : α → Eng' β} (hf : ∀ a, Gives Q (f a)) : Gives Q (x >>= f) := by
  cases x with
  | error e => exact gives_error e
  | ok a => exact hf a

theorem Gives.ite {c : Prop} {_ : Decidable c} {x y : Eng' α} (hx : Gives P x) (hy : Gives P y) : Gives P (if c then x else y) := by
  split <;> assumption

theorem Gives.foldlM {f : α → β → Eng' α} (hf : ∀ a b, P a → Gives P (f a b)) (l : List β) {a : α} (h : P a) : Gives P (l.foldlM f a) := by
  induction l generalizing a with
  | nil => exact (gives_ok a).2 h
  | cons b l ih => exact (hf a b h).bind fun a h => ih h
end

-- Writes of HBM.

theorem State.takeLine_sound (h : Sound k s.ground) {key : BitVec 512} {whole : Nat → Bool} {line : Nat} :
    Sound k (s.takeLine key whole line).ground := by
  obtain ⟨hw, hk⟩ := h
  refine ⟨?_, hk⟩
  show Memory.wf (if _ then _ else _) = true
  split
  · exact Memory.wf_writeBytes _ _ _ hw
  · exact hw

theorem State.writeHbm_sound (h : Sound k s.ground) {pa : Nat} {bs : List Byte} {key : BitVec 512} :
    Sound k (s.writeHbm pa bs key).ground := by
  unfold State.writeHbm
  dsimp only
  split
  · exact h
  · obtain ⟨hw, hk⟩ := State.foldl_next (fun s l h => State.takeLine_sound (whole := fun l => covers 64 l pa bs.length) h) (lines64 pa bs.length) h
    exact ⟨Memory.wf_writeBytes _ _ _ hw, hk⟩

theorem State.storeG_sound (h : Sound k s.ground) {ctx : Nat} {va : Word} {n v : Nat} {kind : Access} {t : State}
    (e : s.storeG ctx va n v kind = .ok t) : Sound k t.ground := by
  obtain ⟨l, -, e⟩ := Acc.bind_ok.1 e
  obtain ⟨_, -, e⟩ := Acc.bind_ok.1 e
  cases e
  simpa using State.writeHbm_sound h

theorem State.writeG_sound {fuel : Nat} (h : Sound k s.ground) {ctx : Nat} {va : Word} {bs : List Byte} {o : Option Nat} {t : State}
    (e : s.writeG fuel ctx va bs o = .ok t) : Sound k t.ground := by
  induction fuel generalizing s va bs with
  | zero => cases e; exact h
  | succ fuel ih =>
    rw [State.writeG] at e
    split at e
    · cases e; exact h
    · obtain ⟨l, -, e⟩ := Acc.bind_ok.1 e
      obtain ⟨_, -, e⟩ := Acc.bind_ok.1 e
      exact ih (by simpa using State.writeHbm_sound h) e

theorem State.pinnedWrite_gives {n : Nat} (h : Sound k s.ground) {ctx : Nat} {va : Word} {bs : List Byte} :
    Gives (fun t : State => Sound k t.ground) (s.pinnedWrite n ctx va bs) := by
  induction n generalizing s va bs with
  | zero => exact (gives_ok s).2 h
  | succ n ih =>
    rw [State.pinnedWrite]
    refine Gives.ite ((gives_pure s).2 h) (Gives.after fun l => ih ?_)
    simpa using State.writeHbm_sound h

theorem State.writeMem_gives (h : Sound k s.ground) {q : QRec} {m : Mem} {n v : Nat} :
    Gives (fun t : State => Sound k t.ground) (s.writeMem q m n v) := by
  refine Gives.after fun _ => Gives.bind (P := fun t : State => Sound k t.ground) ?_ fun t ht => by simpa using ht
  cases m with
  | bank b off => exact Gives.ite gives_engF (by simpa)
  | ds off => simpa
  | tile off => exact Gives.ite (gives_error _) (by simpa)
  | g va => exact State.pinnedWrite_gives h
  | remote _ _ => exact gives_engF

theorem State.writeBlock_gives (h : Sound k s.ground) {q : QRec} {p : Place} {l : List (Nat × Nat)} :
    Gives (fun t : State => Sound k t.ground) (s.writeBlock q p l) := by
  cases p with
  | log6 b kk pos w => exact (State.writeMem_gives h).bind fun t ht => State.writeMem_gives ht
  | code m pos => exact State.writeMem_gives h
  | _ => exact gives_engF

/-- An issue has left its state sound. -/
def Iss.Ok (k : Bool × Nat) (x : Iss) : Prop := Sound k x.s.ground

theorem Iss.ok_mk {blk : Blocks} {evs : List Nat} {cov : List UeLoc} (h : Sound k s.ground) : Iss.Ok k ⟨s, blk, evs, cov⟩ := h

@[simp] theorem Iss.ok_iff {x : Iss} : x.Ok k ↔ Sound k x.s.ground := Iff.rfl

theorem Iss.put_gives {x : Iss} (h : x.Ok k) {q : QRec} {o : Opd} {f : Nat} {rm : Rm} {sat : Bool} {w : Int × Nat} :
    Gives (Iss.Ok k) (x.put q o f rm sat w) := by
  have hc : Sound k (x.s.scrub x.cov).ground := by simpa using h
  refine Gives.after fun p => ?_
  dsimp only
  split
  · exact (State.writeMem_gives hc).bind fun t ht => (gives_pure _).2 ht
  · exact (State.writeBlock_gives hc).bind fun t ht => (gives_pure _).2 ht
  · exact gives_engF

theorem Iss.putAll_gives {x : Iss} (h : x.Ok k) {q : QRec} {o : Opd} {f : Nat} {rm : Rm} {sat : Bool} {ws : Writes} :
    Gives (Iss.Ok k) (x.putAll q o f rm sat ws) :=
  Gives.foldlM (P := Iss.Ok k) (fun _ _ hx => Iss.put_gives hx) _ h

theorem Iss.putRaw_gives {x : Iss} (h : x.Ok k) {q : QRec} {o : Opd} {f : Nat} {i : Int} {v : Nat} :
    Gives (Iss.Ok k) (x.putRaw q o f i v) := by
  have hc : Sound k (x.s.scrub x.cov).ground := by simpa using h
  refine Gives.after fun p => ?_
  cases p with
  | bytes m n => exact (State.writeMem_gives hc).bind fun t ht => (gives_pure _).2 ht
  | _ => exact gives_engF

theorem Iss.putRaws_gives {x : Iss} (h : x.Ok k) {q : QRec} {o : Opd} {f : Nat} {ws : Writes} :
    Gives (Iss.Ok k) (x.putRaws q o f ws) :=
  Gives.foldlM (P := Iss.Ok k) (fun _ _ hx => Iss.putRaw_gives hx) _ h

/-- A body of an issue leaves sound states sound. -/
def Body.Ok (k : Bool × Nat) (b : Body) : Prop := ∀ s q i blk, Sound k s.ground → Gives (Iss.Ok k) (b s q i blk)

/-- An issue keeps what its start and its body keep. -/
theorem State.issue_sound (h : Sound k s.ground) {e : Eng} {slot : Nat} {want : QRec → Bool} {cost : QRec → Nat → Nat} {body : Body}
    {wake : State → QRec → Nat → State × Nat} (hwake : ∀ s q i, (wake s q i).1.ground = s.ground) (hb : body.Ok k) :
    NextIs (Sound k) (s.issue e slot want cost body wake) := by
  unfold State.issue
  split
  · exact h
  next r _ =>
    refine NextIs.ite h ?_
    dsimp only
    have hs : Sound k (((wake s r.q r.next).1.serve e slot).chargeT slot r.q.ctx (engRes e) (coreOf slot) (cost r.q r.next + (wake s r.q r.next).2)).ground := by
      simpa [hwake] using h
    have hx := hb _ r.q r.next r.blk hs
    split
    · exact h
    · simpa [hwake] using h
    · next x e => simpa using hx x e

end Sys2Proof.Machine

end

section

/-! PROOF. The auction engine (O3). -/

namespace Sys2Proof.Machine

variable {k : Bool × Nat} {s : State}

theorem State.aePut_gives (h : Sound k s.ground) {q : QRec} {ws : List AeWrite} :
    Gives (fun t : State => Sound k t.ground) (s.aePut q ws) :=
  Gives.foldlM (P := fun t : State => Sound k t.ground) (fun _ _ ht => State.writeMem_gives ht) _ (by simpa)

theorem State.aeUnload_sound (h : Sound k s.ground) {d : Nat} {q : QRec} : Sound k (s.aeUnload d q).ground := by
  unfold State.aeUnload
  dsimp only
  split
  · exact h
  · split
    · exact h
    · split
      · exact h
      · split
        · next t e => exact State.aePut_gives h t e
        · exact h

theorem State.aePartial_sound (h : Sound k s.ground) {q : QRec} {ws : List AeWrite} : Sound k (s.aePartial q ws).ground := by
  refine State.foldl_next (fun s w h => ?_) ws h
  split
  · split
    · next t e => exact State.writeMem_gives h t e
    · exact h
  · exact h

theorem State.aeRow_sound (h : Sound k s.ground) (slot op : Nat) : NextIs (Sound k) (s.aeRow slot op) := by
  unfold State.aeRow
  split
  · exact h
  next r _ =>
    refine NextIs.ite h ?_
    have hs : Sound k ((s.aeUnload (dieOf (coreOf slot)) r.q).serve .ae slot).ground := by simpa using State.aeUnload_sound h
    cases (s.aeUnload (dieOf (coreOf slot)) r.q).aeIssue r.q (op == 1) (r.next + 1) with
    | stall => exact h
    | ended => simpa
    | fault c v a =>
      refine NextIs.ite h ?_
      generalize (s.aeUnload (dieOf (coreOf slot)) r.q).serve .ae slot = u at hs ⊢
      cases a <;> simpa
    | round a b ws =>
      refine NextIs.ite h ?_
      dsimp only
      generalize (s.aeUnload (dieOf (coreOf slot)) r.q).serve .ae slot = u at hs ⊢
      have hc : Sound k (u.aeCharge slot r a).ground := by simpa
      split
      · next t e => simpa using State.aePut_gives hc t e
      · exact h
      · simpa using State.aePartial_sound hc

-- Trigger counters, and the end of a collective.

theorem State.collSettle_sound (h : Sound k s.ground) {id : Nat} : Sound k (s.collSettle id).ground := by
  unfold State.collSettle
  split
  · exact h
  · split
    · exact h
    · split
      · exact h
      · split
        · exact h
        · simpa
        · next t e => simpa using State.writeG_sound h e

theorem State.collsSettle_sound (h : Sound k s.ground) {p : Coll → Bool} : Sound k (s.collsSettle p).ground :=
  State.foldl_next (fun _ _ h => State.collSettle_sound h) _ h

theorem State.ctrUpdate_sound (h : Sound k s.ground) {c n : Nat} {f : Ctr → Ctr} : Sound k (s.ctrUpdate c n f).ground :=
  State.collsSettle_sound (by simpa)

theorem State.ctrRaise_sound (h : Sound k s.ground) {c n inc : Nat} : Sound k (s.ctrRaise c n inc).ground := by
  unfold State.ctrRaise
  split
  · exact h
  · exact State.ctrUpdate_sound h

theorem State.ctrPoison_sound (h : Sound k s.ground) {c n : Nat} : Sound k (s.ctrPoison c n).ground := by
  unfold State.ctrPoison
  split
  · exact h
  · exact State.ctrUpdate_sound h

end Sys2Proof.Machine

end

section

/-! PROOF. The issues of MX (O3). -/

namespace Sys2Proof.Machine

variable {k : Bool × Nat} {s : State}

theorem ldwB_ok : ldwB.Ok k := fun _ _ _ _ h => Gives.after fun _ => (gives_pure _).2 (by simpa)

theorem mmB_ok : mmB.Ok k := by
  intro s q i blk h
  unfold mmB
  dsimp only
  refine Gives.after fun _ => Gives.after fun _ => (gives_pure _).2 ?_
  simpa

theorem acrdB_ok : acrdB.Ok k := fun s q i blk h =>
  (Iss.putAll_gives (Iss.ok_mk h)).bind fun x hx => Gives.ite ((gives_pure _).2 (by simpa using hx)) ((gives_pure _).2 hx)

theorem acclrB_ok : acclrB.Ok k := fun _ _ _ _ h => (gives_ok _).2 (by simpa)

theorem hadB_ok : hadB.Ok k := fun _ _ _ _ h => Gives.after fun _ => Iss.putAll_gives (Iss.ok_mk h)

theorem bswB_ok : bswB.Ok k := by
  intro s q i blk h
  unfold bswB
  dsimp only
  refine Gives.after fun _ => Gives.ite gives_engF (Gives.ite ((gives_pure _).2 h) (Gives.ite gives_engF ?_))
  refine Gives.after fun _ => Gives.after fun _ => Gives.after fun _ => (gives_pure _).2 ?_
  simpa

theorem State.mxRow_sound (h : Sound k s.ground) {body : Body} (hb : body.Ok k) (slot op : Nat) : NextIs (Sound k) (s.mxRow slot op body) :=
  State.issue_sound h (fun _ _ _ => rfl) hb

-- The issues of VX.

theorem vPut_gives (h : Sound k s.ground) {q : QRec} {blk : Blocks} {f : Nat} {evs : List Nat} {ws : Writes} :
    Gives (Iss.Ok k) (vPut s q blk f evs ws) :=
  Iss.putAll_gives (Iss.ok_mk h)

theorem vTile_ok (f : Nat) (at_ : QRec → Nat → Nat → Nat → Int) (res : State → QRec → Nat → Nat → Nat → Eng' (Nat × List Nat)) :
    (vTile f at_ res).Ok k := fun _ _ _ _ h => Gives.after fun _ => vPut_gives h

theorem vMap_ok (n : Nat) (g : QRec → List Nat → Elem) : (vMap n g).Ok k := fun s q i blk h => vTile_ok _ _ _ s q i blk h

theorem vReduce_ok (f : QRec → Nat) (g : QRec → List (Nat × Nat) → Nat × List Nat) : (vReduce f g).Ok k :=
  fun _ _ _ _ h => Gives.after fun _ => vPut_gives h

theorem vcmpB_ok : vcmpB.Ok k := fun _ _ _ _ h => Gives.after fun _ => (gives_pure _).2 (by simpa)

theorem vselB_ok : vselB.Ok k := by
  intro s q i blk h
  unfold vselB
  exact vTile_ok _ _ _ s q i blk h

theorem vcvtB_ok : vcvtB.Ok k := fun s q i blk h => vTile_ok _ _ _ s q i blk h

theorem vql6B_ok : vql6B.Ok k := fun _ _ _ _ h => Gives.after fun _ => (vPut_gives h).bind fun _ hx =>
  Gives.ite ((gives_pure _).2 hx) (Gives.foldlM (P := Iss.Ok k) (fun _ _ hx => Iss.putRaw_gives hx) _ hx)

theorem vscanB_ok : vscanB.Ok k := fun _ _ _ _ h => Gives.after fun _ => vPut_gives h

theorem vpermB_ok : vpermB.Ok k := fun s q i blk h => Gives.after fun _ =>
  (vTile_ok _ _ _ s q i blk h).bind fun _ hx => (gives_pure _).2 hx

theorem vtrnB_ok : vtrnB.Ok k := fun s q i blk h => vTile_ok _ _ _ s q i blk h

theorem vbcastB_ok : vbcastB.Ok k := fun s q i blk h => vTile_ok _ _ _ s q i blk h

theorem vmoveB_ok : vmoveB.Ok k := fun _ _ _ _ h => Gives.after fun _ => Iss.putRaws_gives (Iss.ok_mk h)

theorem vmovB_ok : vmovB.Ok k := by
  intro s q i blk h
  unfold vmovB
  split
  · exact vMap_ok _ _ s q i blk h
  · exact Gives.after fun _ => (State.writeMem_gives h).bind fun _ ht => (gives_pure _).2 ht
  · exact Gives.after fun _ => Gives.after fun _ => (gives_pure _).2 (by simpa)

theorem vlog2B_ok : vlog2B.Ok k := fun s q i blk h => vTile_ok _ _ _ s q i blk h

theorem State.vxRow_sound (h : Sound k s.ground) {body : Body} (hb : body.Ok k) (slot op : Nat) : NextIs (Sound k) (s.vxRow slot op body) :=
  State.issue_sound h State.vWake_ground hb

end Sys2Proof.Machine

end

section

/-! PROOF. Requests at their target (O3). -/

namespace Sys2Proof.Machine

variable {k : Bool × Nat} {s : State}

theorem State.reduceInto_gives (h : Sound k s.ground) {ctx : Nat} {dst : Word} {op f : Nat} {disp : Word} {data : List Byte} :
    Gives (fun t : State => Sound k t.ground) (s.reduceInto ctx dst op f disp data) := by
  unfold State.reduceInto
  refine Gives.after fun b => (State.pinnedWrite_gives h).bind fun t ht => (gives_pure _).2 ?_
  exact State.foldl_next (fun s i h => by simpa) _ ht

theorem State.writeData_gives (h : Sound k s.ground) {r : Req} {va : Word} : Gives (fun t : State => Sound k t.ground) (s.writeData r va) :=
  Gives.ite (State.pinnedWrite_gives h)
    (Gives.foldlM (P := fun t : State => Sound k t.ground) (fun _ _ h => State.pinnedWrite_gives h) _ h)

theorem State.applyData_gives (h : Sound k s.ground) {r : Req} : Gives (fun t : State => Sound k t.ground) (s.applyData r) := by
  unfold State.applyData
  cases r.args with
  | none => exact State.writeData_gives h
  | some a => exact Gives.ite (State.reduceInto_gives h) (State.writeData_gives h)

theorem State.applyFlag_gives (h : Sound k s.ground) {r : Req} : Gives (fun t : State => Sound k t.ground) (s.applyFlag r) := by
  unfold State.applyFlag
  split
  · exact (gives_ok s).2 h
  · exact Gives.after fun _ => State.pinnedWrite_gives h

theorem State.applyCtr_sound (h : Sound k s.ground) {r : Req} : Sound k (s.applyCtr r).ground := by
  unfold State.applyCtr
  split
  · exact State.ctrRaise_sound h
  · exact h

/-- Where the state of an applied request stands. -/
def Applied.Is (R : Ground → Prop) : Applied → Prop
  | .stall => True
  | .done s => R s.ground
  | .failed s _ _ => R s.ground

@[simp] theorem Applied.is_done (R : Ground → Prop) (t : State) : (Applied.done t).Is R ↔ R t.ground := Iff.rfl
@[simp] theorem Applied.is_failed (R : Ground → Prop) (t : State) (c : Nat) (v : Word) : (Applied.failed t c v).Is R ↔ R t.ground := Iff.rfl

theorem State.apply_is (h : Sound k s.ground) (r : Req) : (s.apply r).Is (Sound k) := by
  unfold State.apply
  split
  · trivial
  · exact h
  · next t e =>
    have ht := State.applyData_gives h t e
    split
    · trivial
    · exact ht
    · next u e => exact State.applyCtr_sound (State.applyFlag_gives ht u e)

theorem State.stashWrite_sound (h : Sound k s.ground) {i : Nat} {e : StashEntry} : Sound k (s.stashWrite i e).ground :=
  State.writeHbm_sound (by simpa)

theorem State.takeWrite_sound (h : Sound k s.ground) {r : Req} {net loc : Bool} {u : State × Ans} (e : s.takeWrite r net loc = some u) :
    Sound k u.1.ground := by
  revert e; unfold State.takeWrite
  dsimp only
  split
  · rintro ⟨⟩; exact h
  · rintro ⟨⟩; exact h
  · split
    · split
      · rintro ⟨⟩; exact h
      · split
        · rintro ⟨⟩
        · rintro ⟨⟩; simpa
        · rintro ⟨⟩
          dsimp only; split <;> simpa using State.stashWrite_sound h
    · have ha := State.apply_is h r
      split
      · rintro ⟨⟩
      · next e => rintro ⟨⟩; rw [e] at ha; simpa using ha
      · next e => rintro ⟨⟩; rw [e] at ha; dsimp only; split <;> simpa using ha

theorem State.takeAmo_sound (h : Sound k s.ground) {ctx win off : Nat} {a : List Byte} {net : Bool} {u : State × Ans}
    (e : s.takeAmo ctx win off a net = some u) : Sound k u.1.ground := by
  revert e; unfold State.takeAmo
  generalize (if byteAt a 1 = 4 then 4 else 8) = n
  dsimp only
  split
  · rintro ⟨⟩
  · next e => rintro ⟨⟩; rw [State.takeRead_ground e]; exact h
  · split
    · rintro ⟨⟩; exact h
    · split
      · next t e => rintro ⟨⟩; exact State.pinnedWrite_gives h t e
      · rintro ⟨⟩
      · rintro ⟨⟩; simpa

theorem State.target_sound (h : Sound k s.ground) {src : Nat} {m : Msg} {net loc kept : Bool} {u : State × Ans}
    (e : s.target src m net loc kept = some u) : Sound k u.1.ground := by
  revert e; unfold State.target
  split
  · exact State.takeWrite_sound h
  · exact State.takeWrite_sound h
  · exact State.takeWrite_sound h
  · intro e
    obtain ⟨r, hr, rfl⟩ := Option.map_eq_some_iff.1 e
    split
    · rw [State.takeRead_ground hr]; exact h
    · exact h
  · exact State.takeAmo_sound h
  · intro e; rw [State.takePoll_ground e]; exact h
  · rintro ⟨⟩; exact h

theorem State.stashApply_sound (h : Sound k s.ground) {ctx i : Nat} {e : StashEntry} : Sound k (s.stashApply ctx i e).ground := by
  unfold State.stashApply
  dsimp only
  split
  · simpa
  · have ha := State.apply_is h e.req
    split
    · next e => rw [e] at ha; simpa using ha
    · next e => rw [e] at ha; simpa using ha
    · exact h

theorem State.stashAll_sound (h : Sound k s.ground) {ctx : Nat} (l : List (Nat × StashEntry)) : Sound k (s.stashAll ctx l).ground := by
  induction l generalizing s with
  | nil => exact h
  | cons e l ih =>
    rw [State.stashAll]
    have ht := State.stashApply_sound h (ctx := ctx) (i := e.1) (e := e.2)
    split
    · exact ht
    · exact ih ht

end Sys2Proof.Machine

end

section

/-! PROOF. The issues of a copy channel (O3). -/

namespace Sys2Proof.Machine

variable {k : Bool × Nat} {s : State}

/-- A piece of an issue leaves what it is given sound. -/
def StepOk (k : Bool × Nat) (f : Iss → Eng' Iss) : Prop := ∀ x, x.Ok k → Gives (Iss.Ok k) (f x)

theorem cxElem_ok (q : QRec) (t : Int × Int) : StepOk k (cxElem q t) := fun _ hx =>
  Gives.after fun _ => (Iss.put_gives hx).bind fun _ hy => (gives_pure _).2 hy

theorem cxFillElem_ok (q : QRec) (t : Int × Int) : StepOk k (cxFillElem q t) := by
  intro x hx
  unfold cxFillElem
  split
  · exact Iss.put_gives hx
  · exact gives_engF

theorem State.setBlockAt_gives (h : Sound k s.ground) {q : QRec} {o : Opd} {i : Int} {codes : Nat} :
    Gives (fun t : State => Sound k t.ground) (s.setBlockAt q o i codes) := by
  refine Gives.after fun p => ?_
  cases p with
  | log6 => exact State.writeMem_gives h
  | code => exact State.writeMem_gives h
  | _ => exact gives_engF

theorem cxBlockMove_ok (q : QRec) (t : Int × Int) : StepOk k (cxBlockMove q t) := by
  intro x hx
  have hc : Sound k (x.s.scrub x.cov).ground := by simpa using hx
  refine Gives.after fun _ => (State.setBlockAt_gives hc).bind fun t ht => Gives.after fun _ => Gives.after fun _ => ?_
  split
  · exact Gives.after fun _ => (State.writeMem_gives ht).bind fun u hu => (gives_pure _).2 hu
  · exact (gives_pure _).2 ht

theorem State.cxSteps_ok (q : QRec) (i : Nat) (ixs : Option Memory) : ∀ f ∈ (s.cxSteps q i ixs).1, StepOk k f := by
  unfold State.cxSteps
  dsimp only
  split
  · exact List.forall_mem_map.2 fun t _ => cxBlockMove_ok q t
  · split
    · exact List.forall_mem_map.2 fun t _ => cxFillElem_ok q t
    · exact List.forall_mem_map.2 fun t _ => cxElem_ok q t

theorem runSteps_ok {x : Iss} (hx : x.Ok k) {fs : List (Iss → Eng' Iss)} (hf : ∀ f ∈ fs, StepOk k f) : (runSteps x fs).1.Ok k := by
  induction fs generalizing x with
  | nil => exact hx
  | cons f fs ih =>
    rw [runSteps]
    split
    · exact hx
    · next y e => exact ih (hf f (List.mem_cons_self ..) x hx y e) fun g hg => hf g (List.mem_cons_of_mem _ hg)

theorem runSome_ok {x : Iss} (hx : x.Ok k) {fs : List (Iss → Eng' Iss)} (hf : ∀ f ∈ fs, StepOk k f) : (runSome x fs).Ok k := by
  refine List.foldlRecOn (motive := fun y : Iss => y.Ok k) fs.zipIdx _ hx fun y hy e he => ?_
  obtain ⟨f, i⟩ := e
  dsimp only
  split
  · split
    · next z e => exact hf f (List.fst_mem_of_mem_zipIdx he) y hy z e
    · exact hy
  · exact hy

/-- Where the state of a message offered to its connection stands. -/
def Sent.Is (R : Ground → Prop) : Sent → Prop
  | .ok s => R s.ground
  | .full _ => True
  | .down s => R s.ground

@[simp] theorem Sent.is_ok (R : Ground → Prop) (t : State) : (Sent.ok t).Is R ↔ R t.ground := Iff.rfl
@[simp] theorem Sent.is_down (R : Ground → Prop) (t : State) : (Sent.down t).Is R ↔ R t.ground := Iff.rfl

theorem State.fabSend_is {R : Ground → Prop} (h : R s.ground) (m : Msg) (ctx : Nat) (own : Owner) : (s.fabSend m ctx own).Is R := by
  unfold State.fabSend
  dsimp only
  split
  · exact h
  · split
    · simpa
    · split
      · trivial
      · rw [Sent.is_ok]; split <;> simpa

/-- Where the state of a channel's message stands. -/
def CxSent.Is (R : Ground → Prop) : CxSent → Prop
  | .wait s => R s.ground
  | .now s _ => R s.ground
  | .full _ => True
  | .later => True
  | .fault s => R s.ground

@[simp] theorem CxSent.is_wait (R : Ground → Prop) (t : State) : (CxSent.wait t).Is R ↔ R t.ground := Iff.rfl
@[simp] theorem CxSent.is_now (R : Ground → Prop) (t : State) (d : List Byte) : (CxSent.now t d).Is R ↔ R t.ground := Iff.rfl
@[simp] theorem CxSent.is_fault (R : Ground → Prop) (t : State) : (CxSent.fault t).Is R ↔ R t.ground := Iff.rfl

theorem localSent_is {R : Ground → Prop} {x : Option (State × Ans)} (h : ∀ u, x = some u → R u.1.ground) : (localSent x).Is R := by
  unfold localSent
  split
  · trivial
  all_goals have := h _ rfl
  · exact this
  · exact this
  · split
    · trivial
    · exact this
  · trivial

theorem State.cxSend_is (h : Sound k s.ground) (ctx : Nat) (own : Owner) (m : CxMsg) : (s.cxSend ctx own m).Is (Sound k) := by
  unfold State.cxSend
  dsimp only
  split
  · split
    · exact localSent_is fun u e => State.target_sound h e
    · have hf := State.fabSend_is h (s.request ctx (if m.data.isSome then 1 else 2) m.addr m.len [] (m.data.getD []) m.flag) ctx own
      split
      · next e => rw [e] at hf; exact hf
      · trivial
      · next e => rw [e] at hf; exact hf
  · split
    · exact h
    · exact h
    · exact localSent_is fun u e => State.target_sound h e
    · simpa

theorem State.cxArrive_gives (h : Sound k s.ground) {r : Run} {core ch i : Nat} :
    Gives (fun u : Iss × Run => u.1.Ok k) (s.cxArrive r core ch i) := by
  unfold State.cxArrive
  dsimp only
  refine Gives.after fun _ => ?_
  split
  · split
    · refine Gives.bind (P := Iss.Ok k) (Gives.foldlM (P := Iss.Ok k) (fun x t hx => ?_) _ (Iss.ok_mk h)) fun x hx => (gives_pure _).2 hx
      have hc : Sound k (x.s.scrub x.cov).ground := by simpa using hx
      exact Gives.after fun _ => (State.setBlockAt_gives hc).bind fun u hu => (gives_pure _).2 hu
    · exact (Iss.putAll_gives (Iss.ok_mk h)).bind fun x hx => (gives_pure _).2 hx
  · refine Gives.after fun _ => ?_
    refine Gives.bind (P := fun u : State × Run => Sound k u.1.ground) (Gives.foldlM (P := fun u : State × Run => Sound k u.1.ground)
      (fun u e hu => ?_) _ h) fun u hu => (gives_pure _).2 hu
    have hs := State.cxSend_is hu r.q.ctx (.record core ch r.q.serial i (2 ^ 20 + e.2)) e.1
    split
    · next e' => rw [e'] at hs; exact (gives_ok _).2 hs
    · next e' => rw [e'] at hs; exact (gives_ok _).2 hs
    · exact gives_engF

-- The answer of a remote operation.

theorem State.atRun_next {R : Ground → Prop} (h : R s.ground) {core ch serial : Nat} {f : Run → State × Run} (hf : ∀ r, R (f r).1.ground) :
    R (s.atRun core ch serial f).ground := by
  unfold State.atRun
  split
  · next r _ =>
    split
    · simpa using hf r
    · exact h
  · exact h

theorem State.settleOk_sound (h : Sound k s.ground) {own : Owner} {addr : Word} {data : List Byte} {t : State}
    (e : s.settleOk own addr data = some t) : Sound k t.ground := by
  revert e; unfold State.settleOk
  split
  · rintro ⟨⟩; exact h
  · rintro ⟨⟩; exact h
  · rintro ⟨⟩; split <;> simpa
  · rintro ⟨⟩; simpa
  · split
    · rintro ⟨⟩; exact h
    · split
      · rintro ⟨⟩; exact h
      · dsimp only
        split
        · rintro ⟨⟩; exact State.atRun_next h fun _ => by simpa
        · split
          · rintro ⟨⟩
          · rintro ⟨⟩; exact State.atRun_next h fun _ => by simpa
          · next x r e =>
            have hx := State.cxArrive_gives h _ e
            rintro ⟨⟩; exact State.atRun_next h fun _ => by simpa using hx

end Sys2Proof.Machine

end

section

/-! PROOF. Stores, remote accesses and atomics of a sequencer (O3). -/

namespace Sys2Proof.Machine

variable {k : Bool × Nat} {s : State}

/-- A guarded instruction is sound where its effect is. -/
theorem guarded_sound (h : Sound k s.ground) {g : Guard} {f : State → State} {n : Nat} (hf : Sound k (f s).ground) :
    NextIs (Sound k) (s.guarded g f n) := State.guarded_next (R := Sound k) h hf g n

theorem atAddr_sound (h : Sound k s.ground) {a : Word} {n : Nat} {f : State → State} (hf : Sound k (f s).ground) :
    Sound k (s.atAddr a n f).ground := State.atAddr_next (R := Sound k) h a n hf

theorem accept_sound {α : Type} (h : Sound k s.ground) {x : Acc α} {f : α → State} (hf : ∀ a, x = .ok a → Sound k (f a).ground) :
    Sound k (s.accept x f).ground := State.accept_next (R := Sound k) h hf

theorem execStg_sound (g : Guard) (m : MemOp) (h : Sound k s.ground) : NextIs (Sound k) (execStg g m s) :=
  guarded_sound h (atAddr_sound h (accept_sound h fun t e => by simpa using State.storeG_sound h e))

theorem State.askF_sound (h : Sound k s.ground) {i : Instr} {op : Nat} {a : Word} {n : Nat} {args : List Byte} {f : State → Nat → State}
    (hf : ∀ s v, (f s v).ground = s.ground) : Sound k (s.askF i op a n args f).ground := by
  unfold State.askF
  dsimp only
  split
  · exact State.served_ground (R := Sound k) h (fun u e => State.target_sound h e) hf
  · have hs := State.fabSend_is (R := Sound k) (s := { s with serial := s.serial + 1 }) h (s.request s.cx op a n args []) s.cx (.load s.cur s.serial)
    split
    · next e => rw [e] at hs; simpa using hs
    · simpa
    · next e => rw [e] at hs; simpa using hs

theorem State.putF_sound (h : Sound k s.ground) {i : Instr} {a : Word} {n v : Nat} {flag : Option Word} :
    Sound k (s.putF i a n v flag).ground := by
  unfold State.putF
  dsimp only
  split
  · exact State.servedStore_ground (R := Sound k) h fun u e => State.target_sound h e
  · have hs := State.fabSend_is h (s.request s.cx 1 a n [] (bytesOfLE n v) flag) s.cx (.store s.uid s.cur.x a)
    split
    · next e => rw [e] at hs; simpa using hs
    · simpa
    · next e => rw [e] at hs; simpa using hs

theorem State.askEth_sound (h : Sound k s.ground) {i : Instr} {host : Bool} {a : Word} {n : Nat} {d : SReg} :
    Sound k (s.askEth i host a n d).ground := by
  unfold State.askEth
  split
  · simpa
  · simpa
  · exact State.served_ground (R := Sound k) h (fun u e => State.target_sound h e) fun s v => by simp
  · simpa

theorem State.putEth_sound (h : Sound k s.ground) {i : Instr} {host : Bool} {a : Word} {n v : Nat} :
    Sound k (s.putEth i host a n v).ground := by
  unfold State.putEth
  split
  · simpa
  · simpa
  · exact State.servedStore_ground (R := Sound k) h fun u e => State.target_sound h e
  · simpa

theorem execLdf_sound (g : Guard) (m : MemOp) (h : Sound k s.ground) : NextIs (Sound k) (execLdf g m s) :=
  guarded_sound h (atAddr_sound h (State.askF_sound h fun s v => by simp))

theorem execStf_sound (g : Guard) (m : MemOp) (h : Sound k s.ground) : NextIs (Sound k) (execStf g m s) :=
  guarded_sound h (atAddr_sound h (State.putF_sound h))

theorem execStfFlag_sound (g : Guard) (m : MemOp) (h : Sound k s.ground) : NextIs (Sound k) (execStfFlag g m s) := by
  refine guarded_sound h (atAddr_sound h (atAddr_sound h ?_))
  split
  · simpa
  · exact State.putF_sound h

theorem execLdn_sound (g : Guard) (m : MemOp) (h : Sound k s.ground) : NextIs (Sound k) (execLdn g m s) :=
  guarded_sound h (atAddr_sound h (State.askEth_sound h))

theorem execLdh_sound (g : Guard) (m : MemOp) (h : Sound k s.ground) : NextIs (Sound k) (execLdh g m s) :=
  guarded_sound h (atAddr_sound h (State.askEth_sound h))

theorem execStn_sound (g : Guard) (m : MemOp) (h : Sound k s.ground) : NextIs (Sound k) (execStn g m s) :=
  guarded_sound h (atAddr_sound h (State.putEth_sound h))

theorem execSth_sound (g : Guard) (m : MemOp) (h : Sound k s.ground) : NextIs (Sound k) (execSth g m s) :=
  guarded_sound h (atAddr_sound h (State.putEth_sound h))

theorem State.amoG_sound (h : Sound k s.ground) {ctx : Nat} {a : Word} {n op x y : Nat} {r : Nat × State}
    (e : s.amoG ctx a n op x y = .ok r) : Sound k r.2.ground := by
  obtain ⟨l, -, e⟩ := Acc.bind_ok.1 e
  obtain ⟨_, -, e⟩ := Acc.bind_ok.1 e
  cases e
  dsimp only
  rw [State.chargeT_ground]
  split
  · exact State.writeHbm_sound h
  · exact h

theorem State.amoDoIt_sound (h : Sound k s.ground) {i : Instr} {f : AmoFields} {op : Nat} {y : Word} :
    Sound k (s.amoDoIt i f op y).ground := by
  refine atAddr_sound h ?_
  cases f.space with
  | ds => exact accept_sound h fun r e => by simpa [State.amoDs_ground e]
  | g => exact accept_sound h fun r e => by simpa using State.amoG_sound h e
  | f => exact State.askF_sound h fun s v => by simp

theorem execAmo_sound (g : Guard) (op : AmoOp) (f : AmoFields) (h : Sound k s.ground) : NextIs (Sound k) (execAmo g op f s) :=
  guarded_sound h (State.amoDoIt_sound h)

theorem execAmoCas_sound (g : Guard) (f : AmoFields) (r : SReg) (h : Sound k s.ground) : NextIs (Sound k) (execAmoCas g f r s) :=
  guarded_sound h (State.amoDoIt_sound h)

theorem execAmoClaim_sound (g : Guard) (f : AmoFields) (r : SReg) (h : Sound k s.ground) : NextIs (Sound k) (execAmoClaim g f r s) :=
  guarded_sound h (State.amoDoIt_sound h)

theorem State.pollDo_sound (h : Sound k s.ground) {g : Guard} {cc : PCond} {sp : ASpace} {wide : Bool} {d a b : SReg} :
    Sound k (s.pollDo g cc sp wide d a b).ground := by
  refine atAddr_sound h ?_
  cases sp with
  | ds => refine accept_sound h fun r e => ?_; dsimp only; split <;> simpa
  | g => refine accept_sound h fun r e => ?_; dsimp only; split <;> simpa [State.loadG_ground e]
  | f => exact State.askF_sound h fun s v => by simp

theorem execPoll_sound (g : Guard) (cc : PCond) (sp : ASpace) (wide : Bool) (d a b : SReg) (h : Sound k s.ground) :
    NextIs (Sound k) (execPoll g cc sp wide d a b s) := guarded_sound h (State.pollDo_sound (by simpa))

theorem execPollPass_sound (q : SeqRef) (h : Sound k s.ground) : NextIs (Sound k) (execPollPass q s) := by
  unfold execPollPass
  split
  · exact State.pollDo_sound (by simpa)
  · exact h

theorem execHst_sound (g : Guard) (d : HReg) (a : SReg) (spc : HSpace) (h : Sound k s.ground) : NextIs (Sound k) (execHst g d a spc s) := by
  refine guarded_sound h (atAddr_sound h ?_)
  cases spc with
  | g => exact accept_sound h fun t e => by simpa using State.storeG_sound h e
  | ds => exact accept_sound h fun t e => by simpa [State.storeDs_ground e]
  | sp => exact accept_sound h fun t e => by simpa [State.storeSp_ground e]

end Sys2Proof.Machine

end

section

/-! PROOF. The rows of CX (O3). -/

namespace Sys2Proof.Machine

variable {k : Bool × Nat} {s : State}

@[simp] theorem State.redFor_ground (s : State) (key : RedKey) (src : Nat) (m : Msg) (net loc : Bool) (task : Option Nat) :
    (s.redFor key src m net loc task).1.ground = s.ground := by
  unfold State.redFor
  split
  · rfl
  · split
    · simp
    · split <;> simp

theorem State.cxLocal_sound (h : Sound k s.ground) {core ch : Nat} {r : Run} : Sound k (s.cxLocal core ch r).ground := by
  unfold State.cxLocal
  have hx : Iss.Ok k { s := s.cxCharge r.q core r.next r.ixs, blk := r.blk, cov := s.cxCover r.q r.next r.ixs } := by simpa
  have hf := State.cxSteps_ok (k := k) (s := s) r.q r.next r.ixs
  have hy := runSteps_ok hx hf
  dsimp only
  split
  · simpa
  · have hz := fun n => runSome_ok hx (fs := (s.cxSteps r.q r.next r.ixs).1.take n) fun f hm => hf f (List.mem_of_mem_take hm)
    simpa using hz _
  · simpa using hy

theorem State.cxOffer_sound {core ch i : Nat} (ms : List CxMsg) (h : Sound k s.ground) {r : Run} :
    Sound k (State.cxOffer core ch i ms s r).1.ground := by
  induction ms generalizing s r with
  | nil => exact h
  | cons m ms ih =>
    rw [State.cxOffer]
    split
    · exact h
    · have hs := State.cxSend_is h r.q.ctx (.record core ch r.q.serial i r.part) m
      dsimp only
      split
      · next e => rw [e] at hs; exact ih hs
      · next e => rw [e] at hs; exact ih hs
      · exact h
      · exact h
      · next e => rw [e] at hs; exact hs

theorem State.cxPush_sound (h : Sound k s.ground) {core ch : Nat} {r : Run} : Sound k (s.cxPush core ch r).ground := by
  unfold State.cxPush
  have ho := State.cxOffer_sound (core := core) (ch := ch) (i := r.next) r.todo h (r := r)
  dsimp only
  split
  · simpa
  · simpa
  · split <;> simpa
  · split
    · simpa
    · split
      · simpa
      · split
        · simpa
        · simpa
        · next x r e => simpa using State.cxArrive_gives ho _ e

theorem State.cxRemote_sound (h : Sound k s.ground) {core ch : Nat} {r : Run} {sends : Eng' CxSends} {put : Bool} :
    Sound k (s.cxRemote core ch r sends put).ground := by
  unfold State.cxRemote
  split
  · simpa
  · simpa
  · exact State.cxPush_sound (by simpa)

theorem State.cxList_sound (h : Sound k s.ground) {core ch : Nat} {r : Run} : Sound k (s.cxList core ch r).ground := by
  unfold State.cxList
  split
  · simpa
  · simpa
  · exact State.cxPush_sound (by simpa)

theorem State.cxRow_sound (h : Sound k s.ground) (core ch op : Nat) : NextIs (Sound k) (s.cxRow core ch op) := by
  unfold State.cxRow
  split
  · exact h
  next r _ =>
    refine NextIs.ite h (NextIs.ite (State.cxPush_sound h) (NextIs.ite (by simpa) (NextIs.ite h (NextIs.ite (State.cxList_sound h) ?_))))
    have hs : Sound k (s.cxFilter r.q r r.next).2.1.ground := by simpa
    exact NextIs.ite (by simpa) (NextIs.ite (State.cxRemote_sound hs) (NextIs.ite (State.cxLocal_sound hs) (State.cxRemote_sound hs)))

end Sys2Proof.Machine

end

section

/-! PROOF. Tasks, edges, restores and launches (O3). -/

namespace Sys2Proof.Machine

variable {k : Bool × Nat} {s : State}

theorem State.tspawnPut_sound (h : Sound k s.ground) {g : Guard} {a : SReg} {qn : BitVec 8} {b : List Byte} :
    Sound k (s.tspawnPut g a qn b).ground := by
  unfold State.tspawnPut
  dsimp only
  split
  · split
    · simpa
    · refine accept_sound h fun t e => ?_
      have ht := State.writeG_sound h e
      split <;> simpa
  · simpa

theorem State.tspawnDo_sound (h : Sound k s.ground) {g : Guard} {a : SReg} {qn : BitVec 8} : Sound k (s.tspawnDo g a qn).ground := by
  unfold State.tspawnDo
  dsimp only
  split
  · split
    · simpa
    · refine atAddr_sound h (accept_sound h fun r e => ?_)
      have hr : Sound k r.2.ground := by simpa [State.readG_ground e]
      split
      · simpa
      · exact State.tspawnPut_sound hr
  · simpa

theorem execTspawn_sound (g : Guard) (a : SReg) (q : BitVec 8) (h : Sound k s.ground) : NextIs (Sound k) (execTspawn g a q s) :=
  guarded_sound h (State.tspawnDo_sound h)

theorem execTspawnRoom_sound (q : SeqRef) (h : Sound k s.ground) : NextIs (Sound k) (execTspawnRoom q s) := by
  unfold execTspawnRoom
  split
  · exact State.tspawnPut_sound (by exact h)
  · exact h

theorem State.epushDo_sound (h : Sound k s.ground) {g : Guard} {a : SReg} {en : BitVec 12} : Sound k (s.epushDo g a en).ground := by
  unfold State.epushDo
  dsimp only
  split
  · simpa
  · split
    · simpa
    · refine accept_sound h fun t e => ?_
      have ht : Sound k t.ground := by
        split at e
        · rw [State.storeDs_ground e]; exact h
        · exact State.storeG_sound h e
      split <;> simpa

theorem execEpush_sound (g : Guard) (a : SReg) (e : BitVec 12) (h : Sound k s.ground) : NextIs (Sound k) (execEpush g a e s) :=
  guarded_sound h (State.epushDo_sound h)

theorem execEpushRoom_sound (q : SeqRef) (h : Sound k s.ground) : NextIs (Sound k) (execEpushRoom q s) := by
  unfold execEpushRoom
  split
  · exact State.epushDo_sound (by exact h)
  · exact h

theorem State.restoreAll_sound (h : Sound k s.ground) {ctx : Nat} {cores : List Nat} {t : State} (e : s.restoreAll ctx cores = some t) :
    Sound k t.ground := by
  unfold State.restoreAll at e
  dsimp only at e
  split at e
  · cases e
  · obtain ⟨⟨u, bad⟩, hu, e⟩ := Option.bind_eq_some_iff.1 e
    have hg : u.ground = s.ground := foldlM_keeps (fun u : State × List (QRec × Word) => u.1.ground) (fun u x w hw => by
      obtain ⟨y, hy, rfl⟩ := Option.map_eq_some_iff.1 hw
      exact (State.restoreGrp_ground hy :)) _ hu
    have hs : Sound k (u.repinFaults bad).ground := by simpa [hg]
    split at e
    · cases e
    · cases e; simpa using State.stashAll_sound hs _

theorem execContextRestore_sound (ctx : Nat) (cores : List Nat) (h : Sound k s.ground) : NextIs (Sound k) (execContextRestore ctx cores s) := by
  unfold execContextRestore
  refine NextIs.ite h ?_
  have hs : Sound k (s.stashServe ctx (stashOrder (s.ctx ctx).stash)).1.ground := by simpa
  rw [nextIs_next]
  split
  · exact hs
  · split
    · next t e => exact State.restoreAll_sound hs e
    · exact State.foldl_next (fun s e h => by split <;> simpa) _ hs

theorem State.finishLaunch_sound (h : Sound k s.ground) {ctx : Nat} {hd : BitVec 2048} {code reissued : Nat} {info : EndInfo} {t : State}
    (e : s.finishLaunch ctx hd code reissued info = some t) : Sound k t.ground := by
  revert e; unfold State.finishLaunch
  dsimp only
  split
  · rintro ⟨⟩
  · next u e => rintro ⟨⟩; simpa using State.writeG_sound h e
  · rintro ⟨⟩
    split <;> simpa

theorem execLaunchEnd_sound (ctx : Nat) (h : Sound k s.ground) : NextIs (Sound k) (execLaunchEnd ctx s) := by
  have settled : ∀ {o : Option State}, (∀ t, o = some t → Sound k t.ground) →
      Sound k (match o with | some t => t.settleCtx ctx | none => s : State).ground := by
    intro o ho
    cases o with
    | none => exact h
    | some t => simpa using ho t rfl
  unfold execLaunchEnd
  split
  · exact h
  · have ht : Sound k ((s.groupsOf ctx).foldl (fun s e => s.settleGrp e.1) s).ground :=
      State.foldl_next (fun s e h => by simpa) _ h
    dsimp only
    split
    · exact h
    · refine NextIs.ite h ?_
      split
      · exact settled fun t e => State.finishLaunch_sound ht e
      · exact NextIs.ite (settled fun t e => State.finishLaunch_sound ht e) h

theorem execLaunchAccept_sound (ctx : Nat) (h : Sound k s.ground) : NextIs (Sound k) (execLaunchAccept ctx s) := by
  have refused : ∀ {t : State} {hd : BitVec 2048} {code : Nat}, Sound k t.ground → Sound k ((t.finishLaunch ctx hd code 0 {}).getD s).ground := by
    intro t hd code ht
    cases e : t.finishLaunch ctx hd code 0 {} with
    | none => exact h
    | some u => exact State.finishLaunch_sound ht e
  unfold execLaunchAccept
  dsimp only
  split
  · exact h
  · refine NextIs.ite h (NextIs.ite (refused (by simpa)) ?_)
    split
    · exact h
    · next e => exact refused (by simpa [State.readEdges_ground e])
    · next t e =>
      have ht : Sound k t.ground := by simpa [State.readEdges_ground e]
      exact NextIs.ite (refused ht) (NextIs.ite (refused ht) (by simpa))

-- Stage tasks, branch copies and pushes.

theorem State.stageSpawn_sound (h : Sound k s.ground) {nd : Nat} {v : StageNode} {b : Bind} {j : Nat} :
    Sound k (s.stageSpawn nd v b j).ground := by
  unfold State.stageSpawn
  split
  · exact h
  · dsimp only
    split
    · exact h
    · split
      · exact h
      · simpa
      · next t e =>
        have ht := State.writeG_sound h e
        split <;> simpa

theorem execStageTaskStart_sound (node item : Nat) (h : Sound k s.ground) : NextIs (Sound k) (execStageTaskStart node item s) := by
  unfold execStageTaskStart
  split
  · exact h
  · split
    · exact h
    · exact NextIs.ite h (NextIs.ite h (NextIs.ite h (State.stageSpawn_sound h)))

theorem State.copyInto_sound (h : Sound k s.ground) {id : Nat} {b : Bind} {n j : Nat} {host : Bind} :
    Sound k (s.copyInto id b n j host).ground := by
  unfold State.copyInto
  dsimp only
  split
  · exact h
  · split
    · exact h
    · simpa
    · next t e =>
      have hc := Gives.after (Q := fun t : State => Sound k t.ground) (x := s.pinnedRead (eOsz b.bytes n / 64 + 2) host.ctx (slotAddr host.bytes n j) (eOsz b.bytes n))
        fun x => State.pinnedWrite_gives h (n := eOsz b.bytes n / 64 + 2) (ctx := b.ctx) (va := slotAddr b.bytes n j) (bs := x)
      simpa using hc t e

theorem State.pushItem_sound (h : Sound k s.ground) {id : Nat} {b : Bind} {j : Nat} : Sound k (s.pushItem id b j).ground := by
  unfold State.pushItem
  dsimp only
  split
  · exact h
  · split
    · exact h
    · split
      · exact h
      · split
        · exact h
        · simpa
        · next t e =>
          have ht : Sound k t.ground := by
            split at e
            · rw [State.putDs_ground e]; exact h
            · exact State.writeG_sound h e
          rw [State.setBind_ground]
          split <;> simpa

theorem execBranchCopy_sound (bind item : Nat) (h : Sound k s.ground) : NextIs (Sound k) (execBranchCopy bind item s) := by
  unfold execBranchCopy
  split
  · exact h
  · refine NextIs.ite h ?_
    dsimp only
    split
    · split
      · exact h
      · split
        · exact h
        · exact State.copyInto_sound h
    · exact NextIs.ite (State.pushItem_sound h) h

end Sys2Proof.Machine

end

section

/-! PROOF. Connections of the fabric (O3). -/

namespace Sys2Proof.Machine

variable {k : Bool × Nat} {s : State}

/-- What each step of a run brings along, the run does. -/
theorem foldlM_brings {α β : Type} {f : β → α → Option β} {P : β → Prop} (hf : ∀ b a c, P b → f b a = some c → P c) (l : List α)
    {b c : β} (h : P b) (e : l.foldlM f b = some c) : P c := by
  induction l generalizing b with
  | nil => cases e; exact h
  | cons a l ih =>
    obtain ⟨d, hd, e⟩ := Option.bind_eq_some_iff.1 (by simpa using e)
    exact ih (hf _ _ _ h hd) e

theorem State.declareDown_sound (h : Sound k s.ground) {q : Nat} : Sound k (s.declareDown q).ground := by
  unfold State.declareDown
  dsimp only
  split
  · exact h
  · exact State.collsSettle_sound (State.foldl_next (fun s o h => by simpa) _ (by simpa))

theorem State.respond_sound (h : Sound k s.ground) {q : Nat} {m : Msg} : Sound k (s.respond q m).ground := by
  unfold State.respond
  split
  · exact State.declareDown_sound h
  · dsimp only; split <;> simpa

theorem State.sendAck_sound (h : Sound k s.ground) {m : Msg} : Sound k (s.sendAck m).ground := State.respond_sound h

theorem State.answerMsg_sound (h : Sound k s.ground) {m : Msg} {a : Ans} : Sound k (s.answerMsg m a).ground := by
  cases a with
  | hold => unfold State.answerMsg; simpa
  | ack => exact State.sendAck_sound h
  | data bs => exact State.sendAck_sound (by simpa using State.respond_sound h)
  | nack e => unfold State.answerMsg; simpa using State.respond_sound h

theorem State.passOn_sound (n : Nat) (h : Sound k s.ground) {m : Msg} {t : State} (e : State.passOn n s m = some t) : Sound k t.ground := by
  induction n generalizing s m t with
  | zero => cases e; exact h
  | succ n ih =>
    rw [State.passOn] at e
    split at e
    · cases e
    · next u a hu =>
      have hu := State.target_sound h hu
      have ha : ∀ c : Conn, Sound k ((u.setConn m.src c).answerMsg m a).ground := fun c => State.answerMsg_sound (by simpa)
      dsimp only at e
      split at e
      · cases e; exact ha _
      · split at e
        · next e' => cases e; exact ih (ha _) e'
        · cases e; simpa using ha _

theorem State.duplicate_sound (h : Sound k s.ground) {m : Msg} : Sound k (s.duplicate m).ground := by
  unfold State.duplicate
  split
  · dsimp only
    split
    · exact State.respond_sound h
    · exact State.sendAck_sound (State.respond_sound h)
  · split
    · exact h
    · exact State.sendAck_sound h

theorem State.requestRow_sound (h : Sound k s.ground) (port : Nat) (m : Msg) (is : Nat → Bool) : NextIs (Sound k) (s.requestRow port m is) := by
  unfold State.requestRow
  refine NextIs.ite h ?_
  split
  · exact h
  · next t ht =>
    have ht : Sound k t.ground := by rwa [State.nextMsg_ground ht]
    refine NextIs.ite (by simpa) (NextIs.ite ?_ (NextIs.ite ?_ (State.duplicate_sound ht)))
    · have hu : Sound k (s.redFor (.fab m.src m.msn) m.src m false false none).1.ground := by simpa
      refine NextIs.ite hu ?_
      split
      · next e =>
        obtain ⟨v, hv, e⟩ := Option.bind_eq_some_iff.1 e
        exact State.passOn_sound _ (by rwa [State.nextMsg_ground hv]) e
      · exact h
    · rw [nextIs_next]; split <;> simpa

theorem execWrite_sound (port : Nat) (m : Msg) (h : Sound k s.ground) : NextIs (Sound k) (execWrite port m s) := State.requestRow_sound h ..
theorem execRead_sound (port : Nat) (m : Msg) (h : Sound k s.ground) : NextIs (Sound k) (execRead port m s) := State.requestRow_sound h ..
theorem execAmoMessage_sound (port : Nat) (m : Msg) (h : Sound k s.ground) : NextIs (Sound k) (execAmoMessage port m s) :=
  State.requestRow_sound h ..

theorem execFrag_sound (port : Nat) (m : Msg) (h : Sound k s.ground) : NextIs (Sound k) (execFrag port m s) := State.requestRow_sound h ..
theorem execRfrag_sound (port : Nat) (m : Msg) (h : Sound k s.ground) : NextIs (Sound k) (execRfrag port m s) := State.requestRow_sound h ..
theorem execPollMessage_sound (port : Nat) (m : Msg) (h : Sound k s.ground) : NextIs (Sound k) (execPollMessage port m s) := by
  refine NextIs.ite ?_ (State.requestRow_sound h ..)
  split
  · exact h
  · exact h
  · next e => exact State.answerMsg_sound (by simpa using State.target_sound h e)

theorem State.release_sound (h : Sound k s.ground) {q : Nat} {o : OutMsg} : Sound k (s.release q o).ground := by
  unfold State.release
  dsimp only
  split
  · exact h
  · split
    · exact h
    · split
      · exact State.declareDown_sound h
      · split <;> simpa

theorem execRdata_sound (port : Nat) (m : Msg) (h : Sound k s.ground) : NextIs (Sound k) (execRdata port m s) := by
  refine State.responseRow_next h fun t u ht e => ?_
  have ht : Sound k t.ground := by rwa [ht]
  split at e
  · cases e; exact ht
  · exact State.settleOk_sound (State.release_sound (by simpa)) e

theorem execAck_sound (port : Nat) (m : Msg) (h : Sound k s.ground) : NextIs (Sound k) (execAck port m s) := by
  refine State.responseRow_next h fun t u ht e => ?_
  have ht : Sound k t.ground := by rwa [ht]
  refine foldlM_brings (P := fun t : State => Sound k t.ground) (fun t o v ht e => ?_) _ ?_ e
  · exact State.settleOk_sound (State.release_sound (by simpa)) e
  · split <;> simpa

theorem execNack_sound (port : Nat) (m : Msg) (h : Sound k s.ground) : NextIs (Sound k) (execNack port m s) := by
  refine State.responseRow_next h fun t u ht e => ?_
  have ht : Sound k t.ground := by rwa [ht]
  dsimp only at e
  split at e
  · cases e; exact ht
  · split at e
    · cases e; simpa
    · cases e
      rw [State.settleBad_ground]
      exact State.release_sound (by simpa)

theorem execStashfullResend_sound (peer ctx : Nat) (h : Sound k s.ground) : NextIs (Sound k) (execStashfullResend peer ctx s) := by
  unfold execStashfullResend
  dsimp only
  split
  · exact h
  · split
    · exact h
    · refine NextIs.ite h ?_
      split
      · exact State.declareDown_sound h
      · exact NextIs.ite h (by simpa)

theorem execConnectionDown_sound (peer : Nat) (h : Sound k s.ground) : NextIs (Sound k) (execConnectionDown peer s) := by
  unfold execConnectionDown
  rw [nextIs_next]
  split
  · exact State.declareDown_sound h
  · exact h

end Sys2Proof.Machine

end

section

/-! PROOF. Page commands (O3). -/

namespace Sys2Proof.Machine

variable {k : Bool × Nat} {s : State}

theorem State.clearLeaf_sound (h : Sound k s.ground) {a : Nat} : Sound k (s.clearLeaf a).ground :=
  ⟨Memory.wf_writeLE _ _ _ _ h.1, h.2⟩

theorem State.pageOne_sound (h : Sound k s.ground) {hd : Cmd} {asid va : Nat} {evict : Bool} {u : State × Nat × List Byte}
    (e : s.pageOne hd asid va evict = some u) : Sound k u.1.ground := by
  unfold State.pageOne at e
  dsimp only at e
  split at e
  · cases e; exact h
  · split at e
    · cases e
    · cases e; exact h
    · split at e
      · split at e
        · cases e; exact State.clearLeaf_sound h
        · cases e; exact h
      · cases e; exact h

theorem State.pageRun_sound (n : Nat) (h : Sound k s.ground) {hd : Cmd} {asid va : Nat} {evict : Bool} {u : State × List Byte}
    (e : State.pageRun hd asid evict n s va = some u) : Sound k u.1.ground := by
  induction n generalizing s va u with
  | zero => cases e; exact h
  | succ n ih =>
    rw [State.pageRun] at e
    split at e
    · cases e
    · next ho =>
      obtain ⟨w, hw, rfl⟩ := Option.map_eq_some_iff.1 e
      exact (ih (State.pageOne_sound h ho) hw :)

theorem State.pageCmd_sound (h : Sound k s.ground) (hd : Cmd) (asid : Nat) (va : Word) (count : Nat) (evict : Bool) :
    NextIs (Sound k) (s.pageCmd hd asid va count evict) := by
  refine State.commandOf_next h ?_
  split
  · trivial
  · split
    · exact h
    · next e =>
      have ht := State.pageRun_sound _ h e
      dsimp only at ht
      split
      · rw [CmdRes.is_later]; split <;> simpa
      · exact ht

theorem execDeferred_sound (asid : Nat) (va : Word) (h : Sound k s.ground) : NextIs (Sound k) (execDeferred asid va s) := by
  refine NextIs.ite h ?_
  rw [nextIs_next]
  exact State.foldl_next (f := fun (s : State) (c : PageCmd) => (s.clearLeaf c.leaf).pageAnswer c)
    (fun s c h => by simpa using State.clearLeaf_sound h) _ h

-- Counters, triggered operations and collectives.

theorem execCtrset_sound (g : Guard) (a b : SReg) (h : Sound k s.ground) : NextIs (Sound k) (execCtrset g a b s) :=
  guarded_sound h (State.onCtr_ground (R := Sound k) h _ fun _ => by simpa using State.ctrUpdate_sound h)

theorem execCtradd_sound (g : Guard) (a b : SReg) (h : Sound k s.ground) : NextIs (Sound k) (execCtradd g a b s) :=
  guarded_sound h (State.onCtr_ground (R := Sound k) h _ fun _ => by simpa using State.ctrUpdate_sound h)

theorem State.opWhole_sound (h : Sound k s.ground) {a : Armed} {t : State} (e : s.opWhole a = .ok t) : Sound k t.ground := by
  unfold State.opWhole at e
  dsimp only at e
  split at e
  · obtain ⟨r, hr, e⟩ := Acc.bind_ok.1 e
    exact State.writeG_sound (by simpa [State.readG_ground hr]) e
  · obtain ⟨r, hr, e⟩ := Acc.bind_ok.1 e
    have hs : Sound k r.2.ground := by simpa [State.readG_ground hr]
    split at e
    · exact State.writeG_sound hs e
    · obtain ⟨b, hb, e⟩ := Acc.bind_ok.1 e
      obtain ⟨t, ht, e⟩ := Acc.bind_ok.1 e
      cases e
      exact State.foldl_next (fun s i h => by simpa) _ (State.writeG_sound (by simpa [State.readG_ground hb]) ht)

theorem State.opPartial_sound (h : Sound k s.ground) {a : Armed} : Sound k (s.opPartial a).ground := by
  refine State.foldl_next (fun t i h => ?_) (List.range a.len) h
  split
  · split
    · split
      · next e => exact State.writeG_sound h e
      · exact h
    · exact h
  · exact h

theorem State.opLocal_sound (h : Sound k s.ground) {id : Nat} {a : Armed} : Sound k (s.opLocal id a).ground := by
  unfold State.opLocal
  split
  · exact h
  · simpa using State.opPartial_sound h
  · have hs : Sound k (if a.op != 4 then (s, true) else s.redGate (.op id) a.ctx a.len (some a.task) a.dst).1.ground := by
      split <;> simpa
    dsimp only
    generalize (if a.op != 4 then (s, true) else s.redGate (.op id) a.ctx a.len (some a.task) a.dst) = r at hs ⊢
    split
    · exact hs
    · split
      · next e => simpa using State.opWhole_sound hs e
      · exact hs

theorem State.opSend_sound (h : Sound k s.ground) {id : Nat} {a : Armed} {t : State} (e : s.opSend id a = some t) : Sound k t.ground := by
  unfold State.opSend at e
  dsimp -zeta only at e
  extract_lets n fin args addr sent here at e
  have here_sound : ∀ {src m net u}, here src m net = some u → Sound k u.ground := by
    intro src m net u e
    dsimp only [here] at e
    have hs : Sound k (s.redFor (.op id) src m net true (if m.tctx = a.ctx then some a.task else none)).1.ground := by simpa
    generalize s.redFor (.op id) src m net true (if m.tctx = a.ctx then some a.task else none) = r at hs e
    split at e
    · cases e; exact hs
    · split at e
      · next b t ht =>
        have ht : Sound k t.ground := by rwa [State.readG_ground ht]
        split at e
        · cases e
        · cases e
        · next hu =>
          split at e
          · cases e
          · cases e; simpa using State.target_sound ht hu
        · next hu => cases e; simpa [sent] using State.target_sound ht hu
      · cases e
  split at e
  · cases e
  · split at e
    · cases e
    · cases e; simpa
    · next bs t ht =>
      have ht : Sound k t.ground := by rwa [State.readG_ground ht]
      extract_lets m at e
      split at e
      · split at e
        · cases e; simpa
        · cases e; simpa
        · exact here_sound e
        · cases e; simpa [sent]
      · split at e
        · exact here_sound e
        · have hs := State.fabSend_is ht m a.ctx (.trig id)
          split at e
          · next e' => rw [e'] at hs; cases e; simpa [sent] using hs
          · cases e; simpa
          · cases e; simpa

theorem State.opSends_sound (n : Nat) (h : Sound k s.ground) {id : Nat} : Sound k (State.opSends id n s).ground := by
  induction n generalizing s with
  | zero => exact h
  | succ n ih =>
    rw [State.opSends]
    split
    · exact h
    · split
      · exact h
      · split
        · simpa
        · split
          · exact h
          · next e =>
            have ht := State.opSend_sound h e
            split
            · split
              · exact ht
              · exact ih ht
            · exact ht

theorem State.opRun_sound (h : Sound k s.ground) {id : Nat} {a : Armed} : Sound k (s.opRun id a).ground := by
  have hl : Sound k (if s.mayHbm a.ctx then s.opLocal id a else s).ground := by
    split
    · exact State.opLocal_sound h
    · exact h
  unfold State.opRun
  split
  · exact h
  · split
    · exact hl
    · exact hl
    · exact hl
    · exact State.opSends_sound _ h
    · exact State.opSends_sound _ h
    · simpa

theorem execTriggeredOpFire_sound (id : Nat) (h : Sound k s.ground) : NextIs (Sound k) (execTriggeredOpFire id s) := by
  unfold execTriggeredOpFire
  split
  · exact h
  · refine NextIs.ite (State.opRun_sound h) (NextIs.ite h ?_)
    rw [nextIs_next]
    split
    · simpa
    · exact State.opRun_sound (by simpa)

theorem execTriggeredOpComplete_sound (id : Nat) (h : Sound k s.ground) : NextIs (Sound k) (execTriggeredOpComplete id s) := by
  unfold execTriggeredOpComplete
  split
  · exact State.collSettle_sound h
  next a _ =>
    refine NextIs.ite h ?_
    rw [nextIs_next]
    have hc : Sound k (match a.coll with
        | some i => (s.setArmed (tblErase s.coll.armed id)).setColls
            (tblModify (s.setArmed (tblErase s.coll.armed id)).coll.colls i (fun c => if c.bad = 0 && a.cause != 0 then { c with bad := a.peer } else c))
        | none => s.setArmed (tblErase s.coll.armed id) : State).ground := by
      split <;> simpa
    split
    · exact State.ctrRaise_sound hc
    · exact State.ctrPoison_sound hc

theorem State.collStart_sound (h : Sound k s.ground) {c : Coll} {ops : List Armed} : Sound k (s.collStart c ops).ground := by
  unfold State.collStart
  dsimp only
  exact State.collSettle_sound (State.foldl_next (fun s a h => by simpa) _ (by simpa))

theorem execColl_sound (g : Guard) (d a : SReg) (h : Sound k s.ground) : NextIs (Sound k) (execColl g d a s) := by
  refine guarded_sound h (atAddr_sound h (accept_sound h fun r e => ?_))
  obtain ⟨b, t⟩ := r
  have hr : Sound k t.ground := by simpa [State.readG_ground e]
  dsimp only
  split
  · simpa
  · exact accept_sound hr fun t e => by simpa using State.collStart_sound (State.writeG_sound hr e)

-- Packets.

theorem State.packetRow_sound (h : Sound k s.ground) (port : Nat) (p : Pkt) (read : Bool) : NextIs (Sound k) (s.packetRow port p read) := by
  unfold State.packetRow
  refine NextIs.ite h (NextIs.ite (by simpa) (NextIs.ite (by simpa) ?_))
  dsimp only
  generalize (if read then [] else (s.pdc (pdcKey port p.node)).later p) = skip
  have hs : Sound k (s.redFor (.eth p.node p.tok) (0x8000 + p.node) (pktMsg read p) true false none).1.ground := by simpa
  generalize s.redFor (.eth p.node p.tok) (0x8000 + p.node) (pktMsg read p) true false none = r at hs ⊢
  refine NextIs.ite hs ?_
  split
  · exact hs
  · next t a e =>
    have ht : Sound k t.ground := by
      split at e
      · exact State.target_sound hs e
      · exact State.takeWrite_sound hs e
    rw [nextIs_next]
    split <;> simpa

theorem execEthWritePacket_sound (port : Nat) (p : Pkt) (h : Sound k s.ground) : NextIs (Sound k) (execEthWritePacket port p s) :=
  State.packetRow_sound h ..

theorem execEthReadPacket_sound (port : Nat) (p : Pkt) (h : Sound k s.ground) : NextIs (Sound k) (execEthReadPacket port p s) :=
  State.packetRow_sound h ..

theorem execEthAck_sound (port : Nat) (p : Pkt) (echo : Bool) (h : Sound k s.ground) : NextIs (Sound k) (execEthAck port p echo s) := by
  unfold execEthAck
  split
  · exact h
  · split
    · next e => exact State.settleOk_sound (by simpa) e
    · exact h

theorem execEthReadResponse_sound (port : Nat) (p : Pkt) (h : Sound k s.ground) : NextIs (Sound k) (execEthReadResponse port p s) := by
  unfold execEthReadResponse
  split
  · exact h
  · split
    · next e => exact State.settleOk_sound (by simpa) e
    · exact h

theorem execEthTargetFailed_sound (node : Nat) (host : Bool) (h : Sound k s.ground) : NextIs (Sound k) (execEthTargetFailed node host s) := by
  unfold execEthTargetFailed
  dsimp only
  split
  · exact h
  · refine NextIs.ite h ?_
    rw [nextIs_next]
    refine State.collsSettle_sound (State.foldl_next (fun s o h => by simpa) _ ?_)
    rw [State.emit_ground, State.setPkts_ground]
    split <;> split <;> exact h

end Sys2Proof.Machine

end

section

/-! PROOF. Every instruction, and a step (O3). -/

namespace Sys2Proof.Machine

variable {k : Bool × Nat} {s : State}

/-- Every instruction leaves a sound state sound: those that may write HBM by their own rule, the others since they leave it as it is. -/
theorem exec_sound (h : Sound k s.ground) (i : Instr) : NextIs (Sound k) (exec i s) := by
  cases i with
  | stg g m => exact execStg_sound g m h
  | ldf g m => exact execLdf_sound g m h
  | stf g m => exact execStf_sound g m h
  | stfFlag g m => exact execStfFlag_sound g m h
  | ldn g m => exact execLdn_sound g m h
  | stn g m => exact execStn_sound g m h
  | ldh g m => exact execLdh_sound g m h
  | sth g m => exact execSth_sound g m h
  | amo g op f => exact execAmo_sound g op f h
  | amoCas g f cmp => exact execAmoCas_sound g f cmp h
  | amoClaim g f lim => exact execAmoClaim_sound g f lim h
  | hst g d a space => exact execHst_sound g d a space h
  | tspawn g a q => exact execTspawn_sound g a q h
  | tspawnRoom q => exact execTspawnRoom_sound q h
  | epush g a e => exact execEpush_sound g a e h
  | epushRoom q => exact execEpushRoom_sound q h
  | poll g cc space wide d a b => exact execPoll_sound g cc space wide d a b h
  | pollPass q => exact execPollPass_sound q h
  | coll g d a => exact execColl_sound g d a h
  | ctrset g a b => exact execCtrset_sound g a b h
  | ctradd g a b => exact execCtradd_sound g a b h
  | contextRestore ctx cores => exact execContextRestore_sound ctx cores h
  | mxLdw => exact State.mxRow_sound h ldwB_ok ..
  | mxMm => exact State.mxRow_sound h mmB_ok ..
  | mxAcrd => exact State.mxRow_sound h acrdB_ok ..
  | mxAcclr => exact State.mxRow_sound h acclrB_ok ..
  | mxHad => exact State.mxRow_sound h hadB_ok ..
  | mxBsw => exact State.mxRow_sound h bswB_ok ..
  | vadd | vsub | vmul | vfma | vmin | vmax | vabs | vneg | vand | vor | vxor | vnot | vshl | vshr | vsra | vclz | vffs | vpopc
  | vexp2 | vladd | vlsub | vlshr | vlpow | vexpe | vrcp | vrsqrt | vsigm | vtanh | vsilu =>
    refine State.vxRow_sound h ?_ ..
    simp only [vaddB, vsubB, vmulB, vfmaB, vminB, vmaxB, vabsB, vnegB, vBits, vandB, vorB, vxorB, vnotB, vshlB, vshrB, vsraB, vclzB, vffsB,
      vpopcB, vexp2B, vLog, vladdB, vlsubB, vlshrB, vlpowB, vFun]
    exact vMap_ok _ _
  | vcmp => exact State.vxRow_sound h vcmpB_ok ..
  | vsel => exact State.vxRow_sound h vselB_ok ..
  | vcvt => exact State.vxRow_sound h vcvtB_ok ..
  | vql6 => exact State.vxRow_sound h vql6B_ok ..
  | vreds | vredx | vredn | vargx =>
    refine State.vxRow_sound h ?_ ..
    simp only [vredsB, vredxB, vrednB, vargxB]
    exact vReduce_ok _ _
  | vscan => exact State.vxRow_sound h vscanB_ok ..
  | vperm => exact State.vxRow_sound h vpermB_ok ..
  | vtrn => exact State.vxRow_sound h vtrnB_ok ..
  | vbcast => exact State.vxRow_sound h vbcastB_ok ..
  | vld | vst => exact State.vxRow_sound h vmoveB_ok ..
  | vmov => exact State.vxRow_sound h vmovB_ok ..
  | vlog2 => exact State.vxRow_sound h vlog2B_ok ..
  | cxCpy | cxFill | cxGth | cxSct | cxPutf | cxGetf | cxPutn | cxGetn | cxMcst => exact State.cxRow_sound h ..
  | aeRun | aeCont => exact State.aeRow_sound h ..
  | launchAccept ctx => exact execLaunchAccept_sound ctx h
  | launchEnd ctx => exact execLaunchEnd_sound ctx h
  | write port m => exact execWrite_sound port m h
  | read port m => exact execRead_sound port m h
  | amoMessage port m => exact execAmoMessage_sound port m h
  | frag port m => exact execFrag_sound port m h
  | rfrag port m => exact execRfrag_sound port m h
  | rdata port m => exact execRdata_sound port m h
  | pollMessage port m => exact execPollMessage_sound port m h
  | ack port m => exact execAck_sound port m h
  | nack port m => exact execNack_sound port m h
  | connectionDown peer => exact execConnectionDown_sound peer h
  | stashfullResend peer ctx => exact execStashfullResend_sound peer ctx h
  | ethWritePacket port p => exact execEthWritePacket_sound port p h
  | ethReadPacket port p => exact execEthReadPacket_sound port p h
  | ethReadResponse port p => exact execEthReadResponse_sound port p h
  | ethAck port p echo => exact execEthAck_sound port p echo h
  | ethTargetFailed node host => exact execEthTargetFailed_sound node host h
  | pageUnmap | pageEvict => exact State.pageCmd_sound h ..
  | deferred asid va => exact execDeferred_sound asid va h
  | triggeredOpFire id => exact execTriggeredOpFire_sound id h
  | triggeredOpComplete id => exact execTriggeredOpComplete_sound id h
  | stageTaskStart node item => exact execStageTaskStart_sound node item h
  | branchCopy bind item => exact execBranchCopy_sound bind item h
  | _ =>
    exact NextIs.of_stays h (by simp [execNop, execYield, execHalt, execTrap, execEret, execBkpt, execCsrr, execCsrw, execCsrs, execCsrc,
      execBfmtWrite, execLceWrite, execBr, execJal, execJalr, execLoop, execLoopi, execSpinLimit, execSeminit, execSemsig, execSemwait,
      execSemrd, execSemtry, execTime, execWaitt, execWaittLock, execLockWindowClose, execPause, execLdsp, execFence, execFenceE, execHset,
      execHget, execHoff, execWinreg, execWinrev, execScopeo, execScopec, execTend, execVmode, execVmodeCsrWrite, execEpop, execEtry,
      execDieFence, execCoreGate, execCoreWake, execPbind, execResendTimeout, execNak, execCredit, execLol, execLight, execPeriodEdge,
      execSlotcfgWrite, execAsidset, execNodeset, execEvqset, execGaugeset, execRescfg, execSelvset, execSelvread, execCtxread,
      execSharecls, execLogsign, execQuote, execDbgctl, execAdd, execSub, execMul, execMulh, execMulhu, execMadd, execDiv, execDivu,
      execRem, execRemu, execAnd, execOr, execXor, execAndn, execSll, execSrl, execSra, execRotr, execMin, execMax, execMinu, execMaxu,
      execClz, execCtz, execPopc, execSext, execZext, execAddi, execAndi, execOri, execXori, execSlli, execSrli, execSrai, execMuli,
      execLi, execLih, execMini, execMaxi, execCmp, execCmpi, execPand, execPor, execPxor, execPnot, execPset, execPget, execSel, execFadd,
      execFsub, execFmul, execFfma, execFmin, execFmax, execFabs, execFneg, execFcmp, execFcvtFi, execFcvtIf])

/-- What a DBGSTEP adds to the outcome of a move (R313). -/
def andAfterStep (q : SeqRef) : Host.Outcome State Fault Refusal → Host.Outcome State Fault Refusal
  | .next t => .next (t.afterStep q)
  | r => r

theorem andAfterStep_next {R : Ground → Prop} {x : Host.Outcome State Fault Refusal} (hx : NextIs R x) (q : SeqRef) :
    NextIs R (andAfterStep q x) := by
  cases x with
  | next t => simpa [andAfterStep] using hx
  | _ => trivial

theorem stepSeq_sound (q : SeqRef) (h : Sound k s.ground) : NextIs (Sound k) (stepSeq q s) := by
  unfold stepSeq
  split
  · exact h
  · exact NextIs.of_stays h (by simp)
  · exact NextIs.of_stays h (by simp)
  · exact NextIs.of_stays h (by simp)
  · simpa
  · next i _ => exact andAfterStep_next (exec_sound h i) q
  · have hs : Sound k (s.asSeq q).ground := h
    dsimp only
    split
    · exact h
    · refine andAfterStep_next ?_ q
      split
      · next e =>
        have ht := (State.fetchInstr_ground e).symm ▸ hs
        split
        · exact NextIs.of_stays ht (by simp)
        · exact exec_sound ht _
      · exact NextIs.of_stays hs (by simp)

theorem step_sound (h : Sound k s.ground) : NextIs (Sound k) (step s) := by
  unfold step
  split
  · next m rest _ =>
    have hs : Sound k ((s.at m.at_).setAgenda rest).ground := by simpa
    dsimp only
    split
    · exact exec_sound hs _
    · exact stepSeq_sound _ hs
  · split
    · exact stepSeq_sound _ h
    · simpa

/-- Settles O3: one step keeps HBM in canonical form, since every write goes through `takeLine`, `writeHbm` or `clearLeaf`, and leaves
the package's variant and number as they are. -/
theorem stepKeepsMemoryForm : Obligations.StepKeepsMemoryForm := by
  intro s t hw e
  have h : Sound (s.vond8, s.pkgId) s.ground := ⟨hw, rfl⟩
  have ht := step_sound h
  rw [e, nextIs_next] at ht
  exact ⟨ht.1, congrArg Prod.fst ht.2, congrArg Prod.snd ht.2⟩

end Sys2Proof.Machine

end

section

/-! PROOF. Event records, and the event of a change of a READY bit (O55). -/

open Sys2Proof.Claim
namespace Sys2Proof.Machine

variable {s t u : State}

/-- What an event record is made of is the time, the ring with its sessions, what has left already, and EVDROP. -/
theorem emits_of_eq {typ ctx : Nat} {p : List Byte} (hout : u.out = s.out) (heth : u.eth = s.eth) (hpreg : u.preg = s.preg)
    (hclk : u.clk = s.clk) (h : Emits u t typ ctx p) : Emits s t typ ctx p := by
  simpa only [Emits, State.tagOf, State.session, hout, heth, hpreg, hclk] using h

/-- `State.emit` sends an event record as R375 says. -/
theorem emits_emit (s : State) (typ ctx : Nat) (p : List Byte) : Emits s (s.emit typ ctx p) typ ctx p := by
  refine ⟨fun r hr hroom hwait => ?_, fun hr htyp hlen => ?_, fun hr htyp => ?_⟩
  · simp [State.emit, State.ringPut, hr, hroom, hwait]
  · simp [State.emit, hr, htyp, hlen]
  · simp [State.emit, hr, htyp]

@[simp] theorem State.emit_ethPorts (s : State) (typ ctx : Nat) (p : List Byte) : (s.emit typ ctx p).eth.ports = s.eth.ports := by
  unfold State.emit; dsimp only; (repeat' split) <;> rfl
@[simp] theorem State.emit_secReady (s : State) (typ ctx : Nat) (p : List Byte) :
    (s.emit typ ctx p).preg.secReady = s.preg.secReady := by
  unfold State.emit; dsimp only; (repeat' split) <;> rfl
@[simp] theorem State.emit_endptReady (s : State) (typ ctx : Nat) (p : List Byte) :
    (s.emit typ ctx p).preg.endptReady = s.preg.endptReady := by
  unfold State.emit; dsimp only; (repeat' split) <;> rfl

/-- The event record of a change of a READY bit (R394). -/
def ReadyEvent (s t : State) (unit inst : Nat) (on : Bool) : Prop :=
  Emits s t 8 0xFFFF (bytesOfLE 1 unit ++ bytesOfLE 2 inst ++ bytesOfLE 1 (if on then 1 else 0))

theorem readyEvent_sends (s : State) (unit inst : Nat) (on : Bool) : ReadyEvent s (s.readyEvent unit inst on) unit inst on := emits_emit ..

/-- The event of a state that differs from `s` elsewhere. -/
theorem readyEvent_sends_of {unit inst : Nat} {on : Bool} (ht : t = u.readyEvent unit inst on) (hout : u.out = s.out)
    (heth : u.eth = s.eth) (hpreg : u.preg = s.preg) (hclk : u.clk = s.clk) : ReadyEvent s t unit inst on :=
  ht ▸ emits_of_eq hout heth hpreg hclk (readyEvent_sends ..)

theorem State.readyEvent_only (s : State) (unit inst : Nat) (on : Bool) : s.readyEvent unit inst on =
    { s with out := (s.readyEvent unit inst on).out, eth := (s.readyEvent unit inst on).eth, preg := (s.readyEvent unit inst on).preg } :=
  s.emit_only ..

@[simp] theorem State.readyEvent_die (s : State) (unit inst : Nat) (on : Bool) (d : Nat) :
    (s.readyEvent unit inst on).die d = s.die d := by rw [State.readyEvent_only]; rfl
@[simp] theorem State.readyEvent_core (s : State) (unit inst : Nat) (on : Bool) (c : Nat) :
    (s.readyEvent unit inst on).core c = s.core c := by rw [State.readyEvent_only]; rfl
@[simp] theorem State.readyEvent_master (s : State) (unit inst : Nat) (on : Bool) :
    (s.readyEvent unit inst on).master = s.master := by rw [State.readyEvent_only]
@[simp] theorem State.readyEvent_mem (s : State) (unit inst : Nat) (on : Bool) :
    (s.readyEvent unit inst on).mem = s.mem := by rw [State.readyEvent_only]
@[simp] theorem State.readyEvent_fab (s : State) (unit inst : Nat) (on : Bool) :
    (s.readyEvent unit inst on).fab = s.fab := by rw [State.readyEvent_only]
@[simp] theorem State.readyEvent_ethPorts (s : State) (unit inst : Nat) (on : Bool) :
    (s.readyEvent unit inst on).eth.ports = s.eth.ports := State.emit_ethPorts ..

theorem die_of_dies (h : t.dies = s.dies) (d : Nat) : t.die d = s.die d := by unfold State.die; rw [h]
theorem core_of_cores (h : t.cores = s.cores) (c : Nat) : t.core c = s.core c := by unfold State.core; rw [h]
theorem slot_of_slots (h : t.slots = s.slots) (k : Nat) : t.slot k = s.slot k := by unfold State.slot; rw [h]

end Sys2Proof.Machine

end

section

/-! PROOF. Bring-up: the identity and the two signatures (O55). -/

open Sys2Proof.Claim
namespace Sys2Proof.Machine

variable {s t u : State}

/-- The machine once the boot ROM has run: its identity and its digests, and the chain of context 0 from the identity. -/
def State.identified (s : State) (fw cfg : List Byte) (custKey puf : Nat) : State :=
  let u := { s with sec := { s.sec with begun := true, puf := puf, custKey := custKey, fwDigest := sha3 fw, cfgDigest := sha3 cfg } }
  u.setCtx 0 { s.ctx 0 with
    logHead := (s.ctx 0).logRing.foldl (fun h r => sha3 (bytes32 h ++ r.bytes)) (u.logStart 0 (s.ctx 0).created) }

/-- Both signatures hold: of the firmware image under the key whose digest the boot ROM holds, and of the configuration blob. -/
def Verified (fw cfg : List Byte) (kerez : Nat) (sigs : Nat × Nat) : Prop :=
  sha3 (bytesOfLE 1312 kerez) = Config.kerezDigest ∧ Config.mldsaVerify kerez (bytes32 (sha3 fw)) sigs.1 = true ∧
    Config.mldsaVerify kerez (bytes32 (sha3 cfg)) sigs.2 = true

section
variable {fw cfg : List Byte} {kerez : Nat} {sigs : Nat × Nat} {custKey puf : Nat}

theorem bringUp_again (h : s.sec.begun = true) : exec (.bringUp fw cfg kerez sigs custKey puf) s = .next s := by
  rw [exec_bringUp, execBringUp, if_pos h]

theorem bringUp_first (h : s.sec.begun = false) {ok : Bool} (hok : (sha3 (bytesOfLE 1312 kerez) == Config.kerezDigest &&
      Config.mldsaVerify kerez (bytes32 (sha3 fw)) sigs.1 && Config.mldsaVerify kerez (bytes32 (sha3 cfg)) sigs.2) = ok) :
    exec (.bringUp fw cfg kerez sigs custKey puf) s =
      .next (if ok then ({ s.identified fw cfg custKey puf with preg := { s.preg with secReady := true } }).readyEvent 0 0 true
        else s.identified fw cfg custKey puf) := by
  rw [exec_bringUp, ← hok]
  exact if_neg (c := s.sec.begun = true) (by simp [h])

theorem bringUp_verified (h : s.sec.begun = false) (hv : Verified fw cfg kerez sigs) :
    exec (.bringUp fw cfg kerez sigs custKey puf) s =
      .next (({ s.identified fw cfg custKey puf with preg := { s.preg with secReady := true } }).readyEvent 0 0 true) :=
  bringUp_first h (ok := true) (by simpa only [Verified, Bool.and_eq_true, beq_iff_eq, and_assoc] using hv)

theorem bringUp_unverified (h : s.sec.begun = false) (hv : ¬Verified fw cfg kerez sigs) :
    exec (.bringUp fw cfg kerez sigs custKey puf) s = .next (s.identified fw cfg custKey puf) :=
  bringUp_first h (ok := false)
    (by rw [← Bool.not_eq_true]; simpa only [Verified, Bool.and_eq_true, beq_iff_eq, and_assoc] using hv)

end

/-- What the boot ROM changes (R385, R387, R389): before context 0 has been charged anything, its chain starts from the identity. -/
theorem identified_effect (s : State) (fw cfg : List Byte) (custKey puf : Nat) : let u := s.identified fw cfg custKey puf
    u = { s with
      sec := { s.sec with begun := true, puf := puf, custKey := custKey, fwDigest := sha3 fw, cfgDigest := sha3 cfg }, ctxs := u.ctxs } ∧
    (∀ k, k ≠ 0 → tblGet u.ctxs k = tblGet s.ctxs k) ∧ u.ctx 0 = { s.ctx 0 with logHead := (u.ctx 0).logHead } ∧
    ((s.ctx 0).logRing = [] → (u.ctx 0).logHead =
      sha3 (bytesOfLE 1312 (Config.mldsaPublic puf) ++ bytesOfLE 2 0 ++ bytesOfLE 8 (s.ctx 0).created.toNat)) := by
  refine ⟨rfl, fun k hk => tblGet_set_ne _ _ hk, ?_, fun h => ?_⟩
  · unfold State.identified; dsimp only; rw [State.ctx_setCtx_same]
  · unfold State.identified; dsimp only; rw [State.ctx_setCtx_same, h]; rfl

end Sys2Proof.Machine

end

section

/-! PROOF. A die becomes ready, or is fenced (O55). -/

open Sys2Proof.Claim
namespace Sys2Proof.Machine

variable {s t u : State}

/-- A core is idle from this instant (R203). -/
def State.idleCore (s : State) (k : Nat) : State := s.setCore k { s.core k with power := .idle, since := s.now, waking := false }

theorem idleCores_eq (s : State) (d : Nat) : s.idleCores d = ((List.range 32).map (32 * d + ·)).foldl State.idleCore s := by
  rw [List.foldl_map]; rfl

theorem foldl_idleCore_only (ks : List Nat) (s : State) :
    ks.foldl State.idleCore s = { s with cores := (ks.foldl State.idleCore s).cores } := by
  induction ks generalizing s with
  | nil => rfl
  | cons k ks ih => rw [List.foldl_cons, ih]; rfl

theorem foldl_idleCore_core (ks : List Nat) (s : State) (k : Nat) : (ks.foldl State.idleCore s).core k =
    if k ∈ ks then { s.core k with power := .idle, since := s.now, waking := false } else s.core k := by
  induction ks generalizing s with
  | nil => rfl
  | cons j ks ih =>
    rw [List.foldl_cons, ih]
    by_cases hj : k = j
    · subst hj
      have hk : (s.idleCore k).core k = { s.core k with power := .idle, since := s.now, waking := false } := State.core_setCore_same ..
      rw [hk, if_pos (List.mem_cons_self ..)]
      exact ite_self _
    · have hk : (s.idleCore j).core k = s.core k := State.core_setCore_ne _ _ hj
      rw [hk]
      simp only [List.mem_cons, hj, false_or]; rfl

theorem idleCores_only (s : State) (d : Nat) : s.idleCores d = { s with cores := (s.idleCores d).cores } := by
  rw [idleCores_eq]; exact foldl_idleCore_only ..

/-- The cores of a die that is ready are idle from then on (R203). -/
theorem idleCores_core (s : State) (d k : Nat) : (s.idleCores d).core k =
    if k / 32 = d then { s.core k with power := .idle, since := s.now, waking := false } else s.core k := by
  have hmem : k ∈ (List.range 32).map (32 * d + ·) ↔ k / 32 = d := by
    simp only [List.mem_map, List.mem_range]
    exact ⟨fun ⟨i, hi, e⟩ => by omega, fun e => ⟨k % 32, by omega, by omega⟩⟩
  rw [idleCores_eq, foldl_idleCore_core]
  exact if_congr hmem rfl rfl

theorem electMaster_only (s : State) : s.electMaster = { s with master := s.electMaster.master } := by
  unfold State.electMaster; split <;> rfl

/-- The master is the lowest ready die that is not fenced (R203). -/
theorem electMaster_master {d : Nat} (hd : d < s.nDies) (hr : (s.die d).ready = true) (hf : (s.die d).fenced = false)
    (hlow : ∀ m, m < d → (s.die m).ready = false ∨ (s.die m).fenced = true) : s.electMaster.master = d := by
  have hfind : (List.range s.nDies).find? (fun d => (s.die d).ready && !(s.die d).fenced) = some d := by
    rw [List.find?_range_eq_some]
    refine ⟨by simp [hr, hf], List.mem_range.2 hd, fun m hm => ?_⟩
    rcases hlow m hm with h | h <;> simp [h]
  simp only [State.electMaster, hfind]

/-- A die becomes ready (R203, R394): its cores are idle, a master is elected where there was none, and the event is sent. -/
structure DieComesUp (s t : State) (d : Nat) : Prop where
  only : t = { s with dies := t.dies, cores := t.cores, master := t.master, out := t.out, eth := t.eth, preg := t.preg }
  die : t.die d = { s.die d with ready := true }
  others : ∀ e, e ≠ d → t.die e = s.die e
  cores : ∀ k, t.core k = if k / 32 = d then { s.core k with power := .idle, since := s.now, waking := false } else s.core k
  keeps : (t.die s.master).ready = true → t.master = s.master
  elects : (t.die s.master).ready = false → (∀ m, m < d → (s.die m).ready = false ∨ (s.die m).fenced = true) → t.master = d
  event : ReadyEvent s t 2 d true

/-- A master is elected where the present one is not ready (R203). -/
def State.seeMaster (s : State) : State := if (s.die s.master).ready then s else s.electMaster

theorem seeMaster_only (s : State) : s.seeMaster = { s with master := s.seeMaster.master } := by
  unfold State.seeMaster; split
  · rfl
  · exact electMaster_only s

/-- A die that has become ready, with its cores idle. -/
def State.dieStarts (s : State) (d : Nat) : State := (s.setDie d { s.die d with ready := true }).idleCores d

theorem dieUp_eq {d : Nat} (hd : d < s.nDies) (hr : (s.die d).ready = false) (hf : (s.die d).fenced = false) :
    s.dieUp d = (s.dieStarts d).seeMaster.readyEvent 2 d true :=
  if_neg (c := (decide (s.nDies ≤ d) || (s.die d).ready || (s.die d).fenced) = true) (by simp [hr, hf, hd])

theorem dieStarts_only (s : State) (d : Nat) :
    s.dieStarts d = { s with dies := (s.setDie d { s.die d with ready := true }).dies, cores := (s.dieStarts d).cores } :=
  idleCores_only ..

theorem dieStarts_die (s : State) (d e : Nat) : (s.dieStarts d).die e = (s.setDie d { s.die d with ready := true }).die e :=
  die_of_dies (by rw [dieStarts_only]) e

theorem dieUp_comesUp {d : Nat} (hd : d < s.nDies) (hr : (s.die d).ready = false) (hf : (s.die d).fenced = false) :
    DieComesUp s (s.dieUp d) d := by
  have hv := dieStarts_only s d
  have hstart := dieStarts_die s d
  have hcores := idleCores_core (s.setDie d { s.die d with ready := true }) d
  change ∀ k, (s.dieStarts d).core k = _ at hcores
  rw [dieUp_eq hd hr hf]
  generalize s.dieStarts d = v at hv hstart hcores
  have hmaster : v.master = s.master := (congrArg State.master hv :)
  have hw := seeMaster_only v
  have hdie (e : Nat) : v.seeMaster.die e = v.die e := die_of_dies (congrArg State.dies hw :) e
  have hcore (k : Nat) : v.seeMaster.core k = v.core k := core_of_cores (congrArg State.cores hw :) k
  constructor
  case only =>
    have ht := v.seeMaster.readyEvent_only 2 d true
    generalize v.seeMaster = w at hw ht
    rw [ht, hw, hv]
  case die => rw [State.readyEvent_die, hdie, hstart, State.die_setDie_same]
  case others => exact fun e he => by rw [State.readyEvent_die, hdie, hstart, State.die_setDie_ne _ _ he]
  case cores =>
    intro k
    rw [State.readyEvent_core, hcore, hcores]; rfl
  case keeps =>
    intro h
    rw [State.readyEvent_die, hdie] at h
    rw [State.readyEvent_master, State.seeMaster, hmaster, if_pos h, hmaster]
  case elects =>
    intro h hlow
    rw [State.readyEvent_die, hdie] at h
    rw [State.readyEvent_master, State.seeMaster, hmaster, if_neg (by rw [h]; exact Bool.false_ne_true)]
    refine electMaster_master ?_ ?_ ?_ fun m hm => ?_
    · rw [hv]; exact hd
    · rw [hstart, State.die_setDie_same]
    · rw [hstart, State.die_setDie_same]; exact hf
    · rw [hstart, State.die_setDie_ne _ _ (Nat.ne_of_lt hm)]; exact hlow m hm
  case event =>
    refine readyEvent_sends_of rfl ?_ ?_ ?_ ?_ <;> rw [hw, hv]

/-- What a die's fence changes before its work is lost (R394). -/
def State.dieStops (s : State) (d : Nat) : State :=
  let u := s.setDie d { s.die d with ready := false, fenced := true }
  if (s.die d).ready then u.readyEvent 2 d false else u

theorem dieStops_die (s : State) (d e : Nat) :
    (s.dieStops d).die e = (s.setDie d { s.die d with ready := false, fenced := true }).die e := by
  unfold State.dieStops; dsimp only; split
  · exact State.readyEvent_die ..
  · rfl

theorem fenceDie_eq {d : Nat} (hd : d < s.nDies) (hf : (s.die d).fenced = false) : s.fenceDie d = (s.dieStops d).loseDie d :=
  if_neg (c := (decide (s.nDies ≤ d) || (s.die d).fenced) = true) (by simp [hf, hd])

theorem dieFence_dieStops (s : State) (d : Nat) : exec (.dieFence d) (s.dieStops d) = .next ((s.dieStops d).loseDie d) := by
  have h : ((s.dieStops d).die d).fenced = true := by rw [dieStops_die, State.die_setDie_same]
  rw [exec_dieFence, execDieFence, if_pos h]

/-- A die that was ready sends its event as it is fenced. -/
theorem dieStops_ready {d : Nat} (h : (s.die d).ready = true) :
    s.dieStops d = (s.setDie d { s.die d with ready := false, fenced := true }).readyEvent 2 d false := if_pos h

theorem dieStops_unready {d : Nat} (h : (s.die d).ready = false) :
    s.dieStops d = s.setDie d { s.die d with ready := false, fenced := true } :=
  if_neg (c := (s.die d).ready = true) (by rw [h]; exact Bool.false_ne_true)

theorem dieStops_only (s : State) (d : Nat) : let u := s.dieStops d
    u = { s with dies := u.dies, out := u.out, eth := u.eth, preg := u.preg } := by
  intro u
  cases h : (s.die d).ready with
  | true =>
    have hu : u = _ := dieStops_ready h
    rw [hu, State.readyEvent_only]; rfl
  | false =>
    have hu : u = _ := dieStops_unready h
    rw [hu]; rfl

end Sys2Proof.Machine

end

section

/-! PROOF. What is lost with a core that is fenced (O55). -/

open Sys2Proof.Claim
namespace Sys2Proof.Machine

variable {s t u : State}

theorem settleAll_only (s : State) : s.settleAll = { s with ctxs := s.settleAll.ctxs } := by
  unfold State.settleAll
  generalize s.ctxs.map (·.1) = ks
  induction ks generalizing s with
  | nil => rfl
  | cons k ks ih =>
    have hk : s.settleCtx k = { s with ctxs := (s.settleCtx k).ctxs } := by unfold State.settleCtx; dsimp only; split <;> rfl
    rw [List.foldl_cons, ih, hk]

@[simp] theorem State.launchOf_setLaunch_same (s : State) (c : Nat) (l : Launch) : (s.setLaunch c l).launchOf c = some l := by
  simp [State.setLaunch, State.launchOf]
theorem State.launchOf_setLaunch_ne (s : State) {c d : Nat} (l : Launch) (h : d ≠ c) : (s.setLaunch c l).launchOf d = s.launchOf d := by
  unfold State.setLaunch State.launchOf; rw [State.ctx_setCtx_ne _ _ h]

/-- A launch that there is stays while the launch of some context changes. -/
theorem launchOf_setLaunch {c : Nat} {l : Launch} {x : Nat} (h : s.launchOf x ≠ none) : (s.setLaunch c l).launchOf x ≠ none := by
  by_cases hx : x = c
  · rw [hx, State.launchOf_setLaunch_same]; exact Option.some_ne_none _
  · rwa [State.launchOf_setLaunch_ne _ _ hx]

theorem launchOf_endLaunchWith {c code : Nat} {info : EndInfo} {x : Nat} (h : s.launchOf x ≠ none) :
    (s.endLaunchWith c code info).launchOf x ≠ none := by
  unfold State.endLaunchWith; dsimp only; split
  · exact h
  · exact launchOf_setLaunch h

theorem endLaunchWith_grps (s : State) (c code : Nat) (info : EndInfo) : (s.endLaunchWith c code info).grps = s.grps := by
  unfold State.endLaunchWith; dsimp only; split <;> rfl

theorem launchOf_loseCoreGroups {x c y : Nat} (h : s.launchOf y ≠ none) : (s.loseCoreGroups x c).launchOf y ≠ none := by
  unfold State.loseCoreGroups; dsimp only
  split
  · exact h
  · split
    · exact launchOf_setLaunch h
    · split
      · exact launchOf_endLaunchWith (launchOf_setLaunch h)
      · exact launchOf_setLaunch h

/-- Which core groups remain of a context whose launch has lost a core (R205). -/
theorem loseCoreGroups_grps {x c : Nat} (hx : s.launchOf x ≠ none) : (s.loseCoreGroups x c).grps =
    let here := (s.groupsOf x).filter fun e => e.2.core == c
    if here.isEmpty then s.grps else s.grps.filter fun e => !(here.map fun e => e.1).contains e.1 := by
  obtain ⟨l, hl⟩ := Option.ne_none_iff_exists'.1 hx
  unfold State.loseCoreGroups; dsimp only
  rw [hl]; dsimp only
  split
  · rfl
  · split
    · exact endLaunchWith_grps ..
    · rfl

theorem loseCoreGroups_of_no_launch {x c : Nat} (hx : s.launchOf x = none) : s.loseCoreGroups x c = s := by
  unfold State.loseCoreGroups; dsimp only; rw [hx]

/-- No core group of the context is left on a core that is lost, and none has come. -/
theorem mem_loseCoreGroups_grps {x c : Nat} {e : Nat × Grp} (he : e ∈ (s.loseCoreGroups x c).grps) :
    e ∈ s.grps ∧ (s.launchOf x ≠ none → e.2.ctx = x → e.2.core ≠ c) := by
  by_cases hx : s.launchOf x = none
  · rw [loseCoreGroups_of_no_launch hx] at he
    exact ⟨he, absurd hx⟩
  · rw [loseCoreGroups_grps hx] at he
    have hhere (hg : e ∈ s.grps) (h : e.2.ctx = x) (hc : e.2.core = c) : e ∈ (s.groupsOf x).filter fun e => e.2.core == c := by
      simp [State.groupsOf, hg, h, hc]
    dsimp only at he
    split at he
    · next hempty =>
      refine ⟨he, fun _ h hc => ?_⟩
      have := hhere he h hc
      rw [List.isEmpty_iff.1 hempty] at this
      exact List.not_mem_nil this
    · obtain ⟨hmem, hkey⟩ := List.mem_filter.1 he
      refine ⟨hmem, fun _ h hc => ?_⟩
      rw [List.contains_iff_mem.2 (List.mem_map_of_mem (hhere hmem h hc))] at hkey
      exact Bool.false_ne_true hkey

-- A slot whose task is lost (R205).

/-- The machine apart from memory and from what leaves the package. -/
def State.work (s : State) : State := { s with mem := {}, out := [], eth := {}, preg := {} }

theorem foldl_keeps {α γ : Type} {f : State → α → State} (m : State → γ) (hf : ∀ s a, m (f s a) = m s) (l : List α) (s : State) :
    m (l.foldl f s) = m s := by
  induction l generalizing s with
  | nil => rfl
  | cons a l ih => rw [List.foldl_cons, ih, hf]

theorem emit_work (s : State) (typ ctx : Nat) (p : List Byte) : (s.emit typ ctx p).work = s.work := by
  rw [State.emit_only]; rfl

theorem settleKeys_work (s : State) : s.settleKeys.work = s.work := by
  unfold State.settleKeys; dsimp only
  split
  · rfl
  · exact foldl_keeps State.work (fun _ _ => by rw [emit_work]; rfl) _ s

/-- A release of pins may free keys (R174, R383): it moves nothing but memory and what leaves the package. -/
theorem unpin_work (s : State) (ps : List Nat) : (s.unpin ps).work = s.work := by
  unfold State.unpin; split
  · rfl
  · exact settleKeys_work _

@[simp] theorem State.unpin_seqs (s : State) (ps : List Nat) : (s.unpin ps).seqs = s.seqs := (congrArg State.seqs (unpin_work s ps) :)
@[simp] theorem State.unpin_slots (s : State) (ps : List Nat) : (s.unpin ps).slots = s.slots := (congrArg State.slots (unpin_work s ps) :)
@[simp] theorem State.unpin_cores (s : State) (ps : List Nat) : (s.unpin ps).cores = s.cores := (congrArg State.cores (unpin_work s ps) :)
@[simp] theorem State.unpin_grps (s : State) (ps : List Nat) : (s.unpin ps).grps = s.grps := (congrArg State.grps (unpin_work s ps) :)
@[simp] theorem State.unpin_ctxs (s : State) (ps : List Nat) : (s.unpin ps).ctxs = s.ctxs := (congrArg State.ctxs (unpin_work s ps) :)

theorem setLaunch_slots (s : State) (c : Nat) (l : Launch) : (s.setLaunch c l).slots = s.slots := rfl
theorem setLaunch_grps (s : State) (c : Nat) (l : Launch) : (s.setLaunch c l).grps = s.grps := rfl

theorem stageAgain_only (s : State) (t : Task) : s.stageAgain t = { s with graft := (s.stageAgain t).graft } := by
  unfold State.stageAgain; split
  · split <;> rfl
  · rfl

theorem loseSlot_slot_same (s : State) (k : Nat) : ((s.loseSlot k).slot k).task = none := by
  unfold State.loseSlot; dsimp only
  rw [State.slot_setSeq, State.slot_setSeq, State.slot_setSlot_same]

theorem loseSlot_slot_ne (s : State) {k j : Nat} (h : j ≠ k) : (s.loseSlot k).slot j = s.slot j := by
  unfold State.loseSlot; dsimp only
  rw [State.slot_setSeq, State.slot_setSeq, State.slot_setSlot_ne _ _ h]
  refine slot_of_slots ?_ j
  split
  · rw [stageAgain_only]; dsimp only; split <;> simp [setLaunch_slots]
  · simp

theorem loseSlot_grps (s : State) (k : Nat) : (s.loseSlot k).grps = s.grps := by
  unfold State.loseSlot; dsimp only
  simp only [State.setSeq_grps, State.setSlot_grps]
  split
  · rw [stageAgain_only]; dsimp only; split <;> simp [setLaunch_grps]
  · simp

/-- What runs in a slot is lost, if anything runs there. -/
def State.dropSlot (s : State) (k : Nat) : State := if (s.slot k).task.isSome then s.loseSlot k else s

theorem dropSlot_slot_same (s : State) (k : Nat) : ((s.dropSlot k).slot k).task = none := by
  unfold State.dropSlot; split
  · exact loseSlot_slot_same s k
  · next h => simpa using h

theorem dropSlot_slot_none {j : Nat} (h : (s.slot j).task = none) (k : Nat) : ((s.dropSlot k).slot j).task = none := by
  by_cases hj : j = k
  · rw [hj]; exact dropSlot_slot_same s k
  · unfold State.dropSlot; split
    · rwa [loseSlot_slot_ne _ hj]
    · exact h

theorem dropSlot_grps (s : State) (k : Nat) : (s.dropSlot k).grps = s.grps := by
  unfold State.dropSlot; split
  · exact loseSlot_grps s k
  · rfl

theorem foldl_dropSlot_slot {ks : List Nat} {j : Nat} (h : j ∈ ks ∨ (s.slot j).task = none) :
    ((ks.foldl State.dropSlot s).slot j).task = none := by
  induction ks generalizing s with
  | nil => exact h.resolve_left List.not_mem_nil
  | cons k ks ih =>
    refine ih ?_
    rcases h with h | h
    · rcases List.mem_cons.1 h with rfl | h
      · exact .inr (dropSlot_slot_same s j)
      · exact .inl h
    · exact .inr (dropSlot_slot_none h k)

-- A core is fenced (R14, R205).

/-- The groups of every context on a core are lost. -/
def State.dropGroups (s : State) (c : Nat) : State := (s.ctxs.map fun e => e.1).foldl (fun s x => s.loseCoreGroups x c) s

theorem foldl_loseCoreGroups_grps {c : Nat} {xs : List Nat} {e : Nat × Grp} (hl : ∀ e ∈ s.grps, s.launchOf e.2.ctx ≠ none)
    (he : e ∈ (xs.foldl (fun s x => s.loseCoreGroups x c) s).grps) : e ∈ s.grps ∧ (e.2.ctx ∈ xs → e.2.core ≠ c) := by
  induction xs generalizing s with
  | nil => exact ⟨he, fun h => absurd h List.not_mem_nil⟩
  | cons x xs ih =>
    obtain ⟨hmem, hlater⟩ := ih (fun e h => launchOf_loseCoreGroups (hl e (mem_loseCoreGroups_grps h).1)) he
    obtain ⟨hs, hnow⟩ := mem_loseCoreGroups_grps hmem
    refine ⟨hs, fun hx => ?_⟩
    rcases List.mem_cons.1 hx with h | h
    · exact hnow (h ▸ hl e hs) h
    · exact hlater h

theorem tblGet_of_not_mem {α : Type} {t : Tbl α} {k : Nat} (h : k ∉ t.map fun e => e.1) : tblGet t k = none := by
  induction t with
  | nil => rfl
  | cons e t ih =>
    simp only [List.map_cons, List.mem_cons, not_or] at h
    rw [tblGet_cons, if_neg (Ne.symm h.1), ih h.2]

/-- Only a context that is there has a launch. -/
theorem mem_ctxs_of_launchOf {x : Nat} (h : s.launchOf x ≠ none) : x ∈ s.ctxs.map fun e => e.1 := by
  by_contra hx
  refine h ?_
  rw [State.launchOf, State.ctx, tblGetD, tblGet_of_not_mem hx]; rfl

theorem fenceCore_eq {c : Nat} (hc : c < 32 * s.nDies) (hf : (s.core c).fenced = false) : s.fenceCore c =
    (let u := (slotsOf c).foldl State.dropSlot (s.dropGroups c)
     u.setCore c { power := (u.core c).power, fenced := true }).settleAll :=
  if_neg (c := (decide (32 * s.nDies ≤ c) || (s.core c).fenced) = true) (by simp [hf, hc])

theorem fenceCore_effect {c : Nat} (hc : c < 32 * s.nDies) (hf : (s.core c).fenced = false)
    (hl : ∀ e ∈ s.grps, s.launchOf e.2.ctx ≠ none) : let t := s.fenceCore c
    (t.core c).fenced = true ∧ t.coreUp c = false ∧ (∀ e ∈ t.grps, e.2.core ≠ c) ∧ ∀ j, j < 4 → (t.slot (4 * c + j)).task = none := by
  intro t
  have hgrps (e : Nat × Grp) (he : e ∈ ((slotsOf c).foldl State.dropSlot (s.dropGroups c)).grps) : e.2.core ≠ c := by
    rw [foldl_keeps State.grps dropSlot_grps] at he
    obtain ⟨hmem, hcore⟩ := foldl_loseCoreGroups_grps hl he
    exact hcore (mem_ctxs_of_launchOf (hl e hmem))
  have hslots (j : Nat) (hj : j < 4) : (((slotsOf c).foldl State.dropSlot (s.dropGroups c)).slot (4 * c + j)).task = none := by
    refine foldl_dropSlot_slot (.inl ?_)
    simp only [slotsOf, List.mem_cons, List.not_mem_nil]; omega
  have ht : t = _ := fenceCore_eq hc hf
  generalize (slotsOf c).foldl State.dropSlot (s.dropGroups c) = u at hgrps hslots ht
  rw [settleAll_only] at ht
  have hcore : t.core c = { power := (u.core c).power, fenced := true } := by
    rw [core_of_cores (s := u.setCore c { power := (u.core c).power, fenced := true }) (by rw [ht]), State.core_setCore_same]
  refine ⟨by rw [hcore], by simp [State.coreUp, hcore], ?_, fun j hj => ?_⟩
  · rw [ht]; exact hgrps
  · rw [slot_of_slots (s := u) (by rw [ht]; rfl)]; exact hslots j hj

end Sys2Proof.Machine

end

section

/-! PROOF. Stacks, optical ports and Ethernet ports (O55). -/

open Sys2Proof.Claim
namespace Sys2Proof.Machine

variable {s t u : State}

/-- Storage that is written whole is free of errors (R413). -/
theorem scrubWhere_only (s : State) (p : UeLoc → Bool) : s.scrubWhere p =
    { s with mem := { s.mem with ue := s.mem.ue.filter fun l => !p l } } := by
  unfold State.scrubWhere; split
  · next h =>
    have hue : s.mem.ue.filter (fun l => !p l) = s.mem.ue := by rw [List.isEmpty_iff.1 h]; rfl
    rw [hue]
  · rfl

/-- The lines of a stack. -/
def ofStack (k : Nat) : UeLoc → Bool
  | .hbmLine l => stackOf (64 * l) == k
  | _ => false

theorem ofStack_iff {k : Nat} {e : UeLoc} : ofStack k e = true ↔ ∃ l, e = .hbmLine l ∧ stackOf (64 * l) = k := by
  cases e <;> simp [ofStack]

theorem stackUp_eq {k : Nat} (hk : k < s.nStacks) (h : tblGet s.mem.stk k = none) : s.stackUp k =
    let u := s.scrubWhere (ofStack k)
    ({ u with mem := { u.mem with stk := tblSet u.mem.stk k true } }).readyEvent 3 k true :=
  if_neg (c := (decide (s.nStacks ≤ k) || (tblGet s.mem.stk k).isSome) = true) (by simp [h, hk])

/-- A stack becomes ready (R394): it is zeroed, and so free of errors. -/
theorem stackUp_effect {k : Nat} (hk : k < s.nStacks) (h : tblGet s.mem.stk k = none) : let t := s.stackUp k
    t = { s with mem := { s.mem with stk := t.mem.stk, ue := t.mem.ue }, out := t.out, eth := t.eth, preg := t.preg } ∧
    (∀ e, e ∈ t.mem.ue ↔ e ∈ s.mem.ue ∧ ¬∃ l, e = .hbmLine l ∧ stackOf (64 * l) = k) ∧
    t.mem.stk = tblSet s.mem.stk k true ∧ ReadyEvent s t 3 k true := by
  intro t
  have ht : t = _ := stackUp_eq hk h
  rw [scrubWhere_only] at ht
  dsimp only at ht
  refine ⟨?_, fun e => ?_, ?_, readyEvent_sends_of ht rfl rfl rfl rfl⟩
  · rw [ht, State.readyEvent_only]
  · rw [ht, State.readyEvent_mem, ← ofStack_iff]
    simp [List.mem_filter]
  · rw [ht, State.readyEvent_mem]

/-- The READY bit of a stack is set to false for good; a stack that was ready sends its event (R394). -/
def State.stackDown (s : State) (k : Nat) : State :=
  let u := { s with mem := { s.mem with stk := tblSet s.mem.stk k false } }
  if tblGet s.mem.stk k == some true then u.readyEvent 3 k false else u

theorem functionFenced_hbm {k : Nat} (hk : k < s.nStacks) (h : tblGet s.mem.stk k ≠ some false) :
    exec (.functionFenced (.hbm k)) s = .next (s.stackDown k) :=
  congrArg Host.Outcome.next (if_neg (c := (decide (s.nStacks ≤ k) || tblGet s.mem.stk k == some false) = true) (by simp [h, hk]))

theorem stackDown_of_ready {k : Nat} (h : tblGet s.mem.stk k = some true) :
    s.stackDown k = ({ s with mem := { s.mem with stk := tblSet s.mem.stk k false } }).readyEvent 3 k false :=
  if_pos (c := (tblGet s.mem.stk k == some true) = true) (by simp [h])

theorem stackDown_of_not_ready {k : Nat} (h : tblGet s.mem.stk k ≠ some true) :
    s.stackDown k = { s with mem := { s.mem with stk := tblSet s.mem.stk k false } } :=
  if_neg (c := (tblGet s.mem.stk k == some true) = true) (by simp [h])

theorem stackDown_effect (s : State) (k : Nat) : let t := s.stackDown k
    t = { s with mem := { s.mem with stk := t.mem.stk }, out := t.out, eth := t.eth, preg := t.preg } ∧
    t.mem.stk = tblSet s.mem.stk k false := by
  intro t
  by_cases h : tblGet s.mem.stk k = some true
  · have ht : t = _ := stackDown_of_ready h
    exact ⟨by rw [ht, State.readyEvent_only], by rw [ht, State.readyEvent_mem]⟩
  · have ht : t = _ := stackDown_of_not_ready h
    exact ⟨by rw [ht], by rw [ht]⟩

theorem tblGet_set {α : Type} (t : Tbl α) (k : Nat) (v : α) (j : Nat) : tblGet (tblSet t k v) j = if j = k then some v else tblGet t j := by
  split
  · next h => rw [h, tblGet_set_same]
  · next h => exact tblGet_set_ne _ _ h

-- Optical and Ethernet ports (R394).

theorem portUp_eq {p : Nat} (hp : p < s.nPorts) (h : (s.port p).ready = false) :
    s.portUp p = (s.setPort p { s.port p with ready := true }).readyEvent 4 p true :=
  if_neg (c := (decide (s.nPorts ≤ p) || (s.port p).ready) = true) (by simp [h, hp])

theorem portUp_effect {p : Nat} (hp : p < s.nPorts) (h : (s.port p).ready = false) : let t := s.portUp p
    t.port p = { s.port p with ready := true } ∧ (∀ r, r ≠ p → t.port r = s.port r) ∧ ReadyEvent s t 4 p true ∧
    t = { s with fab := { s.fab with ports := t.fab.ports }, out := t.out, eth := t.eth, preg := t.preg } := by
  intro t
  have ht : t = _ := portUp_eq hp h
  have hport (r : Nat) : t.port r = (s.setPort p { s.port p with ready := true }).port r := by
    unfold State.port; rw [ht, State.readyEvent_fab]; rfl
  refine ⟨?_, fun r hr => ?_, readyEvent_sends_of ht rfl rfl rfl rfl, ?_⟩
  · rw [hport]; exact tblGetD_set_same ..
  · rw [hport]; exact tblGetD_set_ne _ _ _ hr
  · rw [ht, State.readyEvent_only]; rfl

/-- An Ethernet port is another; nothing else has changed but by its event. -/
structure EthPortBecomes (s t : State) (p : Nat) (w : EthPort) : Prop where
  port : t.ethPort p = w
  others : ∀ r, r ≠ p → t.ethPort r = s.ethPort r
  only : t = { s with out := t.out, eth := t.eth, preg := t.preg }

theorem ethPortBecomes_setEthPort (s : State) (p : Nat) (w : EthPort) : EthPortBecomes s (s.setEthPort p w) p w :=
  ⟨tblGetD_set_same .., fun _ hr => tblGetD_set_ne _ _ _ hr, rfl⟩

theorem ethPortBecomes_readyEvent (s : State) (p : Nat) (w : EthPort) (on : Bool) :
    EthPortBecomes s ((s.setEthPort p w).readyEvent 5 p on) p w := by
  have hport (r : Nat) : ((s.setEthPort p w).readyEvent 5 p on).ethPort r = (s.setEthPort p w).ethPort r := by
    unfold State.ethPort; rw [State.readyEvent_ethPorts]
  obtain ⟨hp, hothers, -⟩ := ethPortBecomes_setEthPort s p w
  refine ⟨(hport p).trans hp, fun r hr => (hport r).trans (hothers r hr), ?_⟩
  rw [State.readyEvent_only]; rfl

/-- The state with only its Ethernet ports taken from another. -/
def State.withEthPorts (s t : State) : State := { s with eth := { s.eth with ports := t.eth.ports } }

theorem withEthPorts_readyEvent (s : State) (p : Nat) (w : EthPort) (on : Bool) :
    s.withEthPorts ((s.setEthPort p w).readyEvent 5 p on) = s.setEthPort p w := by
  unfold State.withEthPorts; rw [State.readyEvent_ethPorts]; rfl

theorem ethUp_eq {p : Nat} (hp : p < s.nEth) (hr : (s.ethPort p).ready = false) (hf : (s.ethPort p).fenced = false) :
    s.ethUp p = (s.setEthPort p { s.ethPort p with ready := true }).readyEvent 5 p true :=
  if_neg (c := (decide (s.nEth ≤ p) || (s.ethPort p).ready || (s.ethPort p).fenced) = true) (by simp [hr, hf, hp])

/-- An Ethernet port is fenced; one that was ready sends its event (R394). -/
def State.ethDown (s : State) (p : Nat) : State :=
  let u := s.setEthPort p { s.ethPort p with ready := false, fenced := true }
  if (s.ethPort p).ready then u.readyEvent 5 p false else u

theorem functionFenced_eth {p : Nat} (hp : p < s.nEth) (h : (s.ethPort p).fenced = false) :
    exec (.functionFenced (.eth p)) s = .next (s.ethDown p) :=
  congrArg Host.Outcome.next (if_neg (c := (decide (s.nEth ≤ p) || (s.ethPort p).fenced) = true) (by simp [h, hp]))

theorem ethDown_of_ready {p : Nat} (h : (s.ethPort p).ready = true) :
    s.ethDown p = (s.setEthPort p { s.ethPort p with ready := false, fenced := true }).readyEvent 5 p false := if_pos h

theorem ethDown_of_not_ready {p : Nat} (h : (s.ethPort p).ready = false) :
    s.ethDown p = s.setEthPort p { s.ethPort p with ready := false, fenced := true } :=
  if_neg (c := (s.ethPort p).ready = true) (by simp [h])

theorem ethDown_becomes (s : State) (p : Nat) :
    EthPortBecomes s (s.ethDown p) p { s.ethPort p with ready := false, fenced := true } := by
  cases h : (s.ethPort p).ready with
  | true => rw [ethDown_of_ready h]; exact ethPortBecomes_readyEvent ..
  | false => rw [ethDown_of_not_ready h]; exact ethPortBecomes_setEthPort ..

end Sys2Proof.Machine

end

section

/-! PROOF. The moves whose condition does not hold, and bring-up and readiness (O55). -/

open Sys2Proof.Claim
namespace Sys2Proof.Machine

variable {s t u : State}

theorem runs_same {i : Instr} (h : exec i s = .next s) : Runs i s fun t => t = s := ⟨s, h, rfl⟩

theorem endptReady_same (h : s.preg.endptReady = true ∨ s.preg.secReady = false ∨ ∀ e ∈ s.eth.ports, e.2.ready = false) :
    exec (.functionReady .endpt) s = .next s := by
  refine congrArg Host.Outcome.next
    (if_pos (c := (s.preg.endptReady || !s.preg.secReady || !s.eth.ports.any fun e => e.2.ready) = true) ?_)
  rcases h with h | h | h
  · simp [h]
  · simp [h]
  · have hany : (s.eth.ports.any fun e => e.2.ready) = false := by
      rw [List.any_eq_false]; exact fun e he => by simp [h e he]
    rw [hany, Bool.not_false, Bool.or_true]

theorem endptReady_up (he : s.preg.endptReady = false) (hs : s.preg.secReady = true) (hp : ∃ e ∈ s.eth.ports, e.2.ready = true) :
    exec (.functionReady .endpt) s = .next (({ s with preg := { s.preg with endptReady := true } }).readyEvent 1 0 true) := by
  have hany : (s.eth.ports.any fun e => e.2.ready) = true := List.any_eq_true.2 hp
  exact congrArg Host.Outcome.next (if_neg (c := (s.preg.endptReady || !s.preg.secReady || !s.eth.ports.any fun e => e.2.ready) = true)
    (by rw [he, hs, hany]; decide))

theorem dieUp_same {d : Nat} (h : s.nDies ≤ d ∨ (s.die d).ready = true ∨ (s.die d).fenced = true) : s.dieUp d = s :=
  if_pos (c := (decide (s.nDies ≤ d) || (s.die d).ready || (s.die d).fenced) = true) (by simpa [or_assoc] using h)

theorem fenceDie_same {d : Nat} (h : s.nDies ≤ d ∨ (s.die d).fenced = true) : s.fenceDie d = s :=
  if_pos (c := (decide (s.nDies ≤ d) || (s.die d).fenced) = true) (by simpa using h)

theorem fenceCore_same {c : Nat} (h : 32 * s.nDies ≤ c ∨ (s.core c).fenced = true) : s.fenceCore c = s :=
  if_pos (c := (decide (32 * s.nDies ≤ c) || (s.core c).fenced) = true) (by simpa using h)

theorem stackUp_same {k : Nat} (h : s.nStacks ≤ k ∨ (tblGet s.mem.stk k).isSome = true) : s.stackUp k = s :=
  if_pos (c := (decide (s.nStacks ≤ k) || (tblGet s.mem.stk k).isSome) = true) (by simpa using h)

theorem functionFenced_hbm_same {k : Nat} (h : s.nStacks ≤ k ∨ tblGet s.mem.stk k = some false) :
    exec (.functionFenced (.hbm k)) s = .next s :=
  congrArg Host.Outcome.next (if_pos (c := (decide (s.nStacks ≤ k) || tblGet s.mem.stk k == some false) = true) (by simpa using h))

theorem portUp_same {p : Nat} (h : s.nPorts ≤ p ∨ (s.port p).ready = true) : s.portUp p = s :=
  if_pos (c := (decide (s.nPorts ≤ p) || (s.port p).ready) = true) (by simpa using h)

theorem ethUp_same {p : Nat} (h : s.nEth ≤ p ∨ (s.ethPort p).ready = true ∨ (s.ethPort p).fenced = true) : s.ethUp p = s :=
  if_pos (c := (decide (s.nEth ≤ p) || (s.ethPort p).ready || (s.ethPort p).fenced) = true) (by simpa [or_assoc] using h)

theorem functionFenced_eth_same {p : Nat} (h : s.nEth ≤ p ∨ (s.ethPort p).fenced = true) :
    exec (.functionFenced (.eth p)) s = .next s :=
  congrArg Host.Outcome.next (if_pos (c := (decide (s.nEth ≤ p) || (s.ethPort p).fenced) = true) (by simpa using h))

/-- Settles O55: a change of a READY bit is one update of its unit and `State.readyEvent`, which sends the event as R375 says. -/
theorem bringUpAndReadiness : Obligations.BringUpAndReadiness := by
  intro s event ready fenced same
  refine ⟨fun fw cfg kerez sigs ck puf => ⟨fun h => runs_same (bringUp_again h), ?bringUp⟩, runs_same rfl,
    fun h => runs_same (endptReady_same h), ?endpt, fun d => ⟨fun h => runs_same (congrArg _ (dieUp_same h)), ?dieUp⟩,
    fun d => ⟨fun h => runs_same (congrArg _ (fenceDie_same h)), ?dieFence⟩,
    fun c => ⟨runs_same rfl, fun h => runs_same (congrArg _ (fenceCore_same h)), ?core⟩,
    fun k => ⟨fun h => runs_same (congrArg _ (stackUp_same h)), ?stackUp, fun h => runs_same (functionFenced_hbm_same h), ?stackFence⟩,
    fun p => ⟨fun h => runs_same (congrArg _ (portUp_same h)), ?portUp, runs_same rfl⟩,
    fun p => ⟨fun h => runs_same (congrArg _ (ethUp_same h)), ?ethUp, fun h => runs_same (functionFenced_eth_same h), ?ethFence⟩,
    runs_same rfl, runs_same rfl⟩
  case bringUp =>
    intro h
    obtain ⟨only, others, zero, head⟩ := identified_effect s fw cfg ck puf
    by_cases hv : Verified fw cfg kerez sigs
    · refine ⟨_, bringUp_verified h hv, _, only, others, zero, head, ?_⟩
      refine (if_pos hv).mpr ⟨?_, State.emit_secReady .., readyEvent_sends ..⟩
      rw [State.readyEvent_only]
    · exact ⟨_, bringUp_unverified h hv, _, only, others, zero, head, (if_neg hv).mpr rfl⟩
  case endpt =>
    intro he hs hp
    refine ⟨_, endptReady_up he hs hp, ?_, ?_, readyEvent_sends ..⟩
    · rw [State.readyEvent_only]
    · exact State.emit_endptReady ..
  case dieUp =>
    intro hd hr hf
    obtain ⟨only, die, others, cores, keeps, elects, event⟩ := dieUp_comesUp hd hr hf
    exact ⟨s.dieUp d, rfl, only, die, others, cores, keeps, elects, event⟩
  case dieFence =>
    intro hd hf
    refine ⟨s.fenceDie d, rfl, s.dieStops d, ⟨_, dieFence_dieStops s d, (fenceDie_eq hd hf).symm⟩, dieStops_only s d, ?_, fun e he => ?_,
      fun h => ?_, fun h => ?_⟩
    · rw [dieStops_die, State.die_setDie_same]
    · rw [dieStops_die, State.die_setDie_ne _ _ he]
    · exact readyEvent_sends_of (on := false) (dieStops_ready h) rfl rfl rfl rfl
    · rw [dieStops_unready h]; rfl
  case core => exact fun hc hf hl => ⟨s.fenceCore c, rfl, fenceCore_effect hc hf hl⟩
  case stackUp =>
    intro hk h
    obtain ⟨only, errors, hstk, event⟩ := stackUp_effect hk h
    exact ⟨s.stackUp k, rfl, only, errors, fun j => by rw [hstk, tblGet_set], event⟩
  case stackFence =>
    intro hk h
    obtain ⟨only, hstk⟩ := stackDown_effect s k
    refine ⟨_, functionFenced_hbm hk h, only, fun j => by rw [hstk, tblGet_set], fun hr => ?_, fun hn => ?_⟩
    · exact readyEvent_sends_of (on := false) (stackDown_of_ready hr) rfl rfl rfl rfl
    · rw [stackDown_of_not_ready (by simp [hn])]
  case portUp => exact fun hp h => ⟨s.portUp p, rfl, portUp_effect hp h⟩
  case ethUp =>
    intro hp hr hf
    have ht := ethUp_eq hp hr hf
    obtain ⟨port, others, only⟩ := ethPortBecomes_readyEvent s p { s.ethPort p with ready := true } true
    rw [← ht] at port others only
    refine ⟨s.ethUp p, rfl, ⟨port, others, only⟩, ?_⟩
    change ReadyEvent (s.withEthPorts (s.ethUp p)) (s.ethUp p) 5 p true
    rw [ht, withEthPorts_readyEvent]
    exact readyEvent_sends ..
  case ethFence =>
    intro hp hf
    obtain ⟨port, others, only⟩ := ethDown_becomes s p
    refine ⟨_, functionFenced_eth hp hf, ⟨port, others, only⟩, fun h => ?_, fun h => ?_⟩
    · change ReadyEvent (s.withEthPorts (s.ethDown p)) (s.ethDown p) 5 p false
      rw [ethDown_of_ready h, withEthPorts_readyEvent]
      exact readyEvent_sends ..
    · rw [ethDown_of_not_ready h]; rfl

end Sys2Proof.Machine

end

section

/-! PROOF. Which asynchronous cause a boundary takes, and how a wait ends there (O43). -/

namespace Sys2Proof.Machine

variable {s : State}

/-- The order in which a boundary takes what is held (R305): a machine check before all others, these by their codes. -/
def Trp.Precedes (h j : Trp) : Prop := h.code = 0x20 ∨ (j.code ≠ 0x20 ∧ h.code ≤ j.code)

theorem Trp.Precedes.refl (h : Trp) : h.Precedes h := by unfold Trp.Precedes; omega

theorem Trp.Precedes.trans {a b c : Trp} (hab : a.Precedes b) (hbc : b.Precedes c) : a.Precedes c := by
  unfold Trp.Precedes at *; omega

/-- Of two held causes, the one that a boundary takes, the earlier of two equal ones. -/
def firstOf (b h : Trp) : Trp := if b.code = 0x20 then b else if h.code = 0x20 || decide (h.code < b.code) then h else b

theorem firstOf_precedes (b h : Trp) : (firstOf b h = b ∨ firstOf b h = h) ∧ (firstOf b h).Precedes b ∧ (firstOf b h).Precedes h := by
  unfold firstOf
  split
  · next hb => exact ⟨.inl rfl, .refl b, .inl hb⟩
  · next hb =>
    split
    · next hlt =>
      simp only [Bool.or_eq_true, decide_eq_true_eq] at hlt
      exact ⟨.inr rfl, hlt.imp_right fun h => ⟨hb, Nat.le_of_lt h⟩, .refl h⟩
    · next hge =>
      simp only [Bool.or_eq_true, decide_eq_true_eq, not_or, Nat.not_lt] at hge
      exact ⟨.inl rfl, .refl b, .inr hge⟩

theorem firstHeld_cons (b : Trp) (hs : List Trp) : firstHeld (b :: hs) = some (hs.foldl firstOf b) := by
  unfold firstHeld
  rw [List.foldl_cons]
  dsimp only
  induction hs generalizing b with
  | nil => rfl
  | cons h hs ih =>
    rw [List.foldl_cons, List.foldl_cons, ← ih]
    congr 1
    unfold firstOf; dsimp only
    split
    · rfl
    · split <;> rfl

theorem foldl_firstOf (hs : List Trp) (b : Trp) : hs.foldl firstOf b ∈ b :: hs ∧ ∀ j ∈ b :: hs, (hs.foldl firstOf b).Precedes j := by
  induction hs generalizing b with
  | nil => exact ⟨List.mem_cons_self .., fun j hj => List.mem_singleton.1 hj ▸ .refl b⟩
  | cons h hs ih =>
    obtain ⟨hmem, hall⟩ := ih (firstOf b h)
    obtain ⟨hone, hb, hh⟩ := firstOf_precedes b h
    have hfirst := hall _ (List.mem_cons_self ..)
    refine ⟨?_, fun j hj => ?_⟩
    · simp only [List.foldl_cons, List.mem_cons] at hmem ⊢
      rcases hmem with e | hmem
      · rcases hone with e' | e' <;> rw [e, e'] <;> simp
      · exact .inr (.inr hmem)
    · rcases List.mem_cons.1 hj with rfl | hj
      · exact hfirst.trans hb
      · rcases List.mem_cons.1 hj with rfl | hj
        · exact hfirst.trans hh
        · exact hall j (List.mem_cons_of_mem _ hj)

/-- A boundary takes one of the held causes, which none precedes (R305). -/
theorem firstHeld_least {hs : List Trp} (hne : hs ≠ []) : ∃ h, firstHeld hs = some h ∧ h ∈ hs ∧ ∀ j ∈ hs, h.Precedes j := by
  obtain ⟨b, hs, rfl⟩ := List.exists_cons_of_ne_nil hne
  obtain ⟨hmem, hall⟩ := foldl_firstOf hs b
  exact ⟨_, firstHeld_cons b hs, hmem, hall⟩

/-- With at most one machine check held, none is left once a boundary has taken its cause. -/
theorem no_machineCheck_left {hs : List Trp} {h : Trp} (hmem : h ∈ hs) (hall : ∀ j ∈ hs, h.Precedes j)
    (hone : (hs.filter fun j => j.code == 0x20).length ≤ 1) : ∀ j ∈ hs.erase h, j.code ≠ 0x20 := by
  intro j hj hcode
  have hh : h.code = 0x20 := (hall j (List.mem_of_mem_erase hj)).resolve_right fun ⟨hne, _⟩ => hne hcode
  have hperm := ((List.perm_cons_erase hmem).filter fun j => j.code == 0x20).length_eq
  rw [List.filter_cons_of_pos (by simp [hh]), List.length_cons] at hperm
  have hpos := List.length_pos_of_mem (List.mem_filter (p := fun j => j.code == 0x20) |>.2 ⟨hj, beq_iff_eq.2 hcode⟩)
  omega

-- Spinning counted (R294).

/-- What is counted of a wait is neither its instruction nor the record it holds. -/
theorem Seq.counted_wait (v : Seq) (pace : Nat) (now : Word) : ∃ f : Wait → Wait, (∀ w, (f w).ins = w.ins ∧ (f w).held = w.held) ∧
    v.counted pace now = { v with wait := v.wait.map f } :=
  ⟨fun w => { w with seen := w.seen + v.spun pace now, upto := some now }, fun _ => ⟨rfl, rfl⟩, rfl⟩

theorem spinAdd_only (s : State) (k n : Nat) : s.spinAdd k n = { s with slots := (s.spinAdd k n).slots, ctxs := (s.spinAdd k n).ctxs } := by
  unfold State.spinAdd; dsimp only; split <;> rfl

theorem spinAdd_slot_ne (s : State) {k j : Nat} (n : Nat) (h : j ≠ k) : (s.spinAdd k n).slot j = s.slot j := by
  unfold State.spinAdd; dsimp only; split
  · rfl
  · exact State.slot_setSlot_ne _ _ h

@[simp] theorem spinAdd_seqs (s : State) (k n : Nat) : (s.spinAdd k n).seqs = s.seqs := by rw [spinAdd_only]

theorem spinAccrue_only (s : State) (k : Nat) : let u := s.spinAccrue k
    u = { s with seqs := u.seqs, slots := u.slots, ctxs := u.ctxs } := by
  unfold State.spinAccrue; dsimp only; split
  · rfl
  · rw [spinAdd_only]; rfl

theorem spinAccrue_slot_ne (s : State) {k j : Nat} (h : j ≠ k) : (s.spinAccrue k).slot j = s.slot j := by
  unfold State.spinAccrue; dsimp only; split
  · rfl
  · exact spinAdd_slot_ne _ _ h

theorem seq_of_seqs {s t : State} (h : t.seqs = s.seqs) (r : SeqRef) : t.seq r = s.seq r := by unfold State.seq; rw [h]
theorem ctx_of_ctxs {s t : State} (h : t.ctxs = s.ctxs) (c : Nat) : t.ctx c = s.ctx c := by unfold State.ctx; rw [h]

/-- Of a sequencer, counting touches no more than what is counted of its wait. -/
theorem spinAccrue_seq (s : State) (k : Nat) (r : SeqRef) : ∃ f : Wait → Wait, (∀ w, (f w).ins = w.ins ∧ (f w).held = w.held) ∧
    (s.spinAccrue k).seq r = { s.seq r with wait := (s.seq r).wait.map f } := by
  have hsame : ∃ f : Wait → Wait, (∀ w, (f w).ins = w.ins ∧ (f w).held = w.held) ∧ s.seq r = { s.seq r with wait := (s.seq r).wait.map f } :=
    ⟨id, fun _ => ⟨rfl, rfl⟩, by rw [Option.map_id]; rfl⟩
  unfold State.spinAccrue; dsimp only; split
  · exact hsame
  · rw [seq_of_seqs (spinAdd_seqs ..)]
    by_cases hx : r = seqX k
    · rw [hx, State.seq_setSeq_same]; exact Seq.counted_wait ..
    · rw [State.seq_setSeq_ne _ _ hx]
      by_cases ha : r = seqA k
      · rw [ha, State.seq_setSeq_same]; exact Seq.counted_wait ..
      · rw [State.seq_setSeq_ne _ _ ha]; exact hsame

theorem Seq.spun_of_no_wait {v : Seq} (h : v.wait = none) (pace : Nat) (now : Word) : v.spun pace now = 0 := by
  unfold Seq.spun; rw [h]

theorem spinAccrue_of_no_wait {k : Nat} (ha : (s.seq (seqA k)).wait = none) (hx : (s.seq (seqX k)).wait = none) : s.spinAccrue k = s := by
  unfold State.spinAccrue; dsimp only
  rw [Seq.spun_of_no_wait ha, Seq.spun_of_no_wait hx]; rfl

-- The end of a wait at the boundary before it (R305).

/-- The sequencer does not wait, or waits in an instruction that an asynchronous cause ends, with no record captured. -/
def Seq.EndsPlainly (v : Seq) : Prop := v.wait = none ∨ ∃ w, v.wait = some w ∧ w.held = none ∧ endsEarly w.ins = true

theorem isPause_of_endsEarly {i : Instr} (h : endsEarly i = true) : isPause i = false := by
  unfold isPause; split
  · exact absurd h Bool.false_ne_true
  · rfl

namespace Seq.EndsPlainly
variable {v : Seq} (h : v.EndsPlainly)
include h

theorem atBoundary : v.atBoundary = true := by
  rcases h with h | ⟨w, h, -, hins⟩
  · unfold Seq.atBoundary; rw [h]
  · unfold Seq.atBoundary; rw [h]; dsimp only; rw [hins]; rfl

theorem heldPins : v.heldPins = [] := by
  rcases h with h | ⟨w, h, hheld, -⟩
  · unfold Seq.heldPins; rw [h]
  · unfold Seq.heldPins; rw [h]; dsimp only; rw [hheld]

/-- Its wait ends and nothing else of it changes, TIMECMP aside. -/
theorem endWait : v.endWait = { v with wait := none, timecmp := v.endWait.timecmp } := by
  rcases h with h | ⟨w, h, -, hins⟩
  · unfold Seq.endWait; rw [h]; dsimp only; rw [← h]
  · unfold Seq.endWait; rw [h]; dsimp only; rw [isPause_of_endsEarly hins]; rfl

theorem counted {f : Wait → Wait} (hf : ∀ w, (f w).ins = w.ins ∧ (f w).held = w.held) :
    ({ v with wait := v.wait.map f } : Seq).EndsPlainly := by
  rcases h with h | ⟨w, h, hheld, hins⟩
  · exact .inl (by rw [h]; rfl)
  · obtain ⟨e1, e2⟩ := hf w
    exact .inr ⟨f w, by rw [h]; rfl, e2.trans hheld, by rw [e1, hins]⟩

end Seq.EndsPlainly

theorem State.unpin_nil (s : State) : s.unpin [] = s := rfl

/-- The wait of a sequencer that is in no queue for clusters ends: what was spun is counted, and its wait is over. -/
theorem endWaitOf_plainly {q : SeqRef} (h : (s.seq q).EndsPlainly) (hq : ∀ e ∈ (s.core (coreOf q.slot)).scopeQ, e.1 ≠ .seq q) :
    ∃ tc, s.endWaitOf q = (s.spinAccrue q.slot).setSeq q { s.seq q with wait := none, timecmp := tc } := by
  obtain ⟨f, hf, hseq⟩ := spinAccrue_seq s q.slot q
  have hend : ((s.spinAccrue q.slot).seq q).endWait =
      { s.seq q with wait := none, timecmp := ((s.spinAccrue q.slot).seq q).endWait.timecmp } := by
    rw [hseq]; exact (h.counted hf).endWait
  have hcore : ((s.spinAccrue q.slot).core (coreOf q.slot)).scopeQ.any (fun e => e.1 == .seq q) = false := by
    rw [core_of_cores (by rw [spinAccrue_only]), List.any_eq_false]
    exact fun e he => by simpa using hq e he
  refine ⟨((s.spinAccrue q.slot).seq q).endWait.timecmp, ?_⟩
  unfold State.endWaitOf; dsimp only
  rw [h.heldPins, State.unpin_nil, if_neg (by rw [hcore]; exact Bool.false_ne_true), hend]

-- The trap (R303, R305).

theorem tblSet_set {α : Type} (t : Tbl α) (k : Nat) (v w : α) : tblSet (tblSet t k v) k w = tblSet t k w := by
  induction t with
  | nil => simp [tblSet]
  | cons e t ih =>
    obtain ⟨j, x⟩ := e
    by_cases hj : j = k
    · simp [tblSet, hj]
    · by_cases hlt : k < j
      · simp [tblSet, hj, hlt]
      · simp [tblSet, hj, hlt, ih]

theorem State.setSeq_setSeq (s : State) (r : SeqRef) (v w : Seq) : (s.setSeq r v).setSeq r w = s.setSeq r w := by
  unfold State.setSeq; dsimp only; rw [tblSet_set]

theorem asyncTrapTaken_eq {q : SeqRef} {h : Trp} (hfirst : firstHeld (s.seq q).held = some h) (hstop : (s.seq q).stopped = false)
    (htrap : (s.seq q).intrap = false) (hat : (s.seq q).atBoundary = true) (hhalt : (s.slot q.slot).halted = false) :
    exec (.asyncTrapTaken q) s = .next (let u := s.endWaitOf q
      (u.setSeq q { u.seq q with held := (u.seq q).held.erase h }).takeTrap q h.code true (u.seq q).pc h.eval) := by
  rw [exec_asyncTrapTaken]; unfold execAsyncTrapTaken; dsimp only
  rw [hfirst, hstop, htrap, hat, hhalt]; rfl

theorem closeLock_seq (s : State) (k : Nat) (r : SeqRef) : (s.closeLock k).seq r = s.seq r :=
  seq_of_seqs (by rw [State.closeLock_only]) r

/-- The cause that a boundary takes is trapped as R303 says, from the state in which what was spun has been counted. -/
theorem asyncTrapTaken_takes {q : SeqRef} (hne : (s.seq q).held ≠ []) (hstop : (s.seq q).stopped = false)
    (htrap : (s.seq q).intrap = false) (htvec : (s.seq q).tvec.getLsbD 0 = true) (hhalt : (s.slot q.slot).halted = false)
    (hends : (s.seq q).EndsPlainly) (hq : ∀ e ∈ (s.core (coreOf q.slot)).scopeQ, e.1 ≠ .seq q)
    (hone : ((s.seq q).held.filter fun h => h.code == 0x20).length ≤ 1) :
    ∃ h ∈ (s.seq q).held, (∀ j ∈ (s.seq q).held, h.Precedes j) ∧
      exec (.asyncTrapTaken q) s = .next (((s.spinAccrue q.slot).setSeq q { s.seq q with
        held := (s.seq q).held.erase h, epc := (s.seq q).pc &&& ~~~7, cause := BitVec.ofNat 9 (h.code + 256), eval := h.eval,
        intrap := true, wait := none, timecmp := 0, pc := (s.seq q).tvec &&& ~~~7 }).closeLock q.slot) := by
  obtain ⟨h, hfirst, hmem, hall⟩ := firstHeld_least hne
  obtain ⟨tc, hend⟩ := endWaitOf_plainly hends hq
  refine ⟨h, hmem, hall, ?_⟩
  rw [asyncTrapTaken_eq hfirst hstop htrap hends.atBoundary hhalt, hend]
  dsimp only
  rw [State.seq_setSeq_same, State.takeTrap_handled]
  · rw [State.seq_setSeq_same, State.setSeq_setSeq, State.setSeq_setSeq]; rfl
  · rw [State.seq_setSeq_same]; exact htrap
  · rw [State.seq_setSeq_same]; exact htvec
  · rw [State.seq_setSeq_same]; exact no_machineCheck_left hmem hall hone

-- Until then nothing else completes the wait (R305).

theorem waiting_of_due {w : Wait} (hheld : s.q.held ≠ []) (htrap : s.q.intrap = false) (hwait : s.q.wait = some w)
    (hins : endsEarly w.ins = true) : s.waiting s.cur = none := by
  have hdue : s.q.trapDue = true := by
    unfold Seq.trapDue Seq.atBoundary
    rw [htrap, hwait]; dsimp only
    rw [hins]; simpa using hheld
  unfold State.waiting; dsimp only
  exact if_pos hdue

theorem asyncTrapTaken_same {q : SeqRef} (h : (s.seq q).held = [] ∨ (s.seq q).stopped = true ∨ (s.seq q).intrap = true) :
    exec (.asyncTrapTaken q) s = .next s := by
  rw [exec_asyncTrapTaken]; unfold execAsyncTrapTaken; dsimp only
  rcases h with h | h
  · rw [h]; rfl
  · split
    · rfl
    · rw [if_pos]
      rcases h with h | h <;> simp [h]

end Sys2Proof.Machine

end

section

/-! PROOF. What the end of a task, a group or a save leaves of the sequencers, the slots and the saved tasks (O43). -/

namespace Sys2Proof.Machine

variable {s : State}

/-- The sequencers, the slots, and the saved tasks of each context. -/
def State.stands (s : State) : (SeqRef → Seq) × (Nat → Slot) × (Nat → List SavedSlot) := (s.seq, s.slot, fun c => (s.ctx c).savedSlots)

theorem seq_of_stands {s t : State} (h : t.stands = s.stands) (r : SeqRef) : t.seq r = s.seq r := congrFun (congrArg (·.1) h) r
theorem slot_of_stands {s t : State} (h : t.stands = s.stands) (k : Nat) : t.slot k = s.slot k := congrFun (congrArg (·.2.1) h) k
theorem savedSlots_of_stands {s t : State} (h : t.stands = s.stands) (c : Nat) : (t.ctx c).savedSlots = (s.ctx c).savedSlots :=
  congrFun (congrArg (·.2.2) h) c

theorem stands_of {s t : State} (hq : t.seqs = s.seqs) (hs : t.slots = s.slots) (hc : t.ctxs = s.ctxs) : t.stands = s.stands := by
  unfold State.stands State.seq State.slot State.ctx; rw [hq, hs, hc]

theorem setCtx_stands {c : Nat} {v : Ctx} (h : v.savedSlots = (s.ctx c).savedSlots) : (s.setCtx c v).stands = s.stands := by
  refine congrArg (fun f => (s.seq, s.slot, f)) (funext fun d => ?_)
  by_cases hd : d = c
  · rw [hd, State.ctx_setCtx_same, h]
  · rw [State.ctx_setCtx_ne _ _ hd]

theorem setSeq_stands {r : SeqRef} {v : Seq} (h : v = s.seq r) : (s.setSeq r v).stands = s.stands := by
  refine congrArg (fun f => (f, s.slot, fun c => (s.ctx c).savedSlots)) (funext fun r' => ?_)
  by_cases hr : r' = r
  · rw [hr, State.seq_setSeq_same, h]
  · rw [State.seq_setSeq_ne _ _ hr]

@[simp] theorem State.setCore_stands (s : State) (c : Nat) (v : Core) : (s.setCore c v).stands = s.stands := rfl
@[simp] theorem State.setGrp_stands (s : State) (g : Nat) (v : Grp) : (s.setGrp g v).stands = s.stands := rfl
@[simp] theorem State.unpin_stands (s : State) (ps : List Nat) : (s.unpin ps).stands = s.stands := stands_of (by simp) (by simp) (by simp)

@[simp] theorem State.settleCore_stands (s : State) (c : Nat) : (s.settleCore c).stands = s.stands := by
  unfold State.settleCore; dsimp only; split <;> rfl

@[simp] theorem State.settleCtx_stands (s : State) (c : Nat) : (s.settleCtx c).stands = s.stands := by
  unfold State.settleCtx; dsimp only; split
  · exact setCtx_stands rfl
  · rfl

@[simp] theorem State.beginSave_stands (s : State) (c : Nat) : (s.beginSave c).stands = s.stands := by
  unfold State.beginSave; dsimp only; split
  · exact setCtx_stands rfl
  · rfl

@[simp] theorem State.saveGrp_stands (s : State) (g : Nat) : (s.saveGrp g).stands = s.stands := by
  unfold State.saveGrp; split
  · rfl
  · split
    · rfl
    · dsimp only
      rw [State.settleCore_stands, setCtx_stands (by rfl), State.beginSave_stands]
      split <;> rfl

@[simp] theorem State.settleGrp_stands (s : State) (g : Nat) : (s.settleGrp g).stands = s.stands := by
  unfold State.settleGrp; split
  · rfl
  · dsimp only
    split
    · rfl
    · split
      · rfl
      · rw [State.settleCore_stands, setCtx_stands]
        · split <;> rfl
        · split <;> rfl

@[simp] theorem State.departs_stands (s : State) (c g : Nat) : (s.departs c g).stands = s.stands := by
  unfold State.departs; split
  · simp
  · rfl

@[simp] theorem State.stageEnd_stands (s : State) (t : Task) : (s.stageEnd t).stands = s.stands := by
  unfold State.stageEnd; split
  · split <;> rfl
  · rfl

end Sys2Proof.Machine

end

section

/-! PROOF. A pre-emption saves its slot, or stops its task (O43). -/

open Sys2Proof.Claim
namespace Sys2Proof.Machine

variable {s : State}

theorem Seq.endWait_of_no_wait {v : Seq} (h : v.wait = none) : v.endWait = v := by unfold Seq.endWait; rw [h]
theorem Seq.heldPins_of_no_wait {v : Seq} (h : v.wait = none) : v.heldPins = [] := by unfold Seq.heldPins; rw [h]
theorem Seq.atPreempt_of_no_wait {v : Seq} (h : v.wait = none) : v.atPreempt = true := by unfold Seq.atPreempt; rw [h]
theorem Seq.saved_of_no_wait {v : Seq} (h : v.wait = none) : v.saved = { v with loopBuf := [] } := by
  unfold Seq.saved; rw [Seq.endWait_of_no_wait h]

/-- Neither sequencer of a slot waits. -/
def State.NoWait (s : State) (k : Nat) : Prop := (s.seq (seqA k)).wait = none ∧ (s.seq (seqX k)).wait = none

theorem State.NoWait.of_stands {t : State} {k : Nat} (h : s.NoWait k) (ht : t.stands = s.stands) : t.NoWait k := by
  unfold State.NoWait; rw [seq_of_stands ht, seq_of_stands ht]; exact h

theorem endWaitOf_of_no_wait {r : SeqRef} (h : s.NoWait r.slot) (hr : (s.seq r).wait = none) : (s.endWaitOf r).stands = s.stands := by
  unfold State.endWaitOf; dsimp only
  rw [spinAccrue_of_no_wait h.1 h.2, Seq.heldPins_of_no_wait hr, State.unpin_nil]
  split
  · exact setSeq_stands (Seq.endWait_of_no_wait hr)
  · exact setSeq_stands (Seq.endWait_of_no_wait hr)

theorem endWaits_of_no_wait {k : Nat} (h : s.NoWait k) : ((s.endWaitOf (seqA k)).endWaitOf (seqX k)).stands = s.stands := by
  have ha := endWaitOf_of_no_wait (r := seqA k) h h.1
  have h' := h.of_stands ha
  exact (endWaitOf_of_no_wait (r := seqX k) h' h'.2).trans ha

theorem seqA_ne_seqX (k : Nat) : seqA k ≠ seqX k := by simp [seqA, seqX]

/-- A task is put away among those saved of its context, and its slot and sequencers are as after reset. -/
def State.putAway (s : State) (k c : Nat) (v : SavedSlot) : State :=
  (((s.setCtx c { s.ctx c with savedSlots := (s.ctx c).savedSlots ++ [v] }).setSlot k { gen := (s.slot k).gen + 1 }).setSeq (seqA k) {}).setSeq
    (seqX k) {}

/-- What has become of a slot whose task is put away (R312). -/
structure PutAway (s t : State) (k c : Nat) (v : SavedSlot) : Prop where
  slot : t.slot k = { gen := (s.slot k).gen + 1 }
  a : t.seq (seqA k) = {}
  x : t.seq (seqX k) = {}
  slots : ∀ j, j ≠ k → t.slot j = s.slot j
  seqs : ∀ r, r ≠ seqA k → r ≠ seqX k → t.seq r = s.seq r
  saved : (t.ctx c).savedSlots = (s.ctx c).savedSlots ++ [v]

theorem putAway_putAway (s : State) (k c : Nat) (v : SavedSlot) : PutAway s (s.putAway k c v) k c v where
  slot := by unfold State.putAway; rw [State.slot_setSeq, State.slot_setSeq, State.slot_setSlot_same]
  a := by unfold State.putAway; rw [State.seq_setSeq_ne _ _ (seqA_ne_seqX k), State.seq_setSeq_same]
  x := by unfold State.putAway; rw [State.seq_setSeq_same]
  slots := fun j hj => by unfold State.putAway; rw [State.slot_setSeq, State.slot_setSeq, State.slot_setSlot_ne _ _ hj]; rfl
  seqs := fun r ha hx => by unfold State.putAway; rw [State.seq_setSeq_ne _ _ hx, State.seq_setSeq_ne _ _ ha]; rfl
  saved := by unfold State.putAway; rw [State.ctx_setSeq, State.ctx_setSeq, State.ctx_setSlot, State.ctx_setCtx_same]

theorem PutAway.of_stands {s s' t t' : State} {k c : Nat} {v : SavedSlot} (h : PutAway s t k c v) (hs : s.stands = s'.stands)
    (ht : t'.stands = t.stands) : PutAway s' t' k c v where
  slot := by rw [slot_of_stands ht, h.slot, slot_of_stands hs]
  a := by rw [seq_of_stands ht, h.a]
  x := by rw [seq_of_stands ht, h.x]
  slots := fun j hj => by rw [slot_of_stands ht, h.slots j hj, slot_of_stands hs]
  seqs := fun r ha hx => by rw [seq_of_stands ht, h.seqs r ha hx, seq_of_stands hs]
  saved := by rw [savedSlots_of_stands ht, h.saved, savedSlots_of_stands hs]

/-- A save puts the task away, and whatever else leaves the core with it changes no slot (R312). -/
theorem saveSlot_putAway {k : Nat} {tk : Task} (htask : (s.slot k).task = some tk) (hw : s.NoWait k) :
    PutAway s (s.saveSlot k) k tk.ctx {
      grp := tk.grp, from_ := k, slot := (s.slot k).saved
      a := { s.seq (seqA k) with loopBuf := [] }, x := { s.seq (seqX k) with loopBuf := [] } } := by
  have hbegin := s.beginSave_stands tk.ctx
  have hends := (endWaits_of_no_wait (hw.of_stands hbegin)).trans hbegin
  unfold State.saveSlot; dsimp only
  rw [htask]; dsimp only
  generalize ((s.beginSave tk.ctx).endWaitOf (seqA k)).endWaitOf (seqX k) = w at hends
  generalize List.flatten _ = ps
  have hu : (w.unpin ps).stands = s.stands := (w.unpin_stands ps).trans hends
  rw [slot_of_stands hends, seq_of_stands hu, seq_of_stands hu, Seq.saved_of_no_wait hw.1, Seq.saved_of_no_wait hw.2,
    ← slot_of_stands hu]
  refine (putAway_putAway (w.unpin ps) k tk.ctx _).of_stands hu ?_
  simp only [State.settleCtx_stands, State.settleCore_stands, State.saveGrp_stands]
  rfl

-- A task is stopped (R195, R304).

/-- No record is queued at the slot. -/
def Slot.NoRecords (t : Slot) : Prop := t.qmx = [] ∧ t.qvx = [] ∧ t.qcx = [] ∧ t.qae = []

/-- All that stands is as in `s`, but for one slot, at which no record has been queued. -/
def State.OnlySlot (s t : State) (k : Nat) : Prop := ∃ v, t.stands = (s.setSlot k v).stands ∧ ((s.slot k).NoRecords → v.NoRecords)

theorem setSlot_stands {k : Nat} {v : Slot} (h : v = s.slot k) : (s.setSlot k v).stands = s.stands := by
  refine congrArg (fun f => (s.seq, f, fun c => (s.ctx c).savedSlots)) (funext fun j => ?_)
  by_cases hj : j = k
  · rw [hj, State.slot_setSlot_same, h]
  · rw [State.slot_setSlot_ne _ _ hj]

theorem setSlot_stands_congr {t : State} (h : t.stands = s.stands) (k : Nat) (v : Slot) : (t.setSlot k v).stands = (s.setSlot k v).stands := by
  have hslot (j : Nat) : (t.setSlot k v).slot j = (s.setSlot k v).slot j := by
    by_cases hj : j = k
    · rw [hj, State.slot_setSlot_same, State.slot_setSlot_same]
    · rw [State.slot_setSlot_ne _ _ hj, State.slot_setSlot_ne _ _ hj, slot_of_stands h]
  have hseq (r : SeqRef) : (t.setSlot k v).seq r = (s.setSlot k v).seq r := seq_of_stands h r
  have hsaved (c : Nat) : ((t.setSlot k v).ctx c).savedSlots = ((s.setSlot k v).ctx c).savedSlots := savedSlots_of_stands h c
  exact Prod.ext (funext hseq) (Prod.ext (funext hslot) (funext hsaved))

theorem State.setSlot_setSlot (s : State) (k : Nat) (v w : Slot) : (s.setSlot k v).setSlot k w = s.setSlot k w := by
  unfold State.setSlot; dsimp only; rw [tblSet_set]

namespace State.OnlySlot
variable {t u : State} {k : Nat}

theorem refl (s : State) (k : Nat) : s.OnlySlot s k := ⟨s.slot k, (setSlot_stands rfl).symm, id⟩

theorem trans (h : s.OnlySlot t k) (h' : t.OnlySlot u k) : s.OnlySlot u k := by
  obtain ⟨v, hv, hnone⟩ := h
  obtain ⟨w, hw, hnone'⟩ := h'
  have ht : t.slot k = v := by rw [slot_of_stands hv, State.slot_setSlot_same]
  refine ⟨w, hw.trans ?_, fun hs => hnone' (ht ▸ hnone hs)⟩
  rw [setSlot_stands_congr hv, State.setSlot_setSlot]

theorem of_stands (h : t.stands = s.stands) : s.OnlySlot t k := ⟨s.slot k, h.trans (setSlot_stands rfl).symm, id⟩

theorem setSlot {v : Slot} (h : (s.slot k).NoRecords → v.NoRecords) : s.OnlySlot (s.setSlot k v) k := ⟨v, rfl, h⟩

theorem seq (h : s.OnlySlot t k) (r : SeqRef) : t.seq r = s.seq r := by
  obtain ⟨v, hv, -⟩ := h
  rw [seq_of_stands hv, State.seq_setSlot]

theorem noRecords (h : s.OnlySlot t k) (hs : (s.slot k).NoRecords) : (t.slot k).NoRecords := by
  obtain ⟨v, hv, hnone⟩ := h
  rw [slot_of_stands hv, State.slot_setSlot_same]; exact hnone hs

end State.OnlySlot

theorem settleSlot_onlySlot (s : State) (k : Nat) : s.OnlySlot (s.settleSlot k) k := by
  unfold State.settleSlot; dsimp only
  split
  · exact .refl s k
  · split
    · refine (State.OnlySlot.setSlot (v := { gen := (s.slot k).gen + 1 }) fun _ => ⟨rfl, rfl, rfl, rfl⟩).trans (.of_stands ?_)
      rw [State.departs_stands, State.settleCore_stands, State.settleGrp_stands]
      split <;> simp
    · split
      · exact .setSlot id
      · exact .refl s k

theorem endTask_onlySlot (s : State) (k : Nat) : s.OnlySlot (s.endTask k) k := by
  unfold State.endTask; dsimp only
  split
  · exact .refl s k
  · split
    · exact .refl s k
    · refine State.OnlySlot.trans (.of_stands (setCtx_stands ?_)) ((State.OnlySlot.setSlot ?_).trans (settleSlot_onlySlot _ k))
      · rfl
      · intro h
        split
        · exact h
        · exact h

/-- A sequencer stops, and releases what it holds (R304). -/
def State.haltSeq (s : State) (r : SeqRef) : State :=
  (s.unpin (s.seq r).heldPins).setSeq r { s.seq r with stopped := true, wait := none, held := [] }

theorem haltSeq_seq_same (s : State) (r : SeqRef) : ((s.haltSeq r).seq r).stopped = true := by
  unfold State.haltSeq; rw [State.seq_setSeq_same]
theorem haltSeq_seq_ne (s : State) {r r' : SeqRef} (h : r' ≠ r) : (s.haltSeq r).seq r' = s.seq r' := by
  unfold State.haltSeq; rw [State.seq_setSeq_ne _ _ h, seq_of_stands (s.unpin_stands _)]
theorem haltSeq_slot (s : State) (r : SeqRef) (k : Nat) : (s.haltSeq r).slot k = s.slot k := by
  unfold State.haltSeq; rw [State.slot_setSeq, slot_of_stands (s.unpin_stands _)]

/-- A task is stopped: its queues are emptied, both sequencers halted, and the task ended (R304). -/
theorem stopTask_eq (s : State) (k : Nat) : ∃ w : State,
    s.stopTask k = (((w.haltSeq (seqA k)).haltSeq (seqX k)).endTask k).settleSlot k ∧ (w.slot k).NoRecords := by
  refine ⟨_, rfl, ?_⟩
  rw [State.slot_setSlot_same]
  have hslot (u : State) (v : Slot) (c : Core) : ((u.setSlot k v).setCore (coreOf k) c).slot k = v := State.slot_setSlot_same ..
  unfold Slot.NoRecords; dsimp only
  rw [hslot]
  exact ⟨rfl, rfl, rfl, rfl⟩

/-- A task that is stopped has no queued record any more, and both its sequencers have stopped. -/
theorem stopTask_effect (s : State) (k : Nat) : let t := s.stopTask k
    (t.seq (seqA k)).stopped = true ∧ (t.seq (seqX k)).stopped = true ∧ (t.slot k).NoRecords := by
  obtain ⟨w, ht, hw⟩ := stopTask_eq s k
  have hend := (endTask_onlySlot ((w.haltSeq (seqA k)).haltSeq (seqX k)) k).trans (settleSlot_onlySlot _ k)
  intro t
  have ht : t = _ := ht
  rw [ht, hend.seq, hend.seq, haltSeq_seq_ne _ (seqA_ne_seqX k)]
  refine ⟨haltSeq_seq_same .., haltSeq_seq_same .., hend.noRecords ?_⟩
  rw [haltSeq_slot, haltSeq_slot]; exact hw

-- PREEMPTION (R311, R312).

theorem preemption_same {k : Nat} (h : (s.slot k).lockend ≠ 0 ∨
    ((s.slot k).stopReq = false ∧ ((s.slot k).preReq = false ∨ s.quiet k = false))) : exec (.preemption k) s = .next s := by
  rw [exec_preemption]; unfold execPreemption; dsimp only
  rcases h with h | ⟨hstop, h⟩
  · rw [beq_false_of_ne h, Bool.and_false]; rfl
  · split
    · rfl
    · rw [hstop]; rcases h with h | h <;> rw [h] <;> simp

section
variable {k : Nat} (hlock : (s.slot k).lockend = 0) (hw : s.NoWait k)
include hlock hw

theorem preemption_saves (hstop : (s.slot k).stopReq = false) (hpre : (s.slot k).preReq = true) (hquiet : s.quiet k = true) :
    exec (.preemption k) s = .next (s.saveSlot k) := by
  rw [exec_preemption]; unfold execPreemption; dsimp only
  rw [Seq.atPreempt_of_no_wait hw.1, Seq.atPreempt_of_no_wait hw.2, hlock, hstop, hpre, hquiet]; rfl

theorem preemption_stops (hstop : (s.slot k).stopReq = true) :
    exec (.preemption k) s = .next (((s.endWaitOf (seqA k)).endWaitOf (seqX k)).stopTask k) := by
  rw [exec_preemption]; unfold execPreemption; dsimp only
  rw [Seq.atPreempt_of_no_wait hw.1, Seq.atPreempt_of_no_wait hw.2, hlock, hstop]; rfl

end

end Sys2Proof.Machine

end

section

/-! PROOF. A context that comes back: with nothing saved, or with one group and its task (O43). -/

open Sys2Proof.Claim
namespace Sys2Proof.Machine

variable {s : State} {c : Nat}

theorem contextRestore_same (h : (s.ctx c).admitted = false ∨ (s.ctx c).resident = true) (cores : List Nat) :
    exec (.contextRestore c cores) s = .next s := by
  rw [exec_contextRestore]; unfold execContextRestore; dsimp only
  rw [if_pos]
  rcases h with h | h <;> simp [h]

section
variable (hadm : (s.ctx c).admitted = true) (hres : (s.ctx c).resident = false) (hstash : (s.ctx c).stash = [])
include hadm hres hstash

/-- A restore without a stash is one action, once every group finds its core. -/
theorem contextRestore_of_no_stash {cores : List Nat} {t : State} (hlen : cores.length = (s.ctx c).savedGrps.length)
    (ht : s.restoreAll c cores = some t) : exec (.contextRestore c cores) s = .next t := by
  rw [exec_contextRestore]; unfold execContextRestore; dsimp only
  rw [hadm, hres, hstash, hlen, bne_self_eq_false]
  change Host.Outcome.next (match s.restoreAll c cores with | some t => t | none => _) = _
  rw [ht]

end

/-- The context is resident again (R286). -/
def State.becomeResident (s : State) (c : Nat) : State := s.setCtx c { s.ctx c with resident := true, admitted := false }

/-- One more group comes back: the state, and the records whose pages fail. -/
def State.regroup (c : Nat) (x : State × List (QRec × Word)) (e : SavedGrp × Nat) : Option (State × List (QRec × Word)) :=
  (x.1.restoreGrp c e.1 e.2).map fun y => (y.1, x.2 ++ y.2)

theorem restoreAll_of {cores : List Nat} {z : State} (hadm : (s.ctx c).admitted = true) (hres : (s.ctx c).resident = false)
    (hlen : cores.length = (s.ctx c).savedGrps.length) (hroom : s.residents < s.shr.resmax)
    (hfold : ((s.ctx c).savedGrps.zip cores).foldlM (State.regroup c) (s, []) = some (z, [])) (hstash : (z.ctx c).stash = []) :
    s.restoreAll c cores = some (z.becomeResident c) := by
  unfold State.restoreAll; dsimp only
  rw [if_neg (by simpa [hadm, hres, hlen] using hroom)]
  change (((s.ctx c).savedGrps.zip cores).foldlM (State.regroup c) (s, [])).bind _ = _
  rw [hfold, Option.bind_some]
  have hall : z.stashAll c (stashOrder (z.ctx c).stash) = z := by rw [hstash]; rfl
  change (if !(((z.stashAll c (stashOrder (z.ctx c).stash)).ctx c).stash.isEmpty) then none
    else some ((z.stashAll c (stashOrder (z.ctx c).stash)).becomeResident c)) = _
  rw [hall, hstash]; rfl

-- One group with one task.

variable {v : SavedGrp} {w : SavedSlot} {core k : Nat}

/-- A context with one saved group and its one saved task, with a core that has a slot for it (R286). -/
structure ComesBack (s : State) (c : Nat) (v : SavedGrp) (w : SavedSlot) (core k : Nat) (l : Launch) : Prop where
  admitted : (s.ctx c).admitted = true
  away : (s.ctx c).resident = false
  grps : (s.ctx c).savedGrps = [v]
  slots : (s.ctx c).savedSlots = [w]
  key : w.grp = v.key
  stash : (s.ctx c).stash = []
  room : s.residents < s.shr.resmax
  launch : (s.ctx c).launch = some l
  runs : l.ending = none
  takes : s.canTake core v.grp.mask v.grp.mxUse = true
  free : ∃ rest, s.freeSlots core = k :: rest
  noGrps : s.grps.any (fun e => e.2.ctx == c) = false
  ds : l.dsUnits ≤ s.dsFree (dieOf core)
  noScope : w.slot.scope = none
  noRecords : w.slot.NoRecords

namespace ComesBack
variable {l : Launch} (h : ComesBack s c v w core k l)
include h

theorem coreOf_slot : coreOf k = core := by
  obtain ⟨rest, hfree⟩ := h.free
  have hk : k ∈ (slotsOf core).filter fun k => (s.slot k).task.isNone := by
    change k ∈ s.freeSlots core
    rw [hfree]; exact List.mem_cons_self ..
  have := (List.mem_filter.1 hk).1
  simp only [slotsOf, List.mem_cons, List.not_mem_nil, or_false] at this
  unfold coreOf; omega

theorem savedIn : (s.ctx c).savedIn v.key = [w] := by
  unfold Ctx.savedIn; rw [h.slots, List.filter_cons_of_pos (by simp [h.key])]; rfl

theorem no_grp_at (f : Grp → Bool) : s.grps.any (fun e => e.2.ctx == c && f e.2) = false := by
  rw [List.any_eq_false]
  intro e he
  have := List.any_eq_false.1 h.noGrps e he
  simp_all

/-- No core group of it is placed, so that it may take any die with room and any core (R109, R190). -/
theorem backFits : s.backFits c v core = true := by
  have hvdies (d : Nat) : s.dsVdies c (s.ctx c) d = [] := by
    unfold State.dsVdies; rw [h.launch]; dsimp only
    have hnone (e : Nat × Nat) : (e.1 == d && (s.grps.any (fun g => g.2.ctx == c && g.2.vdie == e.2) ||
        ((s.ctx c).resident && (s.ctx c).savedGrps.any fun g => g.grp.vdie == e.2))) = false := by
      rw [h.no_grp_at fun g => g.vdie == e.2, h.away]; simp
    simp only [hnone, List.filter_false, List.map_nil]
  have hroom : s.dsRoom c l v.grp.vdie (dieOf core) = true := by
    unfold State.dsRoom; rw [hvdies]; exact decide_eq_true h.ds
  have hmates : s.coreMates c l v.grp core = true := by
    unfold State.coreMates; split
    · rfl
    · rw [List.all_eq_true]
      intro e he
      have := List.any_eq_false.1 h.noGrps e he
      simp_all
  obtain ⟨rest, hfree⟩ := h.free
  unfold State.backFits; dsimp only
  rw [h.launch]; dsimp only
  rw [h.takes, h.savedIn, hfree, h.no_grp_at fun g => g.vdie == v.grp.vdie, if_neg Bool.false_ne_true, hroom, hmates]
  simp

end ComesBack

/-- The task comes back into slot `k`. -/
def State.slotBack (s : State) (w : SavedSlot) (k : Nat) : State :=
  (((s.setSlot k { w.slot.unserved w.from_ k with
    qmx := [], qvx := [], qcx := [], qae := [], gen := (s.slot k).gen, stopReq := false }).setSeq (seqA k) w.a).setSeq (seqX k) w.x).scrubWhere
    (ofTile k fun _ => true)

theorem restoreSlot_of (hscope : w.slot.scope = none) (hrecs : w.slot.NoRecords) : s.restoreSlot w k false = some (s.slotBack w k, []) := by
  obtain ⟨hmx, hvx, hcx, hae⟩ := hrecs
  have hneed : w.need = 0 := by unfold SavedSlot.need; rw [hscope]
  unfold State.restoreSlot; dsimp only
  rw [hneed, hmx, hvx, hcx, hae]; rfl

/-- The group comes back to its core, `l` being its launch from then on. -/
def State.grpBack (s : State) (c : Nat) (v : SavedGrp) (core : Nat) (l : Launch) : State :=
  let u := { (s.setCtx c { s.ctx c with savedGrps := [], savedSlots := [], launch := some l }).setGrp v.key
    { v.grp with core := core, placed := s.serial, since := s.now } with serial := s.serial + 1 }
  let u := u.scrubWhere fun x => ofBank v.key x || ofDs c v.grp.vdie x
  let u := u.setCore core { u.core core with power := .on, waking := false }
  if v.grp.mxUse then u.setCore core { u.core core with
    mxGrp := some v.key, plane0 := v.plane0, plane1 := v.plane1, active := v.active, acc := v.acc } else u

/-- The launch, once a group of it comes back to a core (R109, R190). -/
def Launch.home (l : Launch) (g : Grp) (core : Nat) : Launch :=
  { l with dies := putDie l.dies g.vdie (dieOf core), coreHomes := match outerCore l.hdr with
    | some lev => tblSet l.coreHomes (ancestor l.hdr lev g.lin) core
    | none => l.coreHomes }

theorem ComesBack.restoreGrp {l : Launch} (h : ComesBack s c v w core k l) :
    s.restoreGrp c v core = some ((s.grpBack c v core (l.home v.grp core)).slotBack w k, []) := by
  obtain ⟨rest, hfree⟩ := h.free
  have hgrps : (s.ctx c).savedGrps.filter (fun x => x.key != v.key) = [] := by rw [h.grps]; simp
  have hslots : (s.ctx c).savedSlots.filter (fun x => x.grp != v.key) = [] := by rw [h.slots]; simp [h.key]
  have hback : (!s.grps.any (fun e => e.2.ctx == c && e.2.vdie == v.grp.vdie) &&
      !((s.ctx c).resident && l.dies[v.grp.vdie]? == some (dieOf core))) = true := by
    rw [h.no_grp_at fun g => g.vdie == v.grp.vdie, h.away]; rfl
  have hruns : l.ending.isSome = false := by rw [h.runs]; rfl
  unfold State.restoreGrp; dsimp only
  rw [h.launch]; dsimp only
  rw [if_neg (by rw [h.backFits]; exact Bool.false_ne_true), h.savedIn, hfree, hgrps, hslots, hback, hruns, List.zip_cons_cons,
    List.zip_nil_left, List.foldlM_cons]
  change ((State.restoreSlot (s.grpBack c v core (l.home v.grp core)) w k false).map _).bind _ = _
  rw [restoreSlot_of h.noScope h.noRecords]
  rfl


-- What is there once they are back.

@[simp] theorem State.scrubWhere_seq (s : State) (p : UeLoc → Bool) (r : SeqRef) : (s.scrubWhere p).seq r = s.seq r := by
  rw [scrubWhere_only]; rfl
@[simp] theorem State.scrubWhere_slot (s : State) (p : UeLoc → Bool) (k : Nat) : (s.scrubWhere p).slot k = s.slot k := by
  rw [scrubWhere_only]; rfl

theorem grpBack_only (s : State) (c : Nat) (v : SavedGrp) (core : Nat) (l : Launch) : s.grpBack c v core l =
    { (s.setCtx c { s.ctx c with savedGrps := [], savedSlots := [], launch := some l }).setGrp v.key
        { v.grp with core := core, placed := s.serial, since := s.now } with
      serial := s.serial + 1, cores := (s.grpBack c v core l).cores
      mem := { s.mem with ue := s.mem.ue.filter fun x => !(ofBank v.key x || ofDs c v.grp.vdie x) } } := by
  unfold State.grpBack; dsimp only
  rw [scrubWhere_only]
  split <;> rfl

theorem grpBack_core {l : Launch} (hmx : v.grp.mxUse = true) : let m := (s.grpBack c v core l).core core
    m.plane0 = v.plane0 ∧ m.plane1 = v.plane1 ∧ m.acc = v.acc ∧ m.active = v.active ∧ m.mxGrp = some v.key := by
  unfold State.grpBack; dsimp only
  rw [if_pos hmx, State.core_setCore_same]
  exact ⟨rfl, rfl, rfl, rfl, rfl⟩

theorem slotBack_only (s : State) (w : SavedSlot) (k : Nat) : s.slotBack w k =
    { s with slots := (s.slotBack w k).slots, seqs := (s.slotBack w k).seqs
             mem := { s.mem with ue := s.mem.ue.filter fun x => !ofTile k (fun _ => true) x } } := by
  unfold State.slotBack; rw [scrubWhere_only]; rfl

theorem slotBack_a (s : State) (w : SavedSlot) (k : Nat) : (s.slotBack w k).seq (seqA k) = w.a := by
  unfold State.slotBack; rw [State.scrubWhere_seq, State.seq_setSeq_ne _ _ (seqA_ne_seqX k), State.seq_setSeq_same]

theorem slotBack_x (s : State) (w : SavedSlot) (k : Nat) : (s.slotBack w k).seq (seqX k) = w.x := by
  unfold State.slotBack; rw [State.scrubWhere_seq, State.seq_setSeq_same]

theorem slotBack_slot_ne (s : State) (w : SavedSlot) {j k : Nat} (h : j ≠ k) : (s.slotBack w k).slot j = s.slot j := by
  unfold State.slotBack; rw [State.scrubWhere_slot, State.slot_setSeq, State.slot_setSeq, State.slot_setSlot_ne _ _ h]

/-- What an engine has served is kept on the same core, and of AE on the same die (R13). -/
theorem unserved_eq (t : Slot) (was k : Nat) : t.unserved was k = { t with
    servMx := if was / 4 = coreOf k then t.servMx else 0, servVx := if was / 4 = coreOf k then t.servVx else 0
    servCx := if was / 4 = coreOf k then t.servCx else 0, servAe := if was / 128 = coreOf k / 32 then t.servAe else 0 } := by
  have hcore : coreOf was = was / 4 := rfl
  have hdie : dieOf (coreOf was) = was / 128 := Nat.div_div_eq_div_mul ..
  have hhere : dieOf (coreOf k) = coreOf k / 32 := rfl
  unfold Slot.unserved; dsimp only
  rw [hdie, hhere, hcore]
  generalize coreOf k = core
  by_cases hd : was / 128 = core / 32
  · by_cases hc : was / 4 = core <;> simp [hc, hd]
  · by_cases hc : was / 4 = core <;> simp [hc, hd]

theorem slotBack_slot (hrecs : w.slot.NoRecords) : (s.slotBack w k).slot k = { w.slot with
    gen := (s.slot k).gen, stopReq := false
    servMx := if w.from_ / 4 = coreOf k then w.slot.servMx else 0, servVx := if w.from_ / 4 = coreOf k then w.slot.servVx else 0
    servCx := if w.from_ / 4 = coreOf k then w.slot.servCx else 0
    servAe := if w.from_ / 128 = coreOf k / 32 then w.slot.servAe else 0 } := by
  obtain ⟨hmx, hvx, hcx, hae⟩ := hrecs
  unfold State.slotBack
  rw [State.scrubWhere_slot, State.slot_setSeq, State.slot_setSeq, State.slot_setSlot_same, unserved_eq]
  dsimp only
  rw [hmx, hvx, hcx, hae]

/-- What is scrubbed of a group, of its allocation of DS and of a slot (R413). -/
theorem mem_scrubbed (ue : List UeLoc) (k key c vdie : Nat) (x : UeLoc) :
    x ∈ (ue.filter fun x => !(ofBank key x || ofDs c vdie x)).filter (fun x => !ofTile k (fun _ => true) x) ↔
      x ∈ ue ∧ ¬((∃ n, x = .tileWord k n) ∨ (∃ b n, x = .bankWord key b n) ∨ ∃ n, x = .dsWord c vdie n) := by
  rw [List.mem_filter, List.mem_filter, and_assoc]
  refine and_congr_right fun _ => ?_
  cases x <;> simp [ofBank, ofDs, ofTile]; tauto

theorem grpBack_ctx (s : State) (c : Nat) (v : SavedGrp) (core : Nat) (l : Launch) :
    (s.grpBack c v core l).ctx c = { s.ctx c with savedGrps := [], savedSlots := [], launch := some l } := by
  rw [grpBack_only]; exact State.ctx_setCtx_same ..

theorem grpBack_grp (s : State) (c : Nat) (v : SavedGrp) (core : Nat) (l : Launch) :
    (s.grpBack c v core l).grp v.key = some { v.grp with core := core, placed := s.serial, since := s.now } := by
  rw [grpBack_only]; exact State.grp_setGrp_same ..

theorem grpBack_slot (s : State) (c : Nat) (v : SavedGrp) (core : Nat) (l : Launch) (j : Nat) : (s.grpBack c v core l).slot j = s.slot j := by
  rw [grpBack_only]; rfl

theorem slotBack_ctx (s : State) (w : SavedSlot) (k c : Nat) : (s.slotBack w k).ctx c = s.ctx c := by rw [slotBack_only]; rfl
theorem slotBack_grp (s : State) (w : SavedSlot) (k g : Nat) : (s.slotBack w k).grp g = s.grp g := by rw [slotBack_only]; rfl
theorem slotBack_core (s : State) (w : SavedSlot) (k c : Nat) : (s.slotBack w k).core c = s.core c := by rw [slotBack_only]; rfl

/-- The banks of the group, its allocation of DS and its slot are free of errors (R413); no other memory changes. -/
theorem back_mem (s : State) (c : Nat) (v : SavedGrp) (core : Nat) (l : Launch) (w : SavedSlot) (k : Nat) :
    ((s.grpBack c v core l).slotBack w k).mem = { s.mem with
      ue := (s.mem.ue.filter fun x => !(ofBank v.key x || ofDs c v.grp.vdie x)).filter fun x => !ofTile k (fun _ => true) x } := by
  rw [slotBack_only, grpBack_only]

theorem becomeResident_mem (s : State) (c : Nat) : (s.becomeResident c).mem = s.mem := rfl
theorem becomeResident_core (s : State) (c d : Nat) : (s.becomeResident c).core d = s.core d := rfl
theorem becomeResident_ctx (s : State) (c : Nat) : (s.becomeResident c).ctx c = { s.ctx c with resident := true, admitted := false } :=
  State.ctx_setCtx_same ..

theorem ComesBack.restores {l : Launch} (h : ComesBack s c v w core k l) :
    exec (.contextRestore c [core]) s = .next (((s.grpBack c v core (l.home v.grp core)).slotBack w k).becomeResident c) := by
  refine contextRestore_of_no_stash h.admitted h.away h.stash (by rw [h.grps]; rfl) ?_
  refine restoreAll_of h.admitted h.away (by rw [h.grps]; rfl) h.room ?_ ?_
  · rw [h.grps, List.zip_cons_cons, List.zip_nil_left, List.foldlM_cons]
    unfold State.regroup
    rw [h.restoreGrp]; rfl
  · rw [slotBack_ctx, grpBack_ctx]; exact h.stash

theorem slot_saved_unpinned (t : Slot) : ∀ q ∈ t.saved.qmx ++ t.saved.qvx ++ t.saved.qcx ++ t.saved.qae, q.pins = [] := by
  have hfree (l : List QRec) (q : QRec) (hq : q ∈ l.map fun r => { r with pins := [] }) : q.pins = [] := by
    obtain ⟨r, -, rfl⟩ := List.mem_map.1 hq; rfl
  intro q hq
  simp only [List.mem_append] at hq
  obtain ((hq | hq) | hq) | hq := hq <;> exact hfree _ q hq

theorem endsEarly_of_plain {i : Instr} (h : (∃ g a k v, i = .semwait g a k v) ∨ (∃ g a, i = .waitt g a) ∨ (∃ g n a, i = .aqpush g n a) ∨
    (∃ g n d, i = .aqpop g n d) ∨ (∃ g d sc, i = .fence g d sc) ∨ (∃ g cc sp wd d a b, i = .poll g cc sp wd d a b)) :
    endsEarly i = true := by
  obtain ⟨_, _, _, _, rfl⟩ | ⟨_, _, rfl⟩ | ⟨_, _, _, rfl⟩ | ⟨_, _, _, rfl⟩ | ⟨_, _, _, rfl⟩ | ⟨_, _, _, _, _, _, _, rfl⟩ := h <;> rfl

/-- Settles O43: the cause that none precedes is taken from the state in which the wait has ended; a wait whose trap is due is not seen by
what would complete it; a save puts the slot's task away; and a restore is the group placed and its task put into a free slot. -/
theorem asynchronousCausesAndPreemption : Obligations.AsynchronousCausesAndPreemption := by
  intro s
  refine ⟨?async, ?waits, fun q h => runs_same (asyncTrapTaken_same h), fun k h => runs_same (preemption_same h), ?preempt,
    fun c h cores => runs_same (contextRestore_same h cores), ?nothing, ?group⟩
  case async =>
    intro q hne hstop htrap htvec hhalt hwait hq hone u
    have hends : (s.seq q).EndsPlainly := hwait.imp_right fun ⟨w, hw, hheld, hins⟩ => ⟨w, hw, hheld, endsEarly_of_plain hins⟩
    obtain ⟨h, hmem, hall, hexec⟩ := asyncTrapTaken_takes hne hstop htrap htvec hhalt hends hq hone
    refine ⟨h, hmem, hall, _, hexec, ?_, fun r hr => ?_, ?_, fun k hk => ?_, ?_⟩
    · rw [closeLock_seq, State.seq_setSeq_same]
    · rw [closeLock_seq, State.seq_setSeq_ne _ _ hr]
    · rw [State.closeLock_slot, State.slot_setSeq]
    · rw [State.closeLock_slot_ne _ hk, State.slot_setSeq, spinAccrue_slot_ne _ hk]
    · rw [State.closeLock_only]; rfl
  case waits =>
    intro w hheld htrap hwait
    have hnone {i : Instr} (hi : w.ins = i) (hends : endsEarly i = true) : s.waiting s.cur = none :=
      waiting_of_due hheld htrap hwait (hi ▸ hends)
    exact ⟨
      fun _ _ _ _ h => runs_same (by rw [exec_semwaitPass, execSemwaitPass, hnone h rfl]),
      fun _ _ h => runs_same (by rw [exec_waittComplete, execWaittComplete, hnone h rfl]),
      fun _ _ _ h => runs_same (by rw [exec_waittLockComplete, execWaittLockComplete, hnone h rfl]),
      fun _ _ _ h => runs_same (by rw [exec_aqpushRoom, execAqpushRoom, hnone h rfl]),
      fun _ _ _ h => runs_same (by rw [exec_aqpopData, execAqpopData, hnone h rfl]),
      fun _ _ _ h => runs_same (by rw [exec_fenceComplete, execFenceComplete, hnone h rfl]),
      fun _ _ h => runs_same (by rw [exec_fenceEComplete, execFenceEComplete, hnone h rfl]),
      fun _ _ _ _ _ _ _ h => runs_same (by rw [exec_pollPass, execPollPass, hnone h rfl])⟩
  case preempt =>
    intro k tk a x htask hlock ha hx
    have hw : s.NoWait k := ⟨ha, hx⟩
    refine ⟨fun hstop hpre hquiet => ⟨_, preemption_saves hlock hw hstop hpre hquiet, ?_⟩,
      fun hstop _ => ⟨_, preemption_stops hlock hw hstop, stopTask_effect _ k⟩⟩
    have hput := saveSlot_putAway htask hw
    exact ⟨hput.slot, hput.a, hput.x, hput.slots, hput.seqs, congrArg (·.1) (s.saveSlot_ground k), _, hput.saved, rfl, rfl, rfl, htask,
      rfl, rfl, rfl, rfl, rfl, rfl, rfl, rfl, List.map_map, slot_saved_unpinned _, Option.map_map ..⟩
  case nothing =>
    intro c hadm hres hgrps hstash hroom
    have hlen : ([] : List Nat).length = (s.ctx c).savedGrps.length := by rw [hgrps]; rfl
    refine ⟨s.becomeResident c, contextRestore_of_no_stash hadm hres hstash hlen (restoreAll_of hadm hres hlen hroom ?_ hstash),
      becomeResident_ctx s c, fun d hd => State.ctx_setCtx_ne _ _ hd, rfl⟩
    rw [hgrps]; rfl
  case group =>
    intro c core k rest v w l hadm hres hgrps hslots hkey hstash hroom hlaunch hruns htakes hfree hnone hds hscope hmx hvx hcx hae
    have hrecs : w.slot.NoRecords := ⟨hmx, hvx, hcx, hae⟩
    have h : ComesBack s c v w core k l :=
      ⟨hadm, hres, hgrps, hslots, hkey, hstash, hroom, hlaunch, hruns, htakes, ⟨rest, hfree⟩, hnone, hds, hscope, hrecs⟩
    refine ⟨_, h.restores, ?_⟩
    have hctx := becomeResident_ctx ((s.grpBack c v core (l.home v.grp core)).slotBack w k) c
    rw [slotBack_ctx, grpBack_ctx] at hctx
    dsimp only
    rw [hctx]
    refine ⟨rfl, rfl, rfl, rfl, rfl, rfl, ?_, ?_, slotBack_a .., slotBack_x .., fun huse => ?_, fun j hj => ?_, ?_, ?_⟩
    · exact (slotBack_grp ..).trans (grpBack_grp ..)
    · refine (slotBack_slot hrecs).trans ?_
      rw [grpBack_slot, h.coreOf_slot]
    · rw [becomeResident_core, slotBack_core]; exact grpBack_core huse
    · exact (slotBack_slot_ne _ _ hj).trans (grpBack_slot ..)
    · rw [becomeResident_mem, back_mem]
    · rw [becomeResident_mem, back_mem]; exact fun y => mem_scrubbed _ k v.key c v.grp.vdie y

end Sys2Proof.Machine

end

section

/-! PROOF. Byte memory: numbers that do not meet, and several numbers written one after the other (O38). -/

namespace Sys2Proof.Machine

theorem Memory.read_writeLE_of_outside (m : Memory) {n a c : Nat} (v : Nat) (h : c < a ∨ a + n ≤ c) : (m.writeLE a n v).read c = m.read c :=
  h.elim (Memory.read_writeLE_below m n a v c) (Memory.read_writeLE_above m n a v c)

theorem Memory.readLE_congr {m m' : Memory} {a n : Nat} (h : ∀ c, a ≤ c → c < a + n → m'.read c = m.read c) : m'.readLE a n = m.readLE a n := by
  induction n generalizing a with
  | zero => rfl
  | succ n ih =>
    simp only [Memory.readLE]
    rw [h a (by omega) (by omega), ih fun c h1 h2 => h c (by omega) (by omega)]

/-- A number to write: where it begins, its bytes, its value. -/
structure Piece where
  at_ : Nat
  len : Nat
  val : Nat

/-- Two numbers have no byte in common. -/
def Piece.Apart (p p' : Piece) : Prop := p.at_ + p.len ≤ p'.at_ ∨ p'.at_ + p'.len ≤ p.at_

def Memory.writeAll (m : Memory) (l : List Piece) : Memory := l.foldl (fun m p => m.writeLE p.at_ p.len p.val) m

theorem Memory.writeAll_cons (m : Memory) (p : Piece) (l : List Piece) : m.writeAll (p :: l) = (m.writeLE p.at_ p.len p.val).writeAll l := rfl

theorem Memory.read_writeAll_of_outside {m : Memory} {l : List Piece} {a : Nat} (h : ∀ p ∈ l, a < p.at_ ∨ p.at_ + p.len ≤ a) :
    (m.writeAll l).read a = m.read a := by
  induction l generalizing m with
  | nil => rfl
  | cons p l ih =>
    rw [Memory.writeAll_cons, ih fun p' hp' => h p' (List.mem_cons_of_mem _ hp'),
      Memory.read_writeLE_of_outside _ _ (h p List.mem_cons_self)]

theorem Memory.readLE_writeAll_of_apart {m : Memory} {l : List Piece} {a n : Nat} (h : ∀ p ∈ l, a + n ≤ p.at_ ∨ p.at_ + p.len ≤ a) :
    (m.writeAll l).readLE a n = m.readLE a n :=
  Memory.readLE_congr fun c h1 h2 => Memory.read_writeAll_of_outside fun p hp => (h p hp).imp (by omega) (by omega)

/-- What has been written without an overlap is read. -/
theorem Memory.readLE_writeAll_of_mem {m : Memory} {l : List Piece} (hl : l.Pairwise Piece.Apart) {p : Piece} (hp : p ∈ l) :
    (m.writeAll l).readLE p.at_ p.len = p.val % 256 ^ p.len := by
  induction l generalizing m with
  | nil => cases hp
  | cons p' l ih =>
    obtain ⟨hfst, hrest⟩ := List.pairwise_cons.1 hl
    rw [Memory.writeAll_cons]
    rcases List.mem_cons.1 hp with rfl | hp
    · rw [Memory.readLE_writeAll_of_apart fun p' hp' => hfst p' hp', Memory.readLE_writeLE]
    · exact ih hrest hp

end Sys2Proof.Machine

end

section

/-! PROOF. The storage that an issue of a record writes: banks of its group, its DS allocation, the tile registers of its slot (O38). -/

open Sys2Proof.Claim
namespace Sys2Proof.Machine

/-- A part of the storage that a record reaches. -/
inductive Area where
  | bank (b : Nat)
  | ds
  | tile

variable {s t u : State} {q : QRec} {A B : Area} {m m' : Memory}

def Area.mem : Area → Nat → Mem
  | .bank b, o => .bank b o
  | .ds, o => .ds o
  | .tile, o => .tile o
/-- A bank ends after 256 KiB (R114). -/
def Area.Fits : Area → Nat → Nat → Prop
  | .bank _, o, n => o + n ≤ 262144
  | _, _, _ => True
def State.area (s : State) (q : QRec) : Area → Memory
  | .bank b => s.bankMem q.grp b
  | .ds => s.dsMem q.ctx (s.vdieOf q)
  | .tile => s.tileMem q.who.slot
def State.Has (s : State) (q : QRec) : Area → Prop
  | .bank _ => s.grp q.grp ≠ none
  | .ds => s.launchOf q.ctx ≠ none
  | .tile => (s.slot q.who.slot).scope ≠ none
def State.Awake (s : State) (k : Nat) : Prop := ∀ sc, (s.slot k).scope = some sc → ∀ c ∈ sc.cl, ∀ a b, c ≠ .waking a b
/-- The area exists, none of its clusters is waking, and no storage holds an error. -/
structure State.Writable (s : State) (q : QRec) (A : Area) : Prop where
  ue : s.mem.ue = []
  has : s.Has q A
  awake : s.Awake q.who.slot

/-- Beside what the storage of the record holds, an issue's writes change nothing. -/
structure State.Keeps (s t : State) (q : QRec) : Prop where
  mem : t.mem = s.mem
  seqs : t.seqs = s.seqs
  cores : t.cores = s.cores
  slot : t.slot q.who.slot = { s.slot q.who.slot with scope := (t.slot q.who.slot).scope }
  scope : ((t.slot q.who.slot).scope.map fun sc => (sc.n, sc.cl)) = (s.slot q.who.slot).scope.map fun sc => (sc.n, sc.cl)
  others : ∀ j, j ≠ q.who.slot → t.slot j = s.slot j
  ctx : ∀ d, t.ctx d = { s.ctx d with launch := (t.ctx d).launch }
  vdie : (t.grp q.grp).map Grp.vdie = (s.grp q.grp).map Grp.vdie
  launch : t.launchOf q.ctx = none ↔ s.launchOf q.ctx = none

theorem State.Keeps.refl (s : State) (q : QRec) : s.Keeps s q := ⟨rfl, rfl, rfl, rfl, rfl, fun _ _ => rfl, fun _ => rfl, rfl, Iff.rfl⟩

theorem State.Keeps.trans (h : s.Keeps t q) (k : t.Keeps u q) : s.Keeps u q where
  mem := k.mem.trans h.mem
  seqs := k.seqs.trans h.seqs
  cores := k.cores.trans h.cores
  slot := by rw [k.slot, h.slot]
  scope := k.scope.trans h.scope
  others j hj := (k.others j hj).trans (h.others j hj)
  ctx d := by rw [k.ctx, h.ctx]
  vdie := k.vdie.trans h.vdie
  launch := k.launch.trans h.launch

theorem State.vdieOf_eq (s : State) (q : QRec) : s.vdieOf q = ((s.grp q.grp).map Grp.vdie).getD 0 := by
  unfold State.vdieOf; cases s.grp q.grp <;> rfl

theorem State.Keeps.vdieOf (h : s.Keeps t q) : t.vdieOf q = s.vdieOf q := by
  rw [State.vdieOf_eq, State.vdieOf_eq, h.vdie]

theorem State.Keeps.writable (h : s.Keeps t q) (hw : s.Writable q A) : t.Writable q A where
  ue := by rw [h.mem]; exact hw.ue
  has := by
    have hhas := hw.has
    cases A with
    | bank b => exact fun e => hhas (by simpa [e] using h.vdie.symm)
    | ds => exact fun e => hhas (h.launch.1 e)
    | tile => exact fun e => hhas (by simpa [e] using h.scope.symm)
  awake sc hsc := by
    have hscope := h.scope
    rw [hsc] at hscope
    obtain ⟨sc', hsc', heq⟩ := Option.map_eq_some_iff.1 hscope.symm
    obtain ⟨-, hcl⟩ := Prod.mk.inj heq
    rw [← hcl]; exact hw.awake sc' hsc'

/-- Of all storage, `t` differs from `s` in one area, which holds `m`. -/
structure State.Writes (s t : State) (q : QRec) (A : Area) (m : Memory) : Prop where
  area : t.area q A = m
  grps : (∀ b, A ≠ .bank b) → t.grps = s.grps
  banks : ∀ g d, ¬(g = q.grp ∧ A = .bank d) → t.bankMem g d = s.bankMem g d
  tile : A ≠ .tile → t.tileMem q.who.slot = s.tileMem q.who.slot
  ds : A ≠ .ds → ∀ d, (t.ctx d).launch = (s.ctx d).launch

theorem State.Writes.refl (s : State) (q : QRec) (A : Area) : s.Writes s q A (s.area q A) :=
  ⟨rfl, fun _ => rfl, fun _ _ _ => rfl, fun _ => rfl, fun _ _ => rfl⟩

theorem State.Writes.trans (h : s.Writes t q A m) (k : t.Writes u q A m') : s.Writes u q A m' where
  area := k.area
  grps hA := (k.grps hA).trans (h.grps hA)
  banks g d hd := (k.banks g d hd).trans (h.banks g d hd)
  tile hA := (k.tile hA).trans (h.tile hA)
  ds hA d := (k.ds hA d).trans (h.ds hA d)

/-- `t` is `s` but for one area, which holds `m`. -/
structure State.Stored (s t : State) (q : QRec) (A : Area) (m : Memory) : Prop extends s.Keeps t q, s.Writes t q A m

theorem State.Stored.refl (s : State) (q : QRec) (A : Area) : s.Stored s q A (s.area q A) := ⟨.refl s q, .refl s q A⟩

theorem State.Stored.trans (h : s.Stored t q A m) (k : t.Stored u q A m') : s.Stored u q A m' :=
  ⟨h.toKeeps.trans k.toKeeps, h.toWrites.trans k.toWrites⟩

-- Each kind of area holds what is put there.

theorem setBankMem_stored {b : Nat} (h : s.Has q (.bank b)) (m : Memory) : s.Stored (s.setBankMem q.grp b m) q (.bank b) m := by
  obtain ⟨g, hg⟩ := Option.ne_none_iff_exists'.1 h
  have hset : s.setBankMem q.grp b m = s.setGrp q.grp (g.setBank b m) := by unfold State.setBankMem; rw [hg]
  rw [hset]
  refine ⟨⟨rfl, rfl, rfl, rfl, rfl, fun _ _ => rfl, fun _ => rfl, ?_, Iff.rfl⟩, ?_, fun hA => (hA b rfl).elim, fun g' d hd => ?_, fun _ => rfl,
    fun _ _ => rfl⟩
  · rw [State.grp_setGrp_same, hg]; rfl
  · simp [State.area, State.bankMem, Grp.bank, Grp.setBank]
  · by_cases hgrp : g' = q.grp
    · have hne : d ≠ b := fun e => hd ⟨hgrp, e ▸ rfl⟩
      subst hgrp
      simp [State.bankMem, hg, Grp.bank, Grp.setBank, tblGetD_put_ne _ _ _ hne]
    · simp only [State.bankMem, State.grp_setGrp_ne _ _ hgrp]

theorem setDsMem_stored (h : s.Has q .ds) (m : Memory) : s.Stored (s.setDsMem q.ctx (s.vdieOf q) m) q .ds m := by
  obtain ⟨l, hl⟩ := Option.ne_none_iff_exists'.1 h
  have hset : s.setDsMem q.ctx (s.vdieOf q) m =
      s.setCtx q.ctx { s.ctx q.ctx with launch := some { l with ds := tblPut l.ds (s.vdieOf q) [] m } } := by
    unfold State.setDsMem; rw [hl]
  rw [hset]
  refine ⟨⟨rfl, rfl, rfl, rfl, rfl, fun _ _ => rfl, fun d => ?_, rfl, ?_⟩, ?_, fun _ => rfl, fun _ _ _ => rfl, fun _ => rfl, fun hA => (hA rfl).elim⟩
  · by_cases hd : d = q.ctx
    · subst hd; rw [State.ctx_setCtx_same]
    · rw [State.ctx_setCtx_ne _ _ hd]
  · simpa [State.launchOf, State.Has] using h
  · show State.dsMem _ _ (s.vdieOf q) = m
    simp [State.dsMem, State.launchOf]

theorem setTileMem_stored (h : s.Has q .tile) (m : Memory) : s.Stored (s.setTileMem q.who.slot m) q .tile m := by
  obtain ⟨sc, hsc⟩ := Option.ne_none_iff_exists'.1 h
  have hset : s.setTileMem q.who.slot m = s.setSlot q.who.slot { s.slot q.who.slot with scope := some { sc with mem := m } } := by
    unfold State.setTileMem; dsimp only; rw [hsc]
  rw [hset]
  refine ⟨⟨rfl, rfl, rfl, ?_, ?_, fun j hj => State.slot_setSlot_ne _ _ hj, fun _ => rfl, rfl, Iff.rfl⟩, ?_, fun _ => rfl,
    fun _ _ _ => rfl, fun hA => (hA rfl).elim, fun _ _ => rfl⟩
  · rw [State.slot_setSlot_same]
  · rw [State.slot_setSlot_same, hsc]; rfl
  · simp [State.area, State.tileMem]

-- Writing of bytes.

theorem scrub_of_no_errors (h : s.mem.ue = []) (ls : List UeLoc) : s.scrub ls = s := if_pos (by rw [h]; rfl)

theorem eccOk_of_no_errors (h : s.mem.ue = []) (q : QRec) (m : Mem) (n : Nat) (part : Bool) : s.eccOk q m n part = .ok () :=
  if_pos (by rw [h]; rfl)

theorem State.Awake.tileAwake {k : Nat} (h : s.Awake k) (off n : Nat) : s.tileAwake k off n = true := by
  unfold State.tileAwake
  split
  · rfl
  next sc hsc =>
    rw [Bool.not_eq_true', List.any_eq_false]
    intro c _
    split
    · next a b hc => exact (h sc hsc _ (List.mem_of_getElem? hc) a b rfl).elim
    · exact Bool.false_ne_true

/-- A write of `n` bytes puts them into its area (R114, R310). -/
theorem writeMem_stored (h : s.Writable q A) {o n : Nat} (hfit : A.Fits o n) (v : Nat) :
    ∃ t, s.writeMem q (A.mem o) n v = .ok t ∧ s.Stored t q A ((s.area q A).writeLE o n v) := by
  have hdone : ∀ {t : State}, s.Stored t q A ((s.area q A).writeLE o n v) →
      t.scrub ((s.eccWords q (A.mem o) n).map fun e => e.2.1) = t := fun ht => scrub_of_no_errors (by rw [ht.mem, h.ue]) _
  unfold State.writeMem
  rw [eccOk_of_no_errors h.ue]
  cases A with
  | bank b =>
    have ht := setBankMem_stored h.has ((s.bankMem q.grp b).writeLE o n v)
    have hle : ¬262144 < o + n := Nat.not_lt.2 hfit
    refine ⟨_, ?_, ht⟩
    simp only [Area.mem] at hdone ⊢
    simp [hle, bind, Except.bind, pure, Except.pure, hdone ht]
  | ds =>
    have ht := setDsMem_stored h.has ((s.dsMem q.ctx (s.vdieOf q)).writeLE o n v)
    refine ⟨_, ?_, ht⟩
    simp only [Area.mem] at hdone ⊢
    simp [bind, Except.bind, pure, Except.pure, hdone ht]
  | tile =>
    have ht := setTileMem_stored h.has ((s.tileMem q.who.slot).writeLE o n v)
    refine ⟨_, ?_, ht⟩
    simp only [Area.mem] at hdone ⊢
    simp [h.awake.tileAwake, bind, Except.bind, pure, Except.pure, hdone ht]

end Sys2Proof.Machine

end

section

/-! PROOF. One issue of a VX record: its start, its charge, and where its record then stands (O38). -/

open Sys2Proof.Claim
namespace Sys2Proof.Machine

variable {s t u : State} {q : QRec} {k op : Nat} {r : Run}

/-- The record `r` of slot `k` runs an op and is served, whatever its handles: `VxReady` without its condition on scales. -/
structure VxRuns (s : State) (k op : Nat) (r : Run) : Prop where
  run : (s.slot k).rvx = some r
  ready : r.ready = true
  serves : s.serves .vx k = true
  op : rOp r.q.r = op
  who : r.q.who.slot = k
  blk : r.blk = []
  ue : s.mem.ue = []
  awake : s.Awake k

theorem vxRuns_of_ready (h : VxReady s k op r) : VxRuns s k op r := by
  obtain ⟨hrun, hdone, hnext, hserves, hop, hwho, -, hblk, hue, hawake⟩ := h
  exact ⟨hrun, by simp [Run.ready, hdone, hnext], hserves, hop, hwho, hblk, hue, hawake⟩

/-- Two states hold the same bytes where a record of the slot can write. -/
structure State.SameStore (s t : State) (k : Nat) : Prop where
  grps : t.grps = s.grps
  tile : t.tileMem k = s.tileMem k
  launch : ∀ d, (t.ctx d).launch = (s.ctx d).launch

theorem State.SameStore.refl (s : State) (k : Nat) : s.SameStore s k := ⟨rfl, rfl, fun _ => rfl⟩

theorem State.SameStore.trans (h : s.SameStore t k) (h' : t.SameStore u k) : s.SameStore u k :=
  ⟨h'.grps.trans h.grps, h'.tile.trans h.tile, fun d => (h'.launch d).trans (h.launch d)⟩

theorem State.SameStore.bankMem (h : s.SameStore t k) (g b : Nat) : t.bankMem g b = s.bankMem g b := by
  simp only [State.bankMem, State.grp, h.grps]

theorem State.SameStore.vdieOf (h : s.SameStore t k) (q : QRec) : t.vdieOf q = s.vdieOf q := by
  simp only [State.vdieOf, State.grp, h.grps]

theorem State.SameStore.dsMem (h : s.SameStore t k) (c v : Nat) : t.dsMem c v = s.dsMem c v := by
  simp only [State.dsMem, State.launchOf, h.launch]

theorem State.SameStore.area (h : s.SameStore t q.who.slot) (A : Area) : t.area q A = s.area q A := by
  cases A with
  | bank b => exact h.bankMem _ _
  | ds => exact (h.dsMem _ _).trans (by rw [h.vdieOf]; rfl)
  | tile => exact h.tile

theorem State.SameStore.writes {m : Memory} (h : s.SameStore t q.who.slot) {x : State} {A : Area} (hx : t.Writes x q A m) (h' : x.SameStore u q.who.slot) :
    s.Writes u q A m where
  area := (h'.area A).trans hx.area
  grps hA := (h'.grps.trans (hx.grps hA)).trans h.grps
  banks g d hd := ((h'.bankMem g d).trans (hx.banks g d hd)).trans (h.bankMem g d)
  tile hA := (h'.tile.trans (hx.tile hA)).trans h.tile
  ds hA d := ((h'.launch d).trans (hx.ds hA d)).trans (h.launch d)

-- The start (R121, R131, R290).

theorem filterMap_range_getElem? {α β : Type} (l : List α) (f : Nat → α → β) :
    ((List.range l.length).filterMap fun c => l[c]?.map (f c)) = l.mapIdx f := by
  induction l using List.reverseRecOn with
  | nil => rfl
  | append_singleton l a ih =>
    rw [List.length_append, List.length_singleton, List.range_succ, List.filterMap_append, List.mapIdx_append, ← ih]
    congr 1
    · refine List.filterMap_congr fun c hc => ?_
      rw [List.getElem?_append_left (List.mem_range.1 hc)]
    · simp

/-- The issue's start leaves the slot, or turns clusters of its scope ON (R121). -/
theorem vWake_cases (s : State) (q : QRec) (n : Nat) : (s.vWake q n).1 = s ∨
    ∃ sc cl, (s.slot q.who.slot).scope = some sc ∧ cl.length = sc.cl.length ∧ (∀ c ∈ cl, c = .on ∨ c ∈ sc.cl) ∧
      (s.vWake q n).1 = s.setSlot q.who.slot { s.slot q.who.slot with scope := some { sc with cl := cl } } := by
  unfold State.vWake
  dsimp only
  split
  · exact .inl rfl
  next sc hsc =>
    split
    · exact .inl rfl
    · refine .inr ⟨sc, _, hsc, ?_, ?_, rfl⟩ <;> rw [filterMap_range_getElem? sc.cl]
      · rw [List.length_mapIdx]
      · intro c hc
        obtain ⟨i, hi, hget⟩ := List.mem_mapIdx.1 hc
        split at hget
        · exact .inl hget.symm
        · exact .inr (hget ▸ List.getElem_mem hi)

theorem vWake_only (s : State) (q : QRec) (n : Nat) : (s.vWake q n).1 = { s with slots := (s.vWake q n).1.slots } := by
  rcases vWake_cases s q n with h | ⟨_, _, _, _, _, h⟩ <;> rw [h]
  rfl

theorem vWake_slot (s : State) (q : QRec) (n : Nat) :
    (s.vWake q n).1.slot q.who.slot = { s.slot q.who.slot with scope := ((s.vWake q n).1.slot q.who.slot).scope } := by
  rcases vWake_cases s q n with h | ⟨_, _, _, _, _, h⟩ <;> rw [h]
  rw [State.slot_setSlot_same]

theorem vWake_others (s : State) (q : QRec) (n : Nat) {j : Nat} (hj : j ≠ q.who.slot) : (s.vWake q n).1.slot j = s.slot j := by
  rcases vWake_cases s q n with h | ⟨_, _, _, _, _, h⟩ <;> rw [h]
  exact State.slot_setSlot_ne _ _ hj

theorem vWake_scope (s : State) (q : QRec) (n : Nat) : (((s.vWake q n).1.slot q.who.slot).scope.map fun sc => (sc.n, sc.cl.length, sc.mem)) =
    (s.slot q.who.slot).scope.map fun sc => (sc.n, sc.cl.length, sc.mem) := by
  rcases vWake_cases s q n with h | ⟨sc, cl, hsc, hlen, _, h⟩ <;> rw [h]
  rw [State.slot_setSlot_same, hsc]; simp [hlen]

theorem State.Awake.vWake (h : s.Awake q.who.slot) (n : Nat) : (s.vWake q n).1.Awake q.who.slot := by
  rcases vWake_cases s q n with e | ⟨sc, cl, hsc, _, hcl, e⟩ <;> rw [e]
  · exact h
  · intro sc' hsc' c hc a b hab
    rw [State.slot_setSlot_same] at hsc'
    cases hsc'
    rcases hcl c hc with hon | hold
    · rw [hon] at hab; cases hab
    · exact h sc hsc c hold a b hab

/-- What an issue has paid once it has begun (R290). -/
theorem charge_pays (s : State) (ctx res inst n : Nat) : ((s.charge ctx res inst n).ctx ctx).acct res inst =
    let a := (s.ctx ctx).acct res inst
    if n = 0 then a else if a.avail ≤ 0 ∧ (s.ctx ctx).gauge.lo = true then { a with loused := a.loused + n }
    else { a with avail := a.avail - n, chg := a.chg + n } := by
  unfold State.charge
  split
  · rfl
  · rw [State.ctx_setCtx_same]
    unfold Ctx.charge Ctx.acct
    rw [tblGetD_put_same]
    simp

theorem charge_ctx (s : State) (ctx res inst n d : Nat) :
    (s.charge ctx res inst n).ctx d = { s.ctx d with accts := ((s.charge ctx res inst n).ctx d).accts } := by
  unfold State.charge
  split
  · rfl
  · by_cases hd : d = ctx
    · subst hd; rw [State.ctx_setCtx_same]; rfl
    · rw [State.ctx_setCtx_ne _ _ hd]

theorem chargeT_ctx (s : State) (k ctx res inst n d : Nat) :
    (s.chargeT k ctx res inst n).ctx d = { s.ctx d with accts := ((s.chargeT k ctx res inst n).ctx d).accts } := by
  unfold State.chargeT
  generalize s.payers k ctx n = l
  induction l generalizing s with
  | nil => rfl
  | cons e l ih => rw [List.foldl_cons, ih, charge_ctx]

/-- A task that is no stage task's pays itself (R358). -/
theorem chargeT_of_own_task (h : ∀ tk : Task, (s.slot k).task = some tk → tk.stage = none) (ctx res inst n : Nat) :
    s.chargeT k ctx res inst n = s.charge ctx res inst n := by
  have hnode : s.stageAt k = none := by
    unfold State.stageAt
    cases htask : (s.slot k).task with
    | none => rfl
    | some tk => simp [h tk htask]
  have hpay : s.payers k ctx n = [(ctx, n)] := by
    unfold State.payers State.sharers
    rw [hnode]
    split <;> rfl
  unfold State.chargeT
  rw [hpay]; rfl

/-- What an issue's start changes: its account, the slot's place in the service order, and the power of clusters. -/
structure Started (s u : State) (k : Nat) (r : Run) : Prop where
  only : u = { s with slots := u.slots, ctxs := u.ctxs, serial := u.serial }
  slot : u.slot k = { s.slot k with servVx := s.serial, scope := (u.slot k).scope }
  scope : ((u.slot k).scope.map fun sc => (sc.n, sc.cl.length, sc.mem)) = (s.slot k).scope.map fun sc => (sc.n, sc.cl.length, sc.mem)
  others : ∀ j, j ≠ k → u.slot j = s.slot j
  ctx : ∀ d, u.ctx d = { s.ctx d with accts := (u.ctx d).accts }
  pays : Pays s u k r.q.ctx 1 (k / 4) (vCost r.q r.next + (s.vWake r.q r.next).2)
  awake : u.Awake k

theorem vxStart_started (h : VxRuns s k op r) : Started s (vxStart s k r) k r := by
  obtain rfl := h.who
  have hserve : ∀ j, (((s.vWake r.q r.next).1.serve .vx r.q.who.slot).slot j) =
      if j = r.q.who.slot then { (s.vWake r.q r.next).1.slot r.q.who.slot with servVx := s.serial } else s.slot j := by
    intro j
    split
    next hj =>
      subst hj
      refine (State.slot_setSlot_same ..).trans ?_
      rw [vWake_only]; rfl
    next hj => exact (State.slot_setSlot_ne _ _ hj).trans (vWake_others _ _ _ hj)
  have hslot : ∀ j, (vxStart s r.q.who.slot r).slot j = ((s.vWake r.q r.next).1.serve .vx r.q.who.slot).slot j := fun j => by
    unfold vxStart; rw [State.chargeT_only]; rfl
  have hctx : ∀ d, ((s.vWake r.q r.next).1.serve .vx r.q.who.slot).ctx d = s.ctx d := fun d => by
    unfold State.serve; rw [vWake_only]; rfl
  have hself := (hslot _).trans ((hserve _).trans (if_pos rfl))
  refine ⟨?_, ?_, ?_, fun j hj => ?_, fun d => ?_, fun htask => ?_, ?_⟩
  · unfold vxStart
    rw [State.chargeT_only]
    unfold State.serve
    rw [vWake_only]; rfl
  · rw [hself, vWake_slot]
  · rw [hself]; exact vWake_scope ..
  · rw [hslot, hserve, if_neg hj]
  · unfold vxStart; rw [chargeT_ctx, hctx]
  · have hown : ∀ tk : Task, (((s.vWake r.q r.next).1.serve .vx r.q.who.slot).slot r.q.who.slot).task = some tk → tk.stage = none := by
      rw [hserve, if_pos rfl, vWake_slot]; exact htask
    unfold vxStart
    rw [chargeT_of_own_task hown, charge_pays, hctx]
  · intro sc hsc
    rw [hself] at hsc
    exact h.awake.vWake _ sc hsc

theorem Started.sameStore (h : Started s u k r) : s.SameStore u k where
  grps := by rw [h.only]
  tile := by
    have hscope := h.scope
    unfold State.tileMem
    cases hu : (u.slot k).scope <;> cases hs : (s.slot k).scope <;> simp_all
  launch d := by rw [h.ctx]

theorem Started.ue (h : Started s u k r) (hs : s.mem.ue = []) : u.mem.ue = [] := by
  rw [h.only]; exact hs

theorem Started.has (h : Started s u k r) (hq : q.who.slot = k) {A : Area} (hs : s.Has q A) : u.Has q A := by
  subst hq
  cases A with
  | bank b => exact fun e => hs (by rw [← e]; unfold State.grp; rw [h.sameStore.grps])
  | ds => exact fun e => hs (by rw [← e]; exact (h.sameStore.launch _).symm)
  | tile => exact fun e => hs (by simpa [e] using h.scope.symm)

theorem Started.mask (h : Started s u k r) (n : Nat) : (u.slot k).mask n = (s.slot k).mask n := by rw [h.slot]; rfl

/-- What an issue writes can be written once it has begun. -/
theorem VxRuns.writable (h : VxRuns s k op r) {A : Area} (hA : s.Has r.q A) : (vxStart s k r).Writable r.q A where
  ue := (vxStart_started h).ue h.ue
  has := (vxStart_started h).has h.who hA
  awake := h.who ▸ (vxStart_started h).awake

theorem VxRuns.area (h : VxRuns s k op r) (A : Area) : (vxStart s k r).area r.q A = s.area r.q A := by
  have hstart := (vxStart_started h).sameStore
  obtain rfl := h.who
  exact hstart.area A

/-- Masked-off elements are those of the slot's mask as the issue began (R130). -/
def vLiveIn (s : State) (q : QRec) (k e : Nat) : Bool := !(vMen q) || ((s.slot k).mask (vMsel q)).getLsbD e

theorem VxRuns.vLive (h : VxRuns s k op r) (e : Nat) : (vxStart s k r).vLive r.q e = vLiveIn s r.q k e := by
  unfold State.vLive vLiveIn
  rw [h.who, (vxStart_started h).mask]

-- The end (R70, R131).

theorem fxCount_ctx (s : State) (c i n d : Nat) :
    (s.fxCount c i n).ctx d = { s.ctx d with fxc := ((s.fxCount c i n).ctx d).fxc, fx := ((s.fxCount c i n).ctx d).fx } := by
  unfold State.fxCount
  split
  · rfl
  · dsimp only
    split
    · rw [State.emit_only]
      by_cases hd : d = c
      · subst hd; simp only [State.ctx, State.setCtx, tblGetD_set_same]
      · simp only [State.ctx, State.setCtx, tblGetD_set_ne _ _ _ hd]
    · by_cases hd : d = c
      · subst hd; rw [State.ctx_setCtx_same]
      · rw [State.ctx_setCtx_ne _ _ hd]

theorem fxCount_only (s : State) (c i n : Nat) : s.fxCount c i n =
    { s with ctxs := (s.fxCount c i n).ctxs, out := (s.fxCount c i n).out, eth := (s.fxCount c i n).eth, preg := (s.fxCount c i n).preg } := by
  unfold State.fxCount
  split
  · rfl
  · dsimp only
    split
    · rw [State.emit_only]; rfl
    · rfl

/-- What may differ in the counting of events and in what is sent of them (R70 to R72). -/
structure Counted (s t : State) : Prop where
  only : t = { s with ctxs := t.ctxs, out := t.out, eth := t.eth, preg := t.preg, freeCtr := t.freeCtr }
  ctx : ∀ d, t.ctx d = { s.ctx d with fxc := (t.ctx d).fxc, fx := (t.ctx d).fx }

theorem Counted.refl (s : State) : Counted s s := ⟨rfl, fun _ => rfl⟩
theorem Counted.trans (h : Counted s t) (h' : Counted t u) : Counted s u :=
  ⟨by rw [h'.only, h.only], fun d => by rw [h'.ctx, h.ctx]⟩

theorem fxAll_counted (s : State) (c : Nat) (evs : List Nat) : Counted s (s.fxAll c evs) := by
  unfold State.fxAll
  split
  · exact .refl s
  · generalize List.range 16 = l
    induction l generalizing s with
    | nil => exact .refl s
    | cons i l ih => exact Counted.trans ⟨by rw [fxCount_only], fxCount_ctx s c i _⟩ (ih _)

theorem performed_counted (x : Iss) (r : Run) (last : Bool) : Counted x.s (State.performed x r last).1 := by
  have hfree : ∀ (s : State) (b : Bool), Counted s (if b then { s with freeCtr := s.freeCtr + 2 ^ 48 } else s) := fun s b => by
    cases b
    · exact .refl s
    · exact ⟨rfl, fun _ => rfl⟩
  have hlast : ∀ (s : State) (b : Bool) (evs : List Nat), Counted s (if b then s.fxAll r.q.ctx evs else s) := fun s b evs => by
    cases b
    · exact .refl s
    · exact fxAll_counted s _ _
  exact (fxAll_counted _ _ _).trans ((hfree _ _).trans (hlast _ _ _))

/-- The state after an issue whose body has given `x`. -/
def issued (x : Iss) (r : Run) : State :=
  let p := State.performed x r (r.next + 1 == rIssues r.q.r)
  p.1.setSlot r.q.who.slot ((p.1.slot r.q.who.slot).setRun .vx (some p.2))

/-- A body that answers is followed by the record's next place (R131). -/
theorem vxRow_of_ok (h : VxRuns s k op r) {body : Body} {x : Iss} (hx : body (vxStart s k r) r.q r.next [] = .ok x) :
    s.vxRow k op body = .next (issued x r) := by
  obtain rfl := h.who
  unfold State.vxRow State.issue
  have hrun : (s.slot r.q.who.slot).run .vx = some r := h.run
  rw [hrun]
  dsimp only
  rw [if_neg (by simp [h.op, h.ready, h.serves]), h.blk]
  have hstart : (((s.vWake r.q r.next).1.serve .vx r.q.who.slot).chargeT r.q.who.slot r.q.ctx (engRes .vx) (coreOf r.q.who.slot)
      (vCost r.q r.next + (s.vWake r.q r.next).2)) = vxStart s r.q.who.slot r := rfl
  rw [hstart, hx]
  rfl

/-- The record at its next issue, with what its blocks of LOG6 then hold. -/
def Run.stepped (r : Run) (blk : Blocks) : Run :=
  { r with next := r.next + 1, blk := blk, done := r.next + 1 == rIssues r.q.r, stage := tblErase r.stage r.next }

theorem issued_slot (x : Iss) (r : Run) :
    (issued x r).slot r.q.who.slot = { x.s.slot r.q.who.slot with rvx := some (r.stepped x.blk) } := by
  unfold issued
  refine (State.slot_setSlot_same ..).trans ?_
  rw [(performed_counted x r _).only]
  rfl

theorem issued_others (x : Iss) (r : Run) {j : Nat} (hj : j ≠ r.q.who.slot) : (issued x r).slot j = x.s.slot j := by
  unfold issued
  refine (State.slot_setSlot_ne _ _ hj).trans ?_
  rw [(performed_counted x r _).only]
  rfl

theorem issued_only (x : Iss) (r : Run) : issued x r = { x.s with
    slots := (issued x r).slots, ctxs := (issued x r).ctxs, out := (issued x r).out, eth := (issued x r).eth, preg := (issued x r).preg,
    freeCtr := (issued x r).freeCtr } := by
  unfold issued
  dsimp only
  rw [(performed_counted x r _).only]
  rfl

theorem issued_ctx (x : Iss) (r : Run) (d : Nat) :
    (issued x r).ctx d = { x.s.ctx d with fxc := ((issued x r).ctx d).fxc, fx := ((issued x r).ctx d).fx } :=
  (performed_counted x r _).ctx d

theorem issued_sameStore (x : Iss) (r : Run) : x.s.SameStore (issued x r) r.q.who.slot where
  grps := by rw [issued_only]
  tile := by unfold State.tileMem; rw [issued_slot]
  launch d := by rw [issued_ctx]

/-- The record stands at its next issue, and nothing differs but what an issue may change. -/
theorem issued_vxIssued (h : VxRuns s k op r) {x : Iss} (hx : (vxStart s k r).Keeps x.s r.q) :
    VxIssued s (issued x r) k r ∧ ((issued x r).slot k).masks = (s.slot k).masks := by
  have hstart := vxStart_started h
  obtain rfl := h.who
  have hctx : ∀ d, (issued x r).ctx d = { s.ctx d with
      accts := ((vxStart s r.q.who.slot r).ctx d).accts, fxc := ((issued x r).ctx d).fxc, fx := ((issued x r).ctx d).fx,
      launch := ((issued x r).ctx d).launch } := fun d => by rw [issued_ctx, hx.ctx, hstart.ctx]
  refine ⟨⟨⟨r.stepped x.blk, ?_, rfl⟩, ?_, fun htask => ?_, fun j hj => ?_, ?_, ?_, ?_, fun d => ?_⟩, ?_⟩
  · rw [issued_slot, hx.slot, hstart.slot]
  · have h1 := congrArg (Option.map fun e : Nat × List Cluster => (e.1, e.2.length)) hx.scope
    have h2 := congrArg (Option.map fun e : Nat × Nat × Memory => (e.1, e.2.1)) hstart.scope
    rw [Option.map_map, Option.map_map] at h1 h2
    rw [issued_slot]
    exact h1.trans h2
  · rw [← hstart.pays htask, hctx]; rfl
  · rw [issued_others x r hj, hx.others j hj, hstart.others j hj]
  · rw [issued_only]; exact hx.seqs.trans (by rw [hstart.only])
  · rw [issued_only]; exact hx.cores.trans (by rw [hstart.only])
  · rw [issued_only]; exact hx.mem.trans (by rw [hstart.only])
  · rw [hctx]
  · rw [issued_slot, hx.slot, hstart.slot]

/-- What a body has written so far. -/
theorem VxRuns.writes (h : VxRuns s k op r) {x : State} {A : Area} {m : Memory} (hx : (vxStart s k r).Stored x r.q A m) : s.Writes x r.q A m := by
  have hstart := (vxStart_started h).sameStore
  obtain rfl := h.who
  exact hstart.writes hx.toWrites (.refl ..)

/-- What the body has written stands after the issue. -/
theorem issued_writes (h : VxRuns s k op r) {x : Iss} {A : Area} {m : Memory} (hx : (vxStart s k r).Stored x.s r.q A m) :
    s.Writes (issued x r) r.q A m :=
  State.SameStore.writes (.refl ..) (h.writes hx) (issued_sameStore x r)

end Sys2Proof.Machine
end

section

/-! PROOF. The elements of D that an issue writes (O38). -/

open Sys2Proof.Claim
namespace Sys2Proof.Machine

variable {s t u : State} {q : QRec} {k op f n : Nat} {r : Run} {pos : Nat → Int} {addr v : Nat → Nat} {val : Nat → Option Nat}

def QRec.destArea (q : QRec) : Area :=
  match q.opD with
  | .bank b _ _ => .bank b
  | .hnd _ _ => .ds
  | _ => .tile

theorem destMem_eq (s : State) (q : QRec) : destMem s q = s.area q q.destArea := by
  unfold destMem QRec.destArea
  cases q.opD <;> rfl

/-- The byte that `destAt` names is where the model places the element (R54, R106, R126, R165). -/
theorem place_of_destAt {p : Int} {a : Nat} (h : destAt q f p = some a) :
    q.opD.place f p = .ok (.bytes (q.destArea.mem a) (destSize q f)) ∧ q.destArea.Fits a (destSize q f) := by
  unfold destAt at h
  dsimp only at h
  unfold Opd.place QRec.destArea destSize at *
  split at h
  · cases h
  next hp =>
  rw [if_neg hp]
  cases hD : q.opD with
  | bank b w off =>
    simp only [hD] at h
    split at h
    next hfit =>
      cases h
      dsimp only
      rw [if_neg hfit.1, if_neg (Nat.not_lt.2 hfit.2)]
      exact ⟨rfl, by simpa [Area.Fits, Nat.succ_mul] using hfit.2⟩
    next => cases h
  | tile off =>
    simp only [hD] at h
    cases h
    exact ⟨rfl, trivial⟩
  | hnd hd off =>
    simp only [hD] at h
    split at h
    next hds =>
      obtain ⟨x, hx, rfl⟩ := Option.map_eq_some_iff.1 h
      dsimp only
      rw [hx]
      refine ⟨?_, trivial⟩
      dsimp only
      rw [if_neg hds.2]
      simp [handleAt, handleMem, hds.1, elemByte, hds.2, Area.mem]
    next => cases h
  | imm v => simp [hD] at h
  | absent => simp [hD] at h

/-- The bits of an element of format `f` in D's format. -/
def QRec.conv (q : QRec) (f x : Nat) : Nat := (convElem f (q.opD.fmt f) (rRound q.r) (rSat q.r) x).1

def destPiece (q : QRec) (f a x : Nat) : Piece := { at_ := a, len := destSize q f, val := q.conv f x }

/-- One element of D is written where it lies (R60, R107, R129). -/
theorem put_stored {x : Iss} (h : x.s.Writable q q.destArea) {p : Int} {a : Nat} (hp : destAt q f p = some a) (y : Nat) :
    ∃ x', x.put q q.opD f (rRound q.r) (rSat q.r) (p, y) = .ok x' ∧ x'.blk = x.blk ∧
      x.s.Stored x'.s q q.destArea ((x.s.area q q.destArea).writeAll [destPiece q f a y]) := by
  obtain ⟨hplace, hfit⟩ := place_of_destAt hp
  obtain ⟨t, hwrite, hstored⟩ := writeMem_stored h hfit (q.conv f y)
  refine ⟨{ x with s := t, evs := x.evs ++ (convElem f (q.opD.fmt f) (rRound q.r) (rSat q.r) y).2.toList }, ?_, rfl, hstored⟩
  have hwrite' : x.s.writeMem q (q.destArea.mem a) (destSize q f) (convElem f (q.opD.fmt f) (rRound q.r) (rSat q.r) y).1 = .ok t := hwrite
  unfold Iss.put
  simp [hplace, bind, Except.bind, pure, Except.pure, scrub_of_no_errors h.ue, hwrite']

/-- Several elements of D are written one after the other. -/
theorem foldlM_put_stored {x : Iss} (h : x.s.Writable q q.destArea) (L : List Nat) (hpos : ∀ e ∈ L, destAt q f (pos e) = some (addr e)) :
    ∃ x', (L.map fun e => (pos e, v e)).foldlM (fun x w => x.put q q.opD f (rRound q.r) (rSat q.r) w) x = .ok x' ∧ x'.blk = x.blk ∧
      x.s.Stored x'.s q q.destArea ((x.s.area q q.destArea).writeAll (L.map fun e => destPiece q f (addr e) (v e))) := by
  induction L generalizing x with
  | nil => exact ⟨x, rfl, rfl, .refl ..⟩
  | cons e L ih =>
    obtain ⟨x₁, hput, hblk₁, hstored₁⟩ := put_stored h (hpos e List.mem_cons_self) (v e)
    obtain ⟨x₂, hfold, hblk₂, hstored₂⟩ := ih (hstored₁.writable h) fun e he => hpos e (List.mem_cons_of_mem _ he)
    refine ⟨x₂, ?_, hblk₂.trans hblk₁, ?_⟩
    · rw [List.map_cons, List.foldlM_cons, hput]; exact hfold
    · rw [hstored₁.area] at hstored₂
      exact hstored₁.trans hstored₂

theorem has_of_destOk (h : DestOk s q f n pos addr) {e : Nat} (he : e < n) : s.Has q q.destArea := by
  obtain ⟨-, hpos, -, hbank, hhnd, htile⟩ := h
  have hat := hpos e he
  unfold destAt at hat
  unfold QRec.destArea
  cases hD : q.opD with
  | bank b w o => exact hbank b w o hD
  | hnd hd o => exact hhnd hd o hD
  | tile o => exact htile o hD
  | imm v => simp [hD] at hat
  | absent => simp [hD] at hat

/-- A list of elements of D is put, in a state that has begun an issue. -/
theorem vPut_stored (hr : VxRuns s k op r) (hd : DestOk s r.q f n pos addr) {L : List Nat} (hL : ∀ e ∈ L, e < n) (evs : List Nat) :
    ∃ x, vPut (vxStart s k r) r.q [] f evs (L.map fun e => (pos e, v e)) = .ok x ∧
      (vxStart s k r).Stored x.s r.q r.q.destArea
        (((vxStart s k r).area r.q r.q.destArea).writeAll (L.map fun e => destPiece r.q f (addr e) (v e))) := by
  cases L with
  | nil => exact ⟨_, rfl, .refl ..⟩
  | cons e L =>
    have hhas := has_of_destOk hd (hL e List.mem_cons_self)
    obtain ⟨-, hpos, -⟩ := hd
    obtain ⟨x, hx, -, hstored⟩ := foldlM_put_stored (f := f) (v := v)
      (x := { s := vxStart s k r, evs := evs, cov := ([] : List UeLoc) ++ State.covered (vxStart s k r) r.q (List.flatten
        (((e :: L).map fun e => (pos e, v e)).map fun w => r.q.opD.runs f w.1)) })
      (hr.writable hhas) (e :: L) fun e he => hpos e (hL e he)
    exact ⟨x, hx, hstored⟩

/-- What D's area holds after its elements have been written, each where it lies (R54). -/
theorem vWrites_of_writes (hd : DestOk s q f n pos addr) {L : List Nat}
    (hx : s.Writes t q q.destArea ((s.area q q.destArea).writeAll (L.map fun e => destPiece q f (addr e) (v e))))
    (hL : L.Nodup) (hn : ∀ e ∈ L, e < n) (hval : ∀ e, e < n → val e = if e ∈ L then some (v e) else none) :
    VWrites s t q f n addr val := by
  obtain ⟨-, hpos, hapart, -⟩ := hd
  have hmem : destMem t q = (destMem s q).writeAll (L.map fun e => destPiece q f (addr e) (v e)) := by
    rw [destMem_eq, destMem_eq, hx.area]
  have hpieces : (L.map fun e => destPiece q f (addr e) (v e)).Pairwise Piece.Apart :=
    List.pairwise_map.2 (hL.pairwise_of_forall_ne fun e he d hd hne => hapart e d (hn e he) (hn d hd) hne)
  refine ⟨fun e w he hw => ?_, fun a ha => ?_, fun hb => ?_, fun b w o hb g d hgd => ?_, fun htile => ?_, fun hhnd d => ?_⟩
  · dsimp only at hw
    rw [hval e he] at hw
    split at hw
    next hmemL =>
      cases hw
      rw [hmem]
      exact Memory.readLE_writeAll_of_mem hpieces (List.mem_map_of_mem hmemL)
    next => cases hw
  · rw [hmem]
    refine Memory.read_writeAll_of_outside fun p hp => ?_
    obtain ⟨e, he, rfl⟩ := List.mem_map.1 hp
    exact ha e (hn e he) (by simp [hval e (hn e he), he])
  · have hA : ∀ b, q.destArea ≠ .bank b := fun b => by
      unfold QRec.destArea
      cases hD : q.opD <;> simp
      exact (hb _ _ _ hD).elim
    exact hx.grps hA
  · have hA : q.destArea = .bank b := by unfold QRec.destArea; rw [hb]
    exact hx.banks g d fun e => hgd ⟨e.1, by simpa [hA] using e.2.symm⟩
  · by_cases hA : q.destArea = .tile
    · -- D is no operand that is written: there is no element
      have hat : ∀ p, destAt q f p = none := fun p => by
        unfold destAt QRec.destArea at *
        cases hD : q.opD <;> simp_all
      have hnil : L = [] := List.eq_nil_iff_forall_not_mem.2 fun e he => by simpa [hat] using hpos e (hn e he)
      rw [hA, hnil] at hx
      exact hx.area
    · exact hx.tile hA
  · have hA : q.destArea ≠ .ds := by
      unfold QRec.destArea
      cases hD : q.opD <;> simp
      exact (hhnd _ _ hD).elim
    exact hx.ds hA d

/-- An issue whose body puts a list of elements of D: they are written, and the record stands at its next issue. -/
theorem vxRow_writes (hr : VxRuns s k op r) {body : Body} {evs : List Nat} {L : List Nat}
    (hbody : body (vxStart s k r) r.q r.next [] = vPut (vxStart s k r) r.q [] f evs (L.map fun e => (pos e, v e)))
    (hd : DestOk s r.q f n pos addr) (hL : L.Nodup) (hn : ∀ e ∈ L, e < n) (hval : ∀ e, e < n → val e = if e ∈ L then some (v e) else none) :
    ∃ t, s.vxRow k op body = .next t ∧ VxIssued s t k r ∧ (t.slot k).masks = (s.slot k).masks ∧ VWrites s t r.q f n addr val := by
  obtain ⟨x, hx, hstored⟩ := vPut_stored (v := v) hr hd hn evs
  obtain ⟨hissued, hmasks⟩ := issued_vxIssued hr hstored.toKeeps
  refine ⟨issued x r, vxRow_of_ok hr (hbody.trans hx), hissued, hmasks, ?_⟩
  have hwrites := issued_writes hr hstored
  rw [hr.area] at hwrites
  exact vWrites_of_writes hd hwrites hL hn hval

end Sys2Proof.Machine

end

section

/-! PROOF. Ops that give each element of the tile a value, element by element, and the ops of the log path (O38). -/

open Sys2Proof.Claim
namespace Sys2Proof.Machine

variable {s u : State} {q : QRec} {k op : Nat} {r : Run}

theorem mapM_of_ok {α β : Type} {g : α → Eng' β} {h : α → β} {l : List α} (hl : ∀ a ∈ l, g a = .ok (h a)) : l.mapM g = .ok (l.map h) := by
  induction l with
  | nil => rfl
  | cons a l ih =>
    rw [List.mapM_cons, hl a List.mem_cons_self, ih fun b hb => hl b (List.mem_cons_of_mem _ hb)]
    rfl

theorem bind_of_ok {α β : Type} {x : Eng' α} {a : α} {g : α → Eng' β} (h : x = .ok a) : x >>= g = g a := by rw [h]; rfl

/-- The elements that an op writes: those that are not masked off, and with MZ the others too (R130). -/
def written (live : Nat → Bool) (mz : Bool) (n : Nat) : List Nat := (List.range n).filter fun e => live e || mz

theorem mem_written {live : Nat → Bool} {mz : Bool} {n e : Nat} : e ∈ written live mz n ↔ e < n ∧ (live e = true ∨ mz = true) := by
  simp [written]

theorem filterMap_if {α β : Type} (p : α → Bool) (g : α → β) (l : List α) :
    (l.filterMap fun a => if p a then some (g a) else none) = (l.filter p).map g := by
  induction l with
  | nil => rfl
  | cons a l ih => by_cases h : p a <;> simp [h, ih]

/-- A body of the elementwise ops puts the results of the elements that are not masked off, and zeroes where MZ asks for them. -/
theorem vTile_eq_vPut (f : Nat) (at_ : QRec → Nat → Nat → Nat → Int) {res : State → QRec → Nat → Nat → Nat → Eng' (Nat × List Nat)} {i : Nat}
    {v : Nat → Nat} {ev : Nat → List Nat} (h : ∀ e, e < vE q → u.vLive q e = true → res u q i (e / vLanes q) (e % vLanes q) = .ok (v e, ev e)) :
    ∃ evs, vTile f at_ res u q i [] = vPut u q [] f evs ((written (u.vLive q) (vMz q) (vE q)).map fun e =>
      (at_ q i (e / vLanes q) (e % vLanes q), if u.vLive q e then v e else 0)) := by
  refine ⟨evsOf ((written (u.vLive q) (vMz q) (vE q)).map fun e => if u.vLive q e then ev e else []),
    (bind_of_ok (mapM_of_ok (h := fun e : Nat × Nat × Nat => if u.vLive q e.1 || vMz q then
      some (at_ q i e.2.1 e.2.2, if u.vLive q e.1 then v e.1 else 0, if u.vLive q e.1 then ev e.1 else []) else none) fun e he => ?_)).trans ?_⟩
  · obtain ⟨e, hlt, rfl⟩ := List.mem_map.1 he
    dsimp only
    by_cases hlive : u.vLive q e = true
    · rw [if_pos hlive, h e (List.mem_range.1 hlt) hlive]; simp [hlive]
    · simp [hlive]; rfl
  · rw [List.filterMap_map, vElems, List.filterMap_map]
    have hout := filterMap_if (fun e => u.vLive q e || vMz q)
      (fun e => (at_ q i (e / vLanes q) (e % vLanes q), if u.vLive q e then v e else 0, if u.vLive q e then ev e else [])) (List.range (vE q))
    refine (congrArg (fun l => vPut u q [] f (evsOf (l.map fun o => o.2.2)) (l.map fun o => (o.1, o.2.1))) hout).trans ?_
    rw [List.map_map, List.map_map]
    rfl

theorem written_value {live : Nat → Bool} {mz : Bool} {n e : Nat} {L : List Nat} (hL : e ∈ L ↔ e ∈ written live mz n) (he : e < n) (v : Nat → Nat) :
    (if live e then some (v e) else if mz then some 0 else none) = if e ∈ L then some (if live e then v e else 0) else none := by
  rw [if_congr hL rfl rfl]
  cases hlive : live e <;> cases mz <;> simp [mem_written, he, hlive]

/-- An op whose body gives each element that is not masked off its value is as `VTile` says. -/
theorem vTile_of_body {i : Nat → Instr} {op : Nat} {f : QRec → Nat} {guard : QRec → Bool} {all : Bool} {pos : QRec → Nat → Nat → Nat → Int}
    {src : State → QRec → Nat → Nat → Nat → List (Nat × Int)} {val : QRec → (Nat → Bool) → (Nat → List Nat) → Nat → Nat} {body : Body}
    (hexec : ∀ k s, exec (i k) s = s.vxRow k op body)
    (hbody : ∀ (s : State) (k : Nat) (r : Run) (x : Nat → List Nat), VxRuns s k op r → guard r.q = true →
      (∀ e, e < vE r.q → vLiveIn s r.q k e = true ∨ all = true → List.Forall₂ (fun p v => v < 2 ^ (8 * fmtSize (vOpFmt r.q p.1)) ∧
        ∃ ev, (vxStart s k r).vGet r.q p.1 p.2 = .ok (v, ev)) (src s r.q r.next (e / vLanes r.q) (e % vLanes r.q)) (x e)) →
      ∃ (evs L : List Nat), body (vxStart s k r) r.q r.next [] = vPut (vxStart s k r) r.q [] (f r.q) evs (L.map fun e =>
          (pos r.q r.next (e / vLanes r.q) (e % vLanes r.q), if vLiveIn s r.q k e then val r.q (vLiveIn s r.q k) x e else 0)) ∧
        L.Nodup ∧ ∀ e, e ∈ L ↔ e ∈ written (vLiveIn s r.q k) (vMz r.q) (vE r.q)) :
    VTile i op f guard all pos src val := by
  intro s k r x addr q u live hready hguard hx hd
  have hr := vxRuns_of_ready hready
  obtain ⟨evs, L, hput, hnodup, hL⟩ := hbody s k r x hr hguard hx
  obtain ⟨t, hrun, hissued, hmasks, hwrites⟩ := vxRow_writes hr hput hd hnodup (fun e he => (mem_written.1 ((hL e).1 he)).1)
    fun e he => written_value (hL e) he _
  exact ⟨t, (hexec k s).trans hrun, hissued, hmasks, hwrites⟩

theorem written_nodup (live : Nat → Bool) (mz : Bool) (n : Nat) : (written live mz n).Nodup := List.nodup_range.filter _

/-- An elementwise op, by what it computes from the values of the elements it reads. -/
theorem vTile_of_res {i : Nat → Instr} {op : Nat} {f : QRec → Nat} {guard : QRec → Bool} {pos : QRec → Nat → Nat → Nat → Int}
    {src : QRec → Nat → Nat → Nat → List (Nat × Int)} {g : QRec → List Nat → Nat} {body : Body}
    {res : State → QRec → Nat → Nat → Nat → Eng' (Nat × List Nat)}
    (hexec : ∀ k s, exec (i k) s = s.vxRow k op body) (hbody : ∀ s q n blk, body s q n blk = vTile (f q) pos res s q n blk)
    (hres : ∀ (u : State) (q : QRec) (n r l : Nat) (x : List Nat),
      List.Forall₂ (fun p v => ∃ ev, u.vGet q p.1 p.2 = .ok (v, ev)) (src q n r l) x → ∃ ev, res u q n r l = .ok (g q x, ev)) :
    VTile i op f guard false pos (fun _ => src) fun q _ x e => g q (x e) := by
  refine vTile_of_body hexec fun s k r x hr _ hx => ?_
  have hlive : (vxStart s k r).vLive r.q = vLiveIn s r.q k := funext hr.vLive
  have hval : ∀ e, ∃ ev, e < vE r.q → (vxStart s k r).vLive r.q e = true →
      res (vxStart s k r) r.q r.next (e / vLanes r.q) (e % vLanes r.q) = .ok (g r.q (x e), ev) := fun e => by
    by_cases he : e < vE r.q ∧ (vxStart s k r).vLive r.q e = true
    · obtain ⟨ev, hev⟩ := hres _ _ r.next _ _ (x e) ((hx e he.1 (.inl (hlive ▸ he.2))).imp fun _ _ h => h.2)
      exact ⟨ev, fun _ _ => hev⟩
    · exact ⟨[], fun h1 h2 => (he ⟨h1, h2⟩).elim⟩
  choose ev hev using hval
  obtain ⟨evs, hput⟩ := vTile_eq_vPut (f r.q) pos hev
  rw [hlive] at hput
  exact ⟨evs, _, (hbody ..).trans hput, written_nodup .., fun _ => Iff.rfl⟩

/-- The first operands' elements are read one after the other. -/
theorem mapM_vGet {is x : List Nat} {n r l : Nat}
    (h : List.Forall₂ (fun p v => ∃ ev, u.vGet q p.1 p.2 = .ok (v, ev)) (opsFrom is q n r l) x) :
    ∃ ys, is.mapM (fun i => u.vGet q i (vAt q i n r l)) = .ok ys ∧ ys.map (·.1) = x := by
  induction is generalizing x with
  | nil => cases h; exact ⟨[], rfl, rfl⟩
  | cons i is ih =>
    obtain ⟨v, x, ⟨ev, hget⟩, hrest, rfl⟩ := List.forall₂_cons_left_iff.1 h
    obtain ⟨ys, hys, rfl⟩ := ih hrest
    exact ⟨(v, ev) :: ys, by rw [List.mapM_cons, hget, bind_of_ok rfl, hys]; rfl, rfl⟩

/-- An op that maps the elements of its first operands. -/
theorem vMap_of_body {i : Nat → Instr} {op n : Nat} {is : List Nat} {g : QRec → List Nat → Elem} {val : QRec → List Nat → Nat}
    (hexec : ∀ k s, exec (i k) s = s.vxRow k op (vMap n g)) (his : [1, 2, 3].take n = is) (hval : ∀ q x, (g q x).1 = val q x) :
    VMap i op is val := by
  refine vTile_of_res hexec (fun _ _ _ _ => rfl) fun u q n r l x hx => ?_
  obtain ⟨ys, hys, rfl⟩ := mapM_vGet hx
  refine ⟨evsOf (ys.map (·.2)) ++ (g q (ys.map (·.1))).2.toList, ?_⟩
  dsimp only
  rw [his, bind_of_ok hys, ← hval]
  rfl

theorem arg_zero (x : List Nat) : arg x 0 = b0 x := by cases x <;> rfl
theorem lArg_zero (x : List Nat) : lArg (x.map (BitVec.ofNat 32)) 0 = BitVec.ofNat 32 (b0 x) := by cases x <;> rfl
theorem lArg_one (x : List Nat) : lArg (x.map (BitVec.ofNat 32)) 1 = BitVec.ofNat 32 (b1 x) := by rcases x with _ | ⟨_, _ | _⟩ <;> rfl

/-- One of the six functions (R142). -/
theorem vFun_map {i : Nat → Instr} {op : Nat} {fn : Nat → Nat × Ev} (hexec : ∀ k s, exec (i k) s = s.vxRow k op (vFun fn)) :
    VMap i op [1] fun q x => (fnFinish (vF q) (rRound q.r) (rSat q.r) (fn (convElem (vF q) 6 .rne false (b0 x)).1)).1 :=
  vMap_of_body hexec rfl fun q x => by rw [arg_zero]; rfl

/-- An exact op on logarithms (R141). -/
theorem vLog_map {i : Nat → Instr} {op n : Nat} {is : List Nat} {g : QRec → List (BitVec 32) → BitVec 32} {val : QRec → List Nat → Nat}
    (hexec : ∀ k s, exec (i k) s = s.vxRow k op (vLog n g)) (his : [1, 2, 3].take n = is)
    (hval : ∀ q x, (g q (x.map (BitVec.ofNat 32))).toNat = val q x) : VMap i op is val :=
  vMap_of_body hexec his hval

/-- VLOG2 gives the logarithm of an element that is widened to FP32 (R140). -/
theorem vlog2_tile : VTile .vlog2 0x51 (fun _ => 2) (fun _ => true) false (fun q k r l => vAt q 0 k r l) (fun _ q k r l => opsFrom [1] q k r l)
    fun q _ x e => (logL (toNum fp32 (convElem (vF q) 6 .rne false (b0 (x e))).1)).toNat := by
  refine vTile_of_res (body := vlog2B) (g := fun q x => (logL (toNum fp32 (vWide q (b0 x)))).toNat)
    (fun k s => exec_vlog2 k s) (fun _ _ _ _ => rfl) fun u q n r l x hx => ?_
  obtain ⟨v, _, ⟨ev, hget⟩, hnil, rfl⟩ := List.forall₂_cons_left_iff.1 hx
  cases hnil
  refine ⟨ev, (bind_of_ok hget).trans ?_⟩
  rw [show b0 [v] = v from rfl]
  rfl

theorem vectorLogPath : VectorLogPath := by
  refine ⟨vlog2_tile, vMap_of_body (fun k s => exec_vexp2 k s) rfl fun q x => by rw [arg_zero],
    vLog_map (fun k s => exec_vladd k s) rfl fun q x => ?_, vLog_map (fun k s => exec_vlsub k s) rfl fun q x => ?_,
    vLog_map (fun k s => exec_vlshr k s) rfl fun q x => ?_, vLog_map (fun k s => exec_vlpow k s) rfl fun q x => ?_,
    vFun_map fun k s => exec_vexpe k s, vFun_map fun k s => exec_vrcp k s, vFun_map fun k s => exec_vrsqrt k s,
    vFun_map fun k s => exec_vsigm k s, vFun_map fun k s => exec_vtanh k s, vFun_map fun k s => exec_vsilu k s⟩
  · rw [lArg_zero, lArg_one]
  · rw [lArg_zero, lArg_one]
  · rw [lArg_zero]
  · rw [lArg_zero]

end Sys2Proof.Machine

end

section

/-! PROOF. Lines of a tile, and what an op reads of one (O38). -/

open Sys2Proof.Claim
namespace Sys2Proof.Machine

variable {s u : State} {q : QRec} {k op j n : Nat} {r : Run} {x : Nat → Nat}

/-- The lines that lie across the axis of an op (R137). -/
def lineCount (q : QRec) : Nat := if vOpx q % 2 = 1 then vLanes q else vRows q
/-- The row and the lane of an element by its number in the tile. -/
def cellOf (q : QRec) (e : Nat) : Nat × Nat := (e / vLanes q, e % vLanes q)

theorem cellOf_eq {i l : Nat} (h : l < vLanes q) : cellOf q (i * vLanes q + l) = (i, l) := by
  unfold cellOf
  rw [Nat.mul_add_mod', Nat.mod_eq_of_lt h, Nat.add_comm, Nat.add_mul_div_right _ _ (by omega), Nat.div_eq_of_lt h, Nat.zero_add]

theorem vLines_eq (q : QRec) : vLines q = (List.range (lineCount q)).map fun j => (lineOf q j).map fun e => cellOf q e.2 := by
  unfold vLines lineCount lineOf vAxis
  by_cases h : vOpx q % 2 = 1 <;> simp only [h, beq_self_eq_true, beq_iff_eq, if_true, if_false] <;>
    refine List.map_congr_left fun j hj => ?_ <;> rw [List.map_map] <;> refine List.map_congr_left fun i hi => ?_
  · exact (cellOf_eq (List.mem_range.1 hj)).symm
  · exact (cellOf_eq (List.mem_range.1 hi)).symm

theorem zipIdx_map_range {α : Type} (g : Nat → α) (n : Nat) : ((List.range n).map g).zipIdx = (List.range n).map fun i => (g i, i) := by
  refine List.ext_getElem (by simp) fun i h1 h2 => ?_
  simp

theorem lineOf_zipIdx {α : Type} (q : QRec) (j : Nat) (g : Nat × Nat → α) : ((lineOf q j).map g).zipIdx = (lineOf q j).map fun e => (g e, e.1) := by
  unfold lineOf
  split <;> rw [List.map_map, zipIdx_map_range, List.map_map] <;> rfl

theorem mem_lineOf {e : Nat × Nat} : e ∈ lineOf q j ↔ if vOpx q % 2 = 1 then e.1 < vRows q ∧ e.2 = e.1 * vLanes q + j
    else e.1 < vLanes q ∧ e.2 = j * vLanes q + e.1 := by
  obtain ⟨i, m⟩ := e
  unfold lineOf
  split <;> simp only [List.mem_map, List.mem_range, Prod.mk.injEq] <;>
    exact ⟨fun ⟨_, hlt, h1, h2⟩ => h1 ▸ ⟨hlt, h2.symm⟩, fun ⟨hlt, h⟩ => ⟨i, hlt, rfl, h.symm⟩⟩

/-- The elements of the lines are those of the tile. -/
theorem lt_of_mem_lineOf {e : Nat × Nat} (hj : j < lineCount q) (he : e ∈ lineOf q j) : e.2 < vE q := by
  rw [mem_lineOf] at he
  unfold lineCount at hj
  unfold vE
  split at he <;> simp_all only [if_true, if_false] <;> obtain ⟨hlt, heq⟩ := he
  · nlinarith
  · nlinarith

/-- The elements of a line that are not masked off, with what they read. -/
def included (q : QRec) (live : Nat → Bool) (x : Nat → Nat) (j : Nat) : List (Nat × Nat) :=
  ((lineOf q j).filter fun e => live e.2).map fun e => (e.1, x e.2)

theorem vLine_eq {ev : Nat → List Nat}
    (h : ∀ e ∈ lineOf q j, u.vLive q e.2 = true → u.vGet q 1 (vAt q 1 n (e.2 / vLanes q) (e.2 % vLanes q)) = .ok (x e.2, ev e.2)) :
    ∃ evs, u.vLine q n ((lineOf q j).map fun e => cellOf q e.2) = .ok (included q (u.vLive q) x j, evs) := by
  refine ⟨evsOf (((lineOf q j).filter fun e => u.vLive q e.2).map fun e => ev e.2), ?_⟩
  unfold State.vLine
  rw [lineOf_zipIdx]
  refine (bind_of_ok (a := (lineOf q j).map fun e => if u.vLive q e.2 then some (e.1, x e.2, ev e.2) else none) ?_).trans ?_
  · rw [List.mapM_map]
    refine mapM_of_ok fun e he => ?_
    dsimp only [cellOf, Function.comp]
    rw [Nat.div_add_mod']
    by_cases hlive : u.vLive q e.2 = true
    · rw [if_pos hlive, h e he hlive, if_pos hlive]; rfl
    · rw [if_neg hlive, if_neg hlive]; rfl
  · dsimp only
    rw [List.filterMap_map]
    have hout := filterMap_if (fun e => u.vLive q e.2) (fun e : Nat × Nat => (e.1, x e.2, ev e.2)) (lineOf q j)
    refine (congrArg (fun l : List (Nat × Nat × List Nat) => (.ok (l.map fun y => (y.1, y.2.1), evsOf (l.map fun y => y.2.2)) :
      Eng' (List (Nat × Nat) × List Nat))) hout).trans ?_
    rw [List.map_map, List.map_map]
    rfl

/-- All lines are read where the elements that are not masked off are (R137). -/
theorem vLine_all (h : ∀ e, e < vE q → u.vLive q e = true → ∃ ev, u.vGet q 1 (vAt q 1 n (e / vLanes q) (e % vLanes q)) = .ok (x e, ev)) :
    ∃ le : Nat → List Nat, ∀ j, j < lineCount q → u.vLine q n ((lineOf q j).map fun e => cellOf q e.2) = .ok (included q (u.vLive q) x j, le j) := by
  have hread : ∀ e, ∃ ev, e < vE q → u.vLive q e = true → u.vGet q 1 (vAt q 1 n (e / vLanes q) (e % vLanes q)) = .ok (x e, ev) := fun e => by
    by_cases he : e < vE q ∧ u.vLive q e = true
    · exact (h e he.1 he.2).imp fun _ hev _ _ => hev
    · exact ⟨[], fun h1 h2 => (he ⟨h1, h2⟩).elim⟩
  choose ev hev using hread
  have hline : ∀ j, ∃ evs, j < lineCount q → u.vLine q n ((lineOf q j).map fun e => cellOf q e.2) = .ok (included q (u.vLive q) x j, evs) :=
    fun j => by
      by_cases hj : j < lineCount q
      · exact (vLine_eq fun e he => hev e.2 (lt_of_mem_lineOf hj he)).imp fun _ h _ => h
      · exact ⟨[], fun h => (hj h).elim⟩
  choose le hle using hline
  exact ⟨le, hle⟩

/-- What an op computes of each line goes to successive elements of D. -/
theorem vReduce_eq_vPut (f : QRec → Nat) (g : QRec → List (Nat × Nat) → Nat × List Nat)
    (h : ∀ e, e < vE q → u.vLive q e = true → ∃ ev, u.vGet q 1 (vAt q 1 n (e / vLanes q) (e % vLanes q)) = .ok (x e, ev)) :
    ∃ evs, vReduce f g u q n [] = vPut u q [] (f q) evs ((List.range (lineCount q)).map fun j : Nat =>
      (vBase q 0 n + (j : Int), (g q (included q (u.vLive q) x j)).1)) := by
  obtain ⟨le, hle⟩ := vLine_all h
  refine ⟨evsOf ((List.range (lineCount q)).map fun j => le j ++ (g q (included q (u.vLive q) x j)).2), ?_⟩
  unfold vReduce
  rw [vLines_eq]
  refine (bind_of_ok (a := (List.range (lineCount q)).map fun j => ((g q (included q (u.vLive q) x j)).1,
    le j ++ (g q (included q (u.vLive q) x j)).2)) ?_).trans ?_
  · rw [List.mapM_map]
    refine mapM_of_ok fun j hj => ?_
    dsimp only [Function.comp]
    rw [bind_of_ok (hle j (List.mem_range.1 hj))]
    rfl
  · rw [zipIdx_map_range, List.map_map, List.map_map]
    rfl

/-- A reduction, by what it computes of the included elements of a line (R137). -/
theorem vLines_of_reduce {i : Nat → Instr} {f : QRec → Nat} {guard : QRec → Bool} {g : QRec → List (Nat × Nat) → Nat × List Nat}
    {val : QRec → List (Nat × Nat) → Nat} (hexec : ∀ k s, exec (i k) s = s.vxRow k op (vReduce f g))
    (hval : ∀ q xs, guard q = true → (∀ e ∈ xs, e.2 < 2 ^ fmtBits (vF q)) → (g q xs).1 = val q xs) : Claim.VLines i op f guard val := by
  intro s k r x addr q u live n hready hguard hx hd
  have hr := vxRuns_of_ready hready
  have hlive : u.vLive q = live := funext hr.vLive
  obtain ⟨evs, hput⟩ := vReduce_eq_vPut f g fun e he hl => (hx e he (hlive ▸ hl)).2
  rw [hlive] at hput
  have hvalue : ∀ j, j < n → (g q (included q live x j)).1 = val q (included q live x j) := fun j hj => by
    refine hval q _ hguard fun e he => ?_
    obtain ⟨d, hd, rfl⟩ := List.mem_map.1 he
    obtain ⟨hmem, hl⟩ := List.mem_filter.1 hd
    exact (hx d.2 (lt_of_mem_lineOf hj hmem) hl).1
  obtain ⟨t, hrun, hissued, hmasks, hwrites⟩ := vxRow_writes (val := fun j => some (val q (included q live x j))) hr hput hd List.nodup_range
    (fun j hj => List.mem_range.1 hj) fun j hj => by
      rw [if_pos (c := j ∈ List.range (lineCount q)) (List.mem_range.2 hj), hvalue j hj]
  exact ⟨t, (hexec k s).trans hrun, hissued, hmasks, hwrites⟩

end Sys2Proof.Machine

end

section

/-! PROOF. What sums, extremes and the index of the greatest come to (O38). -/

open Sys2Proof.Claim
namespace Sys2Proof.Machine

variable {q : QRec} {f : Nat}

theorem isFlt_iff : isFlt f = true ↔ f = 4 ∨ f = 5 ∨ f = 6 := by simp [isFlt, or_assoc]

theorem fmtSigned_iff : fmtSigned f = true ↔ f = 0 ∨ f = 2 ∨ f = 9 := by simp [fmtSigned, or_assoc]

theorem intVal_eq_toS (f x : Nat) : intVal f x = toS f x := by
  unfold intVal toS fmtBits
  simp only [Bool.and_eq_true, decide_eq_true_eq, fmtSigned_iff]

theorem intLo_le_intHi (f : Nat) : intLo f ≤ intHi f := by
  unfold intLo intHi
  have hpow : ∀ n : Nat, (1 : Int) ≤ 2 ^ n := fun n => by exact_mod_cast Nat.one_le_two_pow
  have h1 := hpow (fmtBits f - 1)
  have h2 := hpow (fmtBits f)
  split <;> omega

theorem clampInt_eq {lo hi : Int} (h : lo ≤ hi) (v : Int) : clampInt lo hi v = max lo (min hi v) := by
  unfold clampInt
  split
  · omega
  · split <;> omega

/-- An exact integer in a format is what R57 says of it. -/
theorem intBits_eq_fit (f : Nat) (sat : Bool) (v : Int) : intBits f sat v = fit f sat v := by
  unfold intBits fit
  dsimp only
  rw [clampInt_eq (intLo_le_intHi f)]
  simp only [intLo, intHi, fmtSigned_iff, fmtBits]

/-- A sum rounds after each addition of floats (R137). -/
theorem foldl_vAdd1 (hf : isFlt (vF q) = true) (xs : List Nat) (a : Nat × List Nat) : (xs.foldl (vAdd1 q) a).1 =
    xs.foldl (fun a b => (deliver (fltOf (vF q)) (rRound q.r) (rSat q.r) (!(elemNum (vF q) a).isNan && !(elemNum (vF q) b).isNan)
      (numAdd (rRound q.r) (elemNum (vF q) a) (elemNum (vF q) b))).1) a.1 := by
  induction xs generalizing a with
  | nil => rfl
  | cons b xs ih =>
    rw [List.foldl_cons, List.foldl_cons, ih]
    congr 1
    simp [vAdd1, vArith, hf, nArg, fxOf]

theorem vSum_eq_total (q : QRec) (xs : List Nat) : (vSum q xs).1 = total q xs := by
  unfold vSum total
  dsimp only
  by_cases hf : isFlt (vF q) = true
  · rw [if_pos hf, if_pos (isFlt_iff.1 hf)]
    cases xs with
    | nil => rfl
    | cons y xs => simp only [foldl_vAdd1 hf]
  · rw [if_neg hf, if_neg fun h => hf (isFlt_iff.2 h), intBits_eq_fit, List.sum_eq_foldl, funext (intVal_eq_toS (vF q))]

theorem vExtreme_float (hf : isFlt (vF q) = true) (up : Bool) (xs : List Nat) : vExtreme up q xs = extreme up q xs := by
  unfold vExtreme extreme
  cases xs with
  | nil => simp [hf]
  | cons y xs => simp [hf]

-- Integers.

theorem elemNum_int (hf : isFlt f = false) (x : Nat) : elemNum f x = intNum (toS f x) := by
  unfold elemNum
  rw [hf, intVal_eq_toS]; rfl

theorem numLt_intNum (a b : Int) : numLt (intNum a) (intNum b) = decide (a < b) := by
  have hsign : ∀ v : Int, signedQ (decide (v < 0)) v.natAbs 0 0 = v := fun v => by
    unfold signedQ
    simp only [sub_self, Int.toNat_zero, pow_zero, mul_one, decide_eq_true_eq]
    split <;> omega
  unfold numLt intNum
  simp only [le_refl, if_true, hsign]

theorem toS_bounds {x : Nat} (h : x < 2 ^ fmtBits f) : intLo f ≤ toS f x ∧ toS f x ≤ intHi f := by
  by_cases hs : f = 0 ∨ f = 2 ∨ f = 9
  · unfold intLo intHi toS
    rw [if_pos (fmtSigned_iff.2 hs), if_pos (fmtSigned_iff.2 hs)]
    rcases hs with rfl | rfl | rfl <;> norm_num [fmtBits, fmtSize] at h ⊢ <;> split <;> omega
  · unfold intLo intHi toS
    rw [if_neg (mt fmtSigned_iff.1 hs), if_neg (mt fmtSigned_iff.1 hs), if_neg fun e => hs e.1]
    zify at h
    omega

/-- An element's bits are those of its value. -/
theorem fit_toS {x : Nat} (h : x < 2 ^ fmtBits f) : fit f false (toS f x) = x := by
  have hmod : toS f x % 2 ^ fmtBits f = x := by
    have hx : (x : Int) % 2 ^ fmtBits f = x := by exact_mod_cast Nat.mod_eq_of_lt h
    unfold toS
    split
    · exact (Int.sub_emod_right ..).trans hx
    · exact hx
  unfold fit
  simp only [Bool.false_eq_true, if_false]
  exact (congrArg Int.toNat hmod).trans (Int.toNat_natCast x)

/-- The one of two integers that an extreme keeps. -/
def pickInt (up : Bool) (a b : Int) : Int := if up then max a b else min a b

/-- The greatest or least of some integers, by their bits (R137). -/
theorem foldl_pick_int (hf : isFlt f = false) (up : Bool) {xs : List Nat} {x : Nat} (hx : x < 2 ^ fmtBits f) (hxs : ∀ y ∈ xs, y < 2 ^ fmtBits f) :
    xs.foldl (fun a b => if numLt (elemNum f a) (elemNum f b) == up then b else a) x =
      fit f false ((xs.map (toS f)).foldl (pickInt up) (toS f x)) := by
  induction xs generalizing x with
  | nil => exact (fit_toS hx).symm
  | cons y xs ih =>
    have hy := hxs y List.mem_cons_self
    have hpick : pickInt up (toS f x) (toS f y) = toS f (if numLt (elemNum f x) (elemNum f y) == up then y else x) := by
      rw [elemNum_int hf, elemNum_int hf, numLt_intNum]
      unfold pickInt
      cases up <;> by_cases h : toS f x < toS f y <;> simp [h] <;> omega
    rw [List.foldl_cons, List.map_cons, List.foldl_cons, hpick]
    refine ih ?_ fun z hz => hxs z (List.mem_cons_of_mem _ hz)
    split <;> assumption

theorem vExtreme_int (hf : isFlt (vF q) = false) (up : Bool) {xs : List Nat} (h : ∀ y ∈ xs, y < 2 ^ fmtBits (vF q)) :
    vExtreme up q xs = fit (vF q) false ((xs.map (toS (vF q))).foldl (pickInt up) (if up then intLo (vF q) else intHi (vF q))) := by
  unfold vExtreme
  cases xs with
  | nil => simp only [hf, fit, fmtBits]; rfl
  | cons x xs =>
    have hx := h x List.mem_cons_self
    obtain ⟨hlo, hhi⟩ := toS_bounds hx
    have hfirst : pickInt up (if up then intLo (vF q) else intHi (vF q)) (toS (vF q) x) = toS (vF q) x := by
      unfold pickInt
      cases up <;> simp [hlo, hhi]
    simp only [hf]
    rw [List.map_cons, List.foldl_cons, hfirst]
    exact foldl_pick_int hf up hx fun y hy => h y (List.mem_cons_of_mem _ hy)

-- The first of the greatest.

/-- Keeping the greater of two, the earlier one of equals, leaves the first element that no other exceeds. -/
theorem foldl_keep_greater {α K : Type} [LinearOrder K] (key : α → K) (x : α) (xs : List α) :
    (x :: xs).find? (fun e => (x :: xs).all fun d => decide (key d ≤ key e)) = some (xs.foldl (fun b y => if key b < key y then y else b) x) := by
  induction xs using List.reverseRecOn with
  | nil => simp
  | append_singleton xs y ih =>
    rw [List.foldl_append, List.foldl_cons, List.foldl_nil]
    generalize hb : xs.foldl (fun b y => if key b < key y then y else b) x = b at ih ⊢
    have hmem : b ∈ x :: xs := List.mem_of_find?_eq_some ih
    have hmax : ∀ d ∈ x :: xs, key d ≤ key b := by simpa using List.find?_some ih
    rw [← List.cons_append, List.find?_append]
    by_cases hlt : key b < key y
    · have hnone : (x :: xs).find? (fun e => (x :: xs ++ [y]).all fun d => decide (key d ≤ key e)) = none := by
        refine List.find?_eq_none.2 fun e he hall => ?_
        have hy : key y ≤ key e := of_decide_eq_true (List.all_eq_true.1 hall y (by simp))
        exact absurd (hmax e he) (not_le.2 (hlt.trans_le hy))
      have hlast : ∀ d ∈ x :: xs ++ [y], key d ≤ key y := fun d hd => by
        rcases List.mem_append.1 hd with hd | hd
        · exact (hmax d hd).trans hlt.le
        · rw [List.mem_singleton.1 hd]
      rw [hnone, if_pos hlt, List.find?_singleton, if_pos (List.all_eq_true.2 fun d hd => decide_eq_true (hlast d hd))]
      rfl
    · have hsame : (x :: xs).find? (fun e => (x :: xs ++ [y]).all fun d => decide (key d ≤ key e)) = some b := by
        rw [← ih]
        refine List.find?_congr fun e he => ?_
        rw [List.all_append, Bool.and_eq_left_iff_imp]
        intro hall
        have hbe : key b ≤ key e := of_decide_eq_true (List.all_eq_true.1 hall b hmem)
        simpa using (not_lt.1 hlt).trans hbe
      rw [hsame, if_neg hlt]; rfl

/-- The value of a finite number. -/
def finValue (neg : Bool) (m : Nat) (e : Int) : ℚ := (if neg then -1 else 1) * (m * 2 ^ e)

/-- Where a value stands in the order of R137: by its magnitude and sign, −0 below +0, a NaN above all. -/
def numKey : Num → ℤ ×ₗ ℚ ×ₗ ℤ
  | .nan => toLex (2, toLex (0, 0))
  | .inf neg => toLex (if neg then -1 else 1, toLex (0, 0))
  | .fin neg m e => toLex (0, toLex (finValue neg m e, if neg then 0 else 1))

theorem signedQ_value (neg : Bool) (m : Nat) {e q : Int} (h : q ≤ e) : (signedQ neg m e q : ℚ) * 2 ^ q = finValue neg m e := by
  have hpow : (2 : ℚ) ^ (e - q).toNat * 2 ^ q = 2 ^ e := by
    rw [← zpow_natCast, Int.toNat_of_nonneg (by omega), ← zpow_add₀ (by norm_num)]
    congr 1; omega
  unfold signedQ finValue
  cases neg <;> simp <;> rw [mul_assoc, hpow]

theorem numLt_fin {n n' : Bool} {m m' : Nat} {e e' : Int} : numLt (.fin n m e) (.fin n' m' e') = true ↔ finValue n m e < finValue n' m' e' := by
  obtain ⟨q, hq, he, he'⟩ : ∃ q, (if e ≤ e' then e else e') = q ∧ q ≤ e ∧ q ≤ e' := ⟨_, rfl, by split <;> omega, by split <;> omega⟩
  unfold numLt
  dsimp only
  rw [hq, decide_eq_true_eq, ← signedQ_value n m he, ← signedQ_value n' m' he', mul_lt_mul_iff_of_pos_right (by positivity), Int.cast_lt]

/-- Of two finite values that are equal and differ in sign, both are zero. -/
theorem finValue_eq_iff {m m' : Nat} {e e' : Int} : finValue true m e = finValue false m' e' ↔ m = 0 ∧ m' = 0 := by
  have h2 : ∀ k : Int, (0 : ℚ) < 2 ^ k := fun k => by positivity
  have h : ∀ (m : Nat) (k : Int), (0 : ℚ) ≤ m * 2 ^ k ∧ ((m * 2 ^ k : ℚ) = 0 ↔ m = 0) := fun m k =>
    ⟨by positivity, by simp [(h2 k).ne']⟩
  obtain ⟨h1, h1'⟩ := h m e
  obtain ⟨h2, h2'⟩ := h m' e'
  unfold finValue
  simp only [if_true, Bool.false_eq_true, if_false, ← h1', ← h2']
  constructor
  · intro heq; constructor <;> linarith
  · rintro ⟨e1, e2⟩; rw [e1, e2]; norm_num

theorem isZero_fin {n : Bool} {m : Nat} {e : Int} : (Num.fin n m e).isZero = true ↔ m = 0 := by cases m <;> simp [Num.isZero]

theorem numLess_iff_key {a b : Num} (ha : a.isNan = false) (hb : b.isNan = false) : numLess a b = true ↔ numKey a < numKey b := by
  cases a with
  | nan => cases ha
  | inf x =>
    cases b with
    | nan => cases hb
    | inf y => cases x <;> cases y <;> simp [numLess, numLt, numKey, Prod.Lex.toLex_lt_toLex, Num.isZero]
    | fin n m e => cases x <;> simp [numLess, numLt, numKey, Prod.Lex.toLex_lt_toLex, Num.isZero]
  | fin n m e =>
    cases b with
    | nan => cases hb
    | inf y => cases y <;> simp [numLess, numLt, numKey, Prod.Lex.toLex_lt_toLex, Num.isZero]
    | fin n' m' e' =>
      have hkey : numKey (.fin n m e) < numKey (.fin n' m' e') ↔
          finValue n m e < finValue n' m' e' ∨ finValue n m e = finValue n' m' e' ∧ n = true ∧ n' = false := by
        simp only [numKey, Prod.Lex.toLex_lt_toLex, lt_self_iff_false, true_and, false_or]
        cases n <;> cases n' <;> simp
      rw [hkey, numLess, Bool.or_eq_true, numLt_fin, Bool.and_eq_true, Bool.and_eq_true, Bool.and_eq_true, isZero_fin, isZero_fin]
      refine or_congr_right ?_
      cases n <;> cases n' <;> simp [Num.neg?, finValue_eq_iff]

theorem numKey_lt_nan {a : Num} : numKey a < numKey .nan ↔ a.isNan = false := by
  cases a with
  | nan => simp [Num.isNan]
  | inf x => cases x <;> simp [numKey, Prod.Lex.toLex_lt_toLex, Num.isNan]
  | fin n m e => simp [numKey, Prod.Lex.toLex_lt_toLex, Num.isNan]

theorem Num.eq_nan_of_isNan {a : Num} (h : a.isNan = true) : a = .nan := by
  cases a with
  | nan => rfl
  | inf x => cases h
  | fin n m e => cases h

theorem numKey_le_nan (a : Num) : numKey a ≤ numKey .nan := by
  cases ha : a.isNan with
  | false => exact (numKey_lt_nan.2 ha).le
  | true => rw [Num.eq_nan_of_isNan ha]

/-- A later element takes the place of an earlier one where it is greater (R137). -/
theorem replaces_iff_key (a b : Num) : (!a.isNan && (b.isNan || numLess a b)) = true ↔ numKey a < numKey b := by
  cases ha : a.isNan with
  | true =>
    rw [Num.eq_nan_of_isNan ha]
    simpa using numKey_le_nan b
  | false =>
    cases hb : b.isNan with
    | true =>
      rw [Num.eq_nan_of_isNan hb]
      simpa using numKey_lt_nan.2 ha
    | false => simpa using numLess_iff_key ha hb

/-- The first element of a line that no other exceeds. -/
def firstGreatest (f : Nat) (xs : List (Nat × Nat)) : Option (Nat × Nat) :=
  xs.find? fun e => xs.all fun d => decide (numKey (elemNum f d.2) ≤ numKey (elemNum f e.2))

theorem vArgMax_eq (q : QRec) (xs : List (Nat × Nat)) : vArgMax q xs = (firstGreatest (vF q) xs).elim 0xFFFFFFFF Prod.fst := by
  cases xs with
  | nil => rfl
  | cons x xs =>
    unfold firstGreatest vArgMax
    rw [foldl_keep_greater (fun e : Nat × Nat => numKey (elemNum (vF q) e.2))]
    simp only [replaces_iff_key]
    rfl

/-- Of floats a NaN is the greatest, and the others are in the order of FMAX (R85, R137). -/
theorem firstGreatest_float (f : Nat) (xs : List (Nat × Nat)) : firstGreatest f xs = (xs.find? fun e => (elemNum f e.2).isNan).orElse fun _ =>
    xs.find? fun e => xs.all fun d => !numLess (elemNum f e.2) (elemNum f d.2) := by
  unfold firstGreatest
  cases hnan : xs.find? fun e => (elemNum f e.2).isNan with
  | some b =>
    have hb : elemNum f b.2 = .nan := Num.eq_nan_of_isNan (by simpa using List.find?_some hnan)
    rw [Option.orElse_some, ← hnan]
    refine List.find?_congr fun e he => Bool.eq_iff_iff.2 ?_
    simp only [List.all_eq_true, decide_eq_true_eq]
    constructor
    · intro hall
      have hle := hall b (List.mem_of_find?_eq_some hnan)
      rw [hb, ← not_lt, numKey_lt_nan] at hle
      simpa using hle
    · intro he d _
      rw [Num.eq_nan_of_isNan he]
      exact numKey_le_nan _
  | none =>
    have hno : ∀ e ∈ xs, (elemNum f e.2).isNan = false := by simpa using hnan
    rw [Option.orElse_none]
    refine List.find?_congr fun e he => Bool.eq_iff_iff.2 ?_
    simp only [List.all_eq_true, decide_eq_true_eq, Bool.not_eq_true']
    refine forall₂_congr fun d hd => ?_
    rw [← not_lt, ← numLess_iff_key (hno e he) (hno d hd), Bool.not_eq_true]

/-- Integers stand in their own order. -/
theorem numKey_intNum_le {a b : Int} : numKey (intNum a) ≤ numKey (intNum b) ↔ a ≤ b := by
  have hzero : ¬((intNum b).isZero = true ∧ (intNum b).neg? = true) := by
    unfold intNum
    rw [isZero_fin]
    simp only [Num.neg?, decide_eq_true_eq]
    omega
  rw [← not_lt, ← not_lt, ← numLess_iff_key rfl rfl, numLess, numLt_intNum]
  simp only [Bool.or_eq_true, Bool.and_eq_true, decide_eq_true_eq]
  tauto

theorem firstGreatest_int (hf : isFlt f = false) (xs : List (Nat × Nat)) :
    firstGreatest f xs = xs.find? fun e => xs.all fun d => decide (toS f d.2 ≤ toS f e.2) := by
  unfold firstGreatest
  simp only [elemNum_int hf, numKey_intNum_le]

end Sys2Proof.Machine

end

section

/-! PROOF. The reductions, and the running sums of VSCAN (O38). -/

open Sys2Proof.Claim
namespace Sys2Proof.Machine

variable {u : State} {q : QRec} {j n m : Nat} {x : Nat → Nat}

theorem vreds_lines : Claim.VLines .vreds 0x31 vF (fun _ => true) fun q xs => total q (xs.map (·.2)) :=
  vLines_of_reduce (g := fun q xs => vSum q (List.map Prod.snd xs)) (fun k s => exec_vreds k s) fun q _ _ _ => vSum_eq_total q _

/-- An extreme of a line, of floats or of integers (R137). -/
theorem vExtreme_eq (up : Bool) {xs : List (Nat × Nat)} (h : ∀ e ∈ xs, e.2 < 2 ^ fmtBits (vF q)) : vExtreme up q (xs.map (·.2)) =
    if isFlt (vF q) then extreme up q (xs.map (·.2))
    else fit (vF q) false ((xs.map fun e => toS (vF q) e.2).foldl (pickInt up) (if up then intLo (vF q) else intHi (vF q))) := by
  cases hf : isFlt (vF q) with
  | true => exact vExtreme_float hf up _
  | false =>
    have hbits : ∀ y ∈ xs.map (·.2), y < 2 ^ fmtBits (vF q) := fun y hy => by
      obtain ⟨e, he, rfl⟩ := List.mem_map.1 hy
      exact h e he
    rw [vExtreme_int hf up hbits, List.map_map]; rfl

theorem vredx_lines (guard : QRec → Bool) : Claim.VLines .vredx 0x32 vF guard fun q xs => if isFlt (vF q) then extreme true q (xs.map (·.2))
    else fit (vF q) false ((xs.map fun e => toS (vF q) e.2).foldl max (intLo (vF q))) :=
  vLines_of_reduce (fun k s => exec_vredx k s) fun _ _ _ h => vExtreme_eq true h

theorem vredn_lines (guard : QRec → Bool) : Claim.VLines .vredn 0x33 vF guard fun q xs => if isFlt (vF q) then extreme false q (xs.map (·.2))
    else fit (vF q) false ((xs.map fun e => toS (vF q) e.2).foldl min (intHi (vF q))) :=
  vLines_of_reduce (fun k s => exec_vredn k s) fun _ _ _ h => vExtreme_eq false h

/-- The first greatest element: of floats the first NaN where there is one (R137). -/
theorem firstGreatest_eq (f : Nat) (xs : List (Nat × Nat)) : firstGreatest f xs =
    if isFlt f then (xs.find? fun e => (elemNum f e.2).isNan).orElse fun _ => xs.find? fun e => xs.all fun d => !numLess (elemNum f e.2) (elemNum f d.2)
    else xs.find? fun e => xs.all fun d => decide (toS f d.2 ≤ toS f e.2) := by
  cases hf : isFlt f with
  | true => exact firstGreatest_float f xs
  | false => exact firstGreatest_int hf xs

/-- VARGX gives the index of the first greatest element of a line (R137). -/
theorem vargx_lines (guard : QRec → Bool) : Claim.VLines .vargx 0x34 (fun q => vOpFmt q 0) guard fun q xs =>
    match (if isFlt (vF q) then (xs.find? fun e => (elemNum (vF q) e.2).isNan).orElse fun _ =>
        xs.find? fun e => xs.all fun d => !numLess (elemNum (vF q) e.2) (elemNum (vF q) d.2)
      else xs.find? fun e => xs.all fun d => decide (toS (vF q) d.2 ≤ toS (vF q) e.2)) with
    | some e => e.1
    | none => 0xFFFFFFFF := by
  refine vLines_of_reduce (fun k s => exec_vargx k s) fun q xs _ _ => ?_
  dsimp only
  rw [vArgMax_eq, ← firstGreatest_eq]
  cases firstGreatest (vF q) xs <;> rfl

-- Where an element of the tile stands in its line.

/-- The line of an element, and its index in it. -/
def linePos (q : QRec) (m : Nat) : Nat × Nat := if vOpx q % 2 = 1 then (m % vLanes q, m / vLanes q) else (m / vLanes q, m % vLanes q)

theorem linePos_of_mem {e : Nat × Nat} (hj : j < lineCount q) (he : e ∈ lineOf q j) : linePos q e.2 = (j, e.1) := by
  rw [mem_lineOf] at he
  unfold lineCount at hj
  unfold linePos
  split at he
  next haxis =>
    rw [if_pos haxis] at hj ⊢
    obtain ⟨hrow, hlane⟩ := Prod.mk.inj (cellOf_eq (i := e.1) hj)
    rw [he.2, hrow, hlane]
  next haxis =>
    rw [if_neg haxis]
    obtain ⟨hrow, hlane⟩ := Prod.mk.inj (cellOf_eq (i := j) he.1)
    rw [he.2, hrow, hlane]

theorem mem_lineOf_linePos (hm : m < vE q) : (linePos q m).1 < lineCount q ∧ ((linePos q m).2, m) ∈ lineOf q (linePos q m).1 := by
  have hrow : m / vLanes q < vRows q := Nat.div_lt_of_lt_mul (by rw [Nat.mul_comm]; exact hm)
  have hlane : m % vLanes q < vLanes q := Nat.mod_lt _ (Nat.pos_of_ne_zero fun h => by simp [vE, h] at hm)
  rw [mem_lineOf]
  unfold linePos lineCount
  split
  · exact ⟨hlane, hrow, (Nat.div_add_mod' ..).symm⟩
  · exact ⟨hrow, hlane, (Nat.div_add_mod' ..).symm⟩

/-- The elements that VSCAN writes, line by line. -/
def scanned (q : QRec) (live : Nat → Bool) : List Nat :=
  (List.range (lineCount q)).flatMap fun j => ((lineOf q j).filter fun e => live e.2 || vMz q).map (·.2)

theorem mem_scanned {live : Nat → Bool} : m ∈ scanned q live ↔ m ∈ written live (vMz q) (vE q) := by
  simp only [scanned, List.mem_flatMap, List.mem_range, List.mem_map, List.mem_filter, mem_written, Bool.or_eq_true]
  constructor
  · rintro ⟨j, hj, e, ⟨he, hlive⟩, rfl⟩
    exact ⟨lt_of_mem_lineOf hj he, hlive⟩
  · rintro ⟨hm, hlive⟩
    obtain ⟨hj, he⟩ := mem_lineOf_linePos hm
    exact ⟨_, hj, _, ⟨he, hlive⟩, rfl⟩

theorem lineOf_nodup (q : QRec) (j : Nat) : (lineOf q j).Nodup := by
  unfold lineOf
  split <;> exact List.nodup_range.map fun a b h => (Prod.mk.inj h).1

theorem scanned_nodup (q : QRec) (live : Nat → Bool) : (scanned q live).Nodup := by
  refine List.nodup_flatMap.2 ⟨fun j hj => ?_, ?_⟩
  · refine ((lineOf_nodup q j).filter _).map_on fun e he d hd hed => ?_
    have hpos := congrArg (linePos q) hed
    rw [linePos_of_mem (List.mem_range.1 hj) (List.mem_filter.1 he).1, linePos_of_mem (List.mem_range.1 hj) (List.mem_filter.1 hd).1] at hpos
    exact Prod.ext (Prod.mk.inj hpos).2 hed
  · refine List.nodup_range.pairwise_of_forall_ne fun i hi j hj hne => List.disjoint_left.2 fun m hm hm' => hne ?_
    obtain ⟨e, he, rfl⟩ := List.mem_map.1 hm
    obtain ⟨d, hd, hed⟩ := List.mem_map.1 hm'
    have hpos := congrArg (linePos q) hed
    rw [linePos_of_mem (List.mem_range.1 hj) (List.mem_filter.1 hd).1, linePos_of_mem (List.mem_range.1 hi) (List.mem_filter.1 he).1] at hpos
    exact (Prod.mk.inj hpos).1.symm

/-- The sum of a line's included elements up to an index, or before it (R137). -/
def scanSum (q : QRec) (live : Nat → Bool) (x : Nat → Nat) (p : Nat × Nat) : Nat :=
  total q (((lineOf q p.1).filter fun d => live d.2 && (d.1 < p.2 || (d.1 == p.2 && vOpx q / 2 % 2 == 0))).map fun d => x d.2)

theorem vSum_scan (q : QRec) (live : Nat → Bool) (x : Nat → Nat) (j i : Nat) :
    (vSum q (((included q live x j).filter fun e => e.1 < i || (!(vOpx q / 2 % 2 == 1) && e.1 == i)).map (·.2))).1 = scanSum q live x (j, i) := by
  rw [vSum_eq_total]
  unfold scanSum included
  rw [List.filter_map, List.filter_filter, List.map_map]
  have hflag : (!(vOpx q / 2 % 2 == 1)) = (vOpx q / 2 % 2 == 0) := by
    rcases Nat.mod_two_eq_zero_or_one (vOpx q / 2) with h | h <;> simp [h]
  refine congrArg (total q) (congrArg (List.map _) (List.filter_congr fun d _ => ?_))
  dsimp only [Function.comp]
  rw [Bool.and_comm, hflag, Bool.and_comm (vOpx q / 2 % 2 == 0)]

/-- What VSCAN puts for an element of line `j`, with the events of its sum. -/
def scanPut (u : State) (q : QRec) (n : Nat) (x : Nat → Nat) (j : Nat) (e : Nat × Nat) : Int × Nat × List Nat :=
  (vAt q 0 n (e.2 / vLanes q) (e.2 % vLanes q), if u.vLive q e.2 then
    vSum q (((included q (u.vLive q) x j).filter fun d => d.1 < e.1 || (!(vOpx q / 2 % 2 == 1) && d.1 == e.1)).map (·.2)) else (0, []))

/-- VSCAN puts the running sums of the elements that are not masked off, and zeroes where MZ asks for them. -/
theorem vscanB_eq_vPut (h : ∀ e, e < vE q → u.vLive q e = true → ∃ ev, u.vGet q 1 (vAt q 1 n (e / vLanes q) (e % vLanes q)) = .ok (x e, ev)) :
    ∃ evs, vscanB u q n [] = vPut u q [] (vF q) evs ((scanned q (u.vLive q)).map fun e =>
      (vAt q 0 n (e / vLanes q) (e % vLanes q), if u.vLive q e then scanSum q (u.vLive q) x (linePos q e) else 0)) := by
  obtain ⟨le, hle⟩ := vLine_all h
  have hwrites : ∀ j, (((lineOf q j).map fun e => (cellOf q e.2, e.1)).filterMap fun ((r, l), i) =>
      if u.vLive q (r * vLanes q + l) then some (vAt q 0 n r l, vSum q (((included q (u.vLive q) x j).filter fun d => d.1 < i ||
        (!(vOpx q / 2 % 2 == 1) && d.1 == i)).map (·.2))) else if vMz q then some (vAt q 0 n r l, (0, [])) else none) =
      ((lineOf q j).filter fun e => u.vLive q e.2 || vMz q).map (scanPut u q n x j) := fun j => by
    rw [List.filterMap_map, ← filterMap_if]
    refine List.filterMap_congr fun e _ => ?_
    dsimp only [Function.comp, cellOf]
    rw [Nat.div_add_mod']
    unfold scanPut
    cases u.vLive q e.2 <;> cases vMz q <;> rfl
  have hvalue : ∀ j, j < lineCount q → ∀ e ∈ lineOf q j, ((scanPut u q n x j e).1, (scanPut u q n x j e).2.1) =
      (vAt q 0 n (e.2 / vLanes q) (e.2 % vLanes q), if u.vLive q e.2 then scanSum q (u.vLive q) x (linePos q e.2) else 0) := fun j hj e he => by
    rw [linePos_of_mem hj he, ← vSum_scan]
    unfold scanPut
    cases u.vLive q e.2 <;> rfl
  refine ⟨evsOf ((List.range (lineCount q)).map fun j => le j ++
    evsOf ((((lineOf q j).filter fun e => u.vLive q e.2 || vMz q).map (scanPut u q n x j)).map fun w => w.2.2)), ?_⟩
  unfold vscanB
  rw [vLines_eq]
  refine (bind_of_ok (a := (List.range (lineCount q)).map fun j =>
    ((((lineOf q j).filter fun e => u.vLive q e.2 || vMz q).map (scanPut u q n x j)).map fun w => (w.1, w.2.1), le j ++
    evsOf ((((lineOf q j).filter fun e => u.vLive q e.2 || vMz q).map (scanPut u q n x j)).map fun w => w.2.2))) ?_).trans ?_
  · rw [List.mapM_map]
    refine mapM_of_ok fun j hj => ?_
    dsimp only [Function.comp]
    rw [bind_of_ok (hle j (List.mem_range.1 hj)), lineOf_zipIdx, ← hwrites]
    rfl
  · rw [List.map_map, List.map_map]
    refine congrArg _ ?_
    unfold scanned
    rw [List.map_flatMap, List.flatMap_def]
    refine congrArg _ (List.map_congr_left fun j hj => ?_)
    dsimp only [Function.comp]
    rw [List.map_map, List.map_map]
    exact List.map_congr_left fun e he => hvalue j (List.mem_range.1 hj) e (List.mem_filter.1 he).1

/-- VSCAN runs the sums along each line (R137). -/
theorem vscan_tile (guard : QRec → Bool) : VTile .vscan 0x35 vF guard false (fun q k r l => vAt q 0 k r l) (fun _ q k r l => opsFrom [1] q k r l)
    fun q live x e => scanSum q live (fun d => b0 (x d)) (linePos q e) := by
  refine vTile_of_body (fun k s => exec_vscan k s) fun s k r x hr _ hx => ?_
  have hlive : (vxStart s k r).vLive r.q = vLiveIn s r.q k := funext hr.vLive
  obtain ⟨evs, hput⟩ := vscanB_eq_vPut (x := fun e => b0 (x e)) fun e he hl => by
    obtain ⟨v, _, ⟨_, ev, hget⟩, hnil, hxe⟩ := List.forall₂_cons_left_iff.1 (hx e he (.inl (hlive ▸ hl)))
    rw [hxe]
    exact ⟨ev, hget⟩
  rw [hlive] at hput
  exact ⟨evs, _, hput, scanned_nodup .., fun _ => mem_scanned⟩

end Sys2Proof.Machine

end

section

/-! PROOF. Blocks of LOG6: what VQL6 quantises, and where it lies (O38). -/

open Sys2Proof.Claim
namespace Sys2Proof.Machine

variable {s u : State} {q : QRec} {f n : Nat} {A : Area}

-- Codes and scales fit their bytes (R62, R64).

theorem log6Code_lt (sc : Nat) (v : Num) : (log6Code sc v).1 < 64 := by
  unfold log6Code
  split
  next neg m e =>
    dsimp only
    split
    · decide
    · split
      · decide
      · split <;> split <;> simp only <;> omega
  next => decide

theorem log6Quant_codes_lt (xs : List (Option Num)) : ∀ c ∈ (log6Quant xs).2.1, c < 64 := by
  unfold log6Quant
  dsimp only
  split
  · intro c hc
    obtain ⟨_, _, rfl⟩ := List.mem_map.1 hc
    decide
  · split
    · intro c hc
      obtain ⟨_, _, rfl⟩ := List.mem_map.1 hc
      decide
    · intro c hc
      obtain ⟨_, hd, rfl⟩ := List.mem_map.1 hc
      obtain ⟨y, _, rfl⟩ := List.mem_map.1 hd
      cases y with
      | none => exact Nat.zero_lt_succ _
      | some v => exact log6Code_lt _ v

theorem log6Quant_codes_length (xs : List (Option Num)) : (log6Quant xs).2.1.length = xs.length := by
  unfold log6Quant
  dsimp only
  split
  · exact List.length_map ..
  · split
    · exact List.length_map ..
    · dsimp only
      rw [List.length_map, List.length_map]

theorem log6Quant_scale_lt (xs : List (Option Num)) : (log6Quant xs).1 < 256 ^ 2 := by
  unfold log6Quant
  dsimp only
  split
  · exact (by norm_num : 0x3FF < 256 ^ 2)
  · split
    · exact (by norm_num : 0 < 256 ^ 2)
    · unfold log6Scale
      dsimp only
      split
      · norm_num
      · exact lt_of_le_of_lt (Nat.min_le_right _ _) (by norm_num)

theorem packCodes_lt {cs : List Nat} (h : ∀ c ∈ cs, c < 64) : packCodes cs < 64 ^ cs.length := by
  induction cs with
  | nil => exact Nat.one_pos
  | cons c cs ih =>
    have hc := h c List.mem_cons_self
    have hcs := ih fun d hd => h d (List.mem_cons_of_mem _ hd)
    have hpack : packCodes (c :: cs) = c + 64 * packCodes cs := rfl
    rw [hpack, List.length_cons, Nat.pow_succ]
    omega

/-- The codes of a block fill its 24 bytes. -/
theorem packCodes_quant_lt {xs : List (Option Num)} (h : xs.length = 32) : packCodes (log6Quant xs).2.1 < 256 ^ 24 := by
  have hlt := packCodes_lt (log6Quant_codes_lt xs)
  rw [log6Quant_codes_length, h] at hlt
  exact hlt.trans_eq (by norm_num)

-- The elements of a block.

/-- The value that a block's list has at a position. -/
def blockAt (l : List (Nat × Nat)) (p : Nat) : Option Num := (l.find? fun e => e.1 == p).map fun e => toNum fp32 e.2

/-- A block's list once an element has been put into it. -/
def blockPut (l : List (Nat × Nat)) (i y : Nat) : List (Nat × Nat) := (i, y) :: l.filter fun e => e.1 != i

theorem blockAt_put (l : List (Nat × Nat)) (i y p : Nat) : blockAt (blockPut l i y) p = if p = i then some (toNum fp32 y) else blockAt l p := by
  unfold blockAt blockPut
  by_cases h : p = i
  · subst h; simp
  · rw [List.find?_cons_of_neg (by simpa using fun e : i = p => h e.symm), if_neg h, List.find?_filter]
    congr 1
    refine List.find?_congr fun e _ => ?_
    by_cases he : e.1 = p
    · simp [he, h]
    · simp [he]

/-- One number of a block: where it begins, its bytes, and which number of the quantised block it is. -/
structure Spot where
  at_ : Nat
  len : Nat
  val : Nat × List Nat × List Nat → Nat

def Spot.fill (z : Nat × List Nat × List Nat) (p : Spot) : Piece := { at_ := p.at_, len := p.len, val := p.val z }

/-- D is `n` blocks of LOG6 of an area: where the numbers of each lie, apart from each other, and the key of each block. -/
structure BlockDest (q : QRec) (A : Area) (f n : Nat) (base : Int) (key : Nat → Nat) (spots : Nat → List Spot) : Prop where
  put : ∀ (x : Iss) (j i y : Nat), x.s.Writable q A → j < n → i < 32 →
    let l := blockPut (tblGetD x.blk (key j) []) i (convElem f 7 .rne false y).1
    ∃ t, x.put q q.opD f (rRound q.r) (rSat q.r) (base + ((32 * j + i : Nat) : Int), y) = .ok { x with s := t, blk := tblSet x.blk (key j) l } ∧
      x.s.Stored t q A ((x.s.area q A).writeAll ((spots j).map (Spot.fill (log6Quant (blockVals l)))))
  key_inj : ∀ i j, i < n → j < n → key i = key j → i = j
  within : ∀ j, j < n → (spots j).Pairwise fun p p' => p.at_ + p.len ≤ p'.at_ ∨ p'.at_ + p'.len ≤ p.at_
  apart : ∀ i j, i < n → j < n → i ≠ j → ∀ p ∈ spots i, ∀ p' ∈ spots j, p.at_ + p.len ≤ p'.at_ ∨ p'.at_ + p'.len ≤ p.at_

/-- The value of an element that has been put among the first `N`. -/
def valUpTo (val : Nat → Num) (N e : Nat) : Option Num := if e < N then some (val e) else none
/-- The elements of block `j` among the first `N`. -/
def blockUpTo (val : Nat → Num) (N j : Nat) : List (Option Num) := (List.range 32).map fun i => valUpTo val N (32 * j + i)

/-- What stands in the area when the first `N` elements have been put: the numbers of the blocks begun, and the rest as it was. -/
structure BlocksHold (m₀ m : Memory) (n : Nat) (spots : Nat → List Spot) (val : Nat → Num) (N : Nat) : Prop where
  begun : ∀ j, j < n → 32 * j < N → ∀ p ∈ spots j, m.readLE p.at_ p.len = p.val (log6Quant (blockUpTo val N j)) % 256 ^ p.len
  rest : ∀ a, (∀ j, j < n → ∀ p ∈ spots j, a < p.at_ ∨ p.at_ + p.len ≤ a) → m.read a = m₀.read a

/-- What the record's list of a block then holds. -/
def BlocksListed (blk : Blocks) (n : Nat) (key : Nat → Nat) (val : Nat → Num) (N : Nat) : Prop :=
  ∀ j, j < n → ∀ i, i < 32 → blockAt (tblGetD blk (key j) []) i = valUpTo val N (32 * j + i)

theorem blockUpTo_succ_ne {val : Nat → Num} {N j : Nat} (h : j ≠ N / 32) : blockUpTo val (N + 1) j = blockUpTo val N j := by
  refine List.map_congr_left fun i hi => ?_
  have hlt := List.mem_range.1 hi
  unfold valUpTo
  rw [if_congr (by omega : 32 * j + i < N + 1 ↔ 32 * j + i < N) rfl rfl]

/-- One more number of bytes of a block: those of the block are written anew, all others stay. -/
theorem BlocksHold.next {base : Int} {key : Nat → Nat} {spots : Nat → List Spot} (hd : BlockDest q A f n base key spots) {m₀ m : Memory} {val : Nat → Num}
    {N : Nat} (hN : N < 32 * n) (h : BlocksHold m₀ m n spots val N) :
    BlocksHold m₀ (m.writeAll ((spots (N / 32)).map (Spot.fill (log6Quant (blockUpTo val (N + 1) (N / 32)))))) n spots val (N + 1) := by
  have hj : N / 32 < n := by omega
  constructor
  · intro j hjn hbegun p hp
    by_cases hcur : j = N / 32
    · subst hcur
      exact Memory.readLE_writeAll_of_mem (List.pairwise_map.2 (hd.within _ hj)) (List.mem_map_of_mem hp)
    · rw [Memory.readLE_writeAll_of_apart, blockUpTo_succ_ne hcur]
      · exact h.begun j hjn (by omega) p hp
      · intro p' hp'
        obtain ⟨p', hmem, rfl⟩ := List.mem_map.1 hp'
        exact hd.apart j _ hjn hj hcur p hp p' hmem
  · intro a ha
    rw [Memory.read_writeAll_of_outside, h.rest a ha]
    intro p' hp'
    obtain ⟨p', hmem, rfl⟩ := List.mem_map.1 hp'
    exact ha _ hj p' hmem

theorem BlocksListed.next {base : Int} {key : Nat → Nat} {spots : Nat → List Spot} (hd : BlockDest q A f n base key spots) {blk : Blocks} {val : Nat → Num}
    {N y : Nat} (hN : N < 32 * n) (hy : toNum fp32 y = val N) (h : BlocksListed blk n key val N) :
    BlocksListed (tblSet blk (key (N / 32)) (blockPut (tblGetD blk (key (N / 32)) []) (N % 32) y)) n key val (N + 1) := by
  intro j hj i hi
  by_cases hcur : j = N / 32
  · subst hcur
    rw [tblGetD_set_same, blockAt_put, h _ hj i hi, hy]
    unfold valUpTo
    by_cases he : i = N % 32
    · have hN' : 32 * (N / 32) + i = N := by omega
      rw [if_pos he, hN', if_pos (by omega)]
    · rw [if_neg he, if_congr (by omega : 32 * (N / 32) + i < N + 1 ↔ 32 * (N / 32) + i < N) rfl rfl]
  · rw [tblGetD_set_ne _ _ _ fun e => hcur (hd.key_inj j _ hj (by omega) e), h j hj i hi]
    unfold valUpTo
    rw [if_congr (by omega : 32 * j + i < N + 1 ↔ 32 * j + i < N) rfl rfl]

theorem BlocksListed.blockVals {blk : Blocks} {key : Nat → Nat} {val : Nat → Num} {N j : Nat} (h : BlocksListed blk n key val N) (hj : j < n) :
    blockVals (tblGetD blk (key j) []) = blockUpTo val N j := List.map_congr_left fun i hi => h j hj i (List.mem_range.1 hi)

/-- The elements of a tile are put one after the other; each puts its block anew, quantised from those that are there (R66, R108). -/
theorem foldlM_put_blocks {base : Int} {key : Nat → Nat} {spots : Nat → List Spot} (hd : BlockDest q A f n base key spots) (hu : u.Writable q A)
    {x₀ : Iss} (hx₀ : x₀.s = u) (hblk : x₀.blk = []) {v : Nat → Nat} {val : Nat → Num} (hv : ∀ e, toNum fp32 (convElem f 7 .rne false (v e)).1 = val e)
    {N : Nat} (hN : N ≤ 32 * n) :
    ∃ x m, ((List.range N).map fun e : Nat => (base + (e : Int), v e)).foldlM (fun x w => x.put q q.opD f (rRound q.r) (rSat q.r) w) x₀ = .ok x ∧
      u.Stored x.s q A m ∧ BlocksHold (u.area q A) m n spots val N ∧ BlocksListed x.blk n key val N := by
  induction N with
  | zero =>
    refine ⟨x₀, u.area q A, rfl, hx₀ ▸ .refl .., ⟨fun j _ h => absurd h (by omega), fun _ _ => rfl⟩, fun j _ i _ => ?_⟩
    rw [hblk]; rfl
  | succ N ih =>
    obtain ⟨x, m, hfold, hstored, hholds, hlisted⟩ := ih (by omega)
    have hat : 32 * (N / 32) + N % 32 = N := by omega
    obtain ⟨t, hput, hnext⟩ := hd.put x (N / 32) (N % 32) (v N) (hstored.writable hu) (by omega) (by omega)
    have hlist := hlisted.next hd (by omega) (hv N)
    have hvals := hlist.blockVals (j := N / 32) (by omega)
    rw [tblGetD_set_same] at hvals
    rw [hvals, hstored.area] at hnext
    rw [hat] at hput
    refine ⟨{ x with s := t, blk := tblSet x.blk (key (N / 32)) (blockPut (tblGetD x.blk (key (N / 32)) []) (N % 32) (convElem f 7 .rne false (v N)).1) },
      _, ?_, hstored.trans hnext, hholds.next hd (by omega), hlist⟩
    rw [List.range_succ, List.map_append, List.foldlM_append, hfold, bind_of_ok rfl]
    simp only [List.map_cons, List.map_nil, List.foldlM_cons, List.foldlM_nil]
    rw [bind_of_ok hput]
    rfl

-- The two kinds of blocks (R106, R165).

/-- An element that goes into a block is put, and the block written. -/
theorem put_of_block {x : Iss} {pl : Place} {p : Int} {y c i : Nat} {t : State} (hplace : q.opD.place f p = .ok pl) (hblock : pl.block = some (c, i))
    (hbytes : ∀ m n, pl ≠ .bytes m n) (hue : x.s.mem.ue = [])
    (hwrite : x.s.writeBlock q pl (blockPut (tblGetD x.blk c []) i (convElem f 7 .rne false y).1) = .ok t) :
    x.put q q.opD f (rRound q.r) (rSat q.r) (p, y) =
      .ok { x with s := t, blk := tblSet x.blk c (blockPut (tblGetD x.blk c []) i (convElem f 7 .rne false y).1) } := by
  unfold Iss.put
  dsimp only
  rw [hplace, bind_of_ok rfl, hblock]
  cases pl with
  | bytes m n => exact absurd rfl (hbytes m n)
  | _ => rw [scrub_of_no_errors hue]; exact bind_of_ok hwrite

/-- The numbers of block `c` of a bank: its codes, and its scale word from byte `o` (R106). -/
def bankSpots (o c : Nat) : List Spot := [⟨24 * c, 24, fun z => packCodes z.2.1⟩, ⟨o + 2 * c, 2, fun z => z.1⟩]
/-- A block of a handle has its codes alone (log 19). -/
def handleSpots (a : Nat) : List Spot := [⟨a, 24, fun z => packCodes z.2.1⟩]

theorem bfBlocks_le (w : Word) : bfBlocks w * 24 ≤ bfScoff w ∧ bfBlocks w * 2 ≤ 262144 - bfScoff w := by
  unfold bfBlocks
  dsimp only
  have h1 : Nat.min _ _ ≤ _ := Nat.min_le_left (bfScoff w / 24) ((262144 - bfScoff w) / 2)
  have h2 : Nat.min _ _ ≤ _ := Nat.min_le_right (bfScoff w / 24) ((262144 - bfScoff w) / 2)
  generalize Nat.min (bfScoff w / 24) ((262144 - bfScoff w) / 2) = blocks at h1 h2 ⊢
  omega

theorem bankDest {b off base : Nat} {w : Word} (hD : q.opD = .bank b w off) (hfmt : bfFmt w = 7) (hfit : base + n ≤ bfBlocks w) :
    BlockDest q (.bank b) f n ((32 * base : Nat) : Int) (fun j => b * 2 ^ 14 + (base + j)) fun j => bankSpots (bfScoff w) (base + j) := by
  have hblocks := bfBlocks_le w
  constructor
  · intro x j i y hw hj hi
    have hplace : q.opD.place f (((32 * base : Nat) : Int) + ((32 * j + i : Nat) : Int)) = .ok (.log6 b (base + j) i w) := by
      have hnat : ((32 * base : Nat) : Int) + ((32 * j + i : Nat) : Int) = ((32 * (base + j) + i : Nat) : Int) := by push_cast; ring
      have hdiv : (32 * (base + j) + i) / 32 = base + j := by omega
      have hmod : (32 * (base + j) + i) % 32 = i := by omega
      have hroom : ¬(bfScoff w = 0 ∨ bfBlocks w ≤ base + j) := by omega
      rw [hD, hnat]
      unfold Opd.place
      dsimp only
      rw [if_neg (by omega), if_pos hfmt, Int.toNat_natCast, hdiv, hmod, if_neg (by simpa using hroom)]
    obtain ⟨t₁, hwrite₁, hstored₁⟩ := writeMem_stored (o := 24 * (base + j)) (n := 24) hw (show _ ≤ _ by omega) (packCodes
      (log6Quant (blockVals (blockPut (tblGetD x.blk (b * 2 ^ 14 + (base + j)) []) i (convElem f 7 .rne false y).1))).2.1)
    obtain ⟨t₂, hwrite₂, hstored₂⟩ := writeMem_stored (o := bfScoff w + 2 * (base + j)) (n := 2) (hstored₁.writable hw) (show _ ≤ _ by omega)
      (log6Quant (blockVals (blockPut (tblGetD x.blk (b * 2 ^ 14 + (base + j)) []) i (convElem f 7 .rne false y).1))).1
    refine ⟨t₂, put_of_block hplace rfl (fun _ _ h => nomatch h) hw.ue ?_, ?_⟩
    · exact (bind_of_ok hwrite₁).trans hwrite₂
    · rw [hstored₁.area] at hstored₂
      exact hstored₁.trans hstored₂
  · intro i j _ _ h
    omega
  · intro j hj
    simp only [bankSpots, List.pairwise_cons, List.mem_singleton, forall_eq, List.not_mem_nil, false_imp_iff, implies_true, List.Pairwise.nil, and_true]
    omega
  · intro i j hi hj hne p hp p' hp'
    simp only [bankSpots, List.mem_cons, List.not_mem_nil, or_false] at hp hp'
    rcases hp with rfl | rfl <;> rcases hp' with rfl | rfl <;> dsimp only <;> omega

theorem handleDest {base : Int} {addr : Nat → Nat}
    (hplace : ∀ j i, j < n → i < 32 → q.opD.place f (base + ((32 * j + i : Nat) : Int)) = .ok (.code (.ds (addr j)) i))
    (hapart : ∀ i j, i < n → j < n → i ≠ j → addr i + 24 ≤ addr j ∨ addr j + 24 ≤ addr i) :
    BlockDest q .ds f n base (fun j => 2 ^ 20 + addr j) fun j => handleSpots (addr j) := by
  constructor
  · intro x j i y hw hj hi
    obtain ⟨t, hwrite, hstored⟩ := writeMem_stored (A := .ds) (o := addr j) (n := 24) hw trivial (packCodes
      (log6Quant (blockVals (blockPut (tblGetD x.blk (2 ^ 20 + addr j) []) i (convElem f 7 .rne false y).1))).2.1)
    exact ⟨t, put_of_block (hplace j i hj hi) rfl (fun _ _ h => nomatch h) hw.ue hwrite, hstored⟩
  · intro i j hi hj h
    by_contra hne
    have := hapart i j hi hj hne
    omega
  · intro j _
    exact List.pairwise_singleton ..
  · intro i j hi hj hne p hp p' hp'
    rw [List.mem_singleton.1 hp, List.mem_singleton.1 hp']
    exact hapart i j hi hj hne

end Sys2Proof.Machine

end

section

/-! PROOF. VQL6, and what the reductions and the log path come to (O38). -/

open Sys2Proof.Claim
namespace Sys2Proof.Machine

variable {s t u : State} {q : QRec} {k op n : Nat} {r : Run} {A : Area} {x : Nat → Nat}

-- The scales that go to B (R136).

/-- The scale word of a block goes to an element of B, a bank of scales. -/
theorem putRaw_stored {y : Iss} {c off p : Nat} {w : Word} (hw : y.s.Writable q (.bank c)) (hB : q.opB = .bank c w off) (hfmt : bfFmt w = 8)
    (hfit : (p + 1) * 2 ≤ 262144) (z : Nat) : ∃ y', y.putRaw q q.opB 8 (p : Int) z = .ok y' ∧
      y.s.Stored y'.s q (.bank c) ((y.s.area q (.bank c)).writeAll [⟨2 * p, 2, z⟩]) := by
  have hplace : q.opB.place 8 (p : Int) = .ok (.bytes (Area.mem (.bank c) (2 * p)) 2) := by
    rw [hB]
    unfold Opd.place
    simp [hfmt, fmtSize, Area.mem, Nat.mul_comm 2 p, show ¬(p : Int) < 0 by omega, show ¬262144 < (p + 1) * 2 by omega]
  obtain ⟨t, hwrite, hstored⟩ := writeMem_stored hw (o := 2 * p) (n := 2) (show _ ≤ _ by omega) z
  refine ⟨{ y with s := t }, ?_, hstored⟩
  unfold Iss.putRaw
  rw [hplace, bind_of_ok rfl, scrub_of_no_errors hw.ue]
  exact bind_of_ok hwrite

theorem foldlM_putRaw_stored {y : Iss} {c off b : Nat} {w : Word} (hw : y.s.Writable q (.bank c)) (hB : q.opB = .bank c w off) (hfmt : bfFmt w = 8)
    (z : Nat → Nat) {N : Nat} (hfit : (b + N) * 2 ≤ 262144) :
    ∃ y', (List.range N).foldlM (fun (y : Iss) (j : Nat) => y.putRaw q q.opB 8 ((b : Int) + (j : Int)) (z j)) y = .ok y' ∧
      y.s.Stored y'.s q (.bank c) ((y.s.area q (.bank c)).writeAll ((List.range N).map fun j => ⟨2 * (b + j), 2, z j⟩)) := by
  induction N with
  | zero => exact ⟨y, rfl, .refl ..⟩
  | succ N ih =>
    obtain ⟨y₁, hfold, hstored₁⟩ := ih (by omega)
    obtain ⟨y₂, hput, hstored₂⟩ := putRaw_stored (p := b + N) (hstored₁.writable hw) hB hfmt (by omega) (z N)
    rw [Nat.cast_add] at hput
    refine ⟨y₂, ?_, ?_⟩
    · rw [List.range_succ, List.foldlM_append, hfold, bind_of_ok rfl]
      simp only [List.foldlM_cons, List.foldlM_nil]
      rw [bind_of_ok hput]; rfl
    · rw [hstored₁.area] at hstored₂
      rw [List.range_succ, List.map_append, Memory.writeAll, List.foldl_append]
      exact hstored₁.trans hstored₂

-- The op.

/-- The value that VQL6 quantises of an element: it is widened to FP32 first (R60, R66). -/
def ql6Val (q : QRec) (x : Nat → Nat) (e : Nat) : Num := toNum fp32 (convElem (vF q) 6 .rne false (x e)).1
/-- A block of the tile, quantised. -/
def ql6Block (q : QRec) (x : Nat → Nat) (j : Nat) : Nat × List Nat × List Nat := log6Quant ((List.range 32).map fun i => some (ql6Val q x (32 * j + i)))

theorem convElem_into_log6 {f : Nat} (hf : isFlt f = true) (b : Nat) : (convElem f 7 .rne false b).1 = (convElem f 6 .rne false b).1 := by
  have h7 : f ≠ 7 := fun e => by rw [e] at hf; exact absurd hf (by decide)
  unfold convElem
  rw [if_pos rfl, if_neg h7, if_neg (by decide)]

theorem blockUpTo_all {val : Nat → Num} {N j : Nat} (h : 32 * j + 32 ≤ N) : blockUpTo val N j = (List.range 32).map fun i => some (val (32 * j + i)) :=
  List.map_congr_left fun i hi => if_pos (by have := List.mem_range.1 hi; omega)

theorem take_drop_map_range {α : Type} (g : Nat → α) {N j : Nat} (h : 32 * j + 32 ≤ N) :
    (((List.range N).map g).drop (32 * j)).take 32 = (List.range 32).map fun i => g (32 * j + i) := by
  refine List.ext_getElem (by simp; omega) fun i h1 h2 => ?_
  simp

theorem foldlM_congr {α β : Type} {g g' : β → α → Eng' β} {l : List α} (h : ∀ b, ∀ a ∈ l, g b a = g' b a) (b : β) : l.foldlM g b = l.foldlM g' b := by
  induction l generalizing b with
  | nil => rfl
  | cons a l ih =>
    rw [List.foldlM_cons, List.foldlM_cons, h b a List.mem_cons_self]
    exact congrArg _ (funext fun b => ih (fun b a ha => h b a (List.mem_cons_of_mem _ ha)) b)

/-- VQL6 puts the elements of the tile, and then the scales of its blocks into B where there is one. -/
theorem vql6B_of_put {ev : Nat → List Nat} (hx : ∀ e, e < vE q → u.vGet q 1 (vAt q 1 n (e / vLanes q) (e % vLanes q)) = .ok (x e, ev e)) {y : Iss}
    (hput : vPut u q [] (vF q) (evsOf ((List.range (vE q)).map ev)) ((List.range (vE q)).map fun e : Nat => (vBase q 0 n + (e : Int), x e)) = .ok y) :
    vql6B u q n [] = if q.opB = .absent then .ok y else
      (List.range (vE q / 32)).foldlM (fun (y : Iss) (j : Nat) => y.putRaw q q.opB 8 (vBase q 2 n + (j : Int)) (ql6Block q x j).1) y := by
  unfold vql6B
  refine (bind_of_ok (mapM_of_ok (h := fun e : Nat × Nat × Nat => (e.1, x e.1, ev e.1)) fun e he => ?_)).trans ?_
  · obtain ⟨e, hlt, rfl⟩ := List.mem_map.1 he
    dsimp only
    rw [bind_of_ok (hx e (List.mem_range.1 hlt))]; rfl
  · have hxs : ∀ {α : Type} (g : Nat × Nat × List Nat → α), ((vElems q).map fun e => (e.1, x e.1, ev e.1)).map g =
        (List.range (vE q)).map fun e => g (e, x e, ev e) := fun g => by
      rw [vElems, List.map_map, List.map_map]; rfl
    dsimp only
    rw [hxs, hxs, hxs, bind_of_ok hput]
    split
    · rfl
    · refine foldlM_congr (fun y j hj => ?_) y
      have hlt := List.mem_range.1 hj
      rw [take_drop_map_range _ (by omega)]
      rfl

/-- The numbers of the tile's blocks stand in `m`, and beside them all is as in `m₀`. -/
structure Quantised (m₀ m : Memory) (q : QRec) (x : Nat → Nat) (spots : Nat → List Spot) : Prop where
  block : ∀ j, j < vE q / 32 → ∀ p ∈ spots j, m.readLE p.at_ p.len = p.val (ql6Block q x j) % 256 ^ p.len
  rest : ∀ a, (∀ j, j < vE q / 32 → ∀ p ∈ spots j, a < p.at_ ∨ p.at_ + p.len ≤ a) → m.read a = m₀.read a

/-- The elements of the tile fill blocks of D, quantised (R66, R136). -/
theorem vql6_put (hr : VxRuns s k 0x24 r) (hf : isFlt (vF r.q) = true) (h32 : vE r.q % 32 = 0)
    (hx : ∀ e, e < vE r.q → ∃ ev, (vxStart s k r).vGet r.q 1 (vAt r.q 1 r.next (e / vLanes r.q) (e % vLanes r.q)) = .ok (x e, ev))
    {key : Nat → Nat} {spots : Nat → List Spot} (hd : BlockDest r.q A (vF r.q) (vE r.q / 32) (vBase r.q 0 r.next) key spots) (hA : s.Has r.q A) :
    ∃ y m, vql6B (vxStart s k r) r.q r.next [] = (if r.q.opB = .absent then .ok y else
        (List.range (vE r.q / 32)).foldlM (fun (y : Iss) (j : Nat) => y.putRaw r.q r.q.opB 8 (vBase r.q 2 r.next + (j : Int)) (ql6Block r.q x j).1) y) ∧
      (vxStart s k r).Stored y.s r.q A m ∧ Quantised (s.area r.q A) m r.q x spots := by
  have hread : ∀ e, ∃ ev, e < vE r.q → (vxStart s k r).vGet r.q 1 (vAt r.q 1 r.next (e / vLanes r.q) (e % vLanes r.q)) = .ok (x e, ev) := fun e => by
    by_cases he : e < vE r.q
    · exact (hx e he).imp fun _ hev _ => hev
    · exact ⟨[], fun h => (he h).elim⟩
  choose ev hev using hread
  have hall : 32 * (vE r.q / 32) = vE r.q := by omega
  obtain ⟨y, m, hfold, hstored, hholds, -⟩ := foldlM_put_blocks hd (hr.writable hA) (N := vE r.q)
    (x₀ := { s := vxStart s k r, evs := evsOf ((List.range (vE r.q)).map ev), cov := ([] : List UeLoc) ++ State.covered (vxStart s k r) r.q (List.flatten
      (((List.range (vE r.q)).map fun e : Nat => (vBase r.q 0 r.next + (e : Int), x e)).map fun w => r.q.opD.runs (vF r.q) w.1)) })
    rfl rfl (v := x) (val := ql6Val r.q x) (fun e => by rw [convElem_into_log6 hf]; rfl) hall.ge
  refine ⟨y, m, vql6B_of_put hev hfold, hstored, fun j hj p hp => ?_, hr.area A ▸ hholds.rest⟩
  rw [hholds.begun j hj (by omega) p hp, blockUpTo_all (by omega)]
  rfl

/-- Codes and scales of a bank's blocks are read back as they were quantised. -/
theorem Quantised.bank {m₀ m : Memory} {o base : Nat} (h : Quantised m₀ m q x fun j => bankSpots o (base + j)) :
    (∀ j, j < vE q / 32 → m.readLE (24 * (base + j)) 24 = packCodes (ql6Block q x j).2.1 ∧ m.readLE (o + 2 * (base + j)) 2 = (ql6Block q x j).1) ∧
    ∀ a, ¬(24 * base ≤ a ∧ a < 24 * (base + vE q / 32)) → ¬(o + 2 * base ≤ a ∧ a < o + 2 * (base + vE q / 32)) → m.read a = m₀.read a := by
  refine ⟨fun j hj => ⟨?_, ?_⟩, fun a hcodes hscales => h.rest a fun j hj p hp => ?_⟩
  · rw [h.block j hj ⟨24 * (base + j), 24, fun z => packCodes z.2.1⟩ List.mem_cons_self]
    exact Nat.mod_eq_of_lt (packCodes_quant_lt (by simp))
  · rw [h.block j hj ⟨o + 2 * (base + j), 2, fun z => z.1⟩ (List.mem_cons_of_mem _ List.mem_cons_self)]
    exact Nat.mod_eq_of_lt (log6Quant_scale_lt _)
  · simp only [bankSpots, List.mem_cons, List.not_mem_nil, or_false] at hp
    rcases hp with rfl | rfl <;> dsimp only <;> omega

/-- Codes of a handle's blocks are read back as they were quantised. -/
theorem Quantised.handle {m₀ m : Memory} {addr : Nat → Nat} (h : Quantised m₀ m q x fun j => handleSpots (addr j)) :
    (∀ j, j < vE q / 32 → m.readLE (addr j) 24 = packCodes (ql6Block q x j).2.1) ∧
    ∀ a, (∀ j, j < vE q / 32 → a < addr j ∨ addr j + 24 ≤ a) → m.read a = m₀.read a := by
  refine ⟨fun j hj => ?_, fun a ha => h.rest a fun j hj p hp => ?_⟩
  · rw [h.block j hj ⟨addr j, 24, fun z => packCodes z.2.1⟩ List.mem_cons_self]
    exact Nat.mod_eq_of_lt (packCodes_quant_lt (by simp))
  · rw [List.mem_singleton.1 hp]
    exact ha j hj

section
variable (hr : VxRuns s k 0x24 r) (hf : isFlt (vF r.q) = true) (h32 : vE r.q % 32 = 0)
  (hx : ∀ e, e < vE r.q → ∃ ev, (vxStart s k r).vGet r.q 1 (vAt r.q 1 r.next (e / vLanes r.q) (e % vLanes r.q)) = .ok (x e, ev))
include hr hf h32 hx

/-- VQL6 into a bank, where B is absent. -/
theorem vql6_bank {b off base : Nat} {w : Word} (hgrp : s.grp r.q.grp ≠ none) (hD : r.q.opD = .bank b w off) (hfmt : bfFmt w = 7)
    (hbase : vBase r.q 0 r.next = ((32 * base : Nat) : Int)) (hfit : base + vE r.q / 32 ≤ bfBlocks w) (hB : r.q.opB = .absent) :
    ∃ t m, exec (.vql6 k) s = .next t ∧ VxIssued s t k r ∧ s.Writes t r.q (.bank b) m ∧
      Quantised (s.bankMem r.q.grp b) m r.q x fun j => bankSpots (bfScoff w) (base + j) := by
  obtain ⟨y, m, hbody, hstored, hq⟩ := vql6_put hr hf h32 hx (A := .bank b) (hbase ▸ bankDest hD hfmt hfit) hgrp
  rw [if_pos hB] at hbody
  exact ⟨issued y r, m, (exec_vql6 k s).trans (vxRow_of_ok hr hbody), (issued_vxIssued hr hstored.toKeeps).1, issued_writes hr hstored, hq⟩

/-- VQL6 into a bank, and the scales to B. -/
theorem vql6_bank_scales {b off base c n m : Nat} {w v : Word} (hgrp : s.grp r.q.grp ≠ none) (hD : r.q.opD = .bank b w off) (hfmt : bfFmt w = 7)
    (hbase : vBase r.q 0 r.next = ((32 * base : Nat) : Int)) (hfit : base + vE r.q / 32 ≤ bfBlocks w)
    (hB : r.q.opB = .bank c v m) (hfmtB : bfFmt v = 8) (hbaseB : vBase r.q 2 r.next = (n : Int)) (hfitB : (n + vE r.q / 32) * 2 ≤ 262144) :
    ∃ u t m, exec (.vql6 k) s = .next t ∧ VxIssued s t k r ∧ s.Writes u r.q (.bank b) m ∧
      Quantised (s.bankMem r.q.grp b) m r.q x (fun j => bankSpots (bfScoff w) (base + j)) ∧ u.Writes t r.q (.bank c)
        ((u.bankMem r.q.grp c).writeAll ((List.range (vE r.q / 32)).map fun j => ⟨2 * (n + j), 2, (ql6Block r.q x j).1⟩)) := by
  obtain ⟨y, m, hbody, hstored, hq⟩ := vql6_put hr hf h32 hx (A := .bank b) (hbase ▸ bankDest hD hfmt hfit) hgrp
  have hwritable := hstored.writable (hr.writable (A := .bank c) hgrp)
  obtain ⟨y', hscales, hstored'⟩ := foldlM_putRaw_stored hwritable hB hfmtB (fun j => (ql6Block r.q x j).1) hfitB
  rw [if_neg (by rw [hB]; exact nofun), hbaseB] at hbody
  exact ⟨y.s, issued y' r, m, (exec_vql6 k s).trans (vxRow_of_ok hr (hbody.trans hscales)), (issued_vxIssued hr (hstored.toKeeps.trans hstored'.toKeeps)).1,
    hr.writes hstored, hq, State.SameStore.writes (.refl ..) hstored'.toWrites (issued_sameStore y' r)⟩

/-- VQL6 into the blocks of a handle in DS. A LOG6 handle makes `QRec.freeScales` true, which `VxReady` excludes: the clause of
`VectorReductions` about such a handle assumes `VxReady`, so no record satisfies it. This lemma asks for `VxRuns` alone, and so is about
the records that do name one. -/
theorem vql6_handle {addr : Nat → Nat} (hlaunch : s.launchOf r.q.ctx ≠ none) (hB : r.q.opB = .absent)
    (hplace : ∀ j i, j < vE r.q / 32 → i < 32 →
      r.q.opD.place (vF r.q) (vBase r.q 0 r.next + ((32 * j + i : Nat) : Int)) = .ok (.code (.ds (addr j)) i))
    (hapart : ∀ i j, i < vE r.q / 32 → j < vE r.q / 32 → i ≠ j → addr i + 24 ≤ addr j ∨ addr j + 24 ≤ addr i) :
    ∃ t m, exec (.vql6 k) s = .next t ∧ VxIssued s t k r ∧ s.Writes t r.q .ds m ∧
      Quantised (s.dsMem r.q.ctx (s.vdieOf r.q)) m r.q x fun j => handleSpots (addr j) := by
  obtain ⟨y, m, hbody, hstored, hq⟩ := vql6_put hr hf h32 hx (handleDest hplace hapart) hlaunch
  rw [if_pos hB] at hbody
  exact ⟨issued y r, m, (exec_vql6 k s).trans (vxRow_of_ok hr hbody), (issued_vxIssued hr hstored.toKeeps).1, issued_writes hr hstored, hq⟩
end

/-- Scale words written one after the other are read back, and nothing else differs. -/
theorem scales_written {m₀ m : Memory} {z : Nat → Nat} {b N : Nat} (hz : ∀ j, z j < 256 ^ 2)
    (hm : m = m₀.writeAll ((List.range N).map fun j => ⟨2 * (b + j), 2, z j⟩)) :
    (∀ j, j < N → m.readLE (2 * (b + j)) 2 = z j) ∧ ∀ a, ¬(2 * b ≤ a ∧ a < 2 * (b + N)) → m.read a = m₀.read a := by
  subst hm
  have hapart : ((List.range N).map fun j => (⟨2 * (b + j), 2, z j⟩ : Piece)).Pairwise Piece.Apart := by
    refine List.pairwise_map.2 (List.nodup_range.pairwise_of_forall_ne fun i _ j _ hne => ?_)
    unfold Piece.Apart
    dsimp only
    omega
  refine ⟨fun j hj => ?_, fun a ha => Memory.read_writeAll_of_outside fun p hp => ?_⟩
  · exact (Memory.readLE_writeAll_of_mem hapart (List.mem_map_of_mem (List.mem_range.2 hj))).trans (Nat.mod_eq_of_lt (hz j))
  · obtain ⟨j, hj, rfl⟩ := List.mem_map.1 hp
    have hlt := List.mem_range.1 hj
    dsimp only
    omega

theorem vectorReductions : VectorReductions := by
  refine ⟨vreds_lines, vredx_lines _, vredn_lines _, vargx_lines _, vscan_tile _, ?_⟩
  intro s k b off base w r x q u val o z hready hf hgrp h32 hx
  have hr := vxRuns_of_ready hready
  refine ⟨fun hD hfmt _ hbase hfit => ⟨fun hB => ?_, fun c n m v hB hne hfmtB hbaseB hfitB => ?_⟩, fun h addr hD hfmt hB hlaunch hplace hapart => ?_⟩
  · obtain ⟨t, m, hrun, hissued, hwrites, hq⟩ := vql6_bank hr hf h32 hx hgrp hD hfmt hbase hfit hB
    obtain ⟨hblocks, hrest⟩ := hq.bank
    obtain rfl := hwrites.area
    exact ⟨t, hrun, ⟨hissued, hwrites.ds nofun, hr.who ▸ hwrites.tile nofun, hblocks, hrest⟩,
      fun g d hgd => hwrites.banks g d fun h => hgd ⟨h.1, (Area.bank.inj h.2).symm⟩⟩
  · obtain ⟨t₁, t, m, hrun, hissued, hwrites₁, hq, hwrites₂⟩ := vql6_bank_scales hr hf h32 hx hgrp hD hfmt hbase hfit hB hfmtB hbaseB hfitB
    obtain ⟨hblocks, hrest⟩ := hq.bank
    obtain ⟨hscales, hrestB⟩ := scales_written (fun j => log6Quant_scale_lt _) hwrites₂.area
    have hcodes : t.bankMem q.grp b = m := (hwrites₂.banks _ _ fun h => hne (Area.bank.inj h.2)).trans hwrites₁.area
    have hother : t₁.bankMem q.grp c = s.bankMem q.grp c := hwrites₁.banks _ _ fun h => hne (Area.bank.inj h.2).symm
    refine ⟨t, hrun, ⟨hissued, fun d => (hwrites₂.ds nofun d).trans (hwrites₁.ds nofun d),
      hr.who ▸ (hwrites₂.tile nofun).trans (hwrites₁.tile nofun), hcodes ▸ hblocks, hcodes ▸ hrest⟩, hscales, fun a ha => ?_, fun g d hgd => ?_⟩
    · exact (hrestB a ha).trans (by rw [hother])
    · exact (hwrites₂.banks g d fun h => hgd ⟨h.1, .inr (Area.bank.inj h.2).symm⟩).trans
        (hwrites₁.banks g d fun h => hgd ⟨h.1, .inl (Area.bank.inj h.2).symm⟩)
  · obtain ⟨t, m, hrun, hissued, hwrites, hq⟩ := vql6_handle hr hf h32 hx hlaunch hB hplace hapart
    obtain ⟨hblocks, hrest⟩ := hq.handle
    have hgrps : t.grps = s.grps := hwrites.grps nofun
    have hmem : t.dsMem q.ctx (s.vdieOf q) = m := by
      rw [← hwrites.area, State.area]
      simp only [State.vdieOf, State.grp, hgrps]
      rfl
    exact ⟨t, hrun, hissued, hgrps, hr.who ▸ hwrites.tile nofun, hmem ▸ hblocks, hmem ▸ hrest⟩

/-- Settles O38: each op's results are put into D's storage, and nothing else of the package differs but what an issue may change. -/
theorem vectorReductionsAndLogPath : Obligations.VectorReductionsAndLogPath := ⟨vectorReductions, vectorLogPath⟩

end Sys2Proof.Machine

end

section

/-! PROOF. What completes with a result, what flows on and what traps (O5 to O14). -/

open Sys2Proof.Claim
namespace Sys2Proof.Machine

variable {s : State} {i : Instr} {g : Guard} {d a b : SReg} {e : PReg}

/-- Where sequential flow leads is read off the pc, the loops, the captured words and INTRAP (R87, R89). -/
theorem flowsFrom_advance {q q' : Seq} (n : Nat) (hpc : q'.pc = q.pc) (hloops : q'.loops = q.loops) (hbuf : q'.loopBuf = q.loopBuf)
    (htrap : q'.intrap = q.intrap) : FlowsFrom q (q'.advance n) n := by
  obtain ⟨e1, e2, e3⟩ := Seq.advance_congr n hpc hloops hbuf htrap
  refine ⟨fun h => ?_, e1, e2, e3⟩
  rw [e1, e2, e3]
  exact Seq.advance_straight n h

theorem qFlows_go (s : State) (n : Nat := 8) : QFlows s (s.go n) n := by
  refine ⟨fun r hr => s.go_seq_ne n hr, ?_, ?_⟩
  · rw [State.go_q]; exact flowsFrom_advance n rfl rfl rfl rfl
  · rw [State.go_q]; exact Seq.advance_only _ n

theorem Seq.setS_only (q : Seq) (d : SReg) (v : Word) : q.setS d v = { q with regs := (q.setS d v).regs } := by
  unfold Seq.setS; split <;> rfl

theorem Seq.setP_only (q : Seq) (e : PReg) (v : Bool) : q.setP e v = { q with preds := (q.setP e v).preds } := by
  unfold Seq.setP; split <;> rfl

theorem Seq.s_setS (q : Seq) (d : SReg) (v : Word) : (q.setS d v).s d = if d = 0 then 0 else v := by
  split
  · next h => rw [h]; rfl
  · next h => exact Seq.s_setS_same _ _ h

theorem Seq.p_setP (q : Seq) (e : PReg) (v : Bool) : (q.setP e v).p e = if e = 0 then true else v := by
  split
  · next h => rw [h]; rfl
  · next h => exact Seq.p_setP_same _ _ h

theorem Seq.s_of_regs {q q' : Seq} (h : q'.regs = q.regs) (r : SReg) : q'.s r = q.s r := by unfold Seq.s; rw [h]
theorem Seq.p_of_preds {q q' : Seq} (h : q'.preds = q.preds) (r : PReg) : q'.p r = q.p r := by unfold Seq.p; rw [h]

theorem ret_s (s : State) (d : SReg) (v : Word) (r : SReg) : (s.ret d v).q.s r = (s.q.setS d v).s r :=
  Seq.s_of_regs (by rw [State.ret_q, Seq.advance_regs]) r

theorem retP_p (s : State) (e : PReg) (v : Bool) (r : PReg) : (s.retP e v).q.p r = (s.q.setP e v).p r :=
  Seq.p_of_preds (by rw [State.retP_q, Seq.advance_preds]) r

/-- A result goes into its scalar, and the sequencer flows on (R74). -/
theorem qSets_ret (s : State) (d : SReg) (v : Word) : QSets s (s.ret d v) d v := by
  refine ⟨fun r hr => s.ret_seq_ne d v hr, ?_, ?_, fun r hr => ?_, ?_⟩
  · rw [State.ret_q]; exact flowsFrom_advance 8 (by simp) (by simp) (by simp) (by simp)
  · rw [State.ret_q, Seq.setS_only]
    exact Eq.trans (Seq.advance_only _ 8) (by simp)
  · rw [ret_s, Seq.s_setS_ne _ _ hr]
  · rw [ret_s, Seq.s_setS]

theorem qSetsP_retP (s : State) (e : PReg) (v : Bool) : QSetsP s (s.retP e v) e v := by
  refine ⟨fun r hr => s.retP_seq_ne e v hr, ?_, ?_, fun r hr => ?_, ?_⟩
  · rw [State.retP_q]; exact flowsFrom_advance 8 (by simp) (by simp) (by simp) (by simp)
  · rw [State.retP_q, Seq.setP_only]
    exact Eq.trans (Seq.advance_only _ 8) (by simp)
  · rw [retP_p, Seq.p_setP_ne _ _ hr]
  · rw [retP_p, Seq.p_setP]

-- Instructions that are no more than a result, or a trap.

theorem flows_of_go (hi : exec i s = .next (s.go 8)) : Flows i s := ⟨_, hi, rfl, qFlows_go s⟩

theorem gives_of_ret {v : Word} (hi : exec i s = .next (s.ret d v)) : Claim.Gives i s d v := ⟨_, hi, rfl, qSets_ret s d v⟩

theorem givesP_of_retP {v : Bool} (hi : exec i s = .next (s.retP e v)) : GivesP i s e v := ⟨_, hi, rfl, qSetsP_retP s e v⟩

/-- An instruction whose guard is true. -/
theorem exec_of_guarded {f : State → State} {n : Nat} {t : State} (hg : s.q.guard g = true) (hi : exec i s = s.guarded g f n) (ht : f s = t) :
    exec i s = .next t := by
  rw [hi, State.guarded_true hg, ht]

theorem gives_of_guarded {f : State → State} {v : Word} (hg : s.q.guard g = true) (hi : exec i s = s.guarded g f) (hv : f s = s.ret d v) :
    Claim.Gives i s d v := gives_of_ret (exec_of_guarded hg hi hv)

theorem givesP_of_guarded {f : State → State} {v : Bool} (hg : s.q.guard g = true) (hi : exec i s = s.guarded g f) (hv : f s = s.retP e v) :
    GivesP i s e v := givesP_of_retP (exec_of_guarded hg hi hv)

theorem gives_of_binOp {f : Word → Word → Word} {v : Word} (hg : s.q.guard g = true) (hi : exec i s = binOp g d a b f s)
    (hv : f (s.q.s a) (s.q.s b) = v) : Claim.Gives i s d v := gives_of_guarded hg hi (congrArg (s.ret d) hv)

theorem gives_of_unOp {f : Word → Word} {v : Word} (hg : s.q.guard g = true) (hi : exec i s = unOp g d a f s) (hv : f (s.q.s a) = v) :
    Claim.Gives i s d v := gives_of_guarded hg hi (congrArg (s.ret d) hv)

theorem givesP_of_predOp {pa pb : PReg} {f : Bool → Bool → Bool} {v : Bool} (hg : s.q.guard g = true) (hi : exec i s = predOp g e pa pb f s)
    (hv : f (s.q.p pa) (s.q.p pb) = v) : GivesP i s e v := givesP_of_guarded hg hi (congrArg (s.retP e) hv)

theorem closeLock_cur (s : State) (k : Nat) : (s.closeLock k).cur = s.cur := by rw [State.closeLock_only]

theorem others_setQ (s : State) (q : Seq) : Others s (s.setQ q) := fun _ hr => s.seq_setQ_ne q hr

/-- A trap with a handler is entered as R303 says. -/
theorem entersTrap_takeTrap (h : Handled s) (code : Nat) (epc eval : Word) :
    EntersTrap s (s.takeTrap s.cur code false epc eval) code false epc eval := by
  obtain ⟨htrap, htvec, hheld⟩ := h
  rw [State.takeTrap_handled code false epc eval htrap htvec hheld]
  refine ⟨fun r hr => ?_, fun k hk => ?_, ?_, ?_, ?_⟩
  · rw [closeLock_seq, State.seq_setSeq_ne _ _ hr]
  · rw [State.closeLock_slot_ne _ hk, State.slot_setSeq]
  · rw [State.closeLock_only]; rfl
  · unfold State.sl; rw [closeLock_cur]; exact State.closeLock_slot _ _
  · rw [State.closeLock_q]; exact s.seq_setSeq_same _ _

/-- A precise trap that is no machine check (R302). -/
theorem State.trap_eq {code : Nat} (hcode : code ≠ 0x20) (eval : Word) :
    s.trap { code := code, eval := eval } = s.takeTrap s.cur code false s.q.pc eval := by
  unfold State.trap; dsimp only; rw [if_neg hcode]

theorem traps_of_trap {code : Nat} {eval : Word} (h : Handled s) (hcode : code ≠ 0x20)
    (hi : exec i s = .next (s.trap { code := code, eval := eval })) : Traps i s code eval :=
  ⟨_, hi, State.trap_eq (s := s) hcode eval ▸ entersTrap_takeTrap h code s.q.pc eval⟩

theorem traps_of_guarded {f : State → State} {n code : Nat} {eval : Word} (hg : s.q.guard g = true) (h : Handled s) (hcode : code ≠ 0x20)
    (hi : exec i s = s.guarded g f n) (hf : f s = s.trap { code := code, eval := eval }) : Traps i s code eval :=
  traps_of_trap h hcode (exec_of_guarded hg hi hf)

end Sys2Proof.Machine

end

section

/-! PROOF. The results of INT: products, shifts, extremes, quotients and remainders (O5, O6). -/

open Sys2Proof.Claim
namespace Sys2Proof.Machine

/-- MULHU is the high half of the unsigned 128-bit product (R80). -/
theorem mulHighU_eq (x y : Word) : mulHighU x y = (x.zeroExtend 128 * y.zeroExtend 128).extractLsb' 64 64 := by
  have hlt : x.toNat * y.toNat < 2 ^ 128 := (Nat.mul_lt_mul'' x.isLt y.isLt).trans_eq (by norm_num)
  unfold mulHighU
  apply BitVec.eq_of_toNat_eq
  rw [BitVec.toNat_ofNat, BitVec.extractLsb'_toNat, BitVec.toNat_mul, Nat.shiftRight_eq_div_pow]
  simp only [BitVec.truncate_eq_setWidth, BitVec.toNat_setWidth_of_le (by decide : 64 ≤ 128)]
  rw [Nat.mod_eq_of_lt hlt]

theorem minS_eq (x y : Word) : minS x y = if x.toInt ≤ y.toInt then x else y := by simp [minS, BitVec.sle]
theorem maxS_eq (x y : Word) : maxS x y = if x.toInt ≤ y.toInt then y else x := by simp [maxS, BitVec.sle]
theorem minU_eq (x y : Word) : minU x y = if x.toNat ≤ y.toNat then x else y := by simp [minU, BitVec.ule]
theorem maxU_eq (x y : Word) : maxU x y = if x.toNat ≤ y.toNat then y else x := by simp [maxU, BitVec.ule]

/-- A rotation puts what a right shift drops in at the top (R80). -/
theorem rotateRight_shamt (x y : Word) : x.rotateRight (shamt y) = x >>> (y.toNat % 64) ||| x <<< (64 - y.toNat % 64) := by
  unfold shamt; rw [BitVec.rotateRight_def, Nat.mod_mod]

/-- Settles O5: each instruction is a result of its scalars, by the equation of its operation. -/
theorem integerResults : Obligations.IntegerResults := by
  intro s g d a b c hg x y
  exact ⟨gives_of_binOp hg (exec_add ..) rfl, gives_of_binOp hg (exec_sub ..) rfl, gives_of_binOp hg (exec_mul ..) rfl,
    gives_of_binOp hg (exec_mulh ..) (mulHigh_eq x y), gives_of_binOp hg (exec_mulhu ..) (mulHighU_eq x y),
    gives_of_guarded hg (exec_madd ..) rfl,
    gives_of_binOp hg (exec_and ..) rfl, gives_of_binOp hg (exec_or ..) rfl, gives_of_binOp hg (exec_xor ..) rfl,
    gives_of_binOp hg (exec_andn ..) rfl,
    gives_of_binOp hg (exec_sll ..) rfl, gives_of_binOp hg (exec_srl ..) rfl, gives_of_binOp hg (exec_sra ..) rfl,
    gives_of_binOp hg (exec_rotr ..) (rotateRight_shamt x y),
    gives_of_binOp hg (exec_min ..) (minS_eq x y), gives_of_binOp hg (exec_max ..) (maxS_eq x y),
    gives_of_binOp hg (exec_minu ..) (minU_eq x y), gives_of_binOp hg (exec_maxu ..) (maxU_eq x y)⟩

theorem ofInt_tdiv (x y : Word) : BitVec.ofInt 64 (x.toInt.tdiv y.toInt) = x.sdiv y :=
  BitVec.eq_of_toInt_eq (by rw [BitVec.toInt_ofInt, BitVec.toInt_sdiv])

theorem divS_eq (x y : Word) : divS x y = if y = 0 then BitVec.allOnes 64 else x.sdiv y := by
  unfold divS; rw [ofInt_tdiv]

/-- The remainder is what the quotient leaves of the dividend (R81). -/
theorem remS_eq (x y : Word) : remS x y = if y = 0 then x else x - x.sdiv y * y := by
  unfold remS
  rw [Int.tmod_def, Int.sub_eq_add_neg, BitVec.ofInt_add, BitVec.ofInt_neg, BitVec.ofInt_mul, ofInt_tdiv, BitVec.ofInt_toInt, BitVec.ofInt_toInt, BitVec.mul_comm, ← BitVec.sub_eq_add_neg]

theorem remU_eq (x y : Word) : remU x y = if y = 0 then x else BitVec.ofNat 64 (x.toNat - x.toNat / y.toNat * y.toNat) := by
  unfold remU; rw [Nat.mod_eq_sub_div_mul]

/-- Settles O6: the quotients and remainders are those of truncation toward zero; in the corner −2^63 by −1 the quotient wraps. -/
theorem divisionAndRemainder : Obligations.DivisionAndRemainder := by
  intro s g d a b hg x y
  refine ⟨gives_of_binOp hg (exec_div ..) (divS_eq x y), gives_of_binOp hg (exec_rem ..) (remS_eq x y), gives_of_binOp hg (exec_divu ..) rfl,
    gives_of_binOp hg (exec_remu ..) (remU_eq x y), fun hx hy => ?_⟩
  have hdiv : divS x y = x := by rw [hx, hy]; decide
  have hrem : remS x y = 0 := by rw [hx, hy]; decide
  exact ⟨gives_of_binOp hg (exec_div ..) hdiv, gives_of_binOp hg (exec_rem ..) hrem⟩

end Sys2Proof.Machine

end

section

/-! PROOF. Counts over the low bits, and extensions (O7). -/

open Sys2Proof.Claim
namespace Sys2Proof.Machine

variable {n : Nat} {x : Word}

theorem bitsOf_eq (w : Width) : 8 * wBytes w = bitsOf w := by cases w <;> rfl

@[simp] theorem lowBits_length (n : Nat) (x : Word) : (lowBits n x).length = n := by simp [lowBits]
@[simp] theorem getElem_lowBits {k : Nat} (h : k < (lowBits n x).length) : (lowBits n x)[k] = x.getLsbD k := by simp [lowBits]

theorem countOnes_eq (n : Nat) (x : Word) : countOnes n x = BitVec.ofNat 64 (ones n x) := by
  unfold countOnes lowBits ones
  rw [List.filter_map, List.length_map]; rfl

/-- The clear bits at the front of a list are those before its first set bit. -/
theorem length_takeWhile_not (l : List Bool) : (l.takeWhile fun b => !b).length = l.findIdx id := by
  rw [List.takeWhile_eq_take_findIdx_not, List.length_take]
  simp only [Bool.not_not]
  exact Nat.min_eq_left List.findIdx_le_length

theorem countTrail_of_lowest {l : Nat} (h : Lowest n x l) : countTrail n x = BitVec.ofNat 64 l := by
  obtain ⟨hl, hset, hclear⟩ := h
  have hidx : (lowBits n x).findIdx id = l := (List.findIdx_eq (by simpa using hl)).2
    ⟨by simpa using hset, fun j hj => by simpa using hclear j hj⟩
  unfold countTrail; rw [length_takeWhile_not, hidx]

theorem countLead_of_highest {h : Nat} (hh : Highest n x h) : countLead n x = BitVec.ofNat 64 (n - 1 - h) := by
  obtain ⟨hn, hset, hclear⟩ := hh
  have hidx : (lowBits n x).reverse.findIdx id = n - 1 - h := (List.findIdx_eq (by simp; omega)).2
    ⟨by simpa [show n - 1 - (n - 1 - h) = h by omega] using hset,
      fun j hj => by simpa using hclear (n - 1 - j) (by omega) (by omega)⟩
  unfold countLead; rw [length_takeWhile_not, hidx]

theorem findIdx_of_all_clear {l : List Bool} (h : ∀ b ∈ l, b = false) : l.findIdx id = l.length :=
  List.findIdx_eq_length.2 fun b hb => by simpa using h b hb

theorem mem_lowBits_clear (h : ∀ k, k < n → x.getLsbD k = false) : ∀ b ∈ lowBits n x, b = false := by
  simpa [lowBits] using h

theorem countTrail_of_clear (h : ∀ k, k < n → x.getLsbD k = false) : countTrail n x = BitVec.ofNat 64 n := by
  unfold countTrail; rw [length_takeWhile_not, findIdx_of_all_clear (mem_lowBits_clear h), lowBits_length]

theorem countLead_of_clear (h : ∀ k, k < n → x.getLsbD k = false) : countLead n x = BitVec.ofNat 64 n := by
  unfold countLead
  rw [length_takeWhile_not, findIdx_of_all_clear fun b hb => mem_lowBits_clear h b (List.mem_reverse.1 hb), List.length_reverse, lowBits_length]

theorem extractLsb'_zero_eq (x : Word) (n : Nat) : x.extractLsb' 0 n = BitVec.ofNat n x.toNat := by
  apply BitVec.eq_of_toNat_eq; simp

theorem zextW_eq (w : Width) (x : Word) : zextW w x = BitVec.ofNat 64 (x.toNat % 2 ^ bitsOf w) := by
  have hext {n : Nat} (hn : n ≤ 64) : (x.extractLsb' 0 n).zeroExtend 64 = BitVec.ofNat 64 (x.toNat % 2 ^ n) := by
    apply BitVec.eq_of_toNat_eq
    rw [BitVec.toNat_ofNat, BitVec.zeroExtend_eq_setWidth, BitVec.toNat_setWidth, extractLsb'_zero_eq, BitVec.toNat_ofNat]
  cases w with
  | w8 => exact hext (by decide)
  | w16 => exact hext (by decide)
  | w32 => exact hext (by decide)
  | w64 => simp [zextW, bitsOf, Nat.mod_eq_of_lt x.isLt]

theorem sextW_eq (w : Width) (x : Word) : sextW w x = BitVec.ofInt 64 (BitVec.ofNat (bitsOf w) x.toNat).toInt := by
  have hext (n : Nat) : (x.extractLsb' 0 n).signExtend 64 = BitVec.ofInt 64 (BitVec.ofNat n x.toNat).toInt := by
    rw [extractLsb'_zero_eq]; rfl
  cases w with
  | w8 => exact hext 8
  | w16 => exact hext 16
  | w32 => exact hext 32
  | w64 => simp [sextW, bitsOf]

/-- Settles O7: a count is the index of the first set bit of the low bits, from below or from above. -/
theorem countsAndExtensions : Obligations.CountsAndExtensions := by
  intro s g w d a hg x n
  have hclz {v : Word} (hv : countLead n x = v) : Claim.Gives (.clz g w d a) s d v := gives_of_unOp hg (exec_clz ..) (bitsOf_eq w ▸ hv)
  have hctz {v : Word} (hv : countTrail n x = v) : Claim.Gives (.ctz g w d a) s d v := gives_of_unOp hg (exec_ctz ..) (bitsOf_eq w ▸ hv)
  exact ⟨gives_of_unOp hg (exec_popc ..) (bitsOf_eq w ▸ countOnes_eq _ x), fun h hh => hclz (countLead_of_highest hh),
    fun l hl => hctz (countTrail_of_lowest hl), fun hc => ⟨hclz (countLead_of_clear hc), hctz (countTrail_of_clear hc)⟩,
    gives_of_unOp hg (exec_sext ..) (sextW_eq w x), gives_of_unOp hg (exec_zext ..) (zextW_eq w x)⟩

end Sys2Proof.Machine

end

section

/-! PROOF. The results of IMM and CMP (O8). -/

open Sys2Proof.Claim
namespace Sys2Proof.Machine

/-- LIH keeps the low half and puts its immediate above it (R83). -/
theorem append_low_half (i : BitVec 32) (x : Word) : i ++ x.extractLsb' 0 32 = BitVec.ofNat 64 (i.toNat * 2 ^ 32 + x.toNat % 2 ^ 32) := by
  apply BitVec.eq_of_toNat_eq
  have hlow : x.toNat % 2 ^ 32 < 2 ^ 32 := Nat.mod_lt _ (by decide)
  have hi := i.isLt
  rw [BitVec.toNat_append, extractLsb'_zero_eq, BitVec.toNat_ofNat, BitVec.toNat_ofNat, ← Nat.shiftLeft_add_eq_or_of_lt hlow,
    Nat.shiftLeft_eq, Nat.mod_eq_of_lt (by omega : i.toNat * 2 ^ 32 + x.toNat % 2 ^ 32 < 2 ^ 64)]

theorem immediateResults : ImmediateResults := by
  intro s g d a i sh hg v x
  exact ⟨gives_of_unOp hg (exec_addi ..) rfl, gives_of_unOp hg (exec_andi ..) rfl, gives_of_unOp hg (exec_ori ..) rfl,
    gives_of_unOp hg (exec_xori ..) rfl, gives_of_unOp hg (exec_slli ..) rfl, gives_of_unOp hg (exec_srli ..) rfl,
    gives_of_unOp hg (exec_srai ..) rfl, gives_of_unOp hg (exec_muli ..) rfl,
    gives_of_unOp hg (exec_mini ..) (minS_eq v x), gives_of_unOp hg (exec_maxi ..) (maxS_eq v x),
    gives_of_guarded hg (exec_li ..) rfl, gives_of_guarded hg (exec_lih ..) (congrArg (s.ret d) (append_low_half i _))⟩

/-- What each condition of CMP says (R84). -/
theorem holds_eq (x y : Word) : holds .eq x y = decide (x = y) ∧ holds .ne x y = decide (x ≠ y) ∧
    holds .lt x y = decide (x.toInt < y.toInt) ∧ holds .le x y = decide (x.toInt ≤ y.toInt) ∧
    holds .ltu x y = decide (x.toNat < y.toNat) ∧ holds .leu x y = decide (x.toNat ≤ y.toNat) :=
  ⟨rfl, by simp [holds, bne, beq_eq_decide], rfl, rfl, rfl, rfl⟩

theorem compareAndSelectResults : CompareAndSelectResults := by
  intro s g d pa pb sd a b i hg x y z
  have hcmp (cc : Cond) {v : Bool} (hv : holds cc x y = v) : GivesP (.cmp g cc d a b) s d v :=
    givesP_of_guarded hg (exec_cmp ..) (congrArg (s.retP d) hv)
  have hcmpi (cc : Cond) {v : Bool} (hv : holds cc x z = v) : GivesP (.cmpi g cc d a i) s d v :=
    givesP_of_guarded hg (exec_cmpi ..) (congrArg (s.retP d) hv)
  obtain ⟨heq, hne, hlt, hle, hltu, hleu⟩ := holds_eq x y
  obtain ⟨heq', hne', hlt', hle', hltu', hleu'⟩ := holds_eq x z
  have hset : (x != 0) = decide (x ≠ 0) := (holds_eq x 0).2.1
  exact ⟨⟨hcmp .eq heq, hcmp .ne hne, hcmp .lt hlt, hcmp .le hle, hcmp .ltu hltu, hcmp .leu hleu⟩,
    ⟨hcmpi .eq heq', hcmpi .ne hne', hcmpi .lt hlt', hcmpi .le hle', hcmpi .ltu hltu', hcmpi .leu hleu'⟩,
    givesP_of_predOp hg (exec_pand ..) rfl, givesP_of_predOp hg (exec_por ..) rfl, givesP_of_predOp hg (exec_pxor ..) (congrFun₂ Bool.bne_eq_xor ..),
    givesP_of_guarded hg (exec_pnot ..) rfl, givesP_of_guarded hg (exec_pset ..) (congrArg (s.retP d) hset),
    gives_of_guarded hg (exec_pget ..) rfl, gives_of_guarded hg (exec_sel ..) rfl⟩

/-- Settles O8: each instruction is a result of its operands, by the equation of its operation. -/
theorem immediatesComparesAndSelects : Obligations.ImmediatesComparesAndSelects := ⟨immediateResults, compareAndSelectResults⟩

end Sys2Proof.Machine

end

section

/-! PROOF. Loops after an update of their counters, and the deepest of the active ones (O10, O11). -/

open Sys2Proof.Claim
namespace Sys2Proof.Machine

variable {q : Seq}

theorem Seq.loopAt_of_loops {q q' : Seq} (h : q'.loops = q.loops) (n : Nat) : q'.loopAt n = q.loopAt n := by unfold Seq.loopAt; rw [h]
@[simp] theorem Seq.loopAt_setLoop_same (q : Seq) (n : Nat) (l : Loop) : (q.setLoop n l).loopAt n = l := tblGetD_put_same ..
theorem Seq.loopAt_setLoop_ne (q : Seq) {n m : Nat} (l : Loop) (h : m ≠ n) : (q.setLoop n l).loopAt m = q.loopAt m := tblGetD_put_ne _ _ _ h
@[simp] theorem Seq.loopAt_prune (q : Seq) (n : Nat) : q.prune.loopAt n = q.loopAt n := rfl

/-- Updates of several loops, each of one alone, are each seen at their own loop. -/
theorem Seq.loopAt_foldl {f : Seq → Nat → Seq} {h : Loop → Loop}
    (hf : ∀ q n m, (f q n).loopAt m = if m = n then h (q.loopAt n) else q.loopAt m) {l : List Nat} (hl : l.Nodup) (q : Seq) (m : Nat) :
    (l.foldl f q).loopAt m = if m ∈ l then h (q.loopAt m) else q.loopAt m := by
  induction l generalizing q with
  | nil => rfl
  | cons n l ih =>
    obtain ⟨hn, hl⟩ := List.nodup_cons.1 hl
    rw [List.foldl_cons, ih hl, hf]
    by_cases hm : m = n
    · subst hm; simp [hn]
    · simp [hm]

theorem mem_counters {n : Nat} : n ∈ [0, 1, 2] ↔ n < 3 := by simp; omega

theorem loopActive_iff {l : Loop} : loopActive l = true ↔ l.depth ≠ 0 := by simp [loopActive]

theorem inLoop_iff {l : Loop} {a : Word} : inLoop l a = true ↔ l.depth ≠ 0 ∧ l.start.toNat ≤ a.toNat ∧ a.toNat < l.fin.toNat := by
  simp [inLoop, loopActive, BitVec.ule, BitVec.ult, and_assoc]

/-- What a taken transfer makes of a loop (R90). -/
def Loop.jumped (T : Word) (l : Loop) : Loop := if loopActive l && !(inLoop l T) then { l with depth := 0 } else l

theorem Loop.jumped_eq (T : Word) (l : Loop) :
    l.jumped T = if l.depth ≠ 0 ∧ ¬(l.start.toNat ≤ T.toNat ∧ T.toNat < l.fin.toNat) then { l with depth := 0 } else l := by
  unfold Loop.jumped
  refine if_congr ?_ rfl rfl
  rw [Bool.and_eq_true, loopActive_iff, Bool.not_eq_true', ← Bool.not_eq_true, inLoop_iff]
  tauto

/-- A loop that does not hold the target ends. -/
def closeUnless (T : Word) (q : Seq) (n : Nat) : Seq :=
  if loopActive (q.loopAt n) && !(inLoop (q.loopAt n) T) then (q.setLoop n { q.loopAt n with depth := 0 }).prune else q

theorem closeUnless_loopAt (T : Word) (q : Seq) (n m : Nat) :
    (closeUnless T q n).loopAt m = if m = n then (q.loopAt n).jumped T else q.loopAt m := by
  unfold closeUnless Loop.jumped
  by_cases hm : m = n
  · subst hm; rw [if_pos rfl]; split <;> simp
  · rw [if_neg hm]
    split
    · rw [Seq.loopAt_prune, Seq.loopAt_setLoop_ne _ _ hm]
    · rfl

theorem Seq.jump_eq (q : Seq) (T : Word) : q.jump T = { [0, 1, 2].foldl (closeUnless T) q with pc := T } := by
  unfold Seq.jump closeUnless; rfl

theorem Seq.jump_loopAt (q : Seq) (T : Word) {n : Nat} (hn : n < 3) : (q.jump T).loopAt n = (q.loopAt n).jumped T := by
  rw [Seq.jump_eq]
  generalize hr : [0, 1, 2].foldl (closeUnless T) q = r
  change r.loopAt n = _
  rw [← hr, Seq.loopAt_foldl (closeUnless_loopAt T) (by decide), if_pos (mem_counters.2 hn)]

-- The deepest of the active loops (R89).

/-- Of two loops that are candidates, the deeper one, the later among equals. -/
def Seq.deeper (q : Seq) (best : Option Nat) (n : Nat) : Option Nat :=
  if loopActive (q.loopAt n) then
    match best with
    | none => some n
    | some b => if (q.loopAt b).depth.ule (q.loopAt n).depth then some n else best
  else best

/-- Which of some loops is the deepest active one. -/
def Seq.DeepestOf (q : Seq) (l : List Nat) : Option Nat → Prop
  | none => ∀ n ∈ l, (q.loopAt n).depth = 0
  | some k => k ∈ l ∧ (q.loopAt k).depth ≠ 0 ∧ ∀ j ∈ l, (q.loopAt j).depth.toNat ≤ (q.loopAt k).depth.toNat

theorem Seq.deepestOf_foldl (q : Seq) (l : List Nat) : q.DeepestOf l (l.foldl q.deeper none) := by
  induction l using List.reverseRecOn with
  | nil => exact fun _ h => absurd h List.not_mem_nil
  | append_singleton l n ih =>
    rw [List.foldl_append, List.foldl_cons, List.foldl_nil]
    generalize l.foldl q.deeper none = best at ih ⊢
    unfold Seq.deeper
    cases hn : loopActive (q.loopAt n) with
    | false =>
      have h0 : (q.loopAt n).depth = 0 := by simpa [loopActive] using hn
      rw [if_neg Bool.false_ne_true]
      cases best with
      | none => simpa [Seq.DeepestOf, or_imp, forall_and, h0] using ih
      | some b =>
        obtain ⟨hb, hne, hmax⟩ := ih
        exact ⟨List.mem_append_left _ hb, hne, by simpa [or_imp, forall_and, h0] using hmax⟩
    | true =>
      have hne := loopActive_iff.1 hn
      rw [if_pos rfl]
      cases best with
      | none =>
        have ih : ∀ j ∈ l, (q.loopAt j).depth = 0 := ih
        refine ⟨by simp, hne, fun j hj => ?_⟩
        rcases List.mem_append.1 hj with hj | hj
        · rw [ih j hj]; exact Nat.zero_le _
        · rw [List.mem_singleton.1 hj]
      | some b =>
        obtain ⟨hb, hbne, hmax⟩ := ih
        dsimp only
        cases hle : (q.loopAt b).depth.ule (q.loopAt n).depth with
        | true =>
          have hle : (q.loopAt b).depth.toNat ≤ (q.loopAt n).depth.toNat := of_decide_eq_true hle
          refine ⟨by simp, hne, fun j hj => ?_⟩
          rcases List.mem_append.1 hj with hj | hj
          · exact (hmax j hj).trans hle
          · rw [List.mem_singleton.1 hj]
        | false =>
          have hlt : ¬(q.loopAt b).depth.toNat ≤ (q.loopAt n).depth.toNat := of_decide_eq_false hle
          refine ⟨List.mem_append_left _ hb, hbne, fun j hj => ?_⟩
          rcases List.mem_append.1 hj with hj | hj
          · exact hmax j hj
          · rw [List.mem_singleton.1 hj]; omega

theorem Seq.deepestOf_deepest (q : Seq) : q.DeepestOf [0, 1, 2] q.deepest := q.deepestOf_foldl [0, 1, 2]

theorem Seq.deepest_spec {k : Nat} (h : q.deepest = some k) : k < 3 ∧ (q.loopAt k).depth ≠ 0 := by
  obtain ⟨hk, hne, -⟩ := h ▸ q.deepestOf_deepest
  exact ⟨mem_counters.1 hk, hne⟩

theorem Seq.deepest_of_closed {q : Seq} (h : ∀ n, n < 3 → (q.loopAt n).depth = 0) : q.deepest = none := by
  cases hd : q.deepest with
  | none => rfl
  | some k =>
    obtain ⟨hk, hne⟩ := Seq.deepest_spec hd
    exact absurd (h k hk) hne

theorem Seq.deepest_of_deeper {q : Seq} {k : Nat} (hk : k < 3) (hne : (q.loopAt k).depth ≠ 0)
    (hmax : ∀ j, j < 3 → j ≠ k → (q.loopAt j).depth.toNat < (q.loopAt k).depth.toNat) : q.deepest = some k := by
  have hd := q.deepestOf_deepest
  cases h : q.deepest with
  | none => rw [h] at hd; exact absurd (hd k (mem_counters.2 hk)) hne
  | some j =>
    rw [h] at hd
    obtain ⟨hj, -, hle⟩ := hd
    by_contra hjk
    have hlt := hmax j (mem_counters.1 hj) fun e => hjk (congrArg some e)
    exact absurd (hle k (mem_counters.2 hk)) (Nat.not_le.2 hlt)

end Sys2Proof.Machine

end

section

/-! PROOF. Taken transfers (O10). -/

open Sys2Proof.Claim
namespace Sys2Proof.Machine

variable {s : State} {q : Seq}

theorem outside_setQ (s : State) (q : Seq) : Outside s (s.setQ q) := rfl

/-- A transfer from a sequencer that differs from the one that runs in its scalars alone. -/
theorem jumps_setQ (hq : q = { s.q with regs := q.regs }) (T : Word) : Jumps s (s.setQ (q.jump T)) T := by
  refine ⟨others_setQ s _, ?_, fun n hn => ?_⟩
  · rw [State.q_setQ]
    refine Eq.trans (q.jump_only T) ?_
    rw [hq]; simp
  · rw [State.q_setQ, Seq.jump_loopAt q T hn, Loop.jumped_eq, hq]; rfl

theorem jump_s (s : State) (q : Seq) (T : Word) (r : SReg) : (s.setQ (q.jump T)).q.s r = q.s r :=
  Seq.s_of_regs (by rw [State.q_setQ, Seq.jump_regs]) r

/-- A transfer that leaves a link behind. -/
theorem links (s : State) (link : SReg) (v T : Word) : let t := s.setQ ((s.q.setS link v).jump T)
    Outside s t ∧ Jumps s t T ∧ (∀ r, r ≠ link → t.q.s r = s.q.s r) ∧ t.q.s link = if link = 0 then 0 else v := by
  refine ⟨rfl, jumps_setQ (Seq.setS_only ..) T, fun r hr => ?_, ?_⟩
  · rw [jump_s, Seq.s_setS_ne _ _ hr]
  · rw [jump_s, Seq.s_setS]

/-- Settles O10: each transfer is one jump, whose target is computed before its link is written. -/
theorem controlTransfers : Obligations.ControlTransfers := by
  intro s g link a off hg pc T J
  refine ⟨⟨s.setQ (s.q.jump T), exec_of_guarded hg (exec_br ..) rfl, outside_setQ .., jumps_setQ rfl T, jump_s s s.q T⟩,
    ⟨_, exec_of_guarded hg (exec_jal ..) rfl, links s link (pc + 8) T⟩, fun hJ => ?_, fun hJ hh => ?_⟩
  · have hal : aligned J 8 = true := beq_iff_eq.2 hJ
    have hf : (if !aligned J 8 then s.trap (alignT J) else s.setQ ((s.q.setS link (pc + 8)).jump J)) =
        s.setQ ((s.q.setS link (pc + 8)).jump J) := by rw [hal]; rfl
    exact ⟨_, exec_of_guarded hg (exec_jalr ..) hf, links s link (pc + 8) J⟩
  · have hal : aligned J 8 = false := beq_eq_false_iff_ne.2 hJ
    have hf : (if !aligned J 8 then s.trap (alignT J) else s.setQ ((s.q.setS link (pc + 8)).jump J)) = s.trap (alignT J) := by rw [hal]; rfl
    exact traps_of_guarded hg hh (by decide) (exec_jalr ..) hf

end Sys2Proof.Machine

end

section

/-! PROOF. The end of a loop's body, and what opens a loop (O11). -/

open Sys2Proof.Claim
namespace Sys2Proof.Machine

variable {s : State} {q : Seq} {g : Guard}

-- End-of-body processing (R89).

theorem Seq.flow_of_closed {q : Seq} (h : q.deepest = none) (k : Nat) (a : Word) : Seq.flow k q a = { q with pc := a } := by
  cases k with
  | zero => rfl
  | succ k => rw [Seq.flow, h]

theorem Seq.flow_within {q : Seq} {n : Nat} (h : q.deepest = some n) {a : Word} (ha : a ≠ (q.loopAt n).fin) (k : Nat) :
    Seq.flow (k + 1) q a = { q with pc := a } := by
  rw [Seq.flow, h]; dsimp only
  rw [if_pos (bne_iff_ne.2 ha)]

theorem Seq.flow_again {q : Seq} {n : Nat} (h : q.deepest = some n) {a : Word} (ha : a = (q.loopAt n).fin) (hc : (q.loopAt n).count ≠ 1) (k : Nat) :
    Seq.flow (k + 1) q a = { q.setLoop n { q.loopAt n with count := (q.loopAt n).count - 1 } with pc := (q.loopAt n).start } := by
  have hc : ((q.loopAt n).count - 1 != 0) = true := bne_iff_ne.2 fun e => hc (by rwa [sub_eq_zero] at e)
  rw [Seq.flow, h]; dsimp only
  rw [if_neg (by simp [ha]), if_pos hc]

theorem Seq.flow_last {q : Seq} {n : Nat} (h : q.deepest = some n) {a : Word} (ha : a = (q.loopAt n).fin) (hc : (q.loopAt n).count = 1) (k : Nat) :
    Seq.flow (k + 1) q a = Seq.flow k (q.setLoop n { q.loopAt n with count := 0, depth := 0 }).prune a := by
  rw [Seq.flow, h]; dsimp only
  rw [if_neg (by simp [ha]), hc]; rfl

/-- A NOP, whatever its guard, only flows on (R23, R92). -/
theorem nop_flows {P : State → Prop} (s : State) (g : Guard) (hP : P (s.go 8)) : Runs (.nop g) s fun t => Outside s t ∧ QFlows s t ∧ P t := by
  refine ⟨s.go 8, ?_, rfl, qFlows_go s, hP⟩
  rw [exec_nop]; unfold execNop
  cases hg : s.q.guard g with
  | true => rw [State.guarded_true hg]
  | false => rw [State.guarded_false hg]

/-- The sequencer that runs as its instruction has ended, before it flows on. -/
def State.ended (s : State) : Seq := { s.q with wait := none }

theorem go_q_flow (h : s.q.intrap = false) : (s.go 8).q = Seq.flow 4 s.ended (s.q.pc + 8) := by
  rw [State.go_q]; exact if_neg (Bool.eq_false_iff.1 h)

/-- R89 at each place: within a body, at its end, and at the end of its last pass. -/
theorem endOfBodyProcessing : EndOfBodyProcessing := by
  intro s g htrap q next at_
  have hgo := go_q_flow htrap
  refine ⟨fun hclosed => nop_flows s g ?_, fun k hk hactive hdeeper => ?_⟩
  · have hnone : s.ended.deepest = none := Seq.deepest_of_closed hclosed
    rw [hgo, Seq.flow_of_closed hnone]
  · have hd : s.ended.deepest = some k := Seq.deepest_of_deeper hk hactive hdeeper
    refine ⟨fun hne => nop_flows s g ?_, fun heq hc => nop_flows s g ?_, fun heq hc => ?_⟩
    · rw [hgo, Seq.flow_within hd hne]; exact ⟨rfl, rfl⟩
    · rw [hgo, Seq.flow_again hd heq hc]
      exact ⟨rfl, Seq.loopAt_setLoop_same .., fun j hj => Seq.loopAt_setLoop_ne _ _ hj⟩
    · -- the loop has ended: what flows on from there
      let r := (s.ended.setLoop k { at_ k with count := 0, depth := 0 }).prune
      have hr : r.loopAt k = { at_ k with count := 0, depth := 0 } := Seq.loopAt_setLoop_same ..
      have hr' (j : Nat) (hj : j ≠ k) : r.loopAt j = at_ j := Seq.loopAt_setLoop_ne _ _ hj
      have hlast : (s.go 8).q = Seq.flow 3 r next := hgo.trans (Seq.flow_last hd heq hc 3)
      refine ⟨fun hclosed => nop_flows s g ?_, fun j hj hjk hjactive hjdeeper hjfin hjc => nop_flows s g ?_⟩
      · have hnone : r.deepest = none := Seq.deepest_of_closed fun n hn => by
          by_cases hnk : n = k
          · rw [hnk, hr]
          · rw [hr' n hnk]; exact hclosed n hn hnk
        rw [hlast, Seq.flow_of_closed hnone]
        exact ⟨rfl, hr, hr'⟩
      · have hdj : r.deepest = some j := Seq.deepest_of_deeper hj (by rw [hr' j hjk]; exact hjactive) fun n hn hnj => by
          rw [hr' j hjk]
          by_cases hnk : n = k
          · rw [hnk, hr]; exact Nat.pos_of_ne_zero fun e => hjactive (BitVec.eq_of_toNat_eq e)
          · rw [hr' n hnk]; exact hjdeeper n hn hnk hnj
        rw [hlast, Seq.flow_again hdj (by rw [hr' j hjk]; exact hjfin.symm) (by rw [hr' j hjk]; exact hjc), hr' j hjk]
        exact ⟨rfl, (Seq.loopAt_setLoop_ne _ _ hjk.symm).trans hr, Seq.loopAt_setLoop_same ..⟩

-- The loops nested in a counter that is taken over (R88).

/-- The loop of counter `k` stays open when counter `n` is taken over. -/
def Seq.staysOpen (q : Seq) (n k : Nat) : Bool :=
  (q.loopAt k).depth != 0 && !((q.loopAt n).depth != 0 && decide ((q.loopAt n).depth.toNat ≤ (q.loopAt k).depth.toNat))

/-- A loop at depth `dn` or deeper is closed. -/
def closeDeep (dn : BitVec 2) (l : Loop) : Loop := if dn != 0 && dn.ule l.depth && loopActive l then { l with depth := 0 } else l

/-- Counter `k` under that rule. -/
def closeFrom (dn : BitVec 2) (q : Seq) (k : Nat) : Seq :=
  if dn != 0 && dn.ule (q.loopAt k).depth && loopActive (q.loopAt k) then q.setLoop k { q.loopAt k with depth := 0 } else q

/-- The sequencer once counter `n` is free, with the words captured for the loops that stay. -/
def Seq.freeing (q : Seq) (n : Nat) : Seq := ([0, 1, 2].foldl (closeFrom (q.loopAt n).depth) q).prune

theorem closeFrom_loopBuf (dn : BitVec 2) (q : Seq) (k : Nat) : (closeFrom dn q k).loopBuf = q.loopBuf := by unfold closeFrom; split <;> rfl

theorem foldl_closeFrom_loopBuf (dn : BitVec 2) (l : List Nat) (q : Seq) : (l.foldl (closeFrom dn) q).loopBuf = q.loopBuf := by
  induction l generalizing q with
  | nil => rfl
  | cons k l ih => rw [List.foldl_cons, ih, closeFrom_loopBuf]

theorem closeFrom_loopAt (dn : BitVec 2) (q : Seq) (k m : Nat) :
    (closeFrom dn q k).loopAt m = if m = k then closeDeep dn (q.loopAt k) else q.loopAt m := by
  unfold closeFrom closeDeep
  by_cases hm : m = k
  · subst hm; rw [if_pos rfl]; split <;> simp
  · rw [if_neg hm]
    split
    · rw [Seq.loopAt_setLoop_ne _ _ hm]
    · rfl

theorem Seq.freeing_loopAt (q : Seq) (n : Nat) {k : Nat} (hk : k < 3) :
    (q.freeing n).loopAt k = if q.staysOpen n k then q.loopAt k else { q.loopAt k with depth := 0 } := by
  unfold Seq.freeing
  rw [Seq.loopAt_prune, Seq.loopAt_foldl (closeFrom_loopAt (q.loopAt n).depth) (by decide), if_pos (mem_counters.2 hk)]
  unfold Seq.staysOpen closeDeep loopActive BitVec.ule
  generalize q.loopAt k = l
  generalize ((q.loopAt n).depth != 0 && decide ((q.loopAt n).depth.toNat ≤ l.depth.toNat)) = deep
  cases hactive : l.depth != 0 with
  | false =>
    obtain ⟨start, fin, depth, count⟩ := l
    have hzero : depth = 0 := by simpa using hactive
    subst hzero; cases deep <;> rfl
  | true => cases deep <;> rfl

theorem Seq.freeing_only (q : Seq) (n : Nat) : q.FlowOnly (q.freeing n) := by
  refine Seq.FlowOnly.trans (Seq.foldl_only (fun q k => ?_) _ q) rfl
  unfold closeFrom; split <;> rfl

theorem Seq.freeing_active (q : Seq) (n : Nat) {k : Nat} (hk : k < 3) : loopActive ((q.freeing n).loopAt k) = q.staysOpen n k := by
  rw [Seq.freeing_loopAt q n hk]
  cases h : q.staysOpen n k with
  | true =>
    unfold Seq.staysOpen at h
    exact (Bool.and_eq_true_iff.1 h).1
  | false => rfl

theorem Seq.prune_loopBuf (q : Seq) : q.prune.loopBuf = q.loopBuf.filter fun w =>
    [0, 1, 2].any fun k => inLoop (q.loopAt k) (BitVec.ofNat 64 w.1) := rfl

theorem Seq.freeing_loopBuf (q : Seq) (n : Nat) : (q.freeing n).loopBuf = q.loopBuf.filter fun w =>
    [0, 1, 2].any fun k => q.staysOpen n k && inLoop (q.loopAt k) (BitVec.ofNat 64 w.1) := by
  unfold Seq.freeing
  rw [Seq.prune_loopBuf, foldl_closeFrom_loopBuf]
  refine List.filter_congr fun w _ => ?_
  have hin (k : Nat) (hk : k < 3) : inLoop (([0, 1, 2].foldl (closeFrom (q.loopAt n).depth) q).loopAt k) (BitVec.ofNat 64 w.1) =
      (q.staysOpen n k && inLoop (q.loopAt k) (BitVec.ofNat 64 w.1)) := by
    rw [← Seq.loopAt_prune]
    change inLoop ((q.freeing n).loopAt k) _ = _
    have hactive := Seq.freeing_active q n hk
    rw [Seq.freeing_loopAt q n hk] at hactive ⊢
    cases h : q.staysOpen n k <;> rfl
  simp only [List.any_cons, List.any_nil, hin 0 (by decide), hin 1 (by decide), hin 2 (by decide)]

/-- What the search of a body for a split ENQ reads of the sequencer is its captured words (R33). -/
theorem splitsEnq_congr {q' : Seq} (h : q'.loopBuf = q.loopBuf) (k : Nat) (a fin : Word) : s.splitsEnq q' k a fin = s.splitsEnq q k a fin := by
  have hfetch (a : Word) : s.fetchWord q' a = s.fetchWord q a := by unfold State.fetchWord; rw [h]
  induction k generalizing a with
  | zero => rfl
  | succ k ih =>
    unfold State.splitsEnq
    rw [hfetch]
    simp only [ih]

-- LOOP and LOOPI (R88).

/-- Where the body ends. -/
def Seq.bodyEnd (q : Seq) (fin : BitVec 16) : Word := q.pc + 8 * fin.zeroExtend 64

/-- The body would reach past the end of the deepest loop that stays open. -/
def Seq.reachesPast (q : Seq) (e : Word) : Bool := match q.deepest with | none => false | some k => (q.loopAt k).fin.ult e

theorem Seq.reachesPast_of_some {k : Nat} (h : q.deepest = some k) (e : Word) : q.reachesPast e = (q.loopAt k).fin.ult e := by
  unfold Seq.reachesPast; rw [h]

/-- A loop is opened over the body from the next word to `e`. -/
def Seq.opening (q : Seq) (n : Nat) (e cnt : Word) : Seq :=
  { (q.setLoop n { start := q.pc + 8, fin := e, depth := BitVec.ofNat 2 (([0, 1, 2].filter fun k => loopActive (q.loopAt k)).length + 1), count := cnt }).prune with
    pc := q.pc + 8 }

theorem Seq.freeing_pc (q : Seq) (n : Nat) : (q.freeing n).pc = q.pc := by
  unfold Seq.freeing closeFrom
  simp only [List.foldl_cons, List.foldl_nil, Seq.prune_pc]
  repeat' split
  all_goals rfl

theorem loopOpen_eq (s : State) (n : Nat) (cnt : Word) (fin : BitVec 16) : s.loopOpen n cnt fin =
    if cnt = 0 then s.setQ (if (s.q.freeing n).intrap then { s.q.freeing n with pc := s.q.bodyEnd fin } else Seq.flow 4 (s.q.freeing n) (s.q.bodyEnd fin))
    else if s.splitsEnq (s.q.freeing n) 258 (s.q.pc + 8) (s.q.bodyEnd fin) then s.ill 4
    else if (s.q.freeing n).reachesPast (s.q.bodyEnd fin) then s.ill 4
    else s.setQ ((s.q.freeing n).opening n (s.q.bodyEnd fin) cnt) := by
  unfold Seq.opening
  rw [Seq.freeing_pc]; rfl

theorem Seq.staysOpen_iff_active (q : Seq) (n : Nat) {k : Nat} (hk : k < 3) : ((q.freeing n).loopAt k).depth ≠ 0 ↔ q.staysOpen n k = true := by
  rw [← loopActive_iff, Seq.freeing_active q n hk]

theorem Seq.freeing_loopAt_open {n k : Nat} (hk : k < 3) (h : q.staysOpen n k = true) : (q.freeing n).loopAt k = q.loopAt k := by
  rw [Seq.freeing_loopAt q n hk, h]; rfl

theorem Seq.freeing_deepest {n k : Nat} (h : (q.freeing n).deepest = some k) : k < 3 ∧ q.staysOpen n k = true := by
  obtain ⟨hk, hne⟩ := Seq.deepest_spec h
  exact ⟨hk, (Seq.staysOpen_iff_active q n hk).1 hne⟩

/-- A body within those that stay open reaches past none of them. -/
theorem Seq.reachesPast_of_within {n : Nat} {e : Word} (h : ∀ k, k < 3 → q.staysOpen n k = true → e.toNat ≤ (q.loopAt k).fin.toNat) :
    (q.freeing n).reachesPast e = false := by
  cases hd : (q.freeing n).deepest with
  | none => unfold Seq.reachesPast; rw [hd]
  | some k =>
    obtain ⟨hk, hopen⟩ := Seq.freeing_deepest hd
    rw [Seq.reachesPast_of_some hd, Seq.freeing_loopAt_open hk hopen]
    exact decide_eq_false (Nat.not_lt.2 (h k hk hopen))

/-- A body that ends beyond the deepest of them reaches past it. -/
theorem Seq.reachesPast_of_beyond {n k : Nat} {e : Word} (hk : k < 3) (hopen : q.staysOpen n k = true)
    (hdeeper : ∀ j, j < 3 → j ≠ k → q.staysOpen n j = true → (q.loopAt j).depth.toNat < (q.loopAt k).depth.toNat)
    (h : (q.loopAt k).fin.toNat < e.toNat) : (q.freeing n).reachesPast e = true := by
  have hactive : (q.loopAt k).depth ≠ 0 := Seq.freeing_loopAt_open hk hopen ▸ (Seq.staysOpen_iff_active q n hk).2 hopen
  have hd : (q.freeing n).deepest = some k := by
    refine Seq.deepest_of_deeper hk ((Seq.staysOpen_iff_active q n hk).2 hopen) fun j hj hjk => ?_
    rw [Seq.freeing_loopAt_open hk hopen]
    cases hj' : q.staysOpen n j with
    | true => rw [Seq.freeing_loopAt_open hj hj']; exact hdeeper j hj hjk hj'
    | false =>
      rw [Seq.freeing_loopAt q n hj, hj']
      exact Nat.pos_of_ne_zero fun h0 => hactive (BitVec.eq_of_toNat_eq h0)
  rw [Seq.reachesPast_of_some hd, Seq.freeing_loopAt_open hk hopen]
  exact decide_eq_true h

theorem Seq.opening_only (q : Seq) (n : Nat) (e cnt : Word) : q.FlowOnly (q.opening n e cnt) := rfl
@[simp] theorem Seq.opening_pc (q : Seq) (n : Nat) (e cnt : Word) : (q.opening n e cnt).pc = q.pc + 8 := rfl

theorem Seq.opening_loopAt_same (q : Seq) (n : Nat) (e cnt : Word) : (q.opening n e cnt).loopAt n =
    { start := q.pc + 8, fin := e, depth := BitVec.ofNat 2 (([0, 1, 2].filter fun k => loopActive (q.loopAt k)).length + 1), count := cnt } :=
  Seq.loopAt_setLoop_same ..

theorem Seq.opening_loopAt_ne (q : Seq) {n k : Nat} (e cnt : Word) (h : k ≠ n) : (q.opening n e cnt).loopAt k = q.loopAt k :=
  Seq.loopAt_setLoop_ne _ _ h

/-- The opened loop is one deeper than the number of those that stay open (R88). -/
theorem Seq.freeing_active_length (q : Seq) (n : Nat) :
    ([0, 1, 2].filter fun k => loopActive ((q.freeing n).loopAt k)).length + 1 = 1 + ((List.range 3).filter (q.staysOpen n)).length := by
  have hopen : [0, 1, 2].filter (fun k => loopActive ((q.freeing n).loopAt k)) = (List.range 3).filter (q.staysOpen n) :=
    List.filter_congr fun k hk => Seq.freeing_active q n (mem_counters.1 hk)
  rw [hopen, Nat.add_comm]

/-- What LOOP and LOOPI have in common (R88). -/
theorem opensLoop {i : Instr} {n : Nat} {cnt : Word} {fin : BitVec 16} (hi : exec i s = .next (s.loopOpen n cnt fin)) : OpensLoop i s n cnt fin := by
  unfold OpensLoop
  intro q e dn opn kept hsplit
  rw [loopOpen_eq] at hi
  have hsplit : s.splitsEnq (s.q.freeing n) 258 (s.q.pc + 8) (s.q.bodyEnd fin) = false :=
    (splitsEnq_congr (q := kept) (Seq.freeing_loopBuf q n) 258 _ _).trans hsplit
  refine ⟨fun hcnt hwithin => ?_, fun hcnt hclosed => ?_, fun k hk hcnt hopen hdeeper hbeyond hh => ?_⟩
  · have hpast : (s.q.freeing n).reachesPast (s.q.bodyEnd fin) = false := Seq.reachesPast_of_within hwithin
    rw [if_neg hcnt, if_neg (Bool.eq_false_iff.1 hsplit), if_neg (Bool.eq_false_iff.1 hpast)] at hi
    refine ⟨_, hi, outside_setQ .., others_setQ s _, ?_, ?_, fun k hk hkn => ?_⟩
    · rw [State.q_setQ]
      exact Eq.trans ((Seq.freeing_only q n).trans (Seq.opening_only ..)) (by rw [Seq.opening_pc, Seq.freeing_pc])
    · rw [State.q_setQ, Seq.opening_loopAt_same, Seq.freeing_active_length, Seq.freeing_pc]; rfl
    · rw [State.q_setQ, Seq.opening_loopAt_ne _ _ _ hkn]; exact Seq.freeing_loopAt q n hk
  · have hnone : (s.q.freeing n).deepest = none := Seq.deepest_of_closed fun k hk => by
      by_contra hne; exact hclosed k hk ((Seq.staysOpen_iff_active q n hk).1 hne)
    rw [if_pos hcnt, Seq.flow_of_closed hnone, ite_self] at hi
    refine ⟨_, hi, outside_setQ .., others_setQ s _, ?_, fun k hk => ?_⟩
    · rw [State.q_setQ]
      exact congrArg (fun v : Seq => { v with pc := q.bodyEnd fin }) (Seq.freeing_only q n)
    · rw [State.q_setQ]
      exact (Seq.freeing_loopAt q n hk).trans (if_neg (hclosed k hk))
  · have hpast : (s.q.freeing n).reachesPast (s.q.bodyEnd fin) = true := Seq.reachesPast_of_beyond hk hopen hdeeper hbeyond
    rw [if_neg hcnt, if_neg (Bool.eq_false_iff.1 hsplit), if_pos hpast] at hi
    exact traps_of_trap hh (by decide) hi

theorem loopsOpen : LoopsOpen := by
  intro s g n a cnt fin hg _
  exact ⟨opensLoop (exec_of_guarded hg (exec_loop ..) rfl), fun _ => opensLoop (exec_of_guarded hg (exec_loopi ..) rfl)⟩

/-- Settles O11: freeing a counter closes the loops nested in it, and the deepest of those that stay bounds the new body. -/
theorem hardwareLoops : Obligations.HardwareLoops := ⟨loopsOpen, endOfBodyProcessing⟩

end Sys2Proof.Machine

end

section

/-! PROOF. A task that ends unhandled stops both its sequencers and ends its launch (O12). -/

open Sys2Proof.Claim
namespace Sys2Proof.Machine

variable {s t : State}

/-- Why the launch of each context is ending, where it has one and does (R304). -/
def State.endings (s : State) (c : Nat) : Option (Option (Nat × EndInfo)) := (s.ctx c).launch.map Launch.ending

theorem endings_of_ctxs (h : t.ctxs = s.ctxs) : t.endings = s.endings := by unfold State.endings State.ctx; rw [h]

theorem setCtx_endings {c : Nat} {v : Ctx} (h : v.launch.map Launch.ending = s.endings c) : (s.setCtx c v).endings = s.endings := by
  funext d
  unfold State.endings at *
  by_cases hd : d = c
  · rw [hd, State.ctx_setCtx_same, h]
  · rw [State.ctx_setCtx_ne _ _ hd]

@[simp] theorem State.setSeq_endings (s : State) (r : SeqRef) (v : Seq) : (s.setSeq r v).endings = s.endings := rfl
@[simp] theorem State.setSlot_endings (s : State) (k : Nat) (v : Slot) : (s.setSlot k v).endings = s.endings := rfl
@[simp] theorem State.setCore_endings (s : State) (c : Nat) (v : Core) : (s.setCore c v).endings = s.endings := rfl
@[simp] theorem State.setGrp_endings (s : State) (g : Nat) (v : Grp) : (s.setGrp g v).endings = s.endings := rfl
@[simp] theorem State.unpin_endings (s : State) (ps : List Nat) : (s.unpin ps).endings = s.endings := endings_of_ctxs (by simp)

@[simp] theorem State.settleCore_endings (s : State) (c : Nat) : (s.settleCore c).endings = s.endings := by
  unfold State.settleCore; dsimp only; split <;> rfl

@[simp] theorem State.settleCtx_endings (s : State) (c : Nat) : (s.settleCtx c).endings = s.endings := by
  unfold State.settleCtx; dsimp only; split
  · exact setCtx_endings rfl
  · rfl

@[simp] theorem State.beginSave_endings (s : State) (c : Nat) : (s.beginSave c).endings = s.endings := by
  unfold State.beginSave; dsimp only; split
  · exact setCtx_endings rfl
  · rfl

@[simp] theorem State.saveGrp_endings (s : State) (g : Nat) : (s.saveGrp g).endings = s.endings := by
  unfold State.saveGrp; split
  · rfl
  · split
    · rfl
    · dsimp only
      rw [State.settleCore_endings, setCtx_endings (by rfl), State.beginSave_endings]
      split <;> rfl

@[simp] theorem State.departs_endings (s : State) (c g : Nat) : (s.departs c g).endings = s.endings := by
  unfold State.departs; split
  · simp
  · rfl

@[simp] theorem State.stageEnd_endings (s : State) (t : Task) : (s.stageEnd t).endings = s.endings := by
  unfold State.stageEnd; split
  · split <;> rfl
  · rfl

/-- A group that ends counts in its launch, and leaves why that ends (R195). -/
@[simp] theorem State.settleGrp_endings (s : State) (g : Nat) : (s.settleGrp g).endings = s.endings := by
  unfold State.settleGrp; split
  · rfl
  · next v _ =>
    dsimp only
    split
    · rfl
    · next l hl =>
      have hend : s.endings v.ctx = some l.ending := by unfold State.endings; rw [hl]; rfl
      split
      · rfl
      · rw [State.settleCore_endings, setCtx_endings]
        · split <;> rfl
        · refine Eq.trans hend.symm ?_
          split <;> rfl

@[simp] theorem State.settleSlot_endings (s : State) (k : Nat) : (s.settleSlot k).endings = s.endings := by
  unfold State.settleSlot; dsimp only; split
  · rfl
  · split
    · rw [State.departs_endings, State.settleCore_endings, State.settleGrp_endings]
      split <;> simp
    · split <;> rfl

/-- The task notes how long it ran in its launch, and leaves why that ends (R203). -/
@[simp] theorem State.endTask_endings (s : State) (k : Nat) : (s.endTask k).endings = s.endings := by
  unfold State.endTask; dsimp only; split
  · rfl
  · split
    · rfl
    · rw [State.settleSlot_endings, State.setSlot_endings, setCtx_endings]
      unfold State.endings
      rw [Option.map_map]; rfl

@[simp] theorem State.spinAdd_endings (s : State) (k n : Nat) : (s.spinAdd k n).endings = s.endings := by
  unfold State.spinAdd; dsimp only; split
  · rfl
  · exact setCtx_endings (s := s.setSlot k _) rfl

@[simp] theorem State.spinAccrue_endings (s : State) (k : Nat) : (s.spinAccrue k).endings = s.endings := by
  unfold State.spinAccrue; dsimp only; split
  · rfl
  · rw [State.spinAdd_endings]; rfl

theorem foldl_unpin_endings (qs : List QRec) (s : State) : (qs.foldl (fun s q => s.unpin q.pins) s).endings = s.endings :=
  foldl_keeps State.endings (fun s q => s.unpin_endings q.pins) qs s

@[simp] theorem State.stopTask_endings (s : State) (k : Nat) : (s.stopTask k).endings = s.endings := by
  simp [State.stopTask, foldl_unpin_endings]

/-- Both sequencers of a task that is stopped stand stopped, and neither waits (R304). -/
theorem stopTask_seq (s : State) (k : Nat) (x : Bool) :
    ((s.stopTask k).seq { slot := k, x := x }).stopped = true ∧ ((s.stopTask k).seq { slot := k, x := x }).wait = none := by
  obtain ⟨w, ht, -⟩ := stopTask_eq s k
  have hend := (endTask_onlySlot ((w.haltSeq (seqA k)).haltSeq (seqX k)) k).trans (settleSlot_onlySlot _ k)
  have hhalt (u : State) (r : SeqRef) : ((u.haltSeq r).seq r).stopped = true ∧ ((u.haltSeq r).seq r).wait = none := by
    unfold State.haltSeq; rw [State.seq_setSeq_same]; exact ⟨rfl, rfl⟩
  rw [ht, hend.seq]
  cases x with
  | true => exact hhalt _ (seqX k)
  | false =>
    rw [haltSeq_seq_ne _ (show ({ slot := k, x := false } : SeqRef) ≠ seqX k from seqA_ne_seqX k)]
    exact hhalt w (seqA k)

/-- A launch that is to end, and was not ending, ends for that reason (R304). -/
theorem endLaunchWith_endings {c code : Nat} {info : EndInfo} {l : Launch} (hl : (s.ctx c).launch = some l) (hend : l.ending = none) :
    (s.endLaunchWith c code info).endings c = some (some (code, info)) := by
  unfold State.endLaunchWith; dsimp only
  rw [hl]; dsimp only
  refine Eq.trans (b := (s.setCtx c _).endings c) rfl ?_
  unfold State.endings
  rw [State.ctx_setCtx_same, hend]; rfl

theorem endsUnhandled (s : State) (code : Nat) (epc eval : Word) : EndsUnhandled s (s.endUnhandled s.cur code false epc eval) code epc eval := by
  refine ⟨fun x => stopTask_seq _ s.cur.slot x, fun l hl hend => ?_⟩
  have h : (s.endUnhandled s.cur code false epc eval).endings s.cx = some (some (6,
      { core := s.cur.slot / 4, slot := s.cur.slot % 4, cause := BitVec.ofNat 9 code, epc := epc, eval := eval })) :=
    (congrFun (State.stopTask_endings _ s.cur.slot) s.cx).trans (endLaunchWith_endings hl hend)
  exact Option.map_eq_some_iff.1 h

end Sys2Proof.Machine

end

section

/-! PROOF. The instructions of SYS (O12). -/

open Sys2Proof.Claim
namespace Sys2Proof.Machine

variable {s t u : State} {g : Guard}

theorem qFlows_of_seq {n : Nat} (hcur : t.cur = u.cur) (hseq : ∀ r, t.seq r = u.seq r) (h : QFlows s u n) : QFlows s t n := by
  obtain ⟨hothers, hflows, hq⟩ := h
  have htq : t.q = u.q := by unfold State.q; rw [hcur, hseq]
  exact ⟨fun r hr => (hseq r).trans (hothers r hr), htq ▸ hflows, htq ▸ hq⟩

theorem go_intrap (s : State) (n : Nat) : (s.go n).q.intrap = s.q.intrap := by rw [State.go_q, Seq.advance_intrap]
theorem go_tvec (s : State) (n : Nat) : (s.go n).q.tvec = s.q.tvec := by rw [State.go_q, Seq.advance_tvec]
theorem go_held (s : State) (n : Nat) : (s.go n).q.held = s.q.held := by rw [State.go_q, Seq.advance_held]

theorem handled_go (h : Handled s) : Handled (s.go 8) := by
  unfold Handled at *
  rw [go_intrap, go_tvec, go_held]; exact h

/-- The pc that sequential flow leads to does not depend on the wait. -/
theorem go_pc (s : State) (n : Nat) : (s.go n).q.pc = (s.q.advance n).pc := by
  rw [State.go_q]; exact (Seq.advance_congr (q := s.q) (q' := { s.q with wait := none }) n rfl rfl rfl rfl).1

-- Debug halts (R313, R314).

/-- The sequencer beside the one that runs. -/
def State.beside (s : State) : SeqRef := { s.cur with x := !s.cur.x }

theorem cur_beside (s : State) : s.cur = seqA s.cur.slot ∧ s.beside = seqX s.cur.slot ∨ s.cur = seqX s.cur.slot ∧ s.beside = seqA s.cur.slot := by
  unfold State.beside
  generalize s.cur = r
  obtain ⟨k, x⟩ := r
  cases x with
  | false => exact .inl ⟨rfl, rfl⟩
  | true => exact .inr ⟨rfl, rfl⟩

/-- What holds of the sequencer that runs and of the one beside it holds of both of the slot. -/
theorem both_of_beside {P : SeqRef → Prop} (hcur : P s.cur) (hbeside : P s.beside) : P (seqA s.cur.slot) ∧ P (seqX s.cur.slot) := by
  rcases cur_beside s with ⟨ha, hx⟩ | ⟨hx, ha⟩
  · exact ⟨ha ▸ hcur, hx ▸ hbeside⟩
  · exact ⟨ha ▸ hbeside, hx ▸ hcur⟩

theorem either_of_beside {P : SeqRef → Prop} (hbeside : P s.beside) : P (seqA s.cur.slot) ∨ P (seqX s.cur.slot) := by
  rcases cur_beside s with ⟨-, hx⟩ | ⟨-, ha⟩
  · exact .inr (hx ▸ hbeside)
  · exact .inl (ha ▸ hbeside)

theorem tryHalt_of_away {k : Nat} (h : (s.seq (seqA k)).atBoundary = false ∨ (s.seq (seqX k)).atBoundary = false) : s.tryHalt k = s := by
  refine if_neg fun hcond => ?_
  simp only [Bool.and_eq_true] at hcond
  obtain ⟨⟨-, ha, -⟩, hx, -⟩ := hcond
  rcases h with h | h
  · exact Bool.false_ne_true (h.symm.trans ha)
  · exact Bool.false_ne_true (h.symm.trans hx)

/-- A halt that is asked for while a sequencer of the slot is inside an instruction stands as a request. -/
theorem askHalt_of_away {k : Nat} (hhalt : (s.slot k).halted = false)
    (h : (s.seq (seqA k)).atBoundary = false ∨ (s.seq (seqX k)).atBoundary = false) :
    s.askHalt k = s.setSlot k { s.slot k with haltReq := true } := by
  unfold State.askHalt
  rw [hhalt, if_neg Bool.false_ne_true]
  exact tryHalt_of_away h

theorem Seq.trapDue_of_none_held {v : Seq} (h : v.held = []) : v.trapDue = false := by unfold Seq.trapDue; rw [h]; rfl
theorem Seq.atBoundary_of_no_wait {v : Seq} (h : v.wait = none) : v.atBoundary = true := by unfold Seq.atBoundary; rw [h]

theorem emit_stands (s : State) (typ ctx : Nat) (p : List Byte) : (s.emit typ ctx p).stands = s.stands :=
  stands_of (by rw [State.emit_only]) (by rw [State.emit_only]) (by rw [State.emit_only])

/-- A slot that asks for a halt, and neither of whose sequencers waits or has a cause due, halts. -/
theorem tryHalt_stands {k : Nat} (hreq : (s.slot k).haltReq = true) (hhalt : (s.slot k).halted = false) (hw : s.NoWait k)
    (ha : (s.seq (seqA k)).held = []) (hx : (s.seq (seqX k)).held = []) : (s.tryHalt k).stands =
      (s.setSlot k { s.slot k with halted := true, haltReq := false, stepOne := none, stepping := false }).stands := by
  have hends := endWaits_of_no_wait hw
  refine (congrArg State.stands (if_pos ?_)).trans ((emit_stands ..).trans ?_)
  · simp [hreq, hhalt, Seq.atBoundary_of_no_wait hw.1, Seq.atBoundary_of_no_wait hw.2, Seq.trapDue_of_none_held ha, Seq.trapDue_of_none_held hx]
  · rw [setSlot_stands_congr hends, slot_of_stands hends]

theorem endWaitOf_cur (s : State) (r : SeqRef) : (s.endWaitOf r).cur = s.cur := by
  have hunpin (u : State) (ps : List Nat) : (u.unpin ps).cur = u.cur := (congrArg State.cur (unpin_work u ps) :)
  have hspin (k : Nat) : (s.spinAccrue k).cur = s.cur := by rw [spinAccrue_only]
  unfold State.endWaitOf; dsimp only
  split <;> exact (hunpin ..).trans (hspin _)

theorem tryHalt_cur (s : State) (k : Nat) : (s.tryHalt k).cur = s.cur := by
  have hemit (u : State) (typ c : Nat) (p : List Byte) : (u.emit typ c p).cur = u.cur := by rw [State.emit_only]
  unfold State.tryHalt; dsimp only
  split
  · rw [hemit, State.setSlot_cur, endWaitOf_cur, endWaitOf_cur]
  · rfl

/-- BKPT halts the slot at once where both its sequencers can be halted (R307, R313). -/
theorem askHalt_halts (hhalt : s.sl.halted = false) (hwait : s.q.wait = none) (hwait' : (s.seq s.beside).wait = none)
    (hheld : s.q.held = []) (hheld' : (s.seq s.beside).held = []) : let t := s.askHalt s.cur.slot
    t.sl = { s.sl with halted := true, haltReq := false, stepOne := none, stepping := false } ∧ ∀ r, t.seq r = s.seq r := by
  let k := s.cur.slot
  let v : Slot := { s.sl with haltReq := true }
  have hw : (s.setSlot k v).NoWait k := both_of_beside (P := fun r => (s.seq r).wait = none) hwait hwait'
  obtain ⟨ha, hx⟩ := both_of_beside (P := fun r => (s.seq r).held = []) hheld hheld'
  have hv : (s.setSlot k v).slot k = v := State.slot_setSlot_same ..
  have hstands := tryHalt_stands (k := k) (congrArg Slot.haltReq hv) ((congrArg Slot.halted hv).trans hhalt) hw ha hx
  have hask : s.askHalt k = (s.setSlot k v).tryHalt k := if_neg (Bool.eq_false_iff.1 hhalt)
  intro t
  have ht : t = (s.setSlot k v).tryHalt k := hask
  refine ⟨?_, fun r => ?_⟩
  · unfold State.sl
    rw [ht, tryHalt_cur, slot_of_stands hstands, State.setSlot_cur, State.slot_setSlot_same, hv]; rfl
  · rw [ht, seq_of_stands hstands]; rfl

/-- Settles O12: each instruction flows on, traps, ends its task, returns, or asks for a halt. -/
theorem systemInstructions : Obligations.SystemInstructions := by
  intro s g code hg
  have hbkpt {t : State} (ht : (if s.cxv.bken then s.askHalt s.cur.slot else s.trap { code := 0x10, eval := code.zeroExtend 64 }) = t) :
      exec (.bkpt g code) s = .next t := exec_of_guarded hg (exec_bkpt ..) ht
  have hhalt {t : State} (ht : (if s.cxv.halten then (s.go.closeLock s.cur.slot).askHalt s.cur.slot
      else s.endUnhandled s.cur 0x11 false s.q.pc (BitVec.allOnes 64)) = t) : exec (.halt g) s = .next t := exec_of_guarded hg (exec_halt ..) ht
  refine ⟨flows_of_go (exec_of_guarded hg (exec_nop ..) rfl), flows_of_go (exec_of_guarded hg (exec_yield ..) rfl), fun hh => ?_, fun hun => ?_,
    fun hb hh => ?_, fun hb haway _ hhalted => ?_, fun hb hwait hwait' hhalted hheld hheld' => ?_, fun hh => ?_, fun hh haway hhalted => ?_,
    fun htrap => ?_, fun hh => ?_⟩
  · exact ⟨_, exec_of_guarded hg (exec_trap ..) rfl, s.go 8, qFlows_go s, rfl, entersTrap_takeTrap (handled_go hh) 0x11 _ _⟩
  · have hun : ((s.go 8).seq s.cur).intrap = true ∨ ((s.go 8).seq s.cur).tvec.getLsbD 0 = false := by
      rw [show (s.go 8).seq s.cur = (s.go 8).q from rfl, go_intrap, go_tvec]; exact hun
    refine ⟨_, exec_of_guarded hg (exec_trap ..) (State.takeTrap_unhandled (s := s.go 8) 0x11 false _ _ hun), ?_⟩
    rw [← go_pc]
    exact endsUnhandled (s.go 8) 0x11 _ _
  · exact traps_of_trap hh (by decide) (hbkpt (if_neg (Bool.eq_false_iff.1 hb)))
  · exact ⟨_, hbkpt (if_pos hb), askHalt_of_away hhalted (either_of_beside (P := fun r => (s.seq r).atBoundary = false) haway)⟩
  · exact ⟨_, hbkpt (if_pos hb), askHalt_halts hhalted hwait hwait' hheld hheld'⟩
  · exact ⟨_, hhalt (if_neg (Bool.eq_false_iff.1 hh)), endsUnhandled s 0x11 _ _⟩
  · let u := s.go.closeLock s.cur.slot
    have hslot : u.slot s.cur.slot = { s.sl with lockend := 0 } := State.closeLock_slot _ _
    have hseq (r : SeqRef) : u.seq r = s.go.seq r := closeLock_seq _ _ r
    have haway : (u.seq (seqA s.cur.slot)).atBoundary = false ∨ (u.seq (seqX s.cur.slot)).atBoundary = false := by
      refine either_of_beside (P := fun r => (u.seq r).atBoundary = false) ?_
      have hne : s.beside ≠ s.cur := by
        unfold State.beside
        intro h
        have hx := congrArg SeqRef.x h
        simp at hx
      rw [hseq, State.go_seq_ne s 8 hne]; exact haway
    have hask := askHalt_of_away (s := u) (by rw [hslot]; exact hhalted) haway
    refine ⟨_, hhalt ((if_pos hh).trans hask), qFlows_of_seq (u := s.go) (closeLock_cur ..) hseq (qFlows_go s), ?_⟩
    unfold State.sl
    rw [State.setSlot_cur, show u.cur = s.cur from closeLock_cur .., State.slot_setSlot_same, hslot]; rfl
  · refine ⟨_, exec_of_guarded hg (exec_eret ..) (State.eretDo_handler htrap), outside_setQ .., others_setQ s _, State.q_setQ ..⟩
  · have heret : s.eretDo = s.trap { code := 2, eval := 0 } := by
      unfold State.eretDo; dsimp only; rw [hh.1]; rfl
    exact traps_of_guarded hg hh (by decide) (exec_eret ..) heret

end Sys2Proof.Machine

end


section

/-! PROOF. A POLL that traps has counted what the sequencer beside it waited (O21). -/

open Sys2Proof.Claim
namespace Sys2Proof.Machine

/-- A POLL of a misaligned address traps from the state in which what the slot has spun is counted. -/
theorem exec_poll_misaligned {s : State} {g : Guard} {d a b : SReg} (cc : PCond) (sp : ASpace) (hg : s.q.guard g = true)
    (hmis : aligned ((s.spinAccrue s.cur.slot).q.s a) 8 = false) : exec (.poll g cc sp true d a b) s =
      .next ((s.spinAccrue s.cur.slot).trap { code := 0x03, eval := (s.spinAccrue s.cur.slot).q.s a }) := by
  refine exec_of_guarded hg (exec_poll ..) ?_
  unfold State.pollDo State.atAddr
  exact if_neg (Bool.eq_false_iff.1 hmis)

/-- Sequencer A of slot 0 has a handler and the address 1 in s1; beside it X has been in a PAUSE of one cycle for 10 ns. -/
def besidePause : State :=
  { State.reset with
    clk := { State.reset.clk with time := 10 }
    seqs := [(0, { stopped := false, tvec := 0x2001, regs := [(1, 1)] }),
             (1, { stopped := false, regs := [(1, 1)], wait := some { ins := .pause { neg := false, pred := 0 } 1, since := 0 } })] }

/-- Refutes O21: a POLL whose address is misaligned traps, but the cycles that the other sequencer of its slot has waited in PAUSE
are counted first, so that sequencer's wait has changed. -/
theorem not_timeWaitsAndPolls : ¬ Obligations.TimeWaitsAndPolls := by
  intro ⟨_, hpoll⟩
  let s := besidePause
  let u := s.spinAccrue s.cur.slot
  let g : Guard := { neg := false, pred := 0 }
  have hg : s.q.guard g = true := by decide
  obtain ⟨htrap, -⟩ := (hpoll s g .eq true 0 1 0).1 hg (by decide)
  obtain ⟨t, ht, hothers, -⟩ := htrap .g (by decide) ⟨by decide, by decide, by decide⟩
  have hu : t = u.trap { code := 0x03, eval := u.q.s 1 } :=
    Host.Outcome.next.inj (ht.symm.trans (exec_poll_misaligned .eq .g hg (by decide)))
  have hx : t.seq (seqX 0) = u.seq (seqX 0) := by
    rw [hu, State.trap_eq (by decide)]
    exact (entersTrap_takeTrap (s := u) ⟨by decide, by decide, by decide⟩ 0x03 u.q.pc _).1 (seqX 0) (by decide)
  have hseen : (u.seq (seqX 0)).wait.map Wait.seen = some 4 := by decide
  have hbefore : (s.seq (seqX 0)).wait.map Wait.seen = some 0 := by decide
  have hstays : t.seq (seqX 0) = s.seq (seqX 0) := hothers (seqX 0) (by decide)
  rw [hstays] at hx
  rw [← hx, hbefore] at hseen
  exact absurd hseen (by decide)

end Sys2Proof.Machine

end


section

/-! PROOF. CSR reads and writes (O14). -/

open Sys2Proof.Claim
namespace Sys2Proof.Machine

variable {s t u : State} {g : Guard} {d a : SReg} {i : Instr}

/-- Of a result only the sequencers are told. -/
theorem qSets_of_seq {v : Word} (hcur : t.cur = u.cur) (hseq : ∀ r, t.seq r = u.seq r) {w : State} (h : QSets t w d v) : QSets u w d v := by
  obtain ⟨hothers, hflows, hq, hother, hd⟩ := h
  have htq : t.q = u.q := by unfold State.q; rw [hcur, hseq]
  refine ⟨fun r hr => ?_, htq ▸ hflows, htq ▸ hq, htq ▸ hother, hd⟩
  rw [hothers r (hcur ▸ hr), hseq]

-- What a CSR reads as, and what a write sets, where the number lies in a range (R91, R98).

theorem csr_bfmt {gr : Grp} (h : s.grp s.sl.grpOf = some gr) {n : Nat} (hn : n < 12) : s.csr (0x110 + n) = gr.fmtOf n := by
  have hin : (decide (0x110 ≤ 0x110 + n) && decide (0x110 + n ≤ 0x11B)) = true := by simp; omega
  unfold State.csr; dsimp only
  rw [if_pos hin, h, Nat.add_sub_cancel_left]

theorem csrSet_bfmt {gr : Grp} (h : s.grp s.sl.grpOf = some gr) {n : Nat} (hn : n < 12) (v raw : Word) :
    s.csrSet (0x110 + n) v raw = s.setGrp s.sl.grpOf { gr with bfmt := tblPut gr.bfmt n 0 (bfmtMerge (gr.fmtOf n) v) } := by
  have hin : (decide (0x110 ≤ 0x110 + n) && decide (0x110 + n ≤ 0x11B)) = true := by simp; omega
  unfold State.csrSet; dsimp only
  rw [if_pos hin, h, Nat.add_sub_cancel_left]

theorem csrReach_bfmt {n : Nat} (hn : n < 12) : s.csrReach (0x110 + n) = s.hasBank s.cur.slot n := by
  have hin : (decide (0x110 ≤ 0x110 + n) && decide (0x110 + n ≤ 0x11B)) = true := by simp; omega
  unfold State.csrReach
  rw [hin, Nat.add_sub_cancel_left]; rfl

theorem hasBank_of_mask {gr : Grp} (h : s.grp s.sl.grpOf = some gr) (n : Nat) : s.hasBank s.cur.slot n = gr.mask.getLsbD n := by
  unfold State.hasBank
  rw [show s.grp (s.slot s.cur.slot).grpOf = some gr from h]

theorem csr_lce (s : State) {n : Nat} (hn : n < 3) : s.csr (0x204 + n) = (s.q.loopAt n).fin ||| (s.q.loopAt n).depth.zeroExtend 64 := by
  obtain rfl | rfl | rfl : n = 0 ∨ n = 1 ∨ n = 2 := by omega
  all_goals rfl

/-- END and DEPTH of a loop as a write of LCEn leaves them (R91). -/
def Seq.lceSet (q : Seq) (n : Nat) (v : Word) : Seq :=
  (q.setLoop n { q.loopAt n with fin := v &&& ~~~7, depth := v.extractLsb' 0 2 }).prune

theorem csrSet_lce (s : State) {n : Nat} (hn : n < 3) (v raw : Word) : s.csrSet (0x204 + n) v raw = s.setQ (s.q.lceSet n v) := by
  obtain rfl | rfl | rfl : n = 0 ∨ n = 1 ∨ n = 2 := by omega
  all_goals rfl

theorem csrReach_lce (s : State) {n : Nat} (hn : n < 3) : s.csrReach (0x204 + n) = true := by
  obtain rfl | rfl | rfl : n = 0 ∨ n = 1 ∨ n = 2 := by omega
  all_goals rfl

-- A write of a CSR that can be reached (R78).

theorem csrWrite_of_reach {n : Nat} (op : CsrOp) (hn : n ≠ 0x014) (hreach : s.csrReach n = true) :
    s.csrWrite op d a n = (s.csrSet n (csrNew op (s.csr n) (s.q.s a)) (s.q.s a)).ret d (s.csr n) := by
  unfold State.csrWrite
  rw [if_neg hn, hreach]; rfl

/-- A write that sets the registers `q'` of the sequencer gives the old value beside (R78). -/
theorem writesQ_of_set {q' : Seq} {old : Word} (hi : exec i s = .next ((s.setQ q').ret d old)) : WritesQ i s d old q' :=
  ⟨_, hi, rfl, qSets_ret _ d old⟩

theorem seq_setQ_self (s : State) (r : SeqRef) : (s.setQ s.q).seq r = s.seq r := by
  by_cases hr : r = s.cur
  · rw [hr]; exact State.q_setQ s s.q
  · exact s.seq_setQ_ne s.q hr

/-- A write of read-only fields alone gives the value, and changes nothing. -/
theorem writesQ_of_ret {old : Word} (hi : exec i s = .next (s.ret d old)) : WritesQ i s d old s.q :=
  ⟨_, hi, rfl, qSets_of_seq (t := s) (u := s.setQ s.q) rfl (fun r => (seq_setQ_self s r).symm) (qSets_ret s d old)⟩

theorem csrAccess : CsrAccess := by
  intro s g d a csr hg q x
  have hread (n : BitVec 12) (hreach : s.csrReach n.toNat = true) : Claim.Gives (.csrr g d n) s d (s.csr n.toNat) :=
    gives_of_guarded hg (exec_csrr ..) (if_neg (by rw [hreach]; exact Bool.false_ne_true))
  have hw (n : BitVec 12) (hn : n.toNat ≠ 0x014) (hreach : s.csrReach n.toNat = true) : exec (.csrw g d a n) s =
      .next ((s.csrSet n.toNat x x).ret d (s.csr n.toNat)) := exec_of_guarded hg (exec_csrw ..) (csrWrite_of_reach .w hn hreach)
  have hs (n : BitVec 12) (hn : n.toNat ≠ 0x014) (hreach : s.csrReach n.toNat = true) : exec (.csrs g d a n) s =
      .next ((s.csrSet n.toNat (s.csr n.toNat ||| x) x).ret d (s.csr n.toNat)) :=
    exec_of_guarded hg (exec_csrs ..) (csrWrite_of_reach .s hn hreach)
  have hc (n : BitVec 12) (hn : n.toNat ≠ 0x014) (hreach : s.csrReach n.toNat = true) : exec (.csrc g d a n) s =
      .next ((s.csrSet n.toNat (s.csr n.toNat &&& ~~~x) x).ret d (s.csr n.toNat)) :=
    exec_of_guarded hg (exec_csrc ..) (csrWrite_of_reach .c hn hreach)
  refine ⟨hread csr, fun hreach hh => ?_, ⟨hread 0x001 rfl, hread 0x002 rfl, hread 0x003 rfl, hread 0x004 rfl, hread 0x010 rfl,
    hread 0x014 rfl, hread 0x210 rfl, hread 0x211 rfl, hread 0xF00 rfl⟩, writesQ_of_set (hw 0x003 (by decide) rfl),
    writesQ_of_set (hs 0x003 (by decide) rfl), writesQ_of_set (hc 0x003 (by decide) rfl), writesQ_of_set (hw 0x001 (by decide) rfl),
    writesQ_of_set (hw 0x002 (by decide) rfl), writesQ_of_set (hw 0x004 (by decide) rfl), writesQ_of_ret (hw 0x210 (by decide) rfl),
    writesQ_of_ret (hw 0xF00 (by decide) rfl), fun hx => ?_, fun hx => ?_, fun hh => ⟨?_, ?_, ?_⟩⟩
  · exact traps_of_guarded hg hh (by decide) (exec_csrr ..) (if_pos (by rw [hreach]; rfl))
  · -- the W1C bit is written as 1
    let u := s.setQ { q with strict := (s.csr 0 &&& ~~~x).getLsbD 1 }
    have hset : s.csrSet 0 (s.csr 0 &&& ~~~x) x = u.setCtx s.cx { s.cxv with fx := false } := if_pos hx
    refine ⟨_, hc 0x000 (by decide) rfl, ?_, (qSets_ret _ d _).2.2.2.2⟩
    rw [show (0x000 : BitVec 12).toNat = 0 from rfl, hset]
    exact congrArg Ctx.fx (u.ctx_setCtx_same s.cx _)
  · -- the W1C bit is written as 0
    have hset : s.csrSet 0 x x = s.setQ { q with strict := x.getLsbD 1 } := if_neg (Bool.eq_false_iff.1 hx)
    refine ⟨_, hw 0x000 (by decide) rfl, ?_⟩
    rw [show (0x000 : BitVec 12).toNat = 0 from rfl, hset]
    obtain ⟨-, -, hq, -⟩ := qSets_ret (s.setQ { q with strict := x.getLsbD 1 }) d (s.csr 0)
    rw [hq, State.q_setQ]
    exact ⟨rfl, rfl, rfl⟩
  · exact traps_of_guarded hg hh (by decide) (exec_csrw ..) rfl
  · exact traps_of_guarded hg hh (by decide) (exec_csrs ..) rfl
  · exact traps_of_guarded hg hh (by decide) (exec_csrc ..) rfl

-- BFMTn (R103).

/-- The fields of what a write of BFMTn leaves (R103). -/
theorem bfmtMerge_fields (old new : Word) : let f := bfmtMerge old new
    f.extractLsb' 24 12 = new.extractLsb' 24 12 ∧
    f.extractLsb' 0 4 = (if (new.extractLsb' 0 4).toNat ≤ 0xA then new.extractLsb' 0 4 else old.extractLsb' 0 4) ∧
    f.extractLsb' 4 3 = (if (new.extractLsb' 4 3).toNat ≤ 5 then new.extractLsb' 4 3 else old.extractLsb' 4 3) ∧
    f.extractLsb' 36 28 = 0 ∧ f.extractLsb' 7 17 = 0 := by
  intro f
  have hparts (h : BitVec 28) (b : BitVec 12) (z : BitVec 17) (m : BitVec 3) (c : BitVec 4) : let f : Word := h ++ b ++ z ++ m ++ c
      f.extractLsb' 24 12 = b ∧ f.extractLsb' 0 4 = c ∧ f.extractLsb' 4 3 = m ∧ f.extractLsb' 36 28 = h ∧ f.extractLsb' 7 17 = z := by
    refine ⟨?_, ?_, ?_, ?_, ?_⟩ <;> ext k hk <;> simp <;> grind
  exact hparts ..

theorem bfmtWrite_effect {op : CsrOp} {n : BitVec 4} {gr : Grp} (hg : s.q.guard g = true) (hn : n.toNat < 12)
    (hgr : s.grp s.sl.grpOf = some gr) (hmask : gr.mask.getLsbD n.toNat = true) :
    exec (.bfmtWrite g op d a n) s = .next ((s.setGrp s.sl.grpOf { gr with
      bfmt := tblPut gr.bfmt n.toNat 0 (bfmtMerge (gr.fmtOf n.toNat) (csrNew op (gr.fmtOf n.toNat) (s.q.s a))) }).ret d (gr.fmtOf n.toNat)) := by
  refine exec_of_guarded hg (exec_bfmtWrite ..) ((csrWrite_of_reach op (by omega) ?_).trans ?_)
  · rw [csrReach_bfmt hn, hasBank_of_mask hgr, hmask]
  · rw [csr_bfmt hgr hn, csrSet_bfmt hgr hn]

-- LCEn (R91).

theorem lceWrite_effect {op : CsrOp} {n : BitVec 2} (hg : s.q.guard g = true) (hn : n.toNat < 3) :
    let old := (s.q.loopAt n.toNat).fin ||| (s.q.loopAt n.toNat).depth.zeroExtend 64
    exec (.lceWrite g op d a n) s = .next ((s.setQ (s.q.lceSet n.toNat (csrNew op old (s.q.s a)))).ret d old) := by
  refine exec_of_guarded hg (exec_lceWrite ..) ((csrWrite_of_reach op (by omega) (csrReach_lce s hn)).trans ?_)
  rw [csr_lce s hn, csrSet_lce s hn]

-- VMODE as a CSR (R123).

theorem vmodeSpan_only (s : State) (use : BitVec 8) (gated : Bool) (lo hi : Nat) : s.vmodeSpan use gated lo hi =
    { s.setSl (s.sl.vmode use gated lo hi) with mem := (s.vmodeSpan use gated lo hi).mem } := by
  unfold State.vmodeSpan; dsimp only; rw [scrubWhere_only]

theorem vmodeSpan_seq (s : State) (use : BitVec 8) (gated : Bool) (lo hi : Nat) (r : SeqRef) : (s.vmodeSpan use gated lo hi).seq r = s.seq r := by
  rw [vmodeSpan_only]; rfl

theorem vmodeSpan_slot_ne (s : State) (use : BitVec 8) (gated : Bool) (lo hi : Nat) {k : Nat} (h : k ≠ s.cur.slot) :
    (s.vmodeSpan use gated lo hi).slot k = s.slot k := by
  rw [vmodeSpan_only]; exact State.slot_setSlot_ne _ _ h

/-- VMODE on all clusters touches the slot and the errors of what it zeroes (R122). -/
theorem vmodeAll_only (s : State) (use : BitVec 8) (gated : Bool) (lo : Nat) : let u := s.vmodeAll use gated lo
    u = { s with slots := u.slots, mem := u.mem } ∧ ∀ k, k ≠ s.cur.slot → u.slot k = s.slot k := by
  unfold State.vmodeAll; dsimp only
  refine ⟨?_, fun k hk => ?_⟩
  · rw [vmodeSpan_only]; rfl
  · refine (State.slot_setSlot_ne _ _ ?_).trans (vmodeSpan_slot_ne s use gated lo _ hk)
    rw [vmodeSpan_only]; exact hk

theorem vmodeRun_all {fin : Word} {use : BitVec 8} {gated : Bool} (f : State → State) (h : s.vmodeStall use gated 0 = none) :
    s.vmodeRun i fin use gated 0 f = f (s.vmodeAll use gated 0) := by
  unfold State.vmodeRun; rw [h]

/-- VMODE stands at the cluster that a record names (R122). -/
theorem vmodeRun_stalls {fin : Word} {use : BitVec 8} {gated : Bool} {k : Nat} (f : State → State) (hwait : s.q.wait = none)
    (h : s.vmodeStall use gated 0 = some k) : let t := s.vmodeRun i fin use gated 0 f
    Others s t ∧ t.q = { s.q with wait := some { ins := i, since := s.now, tok := k, fin := fin } } := by
  let u := s.vmodeSpan use gated 0 k
  have hcur : u.cur = s.cur := (congrArg State.cur (vmodeSpan_only s use gated 0 k) :)
  have hclk : u.now = s.now := (congrArg State.now (vmodeSpan_only s use gated 0 k) :)
  have hq : u.q = s.q := by unfold State.q; rw [hcur, vmodeSpan_seq]
  have hblock : u.block i k fin = u.setQ { u.q with wait := some { ins := i, tok := k, fin := fin, since := u.now } } := by
    unfold State.block; dsimp only; rw [hq, hwait]; rfl
  intro t
  have ht : t = (u.block i k fin).setQ { (u.block i k fin).q with wait := (u.block i k fin).q.wait.map fun w => { w with tok := k } } := by
    unfold t State.vmodeRun; rw [h]
  rw [hblock, State.q_setQ] at ht
  refine ⟨fun r hr => ?_, ?_⟩
  · rw [ht, State.seq_setQ_ne _ _ (by rw [State.setQ_cur, hcur]; exact hr), State.seq_setQ_ne _ _ (hcur ▸ hr), vmodeSpan_seq]
  · rw [ht, State.q_setQ, hclk, hq]; rfl

theorem csrWritesOfTheirOwn : CsrWritesOfTheirOwn := by
  intro s g op d a hg x
  refine ⟨fun n hn => ⟨fun gr hgr hmask => ?_, fun hbank hh => ?_⟩, fun n hn => ?_, fun huse hrest => ?_, fun hne hstall => ?_,
    fun k hne hwait hstall => ?_⟩
  · let old := gr.fmtOf n.toNat
    let gr' : Grp := { gr with bfmt := tblPut gr.bfmt n.toNat 0 (bfmtMerge old (csrNew op old x)) }
    obtain ⟨hbias, hfmt, hgeom, hhigh, hlow⟩ := bfmtMerge_fields old (csrNew op old x)
    exact ⟨_, bfmtWrite_effect hg hn hgr hmask, gr', bfmtMerge old (csrNew op old x), State.grp_setGrp_same .., tblGetD_put_same ..,
      hbias, hfmt, hgeom, hhigh, hlow, rfl, fun m hm => tblGetD_put_ne _ _ _ hm, rfl,
      qSets_of_seq (t := s.setGrp s.sl.grpOf gr') rfl (fun _ => rfl) (qSets_ret _ d old)⟩
  · refine traps_of_guarded hg hh (by decide) (exec_bfmtWrite ..) ?_
    unfold State.csrWrite
    rw [if_neg (by omega), csrReach_bfmt hn, hbank]; rfl
  · intro l old new
    let q' := s.q.lceSet n.toNat new
    obtain ⟨hothers, ⟨hstraight, -⟩, -, hother, hd⟩ := qSets_ret (s.setQ q') d old
    rw [State.q_setQ] at hstraight hother
    refine ⟨_, lceWrite_effect hg hn, rfl, fun r hr => (hothers r hr).trans (s.seq_setQ_ne q' hr), hother, hd, fun htrap => ?_⟩
    obtain ⟨hpc, hloops, -⟩ := hstraight (.inl htrap)
    refine ⟨hpc, ?_, fun m hm => ?_⟩
    · rw [Seq.loopAt_of_loops hloops]; exact Seq.loopAt_setLoop_same ..
    · rw [Seq.loopAt_of_loops hloops]; exact Seq.loopAt_setLoop_ne _ _ hm
  · exact gives_of_guarded hg (exec_vmodeCsrWrite ..) (if_pos (by rw [huse, hrest]; simp))
  all_goals
    have hdo : s.vmodeCsrDo g op d a s.sl.vmodeCsr = _ := if_neg (by simpa using hne)
  · rw [vmodeRun_all _ hstall] at hdo
    let u := s.vmodeAll ((csrNew op s.sl.vmodeCsr x).extractLsb' 0 8) ((csrNew op s.sl.vmodeCsr x).getLsbD 24) 0
    obtain ⟨honly, hslot⟩ : u = _ ∧ ∀ k, k ≠ s.cur.slot → u.slot k = s.slot k := vmodeAll_only ..
    refine ⟨_, exec_of_guarded hg (exec_vmodeCsrWrite ..) hdo, qSets_of_seq (t := u) ?_ ?_ (qSets_ret _ d _), rfl, hslot, rfl, ?_⟩
    · rw [honly]
    · rw [honly]; intro r; rfl
    · exact congrArg (fun w : State => { w with seqs := (u.ret d s.sl.vmodeCsr).seqs }) honly
  · exact ⟨_, exec_of_guarded hg (exec_vmodeCsrWrite ..) hdo, vmodeRun_stalls _ hwait hstall⟩

/-- Settles O14: CSRR, CSRW, CSRS and CSRC, and the writes that are rows of their own. -/
theorem csrReadsAndWrites : Obligations.CsrReadsAndWrites := ⟨csrAccess, csrWritesOfTheirOwn⟩

end Sys2Proof.Machine

end


section

/-! PROOF. The FP32 patterns, and their order (O9). -/

open Sys2Proof.Claim
namespace Sys2Proof.Machine

variable {x y : Nat}

/-- A value read by the fields of its FP32 pattern (R55). -/
theorem toNum_fp32 (x : Nat) : toNum fp32 x =
    if x / 2 ^ 23 % 256 = 255 then (if x % 2 ^ 23 = 0 then .inf (x / 2 ^ 31 % 2 == 1) else .nan)
    else if x / 2 ^ 23 % 256 = 0 then .fin (x / 2 ^ 31 % 2 == 1) (x % 2 ^ 23) (-149)
    else .fin (x / 2 ^ 31 % 2 == 1) (2 ^ 23 + x % 2 ^ 23) (-149 + (x / 2 ^ 23 % 256 : Nat) - 1) := rfl

theorem isNan32_eq (x : Nat) : (toNum fp32 x).isNan = isNan32 x := by
  rw [toNum_fp32]
  unfold isNan32
  by_cases hex : x / 2 ^ 23 % 256 = 255
  · rw [if_pos hex, hex]
    by_cases hfrac : x % 2 ^ 23 = 0
    · rw [if_pos hfrac, hfrac]; rfl
    · rw [if_neg hfrac, bne_iff_ne.2 hfrac]; rfl
  · rw [if_neg hex, beq_false_of_ne hex]
    split <;> rfl

/-- The magnitude of a finite FP32 pattern, in quanta of 2^−149. -/
def mag32 (n : Nat) : Nat := if n / 2 ^ 23 = 0 then n % 2 ^ 23 else (2 ^ 23 + n % 2 ^ 23) * 2 ^ (n / 2 ^ 23 - 1)

/-- Among the patterns of one sign the magnitude rises with the pattern, from one exponent to the next as well. -/
theorem mag32_strictMono : StrictMono mag32 := by
  refine strictMono_nat_of_lt_succ fun n => ?_
  unfold mag32
  by_cases hstay : n % 2 ^ 23 + 1 < 2 ^ 23
  · have hex : (n + 1) / 2 ^ 23 = n / 2 ^ 23 := by omega
    have hfrac : (n + 1) % 2 ^ 23 = n % 2 ^ 23 + 1 := by omega
    rw [hex, hfrac]
    split
    · omega
    · exact Nat.mul_lt_mul_of_pos_right (by omega) (by positivity)
  · have hex : (n + 1) / 2 ^ 23 = n / 2 ^ 23 + 1 := by omega
    have hfrac : (n + 1) % 2 ^ 23 = 0 := by omega
    rw [hex, hfrac, if_neg (Nat.succ_ne_zero _), Nat.add_sub_cancel]
    split
    · next h => rw [h]; omega
    · next h =>
      obtain ⟨k, hk⟩ := Nat.exists_eq_succ_of_ne_zero h
      rw [hk, Nat.succ_sub_one, pow_succ' 2 k, ← mul_assoc]
      exact Nat.mul_lt_mul_of_pos_right (by omega) (by positivity)

/-- A magnitude with its sign. -/
def withSign (neg : Bool) (n : Nat) : Int := if neg then -n else n

theorem withSign_lt_iff {f : Nat → Nat} (hf : StrictMono f) (h0 : f 0 = 0) (n n' : Bool) (a b : Nat) :
    withSign n (f a) < withSign n' (f b) ↔ withSign n a < withSign n' b := by
  have ha : a ≤ f a := hf.le_apply
  have hb : b ≤ f b := hf.le_apply
  have hzero {c : Nat} : f c = 0 ↔ c = 0 := by rw [← h0, hf.injective.eq_iff, h0]
  have hab : f a < f b ↔ a < b := hf.lt_iff_lt
  have hba : f b < f a ↔ b < a := hf.lt_iff_lt
  unfold withSign
  cases n <;> cases n'
  · simpa using hab
  · simp only [Bool.false_eq_true, if_false, if_true]; omega
  · have hza := hzero (c := a)
    have hzb := hzero (c := b)
    simp only [Bool.false_eq_true, if_false, if_true]
    omega
  · simpa using hba

theorem ord32_eq (x : Nat) : ord32 x = withSign (x / 2 ^ 31 % 2 == 1) (x % 2 ^ 31) := by
  unfold ord32 withSign; simp only [beq_iff_eq]

/-- A pattern that is no NaN is an infinity, whose order is the utmost, or a finite value of the magnitude of its order (R55). -/
theorem toNum_fp32_cases (hx : isNan32 x = false) : let neg := x / 2 ^ 31 % 2 == 1
    toNum fp32 x = .inf neg ∧ x % 2 ^ 31 = 255 * 2 ^ 23 ∨
    x % 2 ^ 31 < 255 * 2 ^ 23 ∧ ∃ m e, toNum fp32 x = .fin neg m e ∧ finValue neg m e = withSign neg (mag32 (x % 2 ^ 31)) * 2 ^ (-149 : ℤ) := by
  intro neg
  have hex : x % 2 ^ 31 / 2 ^ 23 = x / 2 ^ 23 % 256 := by omega
  have hfrac : x % 2 ^ 31 % 2 ^ 23 = x % 2 ^ 23 := by omega
  have hsign (m : Nat) (e : ℤ) (k : ℕ) (he : e = k + -149) : finValue neg m e = withSign neg (m * 2 ^ k) * 2 ^ (-149 : ℤ) := by
    have hpow : (2 : ℚ) ^ e = 2 ^ k * 2 ^ (-149 : ℤ) := by rw [he, zpow_add₀ two_ne_zero, zpow_natCast]
    unfold finValue withSign
    rw [hpow]
    cases neg <;> simp <;> ring
  rw [toNum_fp32]
  by_cases hinf : x / 2 ^ 23 % 256 = 255
  · have hzero : x % 2 ^ 23 = 0 := by
      unfold isNan32 at hx
      rw [hinf] at hx
      simpa using hx
    exact .inl ⟨by rw [if_pos hinf, if_pos hzero], by omega⟩
  · refine .inr ⟨by omega, ?_⟩
    unfold mag32
    rw [if_neg hinf, hex, hfrac]
    by_cases hsub : x / 2 ^ 23 % 256 = 0
    · rw [if_pos hsub, if_pos hsub]
      refine ⟨_, _, rfl, ?_⟩
      rw [hsign _ _ 0 (by norm_num), pow_zero, mul_one]
    · rw [if_neg hsub, if_neg hsub]
      exact ⟨_, _, rfl, hsign _ _ _ (by omega)⟩

/-- The order of the values is the order of the patterns (R55, R85). -/
theorem numLt_fp32 (hx : isNan32 x = false) (hy : isNan32 y = false) :
    numLt (toNum fp32 x) (toNum fp32 y) = decide (ord32 x < ord32 y) := by
  rw [Bool.eq_iff_iff, decide_eq_true_eq, ord32_eq, ord32_eq]
  rcases toNum_fp32_cases hx with ⟨hinf, hmag⟩ | ⟨hmag, m, e, hfin, hval⟩ <;>
    rcases toNum_fp32_cases hy with ⟨hinf', hmag'⟩ | ⟨hmag', m', e', hfin', hval'⟩
  · rw [hinf, hinf', hmag, hmag']
    generalize (x / 2 ^ 31 % 2 == 1) = n
    generalize (y / 2 ^ 31 % 2 == 1) = n'
    cases n <;> cases n' <;> simp [numLt, withSign]
  · rw [hinf, hfin', hmag]
    generalize (x / 2 ^ 31 % 2 == 1) = n
    generalize (y / 2 ^ 31 % 2 == 1) = n'
    cases n <;> cases n' <;> simp [numLt, withSign] <;> omega
  · rw [hfin, hinf', hmag']
    generalize (x / 2 ^ 31 % 2 == 1) = n
    generalize (y / 2 ^ 31 % 2 == 1) = n'
    cases n <;> cases n' <;> simp [numLt, withSign] <;> omega
  · rw [hfin, hfin', numLt_fin, hval, hval', mul_lt_mul_iff_of_pos_right (by positivity), Int.cast_lt,
      withSign_lt_iff mag32_strictMono rfl]

theorem numEq_fp32 (hx : isNan32 x = false) (hy : isNan32 y = false) :
    numEq (toNum fp32 x) (toNum fp32 y) = decide (ord32 x = ord32 y) := by
  unfold numEq
  rw [isNan32_eq, isNan32_eq, hx, hy, numLt_fp32 hx hy, numLt_fp32 hy hx, Bool.eq_iff_iff]
  simp; omega

theorem numEq_of_nan {a b : Num} (h : (a.isNan || b.isNan) = true) : numEq a b = false := by
  unfold numEq
  rcases Bool.or_eq_true_iff.1 h with h | h <;> simp [h]

theorem numLt_of_nan {a b : Num} (h : (a.isNan || b.isNan) = true) : numLt a b = false := by
  rcases Bool.or_eq_true_iff.1 h with h | h
  · rw [Num.eq_nan_of_isNan h]; rfl
  · rw [Num.eq_nan_of_isNan h]
    cases a <;> rfl

/-- The two zeros, by their patterns. -/
theorem isZero_fp32 (hx : x < 2 ^ 32) (b : Bool) :
    ((toNum fp32 x).isZero && (toNum fp32 x).neg? == b) = decide (x = if b then 2 ^ 31 else 0) := by
  rw [Bool.eq_iff_iff, Bool.and_eq_true, decide_eq_true_eq, toNum_fp32]
  by_cases hinf : x / 2 ^ 23 % 256 = 255
  · rw [if_pos hinf]
    constructor
    · intro ⟨h, _⟩
      split at h <;> cases h
    · intro h
      cases b <;> simp at h <;> omega
  · rw [if_neg hinf]
    by_cases hsub : x / 2 ^ 23 % 256 = 0
    · rw [if_pos hsub, isZero_fin]
      cases b <;> simp [Num.neg?] <;> omega
    · rw [if_neg hsub, isZero_fin]
      cases b <;> simp <;> omega

/-- The order of FMIN and FMAX by the patterns: −0 is less than +0 (R85). -/
theorem numLess_fp32 (hx : isNan32 x = false) (hy : isNan32 y = false) (hxw : x < 2 ^ 32) (hyw : y < 2 ^ 32) :
    numLess (toNum fp32 x) (toNum fp32 y) = decide (ord32 x < ord32 y ∨ x = 2 ^ 31 ∧ y = 0) := by
  have hneg := isZero_fp32 hxw true
  have hpos := isZero_fp32 hyw false
  have hzeros : ((toNum fp32 x).isZero && (toNum fp32 y).isZero && (toNum fp32 x).neg? && !(toNum fp32 y).neg?) =
      (decide (x = 2 ^ 31) && decide (y = 0)) := by
    rw [show decide (x = 2 ^ 31) = _ from hneg.symm, show decide (y = 0) = _ from hpos.symm]
    cases (toNum fp32 x).isZero <;> simp [Bool.and_assoc, Bool.and_left_comm]
  unfold numLess
  rw [numLt_fp32 hx hy, hzeros, Bool.decide_or, Bool.decide_and]

theorem ord32_negZero : ord32 (2 ^ 31) = 0 := by decide

theorem ord32_eq_zero (hx : x < 2 ^ 32) : ord32 x = 0 ↔ x = 0 ∨ x = 2 ^ 31 := by
  unfold ord32
  split <;> omega

/-- Of two zeros that differ, −0 is the one that comes first. -/
theorem pick_zeros {u v a b : Nat} (hv : v < 2 ^ 32) (hsame : u = v → a = b) :
    (if ord32 u < ord32 v ∨ u = 2 ^ 31 ∧ v = 0 then a else b) = if ord32 u < ord32 v ∨ ord32 u = ord32 v ∧ u = 2 ^ 31 then a else b := by
  by_cases huv : u = v
  · rw [hsame huv, ite_self, ite_self]
  · have hzeros : (u = 2 ^ 31 ∧ v = 0) ↔ (ord32 u = ord32 v ∧ u = 2 ^ 31) := by
      constructor
      · rintro ⟨rfl, rfl⟩
        exact ⟨ord32_negZero, rfl⟩
      · rintro ⟨hord, rfl⟩
        rw [ord32_negZero] at hord
        exact ⟨rfl, ((ord32_eq_zero hv).1 hord.symm).resolve_right (Ne.symm huv)⟩
    simp only [hzeros]

end Sys2Proof.Machine

end

section

/-! PROOF. The scalar floating-point group (O9). -/

open Sys2Proof.Claim
namespace Sys2Proof.Machine

variable {s : State} {g : Guard} {i : Instr} {d : SReg}

/-- The event of an FP32 result is counted in the first block of counters (R70). -/
theorem retF_eq (s : State) (d : SReg) (r : Nat × Ev) :
    s.retF d r = (match r.2 with | none => s | some e => s.fxCount s.cx e 1).ret d (BitVec.ofNat 64 r.1) := by
  obtain ⟨b, e⟩ := r
  cases e with
  | none => rfl
  | some e => unfold State.retF fxOf State.fxElem fxBlock; simp

theorem givesF_of_guarded {f : State → State} {r : Nat × Ev} (hg : s.q.guard g = true) (hi : exec i s = s.guarded g f) (hf : f s = s.retF d r) :
    GivesF i s d r :=
  ⟨_, exec_of_guarded hg hi (hf.trans (retF_eq s d r)), rfl, qSets_ret _ d _⟩

theorem retF_of_nan {new : Bool} (s : State) (d : SReg) (rm : Rm) (h : new = false) :
    s.retF d (deliver fp32 rm false new .nan) = s.ret d 0x7FC00000 := by
  rw [h, retF_eq]; rfl

/-- FMIN and FMAX give the default NaN of operands one of which is a NaN (R85). -/
theorem fPick_of_nan (less : Num → Num → Bool) {x y : Word} (h : ((fOf x).isNan || (fOf y).isNan) = true) : fPick less x y = 0x7FC00000 :=
  if_pos h

theorem fPick_of_numbers (less : Num → Num → Bool) {x y : Word} (h : ((fOf x).isNan || (fOf y).isNan) = false) :
    fPick less x y = if less (fOf y) (fOf x) then y.toNat % 2 ^ 32 else x.toNat % 2 ^ 32 := if_neg (by rw [h]; exact Bool.false_ne_true)

theorem numAdd_of_nan (rm : Rm) {a b : Num} (h : (a.isNan || b.isNan) = true) : numAdd rm a b = .nan := by
  rcases Bool.or_eq_true_iff.1 h with h | h
  · rw [Num.eq_nan_of_isNan h]; rfl
  · rw [Num.eq_nan_of_isNan h]
    cases a <;> rfl

theorem numMul_of_nan {a b : Num} (h : (a.isNan || b.isNan) = true) : numMul a b = .nan := by
  rcases Bool.or_eq_true_iff.1 h with h | h
  · rw [Num.eq_nan_of_isNan h]; rfl
  · rw [Num.eq_nan_of_isNan h]
    cases a <;> rfl

theorem isNan_negate (a : Num) : a.negate.isNan = a.isNan := by cases a <;> rfl

theorem scalarFloatingPoint : ScalarFloatingPoint := by
  intro s g rm d a b c p hg x y z nan
  have hx : (fOf (s.q.s a)).isNan = isNan32 x := isNan32_eq x
  have hy : (fOf (s.q.s b)).isNan = isNan32 y := isNan32_eq y
  have hz : (fOf (s.q.s c)).isNan = isNan32 z := isNan32_eq z
  have hnan : ((fOf (s.q.s a)).isNan || (fOf (s.q.s b)).isNan) = nan := by rw [hx, hy]
  have hpair (v : Num) : fRes rm [fOf (s.q.s a), fOf (s.q.s b)] v = deliver fp32 rm false (!nan) v := by
    unfold fRes; simp only [List.any_cons, List.any_nil, Bool.or_false, hnan]
  have htriple (v : Num) : fRes rm [fOf (s.q.s a), fOf (s.q.s b), fOf (s.q.s c)] v = deliver fp32 rm false (!(nan || isNan32 z)) v := by
    unfold fRes; simp only [List.any_cons, List.any_nil, Bool.or_false, hz, ← Bool.or_assoc, hnan]
  refine ⟨givesF_of_guarded hg (exec_fadd ..) (congrArg (s.retF d) (hpair _)), givesF_of_guarded hg (exec_fsub ..) (congrArg (s.retF d) (hpair _)),
    givesF_of_guarded hg (exec_fmul ..) (congrArg (s.retF d) (hpair _)), givesF_of_guarded hg (exec_ffma ..) (congrArg (s.retF d) (htriple _)),
    fun h => ?_, fun h => ?_, gives_of_guarded hg (exec_fabs ..) ?_, gives_of_guarded hg (exec_fneg ..) ?_⟩
  · -- an operand is a NaN
    have hops := hnan.trans h
    have hres {v : Num} (hv : v = .nan) : s.retF d (fRes rm [fOf (s.q.s a), fOf (s.q.s b)] v) = s.ret d 0x7FC00000 := by
      rw [hpair, hv, h]; exact retF_of_nan s d rm rfl
    have hsub : ((fOf (s.q.s a)).isNan || (fOf (s.q.s b)).negate.isNan) = true := by rw [isNan_negate]; exact hops
    have hholds (cc : FCond) : fHolds cc (fOf (s.q.s a)) (fOf (s.q.s b)) = false := by
      cases cc <;> simp [fHolds, numEq_of_nan hops, numLt_of_nan hops]
    have hcmp (cc : FCond) : GivesP (.fcmp g cc p a b) s p false := givesP_of_guarded hg (exec_fcmp ..) (congrArg (s.retP p) (hholds cc))
    exact ⟨gives_of_guarded hg (exec_fadd ..) (hres (numAdd_of_nan rm hops)), gives_of_guarded hg (exec_fsub ..) (hres (numAdd_of_nan rm hsub)),
      gives_of_guarded hg (exec_fmul ..) (hres (numMul_of_nan hops)),
      gives_of_guarded hg (exec_fmin ..) (by rw [fPick_of_nan _ hops]; rfl), gives_of_guarded hg (exec_fmax ..) (by rw [fPick_of_nan _ hops]; rfl),
      hcmp .eq, hcmp .lt, hcmp .le⟩
  · -- both are numbers
    have hops := hnan.trans h
    obtain ⟨hnx, hny⟩ : isNan32 x = false ∧ isNan32 y = false := Bool.or_eq_false_iff.1 h
    have hxw : x < 2 ^ 32 := Nat.mod_lt _ (by norm_num)
    have hyw : y < 2 ^ 32 := Nat.mod_lt _ (by norm_num)
    have hlt : numLt (fOf (s.q.s a)) (fOf (s.q.s b)) = decide (ord32 x < ord32 y) := numLt_fp32 hnx hny
    have heq : numEq (fOf (s.q.s a)) (fOf (s.q.s b)) = decide (ord32 x = ord32 y) := numEq_fp32 hnx hny
    have hle : fHolds .le (fOf (s.q.s a)) (fOf (s.q.s b)) = decide (ord32 x ≤ ord32 y) := by
      unfold fHolds; dsimp only
      rw [hlt, heq, ← Bool.decide_or, decide_eq_decide, le_iff_lt_or_eq]
    have hmin : fPick numLess (s.q.s a) (s.q.s b) = if ord32 y < ord32 x ∨ (ord32 y = ord32 x ∧ y = 2 ^ 31) then y else x := by
      rw [fPick_of_numbers _ hops, show numLess (fOf (s.q.s b)) (fOf (s.q.s a)) = _ from numLess_fp32 hny hnx hyw hxw]
      simp only [decide_eq_true_eq]
      exact pick_zeros hxw id
    have hmax : fPick (fun u v => numLess v u) (s.q.s a) (s.q.s b) = if ord32 x < ord32 y ∨ (ord32 y = ord32 x ∧ x = 2 ^ 31) then y else x := by
      rw [fPick_of_numbers _ hops, show numLess (fOf (s.q.s a)) (fOf (s.q.s b)) = _ from numLess_fp32 hnx hny hxw hyw]
      simp only [decide_eq_true_eq, eq_comm (a := ord32 y)]
      exact pick_zeros hyw Eq.symm
    exact ⟨gives_of_guarded hg (exec_fmin ..) (by rw [hmin]), gives_of_guarded hg (exec_fmax ..) (by rw [hmax]),
      givesP_of_guarded hg (exec_fcmp ..) (congrArg (s.retP p) heq), givesP_of_guarded hg (exec_fcmp ..) (congrArg (s.retP p) hlt),
      givesP_of_guarded hg (exec_fcmp ..) (congrArg (s.retP p) hle)⟩
  · have hmod : x % 2 ^ 31 = (s.q.s a).toNat % 2 ^ 31 := by omega
    dsimp only; rw [hx, hmod]; rfl
  · have hmod : (x + 2 ^ 31) % 2 ^ 32 = ((s.q.s a).toNat + 2 ^ 31) % 2 ^ 32 := by omega
    dsimp only; rw [hx, hmod]; rfl

theorem floatIntegerConversions : FloatIntegerConversions := by
  intro s g rm d a hg x v
  have hfi {n : Num} (hn : toNum fp32 x = n) : Claim.Gives (.fcvtFi g rm d a) s d (BitVec.ofInt 64 (numToInt rm (-(2 ^ 63)) (2 ^ 63 - 1) n)) :=
    gives_of_guarded hg (exec_fcvtFi ..) (by rw [← hn]; rfl)
  refine ⟨fun h => ?_, fun h => ?_, fun h => ?_, fun n m e h => ?_, gives_of_guarded hg (exec_fcvtIf ..) rfl⟩
  · exact hfi (Num.eq_nan_of_isNan ((isNan32_eq x).trans h))
  · exact hfi (n := .inf false) (by rw [h]; rfl)
  · exact hfi (n := .inf true) (by rw [h]; rfl)
  · have hclamp := clampInt_eq (lo := -(2 ^ 63)) (hi := 2 ^ 63 - 1) (by norm_num) (roundInt rm n m e)
    rw [← hclamp]; exact hfi h

/-- Settles O9: the scalar floating-point operations and conversions, by the patterns of their operands. -/
theorem scalarFloats : Obligations.ScalarFloats := ⟨scalarFloatingPoint, floatIntegerConversions⟩

end Sys2Proof.Machine

end
